-- ==== Sys2Proof/Word.lean ====
section
/-! DEFINITION. The word types of the machine (R4, R5, R20): bit vectors for what the manual reads as bits. -/

namespace Sys2Proof

/-- One byte of storage. -/
abbrev Byte := BitVec 8

/-- One 32-bit register or memory word. -/
abbrev Word := BitVec 32

/-- A 64-bit value: a register pair, a PC (R42), a realm offset (R27). -/
abbrev DWord := BitVec 64

/-- One 80-bit instruction slot (R36). -/
abbrev Slot := BitVec 80

/-- A 16-bit shoot path (R28). -/
abbrev Path := BitVec 16

/-- The 32 lanes of a warp, bit l for lane l (R17). -/
abbrev LaneMask := BitVec 32

/-- A value a predicate reads as: three-valued (R20, R56). -/
inductive Tri where
  | no
  | yes
  | undecided
  deriving DecidableEq, Repr

end Sys2Proof
end

