-- ==== Sys2Proof/Syntax.lean ====
section
/-! DEFINITION. The instructions and steps of Cuvel: one constructor of Instr for each row of the opcode table.
The first 196 constructors are the encoded instructions (R77) with their operands already taken out of the word; the rest are the
steps of the device that no slot encodes, with what comes from outside as their arguments. -/

namespace Sys2Proof

/-! ### Control fields and operands -/

/-- Guard sense GS (R46, R55). -/
inductive GuardSense where
  | always | ifTrue | ifFalse | ifUndecided
  deriving DecidableEq, Repr

/-- The control fields every slot carries (R46). alloc 0 is no tag; bit i-1 of wait consumes ti. -/
structure Ctl where
  g : BitVec 3
  gs : GuardSense
  stall : BitVec 3
  alloc : BitVec 3
  wait : BitVec 6
  u : Bool
  y : Bool
  sw : Bool
  deriving DecidableEq, Repr

/-- A source register with its kind bit (R51): vector or uniform. -/
inductive Src where
  | v (n : BitVec 8)
  | u (n : BitVec 8)
  deriving DecidableEq, Repr

/-- A memory operand (R54): offset pair, realm selector, displacement in units of S. -/
structure MemRef where
  base : Src
  rsel : BitVec 2
  disp : BitVec 9
  deriving DecidableEq, Repr

/-- A scratchpad operand (R54): one offset register and a displacement in units of S. -/
structure ScrRef where
  base : Src
  disp : BitVec 9
  deriving DecidableEq, Repr

/-! ### Modifiers -/

/-- Rounding field (R86). -/
inductive Rnd where
  | dyn | rn | rz | rm | rp | ra
  deriving DecidableEq, Repr

/-- Floating-point format codes (R131). -/
inductive FFmt where
  | f32 | f64 | f16 | bf16 | f16x2 | bf16x2 | e5m2 | e4m3 | e3m2 | e2m3 | e2m1
  deriving DecidableEq, Repr

/-- Integer format codes of conversions (R142). -/
inductive IFmt where
  | s32 | u32 | s16 | u16 | s8 | u8 | s4 | u4
  deriving DecidableEq, Repr

/-- Point formats of interval instructions (R155). -/
inductive PFmt where
  | f32 | f64 | f16 | bf16
  deriving DecidableEq, Repr

/-- Interval formats (R84, R155). -/
inductive IvFmt where
  | if32 | if64 | if16 | ibf16
  deriving DecidableEq, Repr

/-- Comparison codes (R124). -/
inductive CmpCode where
  | eq | ne | lt | le | gt | ge
  deriving DecidableEq, Repr

/-- Interval relations (R164). -/
inductive Rel where
  | lt | le | gt | ge | eq | ne | sub | disj | intr
  deriving DecidableEq, Repr

/-- PLOP operations (R129). -/
inductive PlopOp where
  | and | or | xor | not | isu | utot | utof
  deriving DecidableEq, Repr

/-- MOVI forms (R126). -/
inductive MoviMode where
  | plain | sx | hi
  deriving DecidableEq, Repr

/-- MX element formats of QMX and DQMX (R148). -/
inductive EFmt where
  | e4m3 | e5m2 | e2m3 | e3m2 | e2m1 | s8
  deriving DecidableEq, Repr

/-- SHFL modes (R178). -/
inductive ShflMode where
  | idx | up | down | xor
  deriving DecidableEq, Repr

/-- VOTE modes (R178). -/
inductive VoteMode where
  | all | any | eq | ballot | ballotF | ballotU
  deriving DecidableEq, Repr

/-- REDUX and SCAN operations (R183). -/
inductive RedOp where
  | add | min | max | minu | maxu | and | or | xor | fadd | fmin | fmax
  deriving DecidableEq, Repr

/-- RNG outputs (R187). -/
inductive RngOut where
  | u32 | f32 | x4
  deriving DecidableEq, Repr

/-- Matrix element formats (R194). -/
inductive MatFmt where
  | bf16 | f16 | e4m3 | e5m2 | mxe4m3 | mxe5m2 | mxfp4 | gb4 | s8 | u8
  deriving DecidableEq, Repr

/-- ACC of MMA (R197). -/
inductive AccMode where
  | f32 | s32 | s32s | bf16sr
  deriving DecidableEq, Repr

/-- AC of the accumulator instructions (R197). -/
inductive AcFmt where
  | f32 | s32 | bf16
  deriving DecidableEq, Repr

/-- Access sizes of TLD and TST (R197). -/
inductive TileSz where
  | b4 | b8 | b16
  deriving DecidableEq, Repr

/-- Access sizes of loads and stores (R270). -/
inductive Sz where
  | b32 | u8 | s8 | u16 | s16 | b64 | b128 | b256
  deriving DecidableEq, Repr

/-- Scopes (R29). -/
inductive Scope where
  | lane | warp | task | core | cluster | die | device | fabric | system
  deriving DecidableEq, Repr

/-- Atomic operations (R280). -/
inductive AtomOp where
  | add | adds | and | or | xor | min | max | minu | maxu | exch | fadd | fmin | fmax
  deriving DecidableEq, Repr

/-- CRDECL operations (R285). -/
inductive CrOp where
  | add | min | max | and | or | xor
  deriving DecidableEq, Repr

/-- CRDECL element formats (R285). -/
inductive CrFmt where
  | f32 | f64 | s32 | s64
  deriving DecidableEq, Repr

/-- KVMASK operations (R339). -/
inductive KvMaskOp where
  | set | clr | accept | reject
  deriving DecidableEq, Repr

/-- BARC operations (R418). -/
inductive BarcOp where
  | init | arrive | wait | gen
  deriving DecidableEq, Repr

/-- BARQ operations (R417). -/
inductive BarqOp where
  | arrive | wait
  deriving DecidableEq, Repr

/-- RESUME modes (R491). -/
inductive ResumeMode where
  | self | warp | kill
  deriving DecidableEq, Repr

/-! ### What comes in from outside with a step -/

/-- What a peer device answers to a request (R239, R452): data words with the poison of each (R268; a word past the list is not poisoned), or
an error response with the target's failed step. -/
inductive PeerResp where
  | none
  | data (words : List Word) (poison : List Bool)
  | error (step : Nat)
  deriving DecidableEq, Repr

/-- A peer's atomic request as it arrives (R452, R280). -/
structure PeerAtomic where
  op : AtomOp
  w64 : Bool
  cas : Bool
  operand : DWord
  compare : DWord
  /-- DETCTL.DENORM of the issuing launch (R92, R280). -/
  denorm : Bool
  deriving DecidableEq, Repr

/-- A UALink address as it arrives (R450), with the station it came from. -/
structure PeerAddr where
  station : Nat
  path : Path
  aper : BitVec 5
  offset : BitVec 36
  deriving DecidableEq, Repr

/-- What a collective's peers send (R316): the descriptor the sender issued and its elements, with those that hold poison (R268). -/
structure CollMsg where
  rank : Nat
  kind : BitVec 3
  efmt : BitVec 3
  rop : BitVec 2
  count : Nat
  nmem : Nat
  root : Nat
  elems : List DWord
  bad : List Nat
  deriving DecidableEq, Repr

/-- Storage an uncorrectable soft error strikes (R488). -/
inductive EccTarget where
  | vreg (warp reg lane : Nat)
  | ureg (warp reg : Nat)
  | memory (addr : Nat)
  /-- A 32-bit word of L2 data, of the version with a path. -/
  | l2 (path : Path) (addr : Nat)
  | l1 (core addr : Nat)
  | quarter (core set byte : Nat)
  /-- A word of a tag's held result. -/
  | returned (warp tag idx : Nat)
  /-- A word in a warp's chunk buffer. -/
  | buffered (warp space owner addr : Nat)
  | scratch (task addr : Nat)
  | tile (task addr : Nat)
  | table (kind unit : Nat) (part : Option Nat)
  deriving DecidableEq, Repr

/-- The object a watchdog ran out on (R391, R392, R212, R359). -/
inductive WaitObj where
  | fragment (warp frag : Nat)
  | entry (id : Nat)
  | wave (warp : Nat)
  | kvld (warp tag : Nat)
  | dependence (launch index : Nat)
  deriving DecidableEq, Repr

/-- What an RDMA WRITE carries: its bytes, and, with immediate, the immediate (R456). -/
structure HostData where
  bytes : List Byte
  imm : Option Word
  deriving DecidableEq, Repr

/-- What a page walk is for: a core and a quadrant on it, the partition whose realm it walks, and the shoot, which a KV page's translation is
keyed by (R328, R441). -/
structure WalkSite where
  core : Nat
  quadrant : Nat
  part : Nat
  path : Path
  deriving DecidableEq, Repr

/-- A failing boot phase (R460, R461): unit and failure code. -/
structure BootFail where
  phase : Nat
  unit : BitVec 10
  code : BitVec 16
  deriving DecidableEq, Repr

/-- One row of the opcode table each. c holds the control fields; d, a, b, e are the fields D, A, B, C. -/
inductive Instr where
  /- control (11) -/
  | nop (c : Ctl)
  | bra (c : Ctl) (off : BitVec 26)
  | br3 (c : Ctl) (p : BitVec 3) (off : BitVec 26) (off2 : BitVec 16)
  | brx (c : Ctl) (a : Src)
  | call (c : Ctl) (d : BitVec 8) (off : BitVec 26)
  | ret (c : Ctl) (a : Src)
  | join (c : Ctl)
  | exit (c : Ctl)
  | yield (c : Ctl)
  | drain (c : Ctl)
  | sleep (c : Ctl) (ns : Word)
  /- integer (04) -/
  | iadd (c : Ctl) (sgn sat : Bool) (d : BitVec 8) (a b : Src)
  | isub (c : Ctl) (sgn sat : Bool) (d : BitVec 8) (a b : Src)
  | iaddc (c : Ctl) (d : BitVec 8) (a b : Src) (pc : BitVec 3)
  | isubb (c : Ctl) (d : BitVec 8) (a b : Src) (pc : BitVec 3)
  | imul (c : Ctl) (d : BitVec 8) (a b : Src)
  | imulh (c : Ctl) (sgn : Bool) (d : BitVec 8) (a b : Src)
  | imad (c : Ctl) (sgn sat : Bool) (d : BitVec 8) (a b e : Src)
  | imadw (c : Ctl) (sgn : Bool) (d : BitVec 8) (a b e : Src)
  | idiv (c : Ctl) (sgn : Bool) (d : BitVec 8) (a b : Src)
  | irem (c : Ctl) (sgn : Bool) (d : BitVec 8) (a b : Src)
  | imin (c : Ctl) (sgn : Bool) (d : BitVec 8) (a b : Src)
  | imax (c : Ctl) (sgn : Bool) (d : BitVec 8) (a b : Src)
  | iabs (c : Ctl) (sat : Bool) (d : BitVec 8) (a : Src)
  | ineg (c : Ctl) (sat : Bool) (d : BitVec 8) (a : Src)
  | isad (c : Ctl) (sgn : Bool) (d : BitVec 8) (a b e : Src)
  | iaddImm (c : Ctl) (sgn sat : Bool) (d a : BitVec 8) (imm : Word)
  | isubImm (c : Ctl) (sgn sat : Bool) (d a : BitVec 8) (imm : Word)
  | imulImm (c : Ctl) (d a : BitVec 8) (imm : Word)
  | iminImm (c : Ctl) (sgn : Bool) (d a : BitVec 8) (imm : Word)
  | imaxImm (c : Ctl) (sgn : Bool) (d a : BitVec 8) (imm : Word)
  /- bits, logic, shifts -/
  | popc (c : Ctl) (d : BitVec 8) (a : Src)
  | clz (c : Ctl) (d : BitVec 8) (a : Src)
  | ctz (c : Ctl) (d : BitVec 8) (a : Src)
  | brev (c : Ctl) (d : BitVec 8) (a : Src)
  | bfe (c : Ctl) (sx : Bool) (d : BitVec 8) (a b : Src)
  | bfi (c : Ctl) (d : BitVec 8) (a b e : Src)
  | and (c : Ctl) (d : BitVec 8) (a b : Src)
  | or (c : Ctl) (d : BitVec 8) (a b : Src)
  | xor (c : Ctl) (d : BitVec 8) (a b : Src)
  | andn (c : Ctl) (d : BitVec 8) (a b : Src)
  | shl (c : Ctl) (d : BitVec 8) (a b : Src)
  | shr (c : Ctl) (d : BitVec 8) (a b : Src)
  | sar (c : Ctl) (d : BitVec 8) (a b : Src)
  | rol (c : Ctl) (d : BitVec 8) (a b : Src)
  | shf (c : Ctl) (right : Bool) (d : BitVec 8) (a b e : Src)
  | andImm (c : Ctl) (d a : BitVec 8) (imm : Word)
  | orImm (c : Ctl) (d a : BitVec 8) (imm : Word)
  | xorImm (c : Ctl) (d a : BitVec 8) (imm : Word)
  | andnImm (c : Ctl) (d a : BitVec 8) (imm : Word)
  | shlImm (c : Ctl) (d a : BitVec 8) (imm : Word)
  | shrImm (c : Ctl) (d a : BitVec 8) (imm : Word)
  | sarImm (c : Ctl) (d a : BitVec 8) (imm : Word)
  | rolImm (c : Ctl) (d a : BitVec 8) (imm : Word)
  /- address, moves, predicates -/
  | lea (c : Ctl) (sh : BitVec 3) (zx : Bool) (d : BitVec 8) (a b : Src)
  | mov (c : Ctl) (x2 : Bool) (d : BitVec 8) (a : Src)
  | movi (c : Ctl) (mode : MoviMode) (d : BitVec 8) (imm : Word)
  | sel (c : Ctl) (ua : Bool) (d : BitVec 8) (a b : Src) (pc : BitVec 3)
  | cmpi (c : Ctl) (cc : CmpCode) (sgn : Bool) (pd : BitVec 3) (a b : Src)
  | plop (c : Ctl) (op : PlopOp) (pd pa pb : BitVec 3)
  | ptov (c : Ctl) (d : BitVec 8) (pa : BitVec 3)
  | vtop (c : Ctl) (nz : Bool) (pd : BitVec 3) (a : Src)
  /- floating point -/
  | fadd (c : Ctl) (fmt : FFmt) (rnd : Rnd) (d : BitVec 8) (a b : Src)
  | fsub (c : Ctl) (fmt : FFmt) (rnd : Rnd) (d : BitVec 8) (a b : Src)
  | fmul (c : Ctl) (fmt : FFmt) (rnd : Rnd) (d : BitVec 8) (a b : Src)
  | ffma (c : Ctl) (fmt : FFmt) (rnd : Rnd) (d : BitVec 8) (a b e : Src)
  | fmin (c : Ctl) (fmt : FFmt) (nan : Bool) (d : BitVec 8) (a b : Src)
  | fmax (c : Ctl) (fmt : FFmt) (nan : Bool) (d : BitVec 8) (a b : Src)
  | fcmp (c : Ctl) (fmt : FFmt) (cc : CmpCode) (pd : BitVec 3) (a b : Src)
  | frcp (c : Ctl) (fmt : FFmt) (d : BitVec 8) (a : Src)
  | frsq (c : Ctl) (fmt : FFmt) (d : BitVec 8) (a : Src)
  | fsqrt (c : Ctl) (fmt : FFmt) (rnd : Rnd) (d : BitVec 8) (a : Src)
  | fdiv (c : Ctl) (fmt : FFmt) (rnd : Rnd) (d : BitVec 8) (a b : Src)
  | fex2 (c : Ctl) (fmt : FFmt) (d : BitVec 8) (a : Src)
  | flg2 (c : Ctl) (fmt : FFmt) (d : BitVec 8) (a : Src)
  | fsin (c : Ctl) (fmt : FFmt) (d : BitVec 8) (a : Src)
  | fcos (c : Ctl) (fmt : FFmt) (d : BitVec 8) (a : Src)
  | ftanh (c : Ctl) (fmt : FFmt) (d : BitVec 8) (a : Src)
  | fclass (c : Ctl) (fmt : FFmt) (d : BitVec 8) (a : Src)
  | frnd (c : Ctl) (fmt : FFmt) (rnd : Rnd) (x : Bool) (d : BitVec 8) (a : Src)
  | fscale (c : Ctl) (fmt : FFmt) (rnd : Rnd) (d : BitVec 8) (a b : Src)
  | fgetexp (c : Ctl) (fmt : FFmt) (d : BitVec 8) (a : Src)
  /- conversions and block quantisation -/
  | fcvt (c : Ctl) (dfmt sfmt : FFmt) (rnd : Rnd) (idx : BitVec 3) (d : BitVec 8) (a : Src)
  | ftoi (c : Ctl) (dfmt : IFmt) (sfmt : FFmt) (rnd : Rnd) (idx : BitVec 3) (d : BitVec 8) (a : Src)
  | itof (c : Ctl) (dfmt : FFmt) (sfmt : IFmt) (rnd : Rnd) (idx : BitVec 3) (d : BitVec 8) (a : Src)
  | cvtsr (c : Ctl) (dfmt sfmt : FFmt) (idx : BitVec 3) (d : BitVec 8) (a b : Src)
  | qmx (c : Ctl) (ef : EFmt) (bf16 : Bool) (d : BitVec 8) (a : Src)
  | dqmx (c : Ctl) (ef : EFmt) (bf16 : Bool) (rnd : Rnd) (d : BitVec 8) (a b : Src)
  | qgb (c : Ctl) (bands bf16 : Bool) (d : BitVec 8) (a b : Src)
  | dqgb (c : Ctl) (bf16 : Bool) (rnd : Rnd) (d : BitVec 8) (a b e : Src)
  /- intervals (05) -/
  | ivset (c : Ctl) (f : IvFmt) (pf : PFmt) (d : BitVec 8) (a : Src)
  | ivmk (c : Ctl) (f : IvFmt) (pf : PFmt) (d : BitVec 8) (a b : Src)
  | ivadd (c : Ctl) (f : IvFmt) (d : BitVec 8) (a b : Src)
  | ivsub (c : Ctl) (f : IvFmt) (d : BitVec 8) (a b : Src)
  | ivmul (c : Ctl) (f : IvFmt) (d : BitVec 8) (a b : Src)
  | ivdiv (c : Ctl) (f : IvFmt) (d : BitVec 8) (a b : Src)
  | ivfma (c : Ctl) (f : IvFmt) (d : BitVec 8) (a b e : Src)
  | ivsqr (c : Ctl) (f : IvFmt) (d : BitVec 8) (a : Src)
  | ivsqrt (c : Ctl) (f : IvFmt) (d : BitVec 8) (a : Src)
  | ivrcp (c : Ctl) (f : IvFmt) (d : BitVec 8) (a : Src)
  | ivexp (c : Ctl) (f : IvFmt) (d : BitVec 8) (a : Src)
  | ivlog (c : Ctl) (f : IvFmt) (d : BitVec 8) (a : Src)
  | ivabs (c : Ctl) (f : IvFmt) (d : BitVec 8) (a : Src)
  | ivmin (c : Ctl) (f : IvFmt) (d : BitVec 8) (a b : Src)
  | ivmax (c : Ctl) (f : IvFmt) (d : BitVec 8) (a b : Src)
  | ivisect (c : Ctl) (f : IvFmt) (d : BitVec 8) (a b : Src)
  | ivhull (c : Ctl) (f : IvFmt) (d : BitVec 8) (a b : Src)
  | ivlo (c : Ctl) (f : IvFmt) (pf : PFmt) (d : BitVec 8) (a : Src)
  | ivhi (c : Ctl) (f : IvFmt) (pf : PFmt) (d : BitVec 8) (a : Src)
  | ivmid (c : Ctl) (f : IvFmt) (pf : PFmt) (d : BitVec 8) (a : Src)
  | ivwid (c : Ctl) (f : IvFmt) (pf : PFmt) (d : BitVec 8) (a : Src)
  | ivcmp (c : Ctl) (f : IvFmt) (rel : Rel) (pd : BitVec 3) (a b : Src)
  | ivin (c : Ctl) (f : IvFmt) (pf : PFmt) (pd : BitVec 3) (a b : Src)
  | ivsplit (c : Ctl) (f : IvFmt) (hi : Bool) (d : BitVec 8) (a b : Src)
  | ivbis (c : Ctl) (f : IvFmt) (qn : BitVec 3) (d : BitVec 8) (pb : BitVec 3) (a : Src)
  | ivld (c : Ctl) (f : IvFmt) (d : BitVec 8) (r : MemRef)
  | ivst (c : Ctl) (f : IvFmt) (r : MemRef) (e : Src)
  /- lanes and random streams -/
  | shfl (c : Ctl) (mode : ShflMode) (ud : Bool) (d : BitVec 8) (a b : Src) (pc : BitVec 3)
  | lpush (c : Ctl) (d : BitVec 8) (a b : Src) (pc : BitVec 3)
  | vote (c : Ctl) (mode : VoteMode) (ud : Bool) (d : BitVec 8) (pa : BitVec 3)
  | redux (c : Ctl) (op : RedOp) (ud : Bool) (d : BitVec 8) (a : Src)
  | scan (c : Ctl) (op : RedOp) (excl : Bool) (d : BitVec 8) (a : Src)
  | matchLanes (c : Ctl) (d : BitVec 8) (a : Src) (pc : BitVec 3)
  | partset (c : Ctl) (width : BitVec 3)
  | rng (c : Ctl) (out : RngOut) (d : BitVec 8) (b : Src)
  | rngkey (c : Ctl) (a : Src)
  | rngskip (c : Ctl) (d : BitVec 8) (a : Src)
  /- matrix engine and tile store (06); a, b, e are uniform registers -/
  | talloc (c : Ctl) (d a : BitVec 8)
  | tfree (c : Ctl) (a b : BitVec 8)
  | tld (c : Ctl) (sz : TileSz) (a : Src) (r : MemRef)
  | tst (c : Ctl) (sz : TileSz) (a : Src) (r : MemRef)
  | mbq (c : Ctl) (fmt : MatFmt) (set1 : Bool) (a b : BitVec 8)
  | mma (c : Ctl) (af bf : MatFmt) (acc : AccMode) (row col : BitVec 2) (d a b e : BitVec 8)
  | mzero (c : Ctl) (ac : AcFmt) (a : BitVec 8)
  | mmask (c : Ctl) (len : Bool) (d : BitVec 3) (a : BitVec 8)
  | maccr (c : Ctl) (ac : AcFmt) (d a b : BitVec 8)
  | maccw (c : Ctl) (ac : AcFmt) (a b e : BitVec 8)
  | mcvt (c : Ctl) (df : MatFmt) (s32 : Bool) (rnd : Rnd) (k1 : Bool) (col : BitVec 2) (a b : BitVec 8)
  | mrowmax (c : Ctl) (col : BitVec 2) (d a e : BitVec 8)
  | mrowexp (c : Ctl) (mul : Bool) (row col : BitVec 2) (d a b e : BitVec 8)
  | mstat (c : Ctl) (sel : BitVec 3) (d : BitVec 8)
  /- memory, atomics, fences (08) -/
  | ld (c : Ctl) (sz : Sz) (ed : Bool) (d e : BitVec 8) (r : MemRef)
  | st (c : Ctl) (sz : Sz) (r : MemRef) (e : Src)
  | ldu (c : Ctl) (sz : Sz) (ed : Bool) (d e : BitVec 8) (r : MemRef)
  | lds (c : Ctl) (sz : Sz) (d : BitVec 8) (r : ScrRef)
  | sts (c : Ctl) (sz : Sz) (r : ScrRef) (e : Src)
  | gather (c : Ctl) (sz : Sz) (zx : Bool) (d a : BitVec 8) (r : MemRef)
  | scatter (c : Ctl) (sz : Sz) (zx : Bool) (a e : BitVec 8) (r : MemRef)
  | pref (c : Ctl) (l2 : Bool) (r : MemRef)
  | atom (c : Ctl) (op : AtomOp) (w64 : Bool) (scope : Scope) (d : BitVec 8) (r : MemRef) (e : Src)
  | acas (c : Ctl) (w64 : Bool) (scope : Scope) (d : BitVec 8) (r : MemRef) (e : Src)
  | red (c : Ctl) (op : AtomOp) (w64 : Bool) (scope : Scope) (r : MemRef) (e : Src)
  | crdecl (c : Ctl) (op : CrOp) (fmt : CrFmt) (rsel : BitVec 2) (a b e : BitVec 8)
  | crrel (c : Ctl) (rsel : BitVec 2) (a : BitVec 8)
  | fence (c : Ctl) (scope : Scope)
  | chend (c : Ctl)
  | cinv (c : Ctl) (scope : Scope) (r : MemRef) (len : BitVec 8)
  | cwb (c : Ctl) (r : MemRef) (len : BitVec 8)
  /- engines, counters, editions -/
  | wbind (c : Ctl) (mma : Bool) (a e : BitVec 8)
  | wkick (c : Ctl) (a : BitVec 8)
  | wdrop (c : Ctl) (a : BitVec 8)
  | wstat (c : Ctl) (d a : BitVec 8)
  | rcopy (c : Ctl) (a b : BitVec 8)
  | cntinc (c : Ctl) (scope : Scope) (rsel : BitVec 2) (a b : BitVec 8)
  | cntrd (c : Ctl) (rsel : BitVec 2) (d a : BitVec 8)
  | seal (c : Ctl) (rsel : BitVec 2) (a b e : BitVec 8)
  | unseal (c : Ctl) (rsel : BitVec 2) (a b : BitVec 8)
  | coll (c : Ctl) (a : BitVec 8)
  /- KV cache (09) -/
  | kvld (c : Ctl) (f32 : Bool) (rsel : BitVec 2) (d a b : BitVec 8) (pc : BitVec 3)
  | kvappend (c : Ctl) (valid spec : Bool) (rsel : BitVec 2) (a b e : BitVec 8)
  | kvmask (c : Ctl) (op : KvMaskOp) (rsel : BitVec 2) (a b : BitVec 8)
  | kvcompact (c : Ctl) (rsel : BitVec 2) (a : BitVec 8)
  | kvfmt (c : Ctl) (rsel : BitVec 2) (a b : BitVec 8)
  | kvprov (c : Ctl) (rsel : BitVec 2) (a b : BitVec 8)
  | kvshare (c : Ctl) (rsel : BitVec 2) (a b : BitVec 8)
  | graft (c : Ctl) (ro : Bool) (rsel : BitVec 2) (a b : BitVec 8)
  | repair (c : Ctl) (rsel : BitVec 2) (a b : BitVec 8)
  | beammap (c : Ctl) (rsel : BitVec 2) (a b e : BitVec 8)
  | topk (c : Ctl) (a : BitVec 8)
  /- synchronisation, work creation, speculation (11) -/
  | bar (c : Ctl) (task : Bool) (group : BitVec 8)
  | barc (c : Ctl) (op : BarcOp) (cb : BitVec 4) (r : BitVec 8)
  | barq (c : Ctl) (op : BarqOp) (task : Bool) (group r : BitVec 8)
  | cwait (c : Ctl) (rsel : BitVec 2) (cont : Bool) (a b : BitVec 8) (off : BitVec 26)
  | spawn (c : Ctl) (qn : BitVec 3) (wm1 : BitVec 4) (b : BitVec 8)
  | launch (c : Ctl) (rsel : BitVec 2) (a : BitVec 8)
  | shoot (c : Ctl) (rsel : BitVec 2) (d a b : BitVec 8)
  | resolve (c : Ctl) (d a b : BitVec 8)
  | role (c : Ctl) (r : BitVec 2)
  /- system (13) -/
  | trap (c : Ctl) (imm : Word)
  | resume (c : Ctl) (mode : ResumeMode) (a : BitVec 8)
  | sread (c : Ctl) (x2 : Bool) (d : BitVec 8) (num : BitVec 12)
  | swrite (c : Ctl) (x2 : Bool) (num : BitVec 12) (a : BitVec 8)
  | tlbinv (c : Ctl) (other all : Bool) (rsel : BitVec 2) (a b : BitVec 8)
  | brk (c : Ctl) (imm : Word)
  | ckpt (c : Ctl) (other : Bool) (a : BitVec 8)
  | pwrhint (c : Ctl) (cls : BitVec 3)
  /- the slot of no assigned opcode -/
  | illegalOpcode (word : Slot)
  /- steps the device takes by itself (they come first so that compiled code may build them) -/
  | lineRefetch (core line : Nat)
  | fixedLatencyWriteback (warp : Nat)
  | tagReturn (warp tag : Nat) (resp : PeerResp)
  | switchMarkerResume (warp : Nat)
  | chunkLimitEnd (warp : Nat)
  | chunkPosition (warp : Nat)
  | commitComplete (pos : Nat)
  | waveAtomicExecute (warp : Nat)
  | walkComplete (site : WalkSite) (realm : Nat) (offset : DWord)
  | invalidationAck (id : Nat)
  | entryChangeAck (id : Nat)
  | mmaGrant (core : Nat)
  | passComplete (id : Nat)
  | quarterCopy (id : Nat)
  | runnerGranule (job : Nat) (resp : PeerResp)
  | windowCopyStart (job : Nat)
  | windowLanded (job : Nat)
  | rcopyComplete (job : Nat)
  | engineCommandStop (job cause detail : Nat)
  | topkComplete (job : Nat)
  | collComplete (job : Nat)
  | launchGroupListRead (launch : Nat)
  | launchReady (launch : Nat)
  | taskStart (launch : Nat)
  | spawnRecordMove (core : Nat)
  | spawnedTaskStart (part : Nat)
  | launchComplete (launch : Nat)
  | cwaitWake (warp frag : Nat) (peer : Option DWord)
  | sleepWake (warp frag : Nat)
  | kvldWaitGather (warp tag : Nat)
  | repairProbeDone (job : Nat)
  | repairLayerDone (job : Nat)
  | beammapFlip (job : Nat)
  | shootRetireComplete (part : Nat) (path : Path)
  | pruneWarpStop (warp : Nat)
  | trapRecordWrite (part : Nat)
  | handlerTaskStart (part : Nat)
  | timerTrap (warp : Nat)
  | waitProgress (o : WaitObj)
  | queueProgress (warp queue : Nat)
  | haltAck (part : Nat)
  | preemptWarpStop (warp : Nat)
  | incrementalBankCopy (warp bank : Nat)
  | powerOn (fail : Option BootFail)
  | cwbComplete (job : Nat)
  /- steps that come from outside, or that only software's writes bring about -/
  | crPartialEvict (range core elem : Nat)
  | collMessage (job : Nat) (m : CollMsg)
  | collTimeout (job rank : Nat)
  | collAbortMessage (job rank : Nat)
  | linkDown (station : Nat)
  | ualinkRequestTimeout (warp tag station : Nat)
  | peerReadRequest (a : PeerAddr) (edition : Option Word) (bytes : Nat)
  | peerWriteRequest (a : PeerAddr) (data : List (Byte × Bool))
  | peerAtomicRequest (a : PeerAddr) (op : PeerAtomic)
  | peerCommitMessage (station : Nat) (path : Path)
  | peerPruneMessage (station : Nat) (path : Path)
  | peerStoreAck (id : Nat) (resp : PeerResp)
  | hostRdmaWrite (qpn rkey : Nat) (va : Nat) (data : HostData)
  | hostRdmaRead (qpn rkey : Nat) (va len : Nat)
  | hostSendInbound (qpn : Nat) (words : List Word) (imm : Option Word)
  | hostSendAck (window words : Nat)
  | hostAtomicVerb (qpn : Nat)
  | heatBudgetPeriod (cluster budget : Nat) (hot cool : Bool)
  | eccCorrected (part : Nat)
  | eccUncorrectable (t : EccTarget)
  | patrolScrub (addr : Nat) (bad : Bool)
  | translationParityError (index : Nat)
  | machineCheck (part : Option Nat) (kind unit : Nat)
  | bootPhaseTimeout (phase : Nat) (unit : BitVec 10)
  | mgmtReport
  | mgmtReset (nonce : DWord) (key : Nat) (sig : List Byte)
  | partitionCreate
  | partitionStart
  | partitionStop
  | partitionDestroy
  | vacate (part : Nat)
  | reopen (part : Nat)
  | dbgctlHalt (part : Nat)
  | ctxctlValidWrite (warp : Nat) (value : Word)
  | vspillWrite (warp : Nat) (value : DWord)
  | enckeyWrite (warp index : Nat) (value : Word)
  | mbwinWrite (warp index : Nat) (value : Word)
  | apentWrite (warp index : Nat) (value : Word)
  | ecccntRead (warp : Nat)
  | sysregWrite (warp : Nat) (num : BitVec 12) (value : DWord)
  | linkReturn (station : Nat)
  | queuePairError (qpn : Nat)
  | priorityFlowControl (port prio : Nat) (pause : Bool)
  | ecnMarking (qpn : Nat)
  deriving DecidableEq, Repr

end Sys2Proof
end

