-- ==== Sys2Proof/Machine/Flags.lean ====
section
/-! DEFINITION. The floating-point flags (R93), their traps (R94, R96) and the rounding modes (R86). -/

namespace Sys2Proof.Machine

/-- A set of flags in the layout of FPSTAT bits 8:0 (R93). -/
abbrev Flags := BitVec 9

/-- Invalid operation (R93, bit 0). -/
def flagNV : Flags := 0x001
/-- Division by zero (R93, bit 1). -/
def flagDZ : Flags := 0x002
/-- Overflow (R93, bit 2). -/
def flagOF : Flags := 0x004
/-- Underflow (R93, bit 3). -/
def flagUF : Flags := 0x008
/-- Inexact (R93, bit 4). -/
def flagNX : Flags := 0x010
/-- An operand or result was flushed (R92, R93, bit 5). -/
def flagDEN : Flags := 0x020
/-- A masked empty interval was produced (R93, bit 7). -/
def flagEMP : Flags := 0x080
/-- A predicate held 0b11 when read (R56, R93, bit 8). -/
def flagPRSV : Flags := 0x100

/-- f if b, nothing otherwise. -/
def flagIf (b : Bool) (f : Flags) : Flags := if b then f else 0

/-- FPSTAT after the flags f are raised (R95). -/
def fpstatOr (fpstat : Word) (f : Flags) : Word := fpstat ||| f.setWidth 32

/-- The flags of f whose trap bit in FPCTL is 1 (R94 bits 8:4, R96). -/
def trappingFlags (fpctl : Word) (f : Flags) : BitVec 5 := f.setWidth 5 &&& fpctl.extractLsb' 4 5

/-- FPCTL.EMASK (R94). -/
def fpctlEmask (fpctl : Word) : Bool := fpctl.getLsbD 9

/-- FPCTL.SRCOMPAT (R94). -/
def fpctlSrcompat (fpctl : Word) : Bool := fpctl.getLsbD 10

/-- The writable bits of FPCTL: 10:4 and 1:0 (R94). -/
def fpctlMask : Word := 0x7F3

/-- The write-one-to-clear bits of FPSTAT (R93). -/
def fpstatMask : Word := 0x1BF

/-- A rounding direction (R86). -/
inductive RMode where
  | rn | rz | rm | rp | ra
  deriving DecidableEq, Repr

/-- FPCTL.RMODE (R94). -/
def fpctlRMode (fpctl : Word) : RMode :=
  match (fpctl.extractLsb' 0 2).toNat with
  | 0 => .rn | 1 => .rz | 2 => .rm | _ => .rp

/-- The direction a rounding field selects (R86). -/
def rmodeOf (fpctl : Word) (r : Rnd) : RMode :=
  match r with
  | .dyn => fpctlRMode fpctl
  | .rn => .rn | .rz => .rz | .rm => .rm | .rp => .rp | .ra => .ra

end Sys2Proof.Machine
end

