-- ==== Sys2Proof/Machine/Float.lean ====
section
/-! DEFINITION. Floating-point formats, exact values and RoundTo (R80 to R92, R98), and the correctly rounded operations built on them.
An encoding is a Nat below 2^width; a finite value is a sign, a magnitude m and an exponent e, standing for m * 2^e. -/

namespace Sys2Proof.Machine

/-- Which special encodings a format has (R80). -/
inductive Specials where
  | ieee | nanOnly | none
  deriving DecidableEq, Repr

/-- One row of the table of R80. -/
structure FSpec where
  width : Nat
  expBits : Nat
  frac : Nat
  bias : Nat
  specials : Specials
  deriving DecidableEq, Repr

def specF64 : FSpec := ⟨64, 11, 52, 1023, .ieee⟩
def specF32 : FSpec := ⟨32, 8, 23, 127, .ieee⟩
def specF16 : FSpec := ⟨16, 5, 10, 15, .ieee⟩
def specBF16 : FSpec := ⟨16, 8, 7, 127, .ieee⟩
def specE5M2 : FSpec := ⟨8, 5, 2, 15, .ieee⟩
def specE4M3 : FSpec := ⟨8, 4, 3, 7, .nanOnly⟩
def specE3M2 : FSpec := ⟨6, 3, 2, 3, .none⟩
def specE2M3 : FSpec := ⟨6, 2, 3, 1, .none⟩
def specE2M1 : FSpec := ⟨4, 2, 1, 1, .none⟩

/-- The element format of a format code (R131); a packed format names its element. -/
def fspec (f : FFmt) : FSpec :=
  match f with
  | .f32 => specF32 | .f64 => specF64 | .f16 => specF16 | .bf16 => specBF16
  | .f16x2 => specF16 | .bf16x2 => specBF16
  | .e5m2 => specE5M2 | .e4m3 => specE4M3 | .e3m2 => specE3M2 | .e2m3 => specE2M3 | .e2m1 => specE2M1

/-- Whether DETCTL.DENORM applies to the format (R92). -/
def flushes (f : FSpec) : Bool := decide (16 ≤ f.width)

/-- What an encoding stands for. -/
inductive FVal where
  | nan (signalling : Bool)
  | inf (neg : Bool)
  | fin (neg : Bool) (m : Nat) (e : Int)
  deriving DecidableEq, Repr

/-- The canonical NaN of a format (R81); 0 where the format has none. -/
def canonNaN (f : FSpec) : Nat :=
  match f.specials with
  | .ieee => (2 ^ f.expBits - 1) * 2 ^ f.frac + 2 ^ (f.frac - 1)
  | .nanOnly => 2 ^ (f.width - 1) - 1
  | .none => 0

/-- The sign bit in place. -/
def signBit (f : FSpec) (neg : Bool) : Nat := if neg then 2 ^ (f.width - 1) else 0

/-- The encoding of an infinity of a format with infinities. -/
def infEnc (f : FSpec) (neg : Bool) : Nat := signBit f neg + (2 ^ f.expBits - 1) * 2 ^ f.frac

/-- The encoding of a zero. -/
def zeroEnc (f : FSpec) (neg : Bool) : Nat := signBit f neg

/-- The encoding of MaxF (R80). -/
def maxEnc (f : FSpec) (neg : Bool) : Nat :=
  signBit f neg +
    match f.specials with
    | .ieee => (2 ^ f.expBits - 1) * 2 ^ f.frac - 1
    | .nanOnly => 2 ^ (f.width - 1) - 2
    | .none => 2 ^ (f.width - 1) - 1

/-- Reads an encoding (R80, R81). -/
def decodeF (f : FSpec) (bits : Nat) : FVal :=
  let b := bits % 2 ^ f.width
  let neg := decide (2 ^ (f.width - 1) ≤ b)
  let e := b / 2 ^ f.frac % 2 ^ f.expBits
  let m := b % 2 ^ f.frac
  let top := 2 ^ f.expBits - 1
  if e = top ∧ f.specials = .ieee then
    if m = 0 then .inf neg else .nan (decide (m < 2 ^ (f.frac - 1)))
  else if e = top ∧ f.specials = .nanOnly ∧ m = 2 ^ f.frac - 1 then .nan false
  else if e = 0 then .fin neg m (1 - (f.bias : Int) - f.frac)
  else .fin neg (2 ^ f.frac + m) ((e : Int) - f.bias - f.frac)

/-- Whether an encoding is a non-zero value below MinN. -/
def isSubnormalEnc (f : FSpec) (bits : Nat) : Bool :=
  decide (bits / 2 ^ f.frac % 2 ^ f.expBits = 0 ∧ bits % 2 ^ f.frac ≠ 0)

/-- Reads an operand with the subnormal setting applied (R92). -/
def readF (denorm : Bool) (f : FSpec) (bits : Nat) : FVal × Flags :=
  if denorm && flushes f && isSubnormalEnc f bits then
    (.fin (decide (2 ^ (f.width - 1) ≤ bits % 2 ^ f.width)) 0 0, flagDEN)
  else (decodeF f bits, 0)

/-- m / 2^k rounded to an integer, and whether bits were lost; m * 2^(-k) where k is not positive. -/
def roundShift (mode : RMode) (neg : Bool) (m : Nat) (k : Int) : Nat × Bool :=
  if k ≤ 0 then (m * 2 ^ (-k).toNat, false)
  else
    let d := 2 ^ k.toNat
    let q := m / d
    let r := m % d
    let up : Bool := match mode with
      | .rn => decide (d < 2 * r) || (decide (2 * r = d) && decide (q % 2 = 1))
      | .rz => false
      | .rm => neg && decide (r ≠ 0)
      | .rp => !neg && decide (r ≠ 0)
      | .ra => decide (d ≤ 2 * r)
    (if up then q + 1 else q, decide (r ≠ 0))

/-- The exponent of the unit in the last place of a value whose log is l, on the subnormal grid below MinN (R87). -/
def gridExp (f : FSpec) (l : Int) : Int := max l (1 - (f.bias : Int)) - f.frac

/-- Encodes q * 2^g for q at most 2^(frac+1), g a grid exponent, and says whether it is above MaxF (R87). -/
def encodeGrid (f : FSpec) (neg : Bool) (q : Nat) (g : Int) : Nat × Bool :=
  let q' := if q = 2 ^ (f.frac + 1) then 2 ^ f.frac else q
  let g' := if q = 2 ^ (f.frac + 1) then g + 1 else g
  if q' < 2 ^ f.frac then (signBit f neg + q', false)
  else
    let e := (g' + f.frac + f.bias).toNat
    let enc := e * 2 ^ f.frac + (q' - 2 ^ f.frac)
    (signBit f neg + enc, decide (maxEnc f false < enc))

/-- What R87 returns on overflow. -/
def overflowEnc (f : FSpec) (mode : RMode) (neg : Bool) : Nat :=
  if f.specials ≠ .ieee then maxEnc f neg
  else match mode with
    | .rz => maxEnc f neg
    | .rm => if neg then infEnc f neg else maxEnc f neg
    | .rp => if neg then maxEnc f neg else infEnc f neg
    | .rn => infEnc f neg
    | .ra => infEnc f neg

/-- RoundTo of a non-zero finite m * 2^e of the given sign, before any flush (R87). -/
def roundFin (f : FSpec) (mode : RMode) (neg : Bool) (m : Nat) (e : Int) : Nat × Flags :=
  let l := (Nat.log2 m : Int) + e
  let g := gridExp f l
  let q := roundShift mode neg m (g - e)
  let u := roundShift mode neg m (l - f.frac - e)
  let emin : Int := 1 - (f.bias : Int)
  let tiny := decide (l < emin - 1) || (decide (l = emin - 1) && decide (u.1 ≠ 2 ^ (f.frac + 1)))
  let enc := encodeGrid f neg q.1 g
  let fl := flagIf q.2 flagNX ||| flagIf (q.2 && tiny) flagUF
  if enc.2 then (overflowEnc f mode neg, fl ||| flagOF ||| flagNX) else (enc.1, fl)

/-- The flush of a result (R92). -/
def flushResult (denorm : Bool) (f : FSpec) (r : Nat × Flags) : Nat × Flags :=
  if denorm && flushes f && isSubnormalEnc f r.1 then
    (r.1 / 2 ^ (f.width - 1) * 2 ^ (f.width - 1), r.2 ||| flagUF ||| flagNX ||| flagDEN)
  else r

/-- RoundTo of an infinity (R87). -/
def roundInf (f : FSpec) (neg : Bool) : Nat × Flags :=
  if f.specials = .ieee then (infEnc f neg, 0) else (maxEnc f neg, flagNV)

/-- RoundTo of a finite value, zero included with its sign, then the flush of R92. -/
def roundTo (denorm : Bool) (f : FSpec) (mode : RMode) (neg : Bool) (m : Nat) (e : Int) : Nat × Flags :=
  if m = 0 then (zeroEnc f neg, 0) else flushResult denorm f (roundFin f mode neg m e)

/-- A NaN result with NV if nv (R90). -/
def nanResult (f : FSpec) (nv : Bool) : Nat × Flags := (canonNaN f, flagIf nv flagNV)

/-! ### Exact dyadic arithmetic -/

/-- The integer m * 2^(e - g), for g at most e. -/
def alignTo (g : Int) (neg : Bool) (m : Nat) (e : Int) : Int :=
  let v : Int := (m : Int) * 2 ^ (e - g).toNat
  if neg then -v else v

/-- RoundTo of an exact signed integer n times 2^g; zero has the sign given. -/
def roundInt (denorm : Bool) (f : FSpec) (mode : RMode) (zeroNeg : Bool) (n : Int) (g : Int) : Nat × Flags :=
  if n = 0 then (zeroEnc f zeroNeg, 0) else roundTo denorm f mode (decide (n < 0)) n.natAbs g

/-- The sign of a zero sum of two addends (R91). -/
def zeroSumNeg (mode : RMode) (aNeg bNeg : Bool) : Bool :=
  if aNeg = bNeg then aNeg else decide (mode = .rm)

/-- a + b of two values, rounded once (R134). -/
def addVals (denorm : Bool) (f : FSpec) (mode : RMode) (a b : FVal) : Nat × Flags :=
  match a, b with
  | .nan s, .nan t => nanResult f (s || t)
  | .nan s, _ => nanResult f s
  | _, .nan t => nanResult f t
  | .inf s, .inf t => if s = t then roundInf f s else nanResult f true
  | .inf s, .fin _ _ _ => roundInf f s
  | .fin _ _ _, .inf t => roundInf f t
  | .fin s m e, .fin t n h =>
    let g := min e h
    roundInt denorm f mode (zeroSumNeg mode s t) (alignTo g s m e + alignTo g t n h) g

/-- The value with its sign exchanged. -/
def negVal (a : FVal) : FVal :=
  match a with
  | .nan s => .nan s
  | .inf s => .inf (!s)
  | .fin s m e => .fin (!s) m e

/-- Whether the value is a zero. -/
def isZeroVal (a : FVal) : Bool :=
  match a with
  | .fin _ m _ => decide (m = 0)
  | .nan _ => false
  | .inf _ => false

/-- Whether the value is a signalling NaN. -/
def isSNaN (a : FVal) : Bool :=
  match a with
  | .nan s => s
  | .inf _ => false
  | .fin _ _ _ => false

/-- Whether the value is a NaN. -/
def isNaNVal (a : FVal) : Bool :=
  match a with
  | .nan _ => true
  | .inf _ => false
  | .fin _ _ _ => false

/-- Whether the value is an infinity. -/
def isInfVal (a : FVal) : Bool :=
  match a with
  | .inf _ => true
  | .nan _ => false
  | .fin _ _ _ => false

/-- The sign of a value; false for NaN. -/
def valNeg (a : FVal) : Bool :=
  match a with
  | .nan _ => false
  | .inf s => s
  | .fin s _ _ => s

/-- 0 times infinity in either order. -/
def zeroTimesInf (a b : FVal) : Bool := (isZeroVal a && isInfVal b) || (isInfVal a && isZeroVal b)

/-- The exact product of two values that are no NaN and not 0 times infinity. -/
def mulExact (a b : FVal) : FVal :=
  match a, b with
  | .fin s m e, .fin t n h => .fin (s ^^ t) (m * n) (e + h)
  | _, _ => .inf (valNeg a ^^ valNeg b)

/-- a * b, rounded once (R134). -/
def mulVals (denorm : Bool) (f : FSpec) (mode : RMode) (a b : FVal) : Nat × Flags :=
  if isNaNVal a || isNaNVal b then nanResult f (isSNaN a || isSNaN b)
  else if zeroTimesInf a b then nanResult f true
  else match mulExact a b with
    | .fin s m e => roundTo denorm f mode s m e
    | .inf s => roundInf f s
    | .nan s => nanResult f s

/-- a * b + c, rounded once (R134). -/
def fmaVals (denorm : Bool) (f : FSpec) (mode : RMode) (a b c : FVal) : Nat × Flags :=
  if zeroTimesInf a b then nanResult f true
  else if isNaNVal a || isNaNVal b || isNaNVal c then nanResult f (isSNaN a || isSNaN b || isSNaN c)
  else addVals denorm f mode (mulExact a b) c

/-- A quotient with a non-zero divisor as magnitude and exponent, its last bit odd where it is not exact, with at least `bits` bits. -/
def divOdd (bits : Nat) (m : Nat) (e : Int) (n : Nat) (h : Int) : Nat × Int :=
  let k := bits + 2 + Nat.log2 n
  let num := m * 2 ^ k
  let q := num / n
  (2 * q + (if num % n = 0 then 0 else 1), e - h - k - 1)

/-- a / b, rounded once (R137). -/
def divVals (denorm : Bool) (f : FSpec) (mode : RMode) (a b : FVal) : Nat × Flags :=
  match a, b with
  | .nan s, .nan t => nanResult f (s || t)
  | .nan s, _ => nanResult f s
  | _, .nan t => nanResult f t
  | .inf _, .inf _ => nanResult f true
  | .inf s, .fin t _ _ => roundInf f (s ^^ t)
  | .fin s _ _, .inf t => (zeroEnc f (s ^^ t), 0)
  | .fin s m e, .fin t n h =>
    if n = 0 then
      if m = 0 then nanResult f true else (infEnc f (s ^^ t), flagDZ)
    else
      let q := divOdd (f.frac + 3) m e n h
      roundTo denorm f mode (s ^^ t) q.1 q.2

/-- Integer square root of n, searched from bit i down. -/
def isqrtFrom (i : Nat) (n acc : Nat) : Nat :=
  match i with
  | 0 => acc
  | j + 1 =>
    let c := acc + 2 ^ j
    isqrtFrom j n (if c * c ≤ n then c else acc)

/-- Integer square root. -/
def isqrt (n : Nat) : Nat := isqrtFrom (Nat.log2 n / 2 + 1) n 0

/-- A square root as magnitude and exponent, its last bit odd where it is not exact, with at least `bits` bits. -/
def sqrtOdd (bits : Nat) (m : Nat) (e : Int) : Nat × Int :=
  let k0 := 2 * bits + 2
  let k := if (e - k0) % 2 = 0 then k0 else k0 + 1
  let n := m * 2 ^ k
  let r := isqrt n
  (2 * r + (if r * r = n then 0 else 1), (e - k) / 2 - 1)

/-- The square root, rounded once (R137). -/
def sqrtVal (denorm : Bool) (f : FSpec) (mode : RMode) (a : FVal) : Nat × Flags :=
  match a with
  | .nan s => nanResult f s
  | .inf neg => if neg then nanResult f true else roundInf f false
  | .fin neg m e =>
    if m = 0 then (zeroEnc f neg, 0)
    else if neg then nanResult f true
    else
      let r := sqrtOdd (f.frac + 3) m e
      roundTo denorm f mode false r.1 r.2

/-! ### Comparison, minimum and maximum -/

/-- The order of two values that are no NaN; zeros compare equal. -/
def cmpVals (a b : FVal) : Ordering :=
  match a, b with
  | .fin s m e, .fin t n h =>
    let g := min e h
    compare (alignTo g s m e) (alignTo g t n h)
  | .inf s, .inf t => if s = t then .eq else if s then .lt else .gt
  | .inf s, _ => if s then .lt else .gt
  | _, .inf t => if t then .gt else .lt
  | _, _ => .eq

/-- Whether a condition holds of an order (R124). -/
def ccHolds (cc : CmpCode) (o : Ordering) : Bool :=
  match cc, o with
  | .eq, .eq => true | .eq, _ => false
  | .ne, .eq => false | .ne, _ => true
  | .lt, .lt => true | .lt, _ => false
  | .le, .gt => false | .le, _ => true
  | .gt, .gt => true | .gt, _ => false
  | .ge, .lt => false | .ge, _ => true

/-- Encodes a value that is a value of the format. -/
def encodeVal (f : FSpec) (a : FVal) : Nat :=
  match a with
  | .nan _ => canonNaN f
  | .inf s => infEnc f s
  | .fin s m e => (roundTo false f .rn s m e).1

/-- FMIN and FMAX of two values (R135); -0 is below +0. -/
def minMaxVals (f : FSpec) (isMax nanMode : Bool) (a b : FVal) : Nat × Flags :=
  let nv := flagIf (isSNaN a || isSNaN b) flagNV
  if isNaNVal a && isNaNVal b then (canonNaN f, nv)
  else if isNaNVal a then (if nanMode then canonNaN f else encodeVal f b, nv)
  else if isNaNVal b then (if nanMode then canonNaN f else encodeVal f a, nv)
  else
    let aLess : Bool := match cmpVals a b with
      | .lt => true
      | .gt => false
      | .eq => valNeg a
    (encodeVal f (if aLess = isMax then b else a), nv)

/-- FCMP of two values (R136). -/
def fcmpVals (cc : CmpCode) (a b : FVal) : Tri × Flags :=
  if isNaNVal a || isNaNVal b then (.undecided, flagIf (isSNaN a || isSNaN b) flagNV)
  else (if ccHolds cc (cmpVals a b) then .yes else .no, 0)

/-! ### Classification, integral rounding, scaling -/

/-- FCLASS (R138). -/
def fclassBits (f : FSpec) (bits : Nat) : Nat :=
  match decodeF f bits with
  | .nan s => if s then 0x100 else 0x200
  | .inf neg => if neg then 0x001 else 0x080
  | .fin neg m _ =>
    if m = 0 then (if neg then 0x008 else 0x010)
    else if isSubnormalEnc f bits then (if neg then 0x004 else 0x020)
    else (if neg then 0x002 else 0x040)

/-- FRND (R139). x is .X. -/
def frndVal (f : FSpec) (mode : RMode) (x : Bool) (a : FVal) : Nat × Flags :=
  match a with
  | .nan s => nanResult f s
  | .inf s => (infEnc f s, 0)
  | .fin s m e =>
    let r := roundShift mode s m (-e)
    if 0 ≤ e then (encodeVal f a, 0)
    else ((roundTo false f .rn s r.1 0).1, flagIf (x && r.2) flagNX)

/-- An exponent brought inside a range outside which every format overflows or rounds to nothing the same way. -/
def clampExp (n : Int) : Int := max (-8192) (min 8192 n)

/-- FSCALE (R140). -/
def fscaleVal (denorm : Bool) (f : FSpec) (mode : RMode) (a : FVal) (n : Int) : Nat × Flags :=
  match a with
  | .nan s => nanResult f s
  | .inf s => (infEnc f s, 0)
  | .fin s m e => roundTo denorm f mode s m (e + clampExp n)

/-- FGETEXP (R141): a 32-bit integer. -/
def fgetexpVal (a : FVal) : Int × Flags :=
  match a with
  | .nan _ => (2147483647, flagNV)
  | .inf _ => (2147483647, flagNV)
  | .fin _ m e => if m = 0 then (-2147483648, flagNV) else ((Nat.log2 m : Int) + e, 0)

/-! ### Conversions -/

/-- Rounded or special conversion of a value to a floating-point format (R98, R144). -/
def convertVal (denorm : Bool) (f : FSpec) (mode : RMode) (a : FVal) : Nat × Flags :=
  match a with
  | .nan s => if f.specials = .none then (0, flagNV) else nanResult f s
  | .inf s => roundInf f s
  | .fin s m e => roundTo denorm f mode s m e

/-- Width and signedness of an integer format (R142). -/
def ifmtWidth (f : IFmt) : Nat :=
  match f with
  | .s32 | .u32 => 32
  | .s16 | .u16 => 16
  | .s8 | .u8 => 8
  | .s4 | .u4 => 4

def ifmtSigned (f : IFmt) : Bool :=
  match f with
  | .s32 | .s16 | .s8 | .s4 => true
  | .u32 | .u16 | .u8 | .u4 => false

def ifmtMin (f : IFmt) : Int := if ifmtSigned f then -(2 ^ (ifmtWidth f - 1)) else 0
def ifmtMax (f : IFmt) : Int := if ifmtSigned f then 2 ^ (ifmtWidth f - 1) - 1 else 2 ^ ifmtWidth f - 1

/-- SatTo into an integer format (R88). -/
def satInt (f : IFmt) (n : Int) : Int × Bool :=
  if n < ifmtMin f then (ifmtMin f, true)
  else if ifmtMax f < n then (ifmtMax f, true)
  else (n, false)

/-- The two's complement code of an integer in w bits. -/
def intCode (w : Nat) (n : Int) : Nat := (n % 2 ^ w).toNat

/-- The integer a code of an integer format stands for (R82). -/
def intOfCode (f : IFmt) (b : Nat) : Int :=
  let w := ifmtWidth f
  let v := b % 2 ^ w
  if ifmtSigned f && decide (2 ^ (w - 1) ≤ v) then (v : Int) - 2 ^ w else v

/-- FTOI of a value (R98, R145): the integer's code. -/
def ftoiVal (f : IFmt) (mode : RMode) (a : FVal) : Nat × Flags :=
  match a with
  | .nan _ => (0, flagNV)
  | .inf s => (intCode (ifmtWidth f) (if s then ifmtMin f else ifmtMax f), flagNV)
  | .fin s m e =>
    let r := roundShift mode s m (-e)
    let n : Int := if s then -(r.1 : Int) else r.1
    let t := satInt f n
    (intCode (ifmtWidth f) t.1, if t.2 then flagNV else flagIf r.2 flagNX)

/-- ITOF of an integer (R146). -/
def itofInt (denorm : Bool) (f : FSpec) (mode : RMode) (n : Int) : Nat × Flags :=
  roundInt denorm f mode false n 0

/-- m / 2^n with the random word's increment (R106): the top bits that n cuts off against as many bits of the word. -/
def srQuot (compat : Bool) (w m n : Nat) : Nat :=
  let k := min n (if compat then 4 else 32)
  if 2 ^ k ≤ m % 2 ^ n / 2 ^ (n - k) + w % 2 ^ 32 / 2 ^ (32 - k) then m / 2 ^ n + 1 else m / 2 ^ n

/-- RoundSR of a non-zero finite value with the random word w (R106), before the flush. Tininess is that of R87: of the value rounded
with the same word to the precision of the format with no exponent limit (DESIGN CHOICE, log 79). -/
def roundSRFin (compat : Bool) (f : FSpec) (w : Nat) (neg : Bool) (m : Nat) (e : Int) : Nat × Flags :=
  let l := (Nat.log2 m : Int) + e
  let g := gridExp f l
  let n := (g - e).toNat
  if n = 0 then roundFin f .rz neg m e
  else
    let nx := decide (m % 2 ^ n ≠ 0)
    let enc := encodeGrid f neg (srQuot compat w m n) g
    let emin : Int := 1 - (f.bias : Int)
    let u := srQuot compat w m (l - f.frac - e).toNat
    let tiny := decide (l < emin - 1) || (decide (l = emin - 1) && decide (u ≠ 2 ^ (f.frac + 1)))
    let fl := flagIf nx flagNX ||| flagIf (nx && tiny) flagUF
    if enc.2 then (overflowEnc f .rz neg, fl ||| flagOF ||| flagNX) else (enc.1, fl)

/-- RoundSR of any value, with R98 for the special ones and R92 for the flush (R106, R147; DESIGN CHOICE, log 79). -/
def roundSR (denorm compat : Bool) (f : FSpec) (w : Nat) (a : FVal) : Nat × Flags :=
  match a with
  | .nan s => if f.specials = .none then (0, flagNV) else nanResult f s
  | .inf s => roundInf f s
  | .fin s m e => if m = 0 then (zeroEnc f s, 0) else flushResult denorm f (roundSRFin compat f w s m e)

end Sys2Proof.Machine
end

