-- ==== Sys2Proof/Machine/Block.lean ====
section
/-! DEFINITION. Block quantisation (R100 to R105, R149 to R153). -/

namespace Sys2Proof.Machine

/-- Element format of an MX code; none is MXINT8 (R148). -/
def efmtSpec (ef : EFmt) : Option FSpec :=
  match ef with
  | .e4m3 => some specE4M3
  | .e5m2 => some specE5M2
  | .e2m3 => some specE2M3
  | .e3m2 => some specE3M2
  | .e2m1 => some specE2M1
  | .s8 => none

/-- emax of an MX element format (R100). -/
def efmtEmax (ef : EFmt) : Int :=
  match ef with
  | .e4m3 => 8
  | .e5m2 => 15
  | .e2m3 => 2
  | .e3m2 => 4
  | .e2m1 => 2
  | .s8 => 0

/-- Whether the magnitude of a is at most that of b, for finite values. -/
def magLe (a b : FVal) : Bool :=
  match a, b with
  | .fin _ m e, .fin _ n h =>
    let g := min e h
    decide (alignTo g false m e ≤ alignTo g false n h)
  | .fin _ _ _, .inf _ => true
  | .fin _ _ _, .nan _ => true
  | .inf _, .fin _ _ _ => false
  | .inf _, .inf _ => true
  | .inf _, .nan _ => true
  | .nan _, _ => true

/-- The value of largest magnitude; +0 for none. -/
def maxMag (vs : List FVal) : FVal := vs.foldl (fun a v => if magLe a v then v else a) (.fin false 0 0)

/-- Whether some value is a NaN or an infinity. -/
def anySpecial (vs : List FVal) : Bool := vs.any (fun v => isNaNVal v || isInfVal v)

/-- Clamp to -127..127. -/
def clamp127 (n : Int) : Int := max (-127) (min 127 n)

/-- The shared exponent X of an MX block with a non-zero finite largest value (R101). -/
def mxExp (ef : EFmt) (amax : FVal) : Int :=
  match amax with
  | .fin _ m e => clamp127 ((Nat.log2 m : Int) + e - efmtEmax ef)
  | .inf _ => 127
  | .nan _ => 127

/-- One element of an MX block with exponent X: code and flags (R101, R149). A zero result is +0; UF is not raised (DEDUCED, log 75). -/
def mxElem (ef : EFmt) (x : Int) (v : FVal) : Nat × Flags :=
  match v with
  | .fin s m e =>
    match efmtSpec ef with
    | some f =>
      let r := if m = 0 then (0, 0) else roundFin f .rn s m (e - x)
      let big := decide (maxEnc f false < r.1 % 2 ^ (f.width - 1))
      let code := if big then maxEnc f s else r.1
      let code := if code % 2 ^ (f.width - 1) = 0 then 0 else code
      (code, r.2 &&& (flagNX ||| flagOF))
    | none =>
      let r := roundShift .rn s m (-(e + 6 - x))
      let n : Int := if s then -(r.1 : Int) else r.1
      let c := max (-127) (min 127 n)
      (intCode 8 c, flagIf r.2 flagNX ||| flagIf (decide (c ≠ n)) flagNV)
  | .inf _ => (0, 0)
  | .nan _ => (0, 0)

/-- The same element and flags for every value of a block. -/
def allElems (vs : List FVal) (f : Flags) : List (Nat × Flags) := vs.map (fun _ => (0, f))

/-- QMX over the values of the executing lanes: scale byte, then code and flags of each element (R101, R149). -/
def qmxBlock (ef : EFmt) (vs : List FVal) : Nat × List (Nat × Flags) :=
  if anySpecial vs then (0xFF, allElems vs flagNV)
  else
    let amax := maxMag vs
    if isZeroVal amax then (0, allElems vs 0)
    else
      let x := mxExp ef amax
      ((x + 127).toNat, vs.map (mxElem ef x))

/-- The value of an MX element code under scale byte x (R101, R150); a NaN element or scale is NaN. Under scale 0xFF a signalling element
sets no flag (DESIGN CHOICE, log 81). -/
def mxValue (ef : EFmt) (code scale : Nat) : FVal :=
  if scale = 0xFF then .nan false
  else
    let sx : Int := (scale : Int) - 127
    match efmtSpec ef with
    | some f =>
      match decodeF f code with
      | .fin s m e => .fin s m (e + sx)
      | .nan t => .nan t
      | .inf t => .inf t
    | none =>
      let n := intOfCode .s8 code
      .fin (decide (n < 0)) n.natAbs (sx - 6)

/-- The value of an E3M5 block scale as magnitude and exponent (R102). -/
def e3m5Value (b : Nat) : Nat × Int :=
  let e := b / 32 % 8
  let m := b % 32
  if e = 0 then (m, -7) else (32 + m, (e : Int) - 8)

/-- Whether m * 2^e is at least the quotient p * 2^q / 6. -/
def geSixth (m : Nat) (e : Int) (p : Nat) (q : Int) : Bool :=
  let g := min e q
  decide (alignTo g false p q ≤ 6 * alignTo g false m e)

/-- The smallest E3M5 code at or above a quotient, searched upward from code c; none above 31.5 (R104, R151). -/
def e3m5Search (fuel c p : Nat) (q : Int) : Option Nat :=
  match fuel with
  | 0 => none
  | n + 1 =>
    let v := e3m5Value c
    if geSixth v.1 v.2 p q then some c else e3m5Search n (c + 1) p q

/-- RNE of v / (S * s) in E2M1, saturated to 6, a zero +0 (R104, R151). The divisor is d * 2^k, d not 0 (DEDUCED, log 75). Under scale 0xFF
an element that rounds to 6 from below 7 is inexact, not saturated (DESIGN CHOICE, log 82). -/
def gb4Elem (v : FVal) (d : Nat) (k : Int) : Nat × Flags :=
  match v with
  | .fin s m e =>
    if m = 0 then (0, 0)
    else
      let q := divOdd 8 m e d k
      let r := roundFin specE2M1 .rn s q.1 q.2
      (if r.1 % 8 = 0 then 0 else r.1, r.2 &&& (flagNX ||| flagOF))
  | .inf _ => (0, 0)
  | .nan _ => (0, 0)

/-- QGB of one block under a band scale (R151): scale byte, then code and flags of each element (DEDUCED, log 75). -/
def qgbBlock (band : FVal) (vs : List FVal) : Nat × List (Nat × Flags) :=
  match band with
  | .fin _ bm be =>
    if anySpecial vs then (0, allElems vs flagNV)
    else if bm = 0 then (0, allElems vs 0)
    else
      match maxMag vs with
      | .fin _ m e =>
        if m = 0 then (0, allElems vs 0)
        else
          let q := divOdd 80 m e bm be
          let sc := (e3m5Search 256 0 q.1 q.2).getD 0xFF
          let sv := e3m5Value sc
          (sc, vs.map (fun v => gb4Elem v (bm * sv.1) (be + sv.2)))
      | .inf _ => (0, allElems vs flagNV)
      | .nan _ => (0, allElems vs flagNV)
  | .inf _ => (0, allElems vs flagNV)
  | .nan _ => (0, allElems vs flagNV)

/-- QGB.BANDS: a band scale as BF16 (R152). -/
def qgbBand (a : FVal) : Nat × Flags :=
  match a with
  | .nan _ => (0x7FC0, flagNV)
  | .inf _ => (0x7FC0, flagNV)
  | .fin _ m e =>
    if m = 0 then (0, 0)
    else (encodeVal specBF16 (.fin false 1 (max ((Nat.log2 m : Int) + e - 6) (-126))), 0)

/-- The exact product a GB4 element stands for (R105); NaN under a NaN or infinite band scale, signalling where the scale is (R90;
DESIGN CHOICE, log 112). -/
def gb4Value (band : Nat) (scale elem : Nat) : FVal :=
  match decodeF specBF16 band, decodeF specE2M1 elem with
  | .fin s bm be, .fin t m e =>
    let sv := e3m5Value scale
    .fin (s ^^ t) (bm * sv.1 * m) (be + sv.2 + e)
  | .nan s, _ => .nan s
  | _, _ => .nan false

end Sys2Proof.Machine
end

