-- ==== Sys2Proof/Config.lean ====
section
/-! DEFINITION. What the device fixes for itself and what the manual leaves open: free values are opaque, so nothing can be proved of their value. -/

namespace Sys2Proof

/-- The bits a special function would return for an operand (R137): function code, format code, operand. The model uses them
only where they lie inside the bound of R137 (DEDUCED, log 7). -/
opaque Config.specialBits : Nat → Nat → Nat → Nat

/-- The bound IVEXP and IVLOG would return (R161): function code, format code, 0 for the lower and 1 for the upper bound, operand
bound. Used only where it encloses within 2 units in the last place (DEDUCED, log 7). -/
opaque Config.intervalBits : Nat → Nat → Nat → Nat → Nat

/-- The path MTU of a queue pair: which of the three of R456 (DESIGN CHOICE, log 6). -/
opaque Config.pathMtu : Nat → Nat

/-- Nanoseconds and cycles that a step takes on WALL and CLOCK, by the counter of free values (DESIGN CHOICE, log 6). -/
opaque Config.wallStep : Nat → Nat
opaque Config.clockStep : Nat → Nat

/-- The engine that serves a command, by the command's identity: a runner's place on its die, or the number of an engine of another kind
(R298, R474; DESIGN CHOICE, log 6). -/
opaque Config.engineUnit : Nat → Nat

/-- The bytes that a halt's save puts into a partition's core-state areas, by the counter of free values: offset in the context area, byte
(R483 gives no layout; DEDUCED, log 54). -/
opaque Config.coreState : Nat → List (Nat × Byte)

/-- What a destroyed partition's units hold where the last writes were in the L2 alone and are discarded, by the counter of free values:
physical address, byte as it was read there before those writes (R434 does not say which lines were written back; DEDUCED, log 42). -/
opaque Config.staleCells : Nat → List (Nat × Byte)

/-- A word of the version-spill area read under another key than it was written under: data unrelated to it (R445; free value, DESIGN CHOICE, log 39): the
counter, the word. -/
opaque Config.spillWord : Nat → Nat → BitVec 32

/-- An image's signature checks under the root key or an operator key that the root key certifies (R459): bytes 0 to 415 of its header, its
sections in their order, the 96 bytes of signature; the keys are not in the manual (DESIGN CHOICE, log 3). -/
opaque Config.imageVerifies : List Byte → List (List Byte) → List Byte → Bool
/-- What an image that verifies gives (R434, R459): the words of partition 0's descriptor by its sections of reserved units and of the manager
program, the cells that its manager program loads, the SKU word of its SKU section (DESIGN CHOICE, log 3). -/
opaque Config.imageDesc : List Byte → List Byte → List Word
opaque Config.imageCells : List Byte → List (Nat × Byte)
opaque Config.imageSku : List Byte → Word
/-- A management reset's signature over a nonce is good under the reset key of a keys section, or under the root key where no image verified,
by the key named (R463; DESIGN CHOICE, log 3). -/
opaque Config.resetSigned : Option (List Byte) → DWord → Nat → List Byte → Bool
/-- Nonces and the 64 bytes of unit detail of a report, and the failure code of a boot without a good image, by the counter of free
values (R461, R463; DESIGN CHOICE, log 3). -/
opaque Config.nonce : Nat → DWord
opaque Config.unitDetail : Nat → List Byte
opaque Config.bootCode : Nat → BitVec 16

end Sys2Proof
end

