-- ==== Sys2Proof/Machine/State.lean ====
section
/-! DEFINITION. The state of the device: everything the manual gives the machine, as plain data, and the state after reset.
Records are grouped as the manual groups them: what a warp's registers hold, its open chunk, tasks, launches, partitions, the
ordering machinery, translation, the matrix engines, the asynchronous engines, the network and the device's own registers. -/

namespace Sys2Proof.Machine

/-- A store of w-bit values by key, keys strictly rising, no zero listed: an unlisted key holds 0. -/
abbrev Sparse (w : Nat) := List (Nat × BitVec w)

/-- Physical memory: (address, byte) cells, addresses strictly rising, no zero byte listed; an unlisted byte reads 0, or what a change of keys
makes of 0, and a listed one is the difference from that (DESIGN CHOICE, log 2; DESIGN CHOICE, log 39). -/
abbrev Memory := List Host.Cell

/-- A vector clock of the happens-before relation (R263): thread number and count. -/
abbrev Clock := List (Nat × Nat)

/-- An element of a queue with the clock that its push released (R414). -/
abbrev QItem := Word × Clock

/-- What a queue holds: an element, and the warp whose open chunk has popped it, if one has (R227). -/
structure Held (α : Type) where
  item : α
  chunk : Option Nat
  deriving DecidableEq, Repr

/-! ### Places -/

/-- The storage a word lies in (R225, R265); carve is a task's carve map (R192, R193). -/
inductive Space where
  | mem | scratch | tile | carve
  deriving DecidableEq, Repr

/-- A byte: its storage, the owning task (0 for memory), its byte address. A word is named by its first byte. -/
structure Place where
  space : Space
  owner : Nat
  addr : Nat
  deriving DecidableEq, Repr

/-! ### Traps -/

/-- The causes of R467, in the order of their codes from 1. -/
inductive Cause where
  | illegalOpcode | reservedField | regBounds | lineTarget | lineParity | priv | misaligned | scratchBounds | tileBounds
  | realmFault | xlateMiss | xlateProt | sealedWrite | rangeLock | argRange | matrixShape | groupAbsent | launchInvalid
  | spawnBind | queueBind | shootLimit | versionSpill | kvFormat | kvStale | crOverflow | fpTrap | emptyInterval
  | intervalOrder | race | detAtomic | detQueue | waitProgress | queueProgress | collTimeout | linkDown | mboxFault
  | poison | eccFatal | machineCheck | bridgeFault | ctxShape | timer | breakpoint | step | userTrap | handlerFault
  | partHalt
  deriving DecidableEq, Repr

/-- What is raised: the cause and what its record holds besides the warp's own identity (R468). lanes, fpc: none is the faulting
fragment's mask and PC. demand: an XLATE_MISS is resolvable (R440); halts: a cause of R266's table that it makes halting, whatever its class
elsewhere (DEDUCED, log 92). -/
structure TrapReq where
  cause : Cause
  demand : Bool
  sub : Nat
  lanes : Option LaneMask
  fpc : Option DWord
  ppc : Option DWord
  addr : DWord
  realm : Nat
  d17 : Word
  d18 : Word
  d19 : Word
  eng : Bool
  halts : Bool
  deriving DecidableEq, Repr

/-! ### Registers of a warp -/

/-- A write of one register in one lane, of a uniform register, of a predicate lane or of a matrix mask. -/
inductive RegWrite where
  | v (reg lane : Nat) (val : Word) (poison : Bool)
  | u (reg : Nat) (val : Word) (poison : Bool)
  | p (pred lane : Nat) (val : BitVec 2)
  | m (idx : Nat) (val : DWord)
  deriving DecidableEq, Repr

/-- What a pending tag still waits for (R61, R239, R281, R291, R310, R424, R336). -/
inductive Await where
  | unit
  | peer
  | commit
  | job (id : Nat)
  | kv
  /-- A translation that completes late, and has failed (R266). -/
  | late
  deriving DecidableEq, Repr

/-- One pending tag: its producer, what it holds, what it raises when consumed (R61 to R66, R95, R96, R159, R173).
own is the number of the chunk-ending instruction's chunk where its result returns after the commit (R233). -/
structure TagEntry where
  tag : Nat
  seq : Nat
  pc : DWord
  mask : LaneMask
  returned : Bool
  awaits : Await
  writes : List RegWrite
  flags : Flags
  raises : Option TrapReq
  own : Bool
  /-- What a returned datum is put into: destination register, uniform or not, words per lane, the lanes that wait for a
  peer, SZ code. -/
  dst : Nat
  duni : Bool
  width : Nat
  lanes : List Nat
  /-- The stations those lanes wait for; 1024 where the peer is reached over Ethernet. -/
  stations : List Nat
  ext : Nat
  /-- Tile bytes that a peer's data goes to: lane and offset (R200); of a waiting KVLD, token and counter of its repair (R336). -/
  tiles : List (Nat × Nat)
  /-- A waiting KVLD's operands: format, realm selector, predicate, selector words (R336). -/
  kv : List Word
  /-- WALL when its requests to peers left (R454). -/
  since : Nat
  deriving DecidableEq, Repr

/-- A barrier's name (R416): a group of a launch, or a task. -/
inductive BarId where
  | group (launch g : Nat)
  | task (task : Nat)
  deriving DecidableEq, Repr

/-- How a fragment is parked (R396, R408, R417, R418, R421). -/
inductive Park where
  | run
  | join
  | bar (b : BarId) (gen : Nat) (arrived : Bool)
  | barq (b : BarId) (tag : Nat)
  | barWait (b : BarId) (gen : Nat)
  | cbWait (cb : Nat) (gen : Nat)
  /-- first: the answer of a peer to the read at the position has not come; asked: WALL when the peer was last asked (R454). -/
  | counter (rsel : Nat) (offset : DWord) (target : DWord) (cont : Option DWord) (first : Bool) (asked : Nat)
  | sleep (wake : Nat)
  deriving DecidableEq, Repr

/-- What an attempt to issue waited for: the queue of a port, or room in a table or a reservation (R392, R485). -/
inductive Ask where
  | queue (port : Nat)
  | table
  deriving DecidableEq, Repr

/-- A fragment entry of the split table (R393), with the waits of R522. -/
structure Frag where
  id : Nat
  mask : LaneMask
  pc : DWord
  pid : Nat
  part : BitVec 3
  last : Nat
  held : Bool
  park : Park
  since : Nat
  yields : Bool
  /-- What its last attempt to issue waited for; none for another wait (R392, R485); the model's own. -/
  ask : Option Ask
  clock : Clock
  deriving DecidableEq, Repr

/-- A split record (R393). -/
structure SplitRec where
  id : Nat
  lanes : LaneMask
  outer : Nat
  deriving DecidableEq, Repr

/-- A write of a uniform register, or a push or pop of a queue register, by a fragment that has siblings (R399): the register, the lanes
of the fragment or of the fragments it has fused with since, its PC, and the records not yet freed that it descended from. -/
structure SibUse where
  reg : Nat
  lanes : LaneMask
  pc : DWord
  recs : List Nat
  deriving DecidableEq, Repr

/-- The warp state a squash or discard restores: the registers of R20 and all that R225 copies at chunk start. Keys: vector register
32 * r + lane, predicate 32 * p + lane. -/
structure Regs where
  v : Sparse 32
  u : Sparse 32
  p : Sparse 2
  mm : List DWord
  realm : List (BitVec 16)
  fpstat : Word
  fpctl : Word
  role : Word
  stream : Sparse 64
  draw : Sparse 32
  biscnt : Sparse 32
  spcnt : Word
  qbind : List Word
  frags : List Frag
  splits : List SplitRec
  tags : List TagEntry
  poisonV : List Nat
  poisonU : List Nat
  sib : List SibUse
  deriving DecidableEq, Repr

/-! ### Chunks -/

/-- The queue a queue register is bound to (R413). -/
inductive QueueId where
  | core (core n : Nat)
  | cluster (cluster n : Nat)
  | ring (part n : Nat)
  deriving DecidableEq, Repr

/-- A spawn record (R168, R422). -/
structure SpawnRec where
  launch : Nat
  entryOff : Int
  warps : Nat
  mask : LaneMask
  taskid : Word
  spawnix : Word
  uregs : Sparse 32
  s0 : Option Word
  vregs : Sparse 32
  path : Path
  warp : Nat
  clock : Clock
  deriving DecidableEq, Repr

/-- Where an atomic at scope codes 6 to 8 is performed (R281): a physical word here, or a peer's. -/
inductive AtomTarget where
  | home (addr : Nat)
  | peer (station aper : Nat) (offset : Nat)
  | ether (pod station window : Nat) (offset : Nat)
  deriving DecidableEq, Repr

/-- An atomic to perform at its home with the chunk's writes (R233, R281). -/
structure HomeAtomic where
  target : AtomTarget
  op : Option AtomOp
  w64 : Bool
  operand : DWord
  compare : DWord
  denorm : Bool
  lane : Nat
  dst : Option (Nat × Bool)
  tag : Nat
  deriving DecidableEq, Repr

/-- A contribution to a commutative range (R242, R286). -/
structure Contribution where
  range : Nat
  elem : Nat
  value : DWord
  deriving DecidableEq, Repr

/-- A store to a peer, sent after the commit (R239, R259): its bytes with their poison (R268). -/
structure PeerStore where
  station : Nat
  aper : Nat
  offset : Nat
  bytes : List (Byte × Bool)
  pc : DWord
  deriving DecidableEq, Repr

/-- The kind of an access, for the race rule (R264). -/
inductive AccKind where
  | plain
  | red (op : AtomOp) (w64 : Bool)
  | contribution
  | wave (task : Nat)
  | mask
  deriving DecidableEq, Repr

/-- A warp as the program knows it, whichever of its starts runs it: launch, task, warp of the task (R137, R264, R386; DEDUCED, log 102). -/
structure WarpKey where
  launch : Nat
  taskid : Word
  spawnix : Word
  warpid : Nat
  deriving DecidableEq, Repr

/-- One access kept for the race rule (R263 to R265). -/
structure Access where
  tree : Nat
  warp : Nat
  key : WarpKey
  thread : Nat
  stamp : Nat
  place : Place
  path : Path
  write : Bool
  kind : AccKind
  pc : DWord
  clock : Clock
  deriving DecidableEq, Repr

/-- What a chunk does once it has its position (R233, R290, R406, R408, R417, R418, R421, R491). -/
inductive Deferred where
  | exit (frag : Nat) (lanes : LaneMask)
  | bar (frag : Nat) (b : BarId)
  | barqArrive (frag : Nat) (b : BarId) (tag d : Nat)
  | barqWait (frag : Nat) (b : BarId) (gen : Nat)
  | barcInit (cb e roles : Nat)
  | barcArrive (cb n : Nat) (clk : Clock)
  | barcWait (frag cb gen : Nat)
  | barcGen (cb tag d : Nat)
  | cwait (frag rsel : Nat) (offset target : DWord) (cont : Option DWord)
  | sleep (frag ns : Nat)
  | fence (code : Nat)
  | cntinc (target : AtomTarget) (amount : DWord) (code : Nat) (clk : Clock)
  | crdecl (range : Nat)
  | crrel (range : Nat)
  | seal (pages : List Nat) (edition : Word)
  | unseal (pages : List Nat)
  | launch (uid : Nat)
  | shoot (uid tag d : Nat)
  | resolve (child : Path) (accepted : Nat) (tag d : Nat)
  | job (id : Nat)
  | entry (id : Nat)
  | copy (id : Nat)
  | windowKick (task word : Nat)
  | windowDrop (task word : Nat)
  /-- A page instruction's entry changes: the realm, and the pages whose translation they change (R338, R352). -/
  | kvChange (realm : Nat) (pages : List Nat)
  | trap (imm : Word)
  | brk (imm : Word)
  | resume (mode : ResumeMode) (idx : Nat)
  | tlbinv (part : Nat) (realm : Option Nat) (lo hi : Nat)
  | cinv (lo hi code : Nat)
  | swrite (num : Nat) (value : DWord)
  | pwrhint (cls : Nat)
  deriving DecidableEq, Repr

/-- Why an ended chunk has not gone on yet. -/
inductive ChunkPhase where
  | open_
  | ended
  deriving DecidableEq, Repr

/-- A warp's open chunk (R225 to R233). bytes: buffered stores, the latest first. reads and writes name words. -/
structure Chunk where
  start : Option Regs
  rpc : DWord
  lastPc : DWord
  lastFrag : Nat
  count : Nat
  reads : List Place
  writes : List Place
  /-- Words of which it has read a committed version (R255, R258). -/
  seen : List Place
  undo : List Nat
  bytes : List (Place × Byte)
  poisoned : List Place
  atoms : List HomeAtomic
  contribs : List Contribution
  pushes : List (QueueId × QItem)
  pops : List (QueueId × QItem)
  spawns : List SpawnRec
  peer : List PeerStore
  after : List Deferred
  accesses : List Access
  /-- Flags of REDs at scope codes 0 to 5, ORed at the commit, and of contributions at codes 6 to 8, for the next drain point (R284). -/
  flags : Flags
  lateFlags : Flags
  /-- Translations the chunk holds: realm and 64 KiB page (R443). -/
  pages : List (Nat × Nat)
  phase : ChunkPhase
  deriving DecidableEq, Repr

/-- Why a warp issues nothing although its fragments could (R68, R230, R238, R292, R371, R443, R352). -/
inductive Hold where
  | commit (pos : Nat)
  | inval (id : Nat)
  | entryChange (id : Nat)
  | peerAcks
  | mailboxAcks
  | lineWrites
  | switch
  | spawnRoom
  deriving DecidableEq, Repr

/-- A fixed-latency result not landed yet (R60, R95). -/
structure Landing where
  at_ : Nat
  vregs : List Nat
  uregs : List Nat
  preds : List Nat
  flags : Flags
  deriving DecidableEq, Repr

/-- Whether a warp runs, waits for its trap to be recorded, is parked on a record, or is saved (R466, R469, R473, R387). -/
inductive WarpMode where
  | run
  | trapping (words : List Word)
  | parked (idx : Nat)
  | lost
  | halted
  | saved
  deriving DecidableEq, Repr

/-- One warp. -/
structure Warp where
  id : Nat
  task : Nat
  warpid : Nat
  place : Nat
  quadrant : Nat
  core : Nat
  part : Nat
  level : Nat
  hnd : Bool
  launch : Nat
  taskid : Word
  spawnix : Word
  path : Path
  detctl : Word
  crealm : BitVec 16
  regs8 : Nat
  uni8 : Nat
  regs : Regs
  chunk : Chunk
  /-- The PC of the instruction that ended its last chunk (R465). -/
  endPc : Option DWord
  inflight : List Landing
  holds : List Hold
  mode : WarpMode
  /-- Faults of engines and passes to raise at the next drain point (R210, R297). -/
  pending : List TrapReq
  /-- Flags of REDs, and of passes, to deliver at the next drain point, with their instruction's PC (R210, R284). -/
  drainFlags : List (Flags × DWord)
  passFlags : List (Flags × DWord)
  clock : DWord
  timer : DWord
  /-- Consecutive squashes at one PC, and commit priority (R235). -/
  squashes : Nat
  squashPc : DWord
  prio : Bool
  firstSquash : Nat
  stepping : Bool
  eclass : Nat
  /-- The class that its cluster's budget period counts (R497). -/
  ecounted : Nat
  stallUntil : Nat
  nextSeq : Nat
  nextFrag : Nat
  /-- Context slot bookkeeping (R479): CLEAN slot, as an offset in the context area, and dirty banks. -/
  clean : Option Nat
  dirty : List Nat
  /-- Value-returning task-scope atomics since the last task barrier (R240). -/
  wave : Nat
  waveDone : Nat
  /-- A wave atomic that waits for its turn: fragment and instruction (R240). -/
  waveAsk : Option (Nat × Instr)
  /-- Tile-store bytes written under a tag and interlocks (R199): first byte, end, tag. -/
  tileBusy : List (Nat × Nat × Nat)
  deriving DecidableEq, Repr

/-! ### Tasks and launches -/

/-- The counter a launch or command advances (R251, R383): none, a word here, or a peer's. -/
inductive CounterRef where
  | none
  | local (addr : Nat)
  | peer (station aper offset : Nat)
  | ether (pod station window offset : Nat)
  deriving DecidableEq, Repr

/-- A runner window (R299 to R307). state: 0 free, 1 bound, 2 copying, 3 landed. -/
structure Window where
  word : Nat
  state : Nat
  len : Nat
  desc : List Word
  /-- Its current copy's command, and its first copy's, which a follow-on pass names (R304). -/
  job : Nat
  first : Nat
  counter : CounterRef
  /-- Realm numbers of the binder's realm0 to realm3 when it bound the window. -/
  realms : List (BitVec 16)
  landed : Nat
  fault : Bool
  binder : Nat
  pc : DWord
  path : Path
  deriving DecidableEq, Repr

/-- A counted barrier (R418). clock: what its releases so far follow; next: the arrivals towards the next release (R419). -/
structure CBar where
  e : Nat
  roles : Nat
  count : Nat
  gen : Nat
  clock : Clock
  next : Clock
  deriving DecidableEq, Repr

/-- A barrier's generation and arrivals (R416), with clocks as in CBar. -/
structure Barrier where
  group : Option Nat
  gen : Nat
  arrived : List Nat
  clock : Clock
  next : Clock
  deriving DecidableEq, Repr

/-- A resident task (R26, R364, R387). -/
structure Task where
  id : Nat
  launch : Nat
  handler : Option Nat
  part : Nat
  index : Word
  spawnix : Word
  spawned : Bool
  /-- The record of a spawned task (R373, R386). -/
  record : Option SpawnRec
  warps : Nat
  core : Nat
  path : Path
  scrk : Nat
  tilek : Nat
  scratch : Sparse 8
  tile : Sparse 8
  /-- The carve map: bit g of its bytes for granule g (R192). -/
  carve : Sparse 8
  windows : List Window
  cbars : List CBar
  barrier : Barrier
  exited : List Nat
  waveClock : Clock
  /-- Pre-emption (R386, R387): 0 running, 1 in its save handler, 2 in its reload handler, 3 its warps are to stop, 4 its warps are gone and it restarts. Since when, on WALL. -/
  phase : Nat
  phaseAt : Nat
  deriving DecidableEq, Repr

/-- A group of a launch (R361): span code and inclusive task ranges. -/
structure Group where
  span : Nat
  ranges : List (Nat × Nat)
  deriving DecidableEq, Repr

/-- Where a launch stands (R355, R358, R383). -/
inductive LaunchPhase where
  | issued
  | lists
  | waiting
  | ready
  deriving DecidableEq, Repr

/-- A dependence (R359): counter place and target. -/
structure Dependence where
  addr : Nat
  target : DWord
  deriving DecidableEq, Repr

/-- A pre-empted stateful task's saved warps (R387, R388): task index and pool slots. -/
structure Saved where
  index : Nat
  record : Option SpawnRec
  /-- Warps by WARPID: identity, and pool slot while it is held. -/
  ids : List Nat
  slots : List (Option Nat)
  /-- Wave atomics of each warp since the last task barrier, by WARPID (R240). -/
  waves : List Nat
  clock : Clock
  barrier : Barrier
  cbars : List CBar
  deriving DecidableEq, Repr

/-- Whose a command or launch is, as a trap record names it after its warp has exited (R297, R468). -/
structure Ident where
  part : Nat
  core : Nat
  place : Nat
  launch : Nat
  warpid : Nat
  level : Nat
  taskid : Word
  spawnix : Word
  path : Path
  hnd : Bool
  deriving DecidableEq, Repr

/-- A launch record in use (R354 to R367, R383). -/
structure Launch where
  num : Nat
  /-- Its identity among all launches the device has had (R201). -/
  uid : Nat
  part : Nat
  phase : LaunchPhase
  control : Bool
  desc : List Word
  descOff : DWord
  /-- The realm through which its descriptor was read. -/
  realm : Nat
  args : List Word
  groups : List Group
  lists : List (Nat × Nat × Nat)
  deps : List Dependence
  counter : CounterRef
  scope : Nat
  prio : Nat
  det : Bool
  inherit : Bool
  tree : Nat
  path : Path
  grid : Option Word
  issuer : Nat
  issuerTask : Nat
  who : Ident
  issuerPc : DWord
  readyAt : Nat
  order : Nat
  started : List Nat
  /-- Tasks that had started when the assignment was last drawn anew (R385). -/
  drawn : List Nat
  saved : List Saved
  barriers : List Barrier
  prec : Option Nat
  precStarted : Bool
  /-- Its components that wait for room, by their lowest tasks: their cores are held until they start (R366). -/
  waiting : List Nat
  /-- Writes of its record that a chunk with commit priority holds, oldest first: offset, words (R235, R367). -/
  precOwed : List (Nat × List Word)
  redraws : Nat
  clock : Clock
  endClock : Clock
  locks : List Nat
  deriving DecidableEq, Repr

/-! ### Partitions -/

/-- The four states of R434. -/
inductive PartState where
  | absent | created | running | stopped
  deriving DecidableEq, Repr

/-- A trap record slot (R469). -/
structure RecSlot where
  idx : Nat
  warp : Nat
  released : Bool
  /-- Handler task: 0 not started, 1 running, 2 ended. -/
  handler : Nat
  slot : DWord
  hnd : Bool
  level : Nat
  /-- Of an XLATE_MISS: the realm and the offset that missed, and the warp's shoot (R332). -/
  miss : Option (Nat × DWord × Path)
  /-- The task that .KILL ends (R494); 0 for none. -/
  task : Nat
  deriving DecidableEq, Repr

/-- A record that waits to be written and names no resident warp: its words, its task and its launch's uid, 0 for none (R297, R346, R494). -/
structure Bare where
  words : List Word
  task : Nat
  launch : Nat
  deriving DecidableEq, Repr

/-- A live or retiring shoot (R375 to R379). -/
structure Shoot where
  path : Path
  live : Bool
  tainted : Bool
  peers : List Nat
  /-- Words its committed chunks read, each with the path of the version seen (R258). -/
  reads : List (Nat × Path)
  deriving DecidableEq, Repr

/-- A speculative stream's average in 8.8 fixed point, with its last use (R380). -/
structure StreamAvg where
  tag : Nat
  avg : Int
  used : Nat
  deriving DecidableEq, Repr

/-- A held or queued notice to the manager (R475). -/
structure Notice where
  part : Nat
  addr : DWord
  deriving DecidableEq, Repr

/-- A partition (R430 to R435) and its system registers (R429). -/
structure Part where
  num : Nat
  state : PartState
  desc : List Word
  /-- Where its descriptor lay when it was created (R435). -/
  descAddr : Nat
  collto : Word
  kvpool : Word
  repthr : Word
  spawncap : Word
  vacate : Word
  /-- Vacated cores, each with the launch that it is closed to (R384). -/
  vacated : List (Nat × Nat)
  vspill : DWord
  wdog : Word
  trapctl : Word
  trapbase : DWord
  hvec : DWord
  ctxbase : DWord
  ctxctl : Word
  /-- The trap and context areas as the last write of VALID translated them (R476): their offsets in DREALM, and their pieces:
  bytes before, bytes, physical address. -/
  trapOff : DWord
  ctxOff : DWord
  trapArea : List (Nat × Nat × Nat)
  ctxArea : List (Nat × Nat × Nat)
  /-- What the core-state areas held when a halt had written them: the cells that its CRC covers (R483, DEDUCED, log 54). -/
  cores : List (Nat × Byte)
  dbgctl : Word
  eccnt : Word
  enckey : List Word
  haltRec : List Word
  haltTaken : Bool
  haltLine : Bool
  records : List RecSlot
  /-- Traps raised and not yet written, in order (R469): the warp, or 0 for the next of the records that name no resident warp. -/
  trapQueue : List Nat
  notices : List Notice
  /-- Records that wait to be written and name no resident warp (R297, R468, R473). -/
  bare : List Bare
  shoots : List Shoot
  streams : List StreamAvg
  spawnArea : List SpawnRec
  pool : List Nat
  deriving DecidableEq, Repr

/-! ### Ordering -/

/-- The words one tag wrote in one line (R253 to R255, R453). words: word index, value, order. -/
structure Version where
  part : Nat
  station : Option Nat
  tag : Path
  line : Nat
  words : List (Nat × Word × Nat)
  spilled : Bool
  used : Nat
  deriving DecidableEq, Repr

/-- An entry of the remap table (R254, R256, R453). since: WALL when a commit message made it, 0 where RESOLVE did. -/
structure Remap where
  part : Nat
  station : Option Nat
  path : Path
  parent : Path
  since : Nat
  deriving DecidableEq, Repr

/-- What follows a commit's completion (R233, R281, R424, R425, R465). -/
inductive AfterCommit where
  | tag (tag : Nat) (writes : List RegWrite) (flags : Flags)
  | peerStore (p : PeerStore)
  | peerAtomic (a : HomeAtomic)
  | count (target : AtomTarget) (amount : DWord) (clk : Clock) (wait : Bool)
  | trap (frag : Nat) (t : TrapReq)
  | cwb (job : Nat)
  deriving DecidableEq, Repr

/-- A commit that holds a position and is not complete (R230, R231). -/
structure Commit where
  pos : Nat
  warp : Nat
  part : Nat
  /-- The launch's uid. -/
  launch : Nat
  task : Nat
  who : Ident
  pc : DWord
  words : List Place
  pushes : List (QueueId × QItem)
  after : List AfterCommit
  /-- What the words of memory were before it, by number (R515; DESIGN CHOICE, log 104). -/
  before : List (Nat × Word)
  deriving DecidableEq, Repr

/-- A range lock (R247 to R249). holder: the engine job, or 2^20 plus the matrix entry; range: which of the command's ranges. -/
structure Lock where
  id : Nat
  part : Nat
  space : Space
  owner : Nat
  lo : Nat
  hi : Nat
  dest : Bool
  holder : Nat
  range : Nat
  warp : Nat
  chunkOf : Option Nat
  windowOf : Option Nat
  die : Nat
  seq : Nat
  deriving DecidableEq, Repr

/-- A partial of an element (R242, R243): an exact integer in units, or an integer value, and the flags. -/
structure Partial where
  core : Nat
  w : Int
  nan : Bool
  pinf : Bool
  ninf : Bool
  allneg : Bool
  deriving DecidableEq, Repr

/-- An element of a commutative range: its physical address and its partials, the base partial as core 256. -/
structure CElem where
  addr : Nat
  partials : List Partial
  deriving DecidableEq, Repr

/-- A declared commutative range (R241). -/
structure CRange where
  id : Nat
  part : Nat
  realm : Nat
  offset : DWord
  op : CrOp
  fmt : CrFmt
  q : Int
  denorm : Bool
  die : Nat
  live : Bool
  elems : List CElem
  deriving DecidableEq, Repr

/-- A page's edition (R314). -/
structure Edition where
  page : Nat
  last : Word
  sealed_ : Bool
  deriving DecidableEq, Repr

/-- The clock an increment of a counter, here or on a peer, released (R32, R263): its place, its value after, the clock. -/
structure CounterClock where
  target : AtomTarget
  value : DWord
  clock : Clock
  deriving DecidableEq, Repr

/-- An increment of CNTINC, its commit's position, performed once what its warp committed before is complete and its warp's stores to
peers are acknowledged (R251): partition, launch uid. -/
structure PendingCount where
  warp : Nat
  part : Nat
  launch : Nat
  path : Path
  target : AtomTarget
  amount : DWord
  clock : Clock
  deriving DecidableEq, Repr

/-- The ordering machinery (R225 to R265). -/
structure Ordering_ where
  pos : Nat
  commits : List Commit
  versions : List Version
  remaps : List Remap
  locks : List Lock
  ranges : List CRange
  editions : List Edition
  accesses : List Access
  counterClocks : List CounterClock
  /-- First warp that pushed to, or popped from, a queue in a launch tree (R415): tree, queue, push, warp. -/
  queueOwners : List (Nat × QueueId × Bool × WarpKey)
  /-- Increments at codes 7 and 8 that wait for acknowledgments of their warp's stores to peers (R251). -/
  counts : List PendingCount
  poison : List Place
  deriving DecidableEq, Repr

/-! ### Translation and fetch -/

/-- A translation of a page of any size, with the realm entry it was made under, in a core's TLB, in a quadrant's (R441), or, of 64 KiB of one,
held by a command (R443). page: the page's number among pages of its size; frame: its physical address in units of 64 KiB. -/
structure Xlat where
  core : Nat
  quadrant : Option Nat
  entry : List Word
  part : Nat
  realm : Nat
  page : Nat
  size : Nat
  frame : Nat
  user : Bool
  write : Bool
  exec : Bool
  deriving DecidableEq, Repr

/-- A KV page's translation in a core's KV translation cache, for a shoot (R328, R441): where its extended entry lies, and the permissions and
DEMAND of the entries above it. -/
structure KvXlat where
  core : Nat
  entry : List Word
  part : Nat
  realm : Nat
  path : Path
  page : Nat
  ea : Nat
  user : Bool
  write : Bool
  demand : Bool
  deriving DecidableEq, Repr

/-- A table entry in a die's walk cache (R441): the level it stands at, the offset bits that lead to it, its address and value. -/
structure WalkEntry where
  die : Nat
  part : Nat
  realm : Nat
  level : Nat
  index : Nat
  addr : Nat
  value : Nat
  deriving DecidableEq, Repr

/-- A fetched copy of a line (R38, R41): the core, the physical address, the partition and shoot that fetched it, and whether it has been
fetched twice. -/
structure LineCopy where
  core : Nat
  addr : Nat
  part : Nat
  path : Path
  bytes : List Byte
  refetched : Bool
  deriving DecidableEq, Repr

/-- An invalidation or an entry change under way (R443, R352). -/
structure Inval where
  id : Nat
  part : Nat
  realm : Option Nat
  lo : Nat
  hi : Nat
  warp : Option Nat
  deriving DecidableEq, Repr

structure Translation where
  cached : List Xlat
  kvs : List KvXlat
  walks : List WalkEntry
  lines : List LineCopy
  invals : List Inval
  changes : List Inval
  deriving DecidableEq, Repr

/-! ### Matrix engines -/

/-- A reservation entry (R204 to R216). -/
structure Entry where
  id : Nat
  cluster : Nat
  core : Nat
  task : Nat
  warp : Nat
  launch : Nat
  part : Nat
  pc : DWord
  seq : Nat
  af : MatFmt
  bf : MatFmt
  acc : AccMode
  aOff : Nat
  cOff : Nat
  gen : BitVec 16
  kv : Nat
  step : Word
  set : Nat
  own : Bool
  rowMask : DWord
  colMask : DWord
  denorm : Bool
  srcompat : Bool
  /-- Logical coordinates of its random words (R209). -/
  seed : DWord
  taskid : Word
  warpid : Nat
  prio : Nat
  /-- Its chunk holds position pos. -/
  committed : Bool
  pos : Nat
  granted : Bool
  /-- Cycle at which it became eligible, and WALL at issue (R212, R213). -/
  eligibleAt : Option Nat
  since : Nat
  window : Option Nat
  path : Path
  /-- Whose it is, and where the fragment that issued it stood in its program order (R263, R265). -/
  who : Ident
  thread : Nat
  stamp : Nat
  clock : Clock
  deriving DecidableEq, Repr

/-- A quarter register (R201): empty is no entry. -/
structure Quarter where
  core : Nat
  set : Nat
  fmt : MatFmt
  gen : BitVec 16
  launch : Nat
  bytes : List Byte
  /-- The bytes that hold poison, by their number (R215). -/
  poison : List Nat
  deriving DecidableEq, Repr

/-- An MBQ whose copy is under way (R202). -/
structure QCopy where
  id : Nat
  core : Nat
  set : Nat
  fmt : MatFmt
  gen : BitVec 16
  launch : Nat
  task : Nat
  warp : Nat
  tile : Nat
  committed : Bool
  pos : Nat
  seq : Nat
  pc : DWord
  path : Path
  /-- As in Entry. -/
  who : Ident
  thread : Nat
  stamp : Nat
  clock : Clock
  deriving DecidableEq, Repr

structure Matrix where
  entries : List Entry
  quarters : List Quarter
  copies : List QCopy
  /-- Passes completed by each core's array (R222). -/
  done : Sparse 32
  deriving DecidableEq, Repr

/-! ### Asynchronous engines -/

/-- Kinds of engine jobs (R294, R301, R311, R315, R293, R339, R349, R351, R346, R496). -/
inductive JobKind where
  | window | rcopy | cwb | kvcompact | beammap | topk | coll | repair | ckpt | placement
  deriving DecidableEq, Repr

/-- One engine command (R294). -/
structure Job where
  id : Nat
  kind : JobKind
  part : Nat
  launch : Nat
  task : Nat
  warp : Nat
  who : Ident
  core : Nat
  path : Path
  level : Nat
  pc : DWord
  /-- Its chunk has its position (R233); it has left its core. -/
  placed : Bool
  sent : Bool
  started : Bool
  done : Bool
  /-- A peer has been asked for the source of the next granule, and WALL when it was (R454). -/
  asked : Bool
  askedAt : Nat
  /-- The translations of the pages it is at work on (R443). -/
  held : List Xlat
  desc : List Word
  /-- Realm numbers of the issuing warp's realm0 to realm3. -/
  realms : List (BitVec 16)
  src : Nat
  dst : Nat
  total : Nat
  landed : Nat
  phase : Nat
  amount : DWord
  counter : CounterRef
  scope : Nat
  tag : Nat
  seq : Nat
  data : List Nat
  msgs : List CollMsg
  clock : Clock
  startedAt : Nat
  /-- Floating-point flags of its operands and steps, for the issuing warp's next drain point after it completes (R91, R92, R95). -/
  flags : Flags
  /-- The slots that a repair has selected, while it writes them (R346 step 3). -/
  picks : List Nat
  deriving DecidableEq, Repr

structure Engines where
  jobs : List Job
  deriving DecidableEq, Repr

/-! ### Network, channels, device -/

/-- What leaves the device. -/
inductive OutMsg where
  | peerRead (station aper : Nat) (path : Path) (offset bytes : Nat) (edition : Option Word)
  | peerWrite (station aper : Nat) (path : Path) (offset : Nat) (data : List (Byte × Bool))
  | peerAtomic (station aper : Nat) (path : Path) (offset : Nat) (op : PeerAtomic)
  | peerCommit (station : Nat) (path : Path)
  | peerPrune (station : Nat) (path : Path)
  | peerReply (station : Nat) (resp : PeerResp)
  | peerCount (station aper : Nat) (path : Path) (offset : Nat) (amount : DWord)
  | rdmaWrite (pod station window : Nat) (offset : Nat) (data : List Byte)
  | rdmaRead (pod station window : Nat) (offset bytes : Nat)
  | rdmaCount (pod station window : Nat) (offset : Nat) (amount : DWord)
  /-- To a member reached through a realm of KIND 2 or 3: its pod, if it has one, and station (R316). -/
  | coll (pod : Option Nat) (station : Nat) (m : CollMsg)
  | collAbort (pod : Option Nat) (station : Nat) (rank : Nat)
  | hostSend (qpn : Nat) (words : List Word)
  | hostReply (qpn : Nat) (ok : Bool) (code : Nat) (data : List Byte)
  | report (words : List Word)
  deriving DecidableEq, Repr

/-- A ring's words (R449): inbound words in order, and outbound words not acknowledged, with their SENDs' lengths, warps and launch uids. -/
structure Ring where
  part : Nat
  num : Nat
  inbound : List (Held Word)
  consumer : Nat
  outbound : List Word
  /-- Words pushed since the ring's first (DEDUCED, log 17). -/
  pushed : Nat
  sends : List (Nat × Nat × Nat)
  deriving DecidableEq, Repr

/-- A host message at its partition's ordering point (R262): the granules it has still to write; the pieces of memory a read asks for; the
words that an inbound ring takes once they are all visible; CNT's address and by how much it advances then. -/
structure Arrival where
  id : Nat
  part : Nat
  qpn : Nat
  granules : List (List (Place × Byte))
  reads : List (Nat × Nat)
  counter : Option Nat
  amount : Nat
  ring : Nat
  words : List Word
  deriving DecidableEq, Repr

/-- A store to a peer not acknowledged (R239): a warp's, or an engine command's (job; the warp is 0 then). -/
structure PeerPending where
  id : Nat
  job : Nat
  station : Nat
  warp : Nat
  launch : Nat
  task : Nat
  who : Ident
  pc : DWord
  /-- WALL when it left (R454). -/
  since : Nat
  deriving DecidableEq, Repr

structure Net where
  outbox : List OutMsg
  windows : List (List Word)
  mbwsel : Word
  rings : List Ring
  qpErrors : List Nat
  refused : Nat
  apertures : List (List Word)
  apsel : Word
  ualto : Word
  down : List Nat
  paused : List (Nat × Nat)
  ecn : List Nat
  peerPending : List PeerPending
  /-- Host messages that have arrived and are not yet complete, oldest first (R262). -/
  arrivals : List Arrival
  deriving DecidableEq, Repr

/-- A queue channel and its elements, oldest first (R413). -/
structure Chan where
  queue : QueueId
  items : List (Held QItem)
  deriving DecidableEq, Repr

/-- Queue channels (R413) and core spawn queues (R371). -/
structure Queues where
  chans : List Chan
  spawns : List (Nat × List SpawnRec)
  deriving DecidableEq, Repr

/-- A cluster's heat (R381, R382): budget in units (none: not measured yet) and clock step in sixteenths. -/
structure Heat where
  cluster : Nat
  budget : Option Nat
  clock : Nat
  deriving DecidableEq, Repr

/-- Memory units of a partition with ENC = 1, by the two words of its map, and its key slot (R431, R444, R446). -/
structure UnitKey where
  lo : Word
  hi : Word
  slot : List Word
  deriving DecidableEq, Repr

/-- A change of keys: those before it and those after it, partition by partition (R445; DESIGN CHOICE, log 39). -/
structure Rekey where
  before : List UnitKey
  after : List UnitKey
  deriving DecidableEq, Repr

/-- Device registers and what boot leaves (R433, R458 to R463, R484). -/
structure Device where
  wall : DWord
  bootstat : Word
  slotA : List Byte
  slotB : List Byte
  safe : Bool
  booted : Bool
  nonce : Option DWord
  /-- The image that verified at boot, and the sequence numbers of both slots as boot read them (R458, R460, R463). -/
  image : List Byte
  seqs : List Word
  partctl : Word
  pdesclo : Word
  pdeschi : Word
  heat : List Heat
  /-- The changes of keys since reset, oldest first: what an unlisted byte of memory is read as (R445; DESIGN CHOICE, log 39). -/
  rekeys : List Rekey
  deriving DecidableEq, Repr

/-! ### The model's own fields -/

/-- A turn of the agenda: an event row, or the issue of a fragment of a warp. walk: the walks of that issue start before the open commits
complete (stale), or complete after it (late) (R266, R515; DESIGN CHOICE, log 104). flash: the manager's write of a flash slot (slot B where
true) through its management path (R458; DESIGN CHOICE, log 3). -/
inductive Turn where
  | event (i : Instr)
  | issue (warp frag : Nat)
  | walk (warp frag : Nat) (stale late : Bool)
  | flash (slot : Bool) (image : List Byte)
  deriving DecidableEq, Repr

/-- The model's own fields (DESIGN CHOICE, log 1, DESIGN CHOICE, log 6): which step moves next, the counter of free values, the cycle, the next identity. -/
structure Model where
  agenda : List Turn
  /-- Fragments that were tried since something last went on, and wait (R369). -/
  tried : List (Nat × Nat)
  /-- The fragment that issued the first slot of a requested pair, and the PC of the second (R40). -/
  paired : Option (Nat × Nat × DWord)
  /-- The walks of the issue at hand started early, or complete late (R266, R515; DESIGN CHOICE, log 104). -/
  stale : Bool
  late : Bool
  free : Nat
  cycle : Nat
  nextId : Nat
  deriving DecidableEq, Repr

/-- Why the model stops. -/
inductive Fault where
  /-- Raised by exec of an encoded instruction when no fragment is issuing: the caller named no warp. Safe: step never does so. -/
  | noCurrentWarp
  deriving DecidableEq, Repr

/-- Why the model refuses. -/
inductive Refusal where
  /-- Raised by exec of an instruction that has no meaning yet. Safe. -/
  | notModelled (mnemonic : String)
  deriving DecidableEq, Repr

/-- The state of the device. cur names the fragment that is issuing: its warp and its number. -/
structure State where
  mem : Memory
  dev : Device
  parts : List Part
  launches : List Launch
  tasks : List Task
  warps : List Warp
  order : Ordering_
  xl : Translation
  mat : Matrix
  eng : Engines
  net : Net
  queues : Queues
  model : Model
  cur : Option (Nat × Nat)
  deriving DecidableEq, Repr

/-- A partition as it stands at reset (the resets of R429's registers and R434). -/
def Part.reset (n : Nat) : Part where
  num := n
  state := .absent
  desc := []
  descAddr := 0
  collto := 0x00004E20
  kvpool := 0
  repthr := 0x3DCCCCCD
  spawncap := 0x00000040
  vacate := 0
  vacated := []
  vspill := 0
  wdog := 0x000007D0
  trapctl := 0
  trapbase := 0
  hvec := 0
  ctxbase := 0
  ctxctl := 0
  trapOff := 0
  ctxOff := 0
  trapArea := []
  ctxArea := []
  cores := []
  dbgctl := 0
  eccnt := 0
  enckey := List.replicate 16 0
  haltRec := List.replicate 32 0
  haltTaken := false
  haltLine := false
  records := []
  trapQueue := []
  notices := []
  bare := []
  shoots := []
  streams := []
  spawnArea := []
  pool := []

/-- The device right after reset, before its boot phases (R460): memory with nothing listed, no partition, no warp (DESIGN CHOICE, log 3)
(DESIGN CHOICE, log 4; DESIGN CHOICE, log 5). -/
def State.reset : State where
  mem := []
  dev :=
    { wall := 0, bootstat := 0, slotA := [], slotB := [], safe := false, booted := false, nonce := none, image := [], seqs := [0, 0, 0, 0],
      partctl := 0, pdesclo := 0, pdeschi := 0, heat := [], rekeys := [] }
  parts := (List.range 8).map Part.reset
  launches := []
  tasks := []
  warps := []
  order :=
    { pos := 0, commits := [], versions := [], remaps := [], locks := [], ranges := [], editions := [], accesses := [],
      counterClocks := [], queueOwners := [], counts := [], poison := [] }
  xl := { cached := [], kvs := [], walks := [], lines := [], invals := [], changes := [] }
  mat := { entries := [], quarters := [], copies := [], done := [] }
  eng := { jobs := [] }
  net :=
    { outbox := [], windows := List.replicate 64 (List.replicate 8 0), mbwsel := 0, rings := [], qpErrors := [],
      refused := 0, apertures := List.replicate 32 (List.replicate 4 0), apsel := 0, ualto := 0x000000C8, down := [],
      paused := [], ecn := [], peerPending := [], arrivals := [] }
  queues := { chans := [], spawns := [] }
  model := { agenda := [], tried := [], paired := none, stale := false, late := false, free := 0, cycle := 0, nextId := 1 }
  cur := none

end Sys2Proof.Machine
end

