-- ==== Sys2Proof/Machine/Ops.lean ====
section
/-! DEFINITION. The named operations over the state: sparse stores, memory bytes, look-ups by identity, and the primitive updates from
which every step is composed (Upd, State.run). -/

namespace Sys2Proof.Machine

/-! ### Stores by key -/

/-- The value held under a key; 0 where none is listed (DESIGN CHOICE, log 2). -/
def cellGet {w : Nat} (m : Sparse w) (k : Nat) : BitVec w :=
  match m with
  | [] => 0
  | (j, v) :: rest => if j = k then v else cellGet rest k

/-- Put v under k before the first greater key. -/
def cellInsert {w : Nat} (m : Sparse w) (k : Nat) (v : BitVec w) : Sparse w :=
  match m with
  | [] => [(k, v)]
  | (j, x) :: rest => if k < j then (k, v) :: (j, x) :: rest else (j, x) :: cellInsert rest k v

/-- Put v under k, keeping keys rising and zeros unlisted. -/
def cellSet {w : Nat} (m : Sparse w) (k : Nat) (v : BitVec w) : Sparse w :=
  let rest := m.filter (fun c => c.1 != k)
  if v = 0 then rest else cellInsert rest k v

/-- Physical addresses at or above this exist on no part (R430). -/
def memLimit : Nat := 0xC000000000

/-- The canonical form from a lower bound on: keys strictly rising, no zero listed. -/
def cellsFrom {w : Nat} (lo : Nat) (m : Sparse w) : Bool :=
  match m with
  | [] => true
  | (j, v) :: rest => decide (lo ≤ j) && decide (v ≠ 0) && cellsFrom (j + 1) rest

/-- The canonical form of memory: cellsFrom, and every address exists (R430; DESIGN CHOICE, log 2). -/
def Memory.wf (m : Memory) : Bool := cellsFrom 0 m && m.all (fun c => decide (c.1 < memLimit))

/-- Write one byte of memory; an address that exists on no part takes nothing (DESIGN CHOICE, log 2). -/
def memPut (m : Memory) (a : Nat) (v : Byte) : Memory := if a < memLimit then cellSet m a v else m

/-- n bytes from a, lowest first. -/
def memBytes (m : Memory) (a n : Nat) : List Byte := (List.range n).map (fun i => cellGet m (a + i))

/-- The value of bytes, lowest first (R5). -/
def bytesVal (bs : List Byte) : Nat := bs.foldr (fun b acc => b.toNat + 256 * acc) 0

/-- The n low bytes of a value, lowest first (R5). -/
def valBytes (n v : Nat) : List Byte :=
  match n with
  | 0 => []
  | k + 1 => BitVec.ofNat 8 v :: valBytes k (v / 256)

/-- Bytes with their consecutive addresses. -/
def cellsAt (a : Nat) (bs : List Byte) : List Host.Cell :=
  match bs with
  | [] => []
  | b :: rest => (a, b) :: cellsAt (a + 1) rest

/-- The 32-bit little-endian word of memory at a. -/
def memWord (m : Memory) (a : Nat) : Word := BitVec.ofNat 32 (bytesVal (memBytes m a 4))

/-- The 64-bit little-endian value of memory at a. -/
def memDWord (m : Memory) (a : Nat) : DWord := BitVec.ofNat 64 (bytesVal (memBytes m a 8))

/-- n words of memory from a. -/
def memWords (m : Memory) (a n : Nat) : List Word := (List.range n).map (fun i => memWord m (a + 4 * i))

/-- The k-th word of a list of words; 0 past its end. -/
def wordAt (ws : List Word) (k : Nat) : Word := ws.getD k 0

/-- Bits lo to lo+n-1 of word k. -/
def wfield (ws : List Word) (k lo n : Nat) : Nat := ((wordAt ws k).toNat >>> lo) % 2 ^ n

/-- A pair of words, low word first (R5). -/
def pairOf (lo hi : Word) : DWord := hi ++ lo

/-- The 64-bit value of words k and k+1. -/
def wpair (ws : List Word) (k : Nat) : DWord := pairOf (wordAt ws k) (wordAt ws (k + 1))

/-- The low and the high word of a 64-bit value. -/
def lowWord (d : DWord) : Word := d.setWidth 32
def highWord (d : DWord) : Word := (d >>> 32).setWidth 32

/-! ### Lists by key -/

/-- Replace the first element that matches, or append. -/
def upsert {α : Type} (same : α → Bool) (x : α) (l : List α) : List α :=
  match l with
  | [] => [x]
  | y :: rest => if same y then x :: rest else y :: upsert same x rest

/-- Insert keeping an order given by a key. -/
def insertBy {α : Type} (key : α → Nat) (x : α) (l : List α) : List α :=
  match l with
  | [] => [x]
  | y :: rest => if key x < key y then x :: y :: rest else y :: insertBy key x rest

/-- Stable sort by a key. -/
def sortBy {α : Type} (key : α → Nat) (l : List α) : List α := l.foldl (fun acc x => insertBy key x acc) []

/-- Without repeats, the first of each kept. -/
def nub {α : Type} [DecidableEq α] (l : List α) : List α :=
  l.foldl (fun acc x => if acc.contains x then acc else acc ++ [x]) []

/-- The smallest number below n that is not listed. -/
def lowestFree (n : Nat) (used : List Nat) : Option Nat := (List.range n).find? (fun i => !used.contains i)

/-! ### Primitive updates -/

/-- One primitive update: each sets one component of the state. -/
inductive Upd where
  | bytes (cells : List Host.Cell)
  | dev (d : Device)
  | part (p : Part)
  | launch (l : Launch)
  | dropLaunch (part num : Nat)
  | task (t : Task)
  | dropTask (id : Nat)
  | warp (w : Warp)
  | dropWarp (id : Nat)
  | order (o : Ordering_)
  | xl (t : Translation)
  | mat (m : Matrix)
  | eng (e : Engines)
  | net (n : Net)
  | queues (q : Queues)
  | model (m : Model)
  | cur (c : Option (Nat × Nat))

/-- The state after one primitive update. -/
def Upd.apply (s : State) (u : Upd) : State :=
  match u with
  | .bytes cells => { s with mem := cells.foldl (fun m c => memPut m c.1 c.2) s.mem }
  | .dev d => { s with dev := d }
  | .part p => { s with parts := s.parts.map (fun q => if q.num = p.num then p else q) }
  | .launch l => { s with launches := upsert (fun k => k.part == l.part && k.num == l.num) l s.launches }
  | .dropLaunch p n => { s with launches := s.launches.filter (fun k => !(k.part == p && k.num == n)) }
  | .task t => { s with tasks := upsert (fun k => k.id == t.id) t s.tasks }
  | .dropTask id => { s with tasks := s.tasks.filter (fun k => k.id != id) }
  | .warp w => { s with warps := upsert (fun k => k.id == w.id) w s.warps }
  | .dropWarp id => { s with warps := s.warps.filter (fun k => k.id != id) }
  | .order o => { s with order := o }
  | .xl t => { s with xl := t }
  | .mat m => { s with mat := m }
  | .eng e => { s with eng := e }
  | .net n => { s with net := n }
  | .queues q => { s with queues := q }
  | .model m => { s with model := m }
  | .cur c => { s with cur := c }

/-- The state after a script of updates. -/
def State.run (s : State) (us : List Upd) : State := us.foldl Upd.apply s

/-- Scripts one after the other, each computed on the state the earlier ones leave. -/
def inOrder (fs : List (State → List Upd)) (s : State) : List Upd :=
  match fs with
  | [] => []
  | f :: rest => let us := f s; us ++ inOrder rest (s.run us)

/-- One script for each element, in order. -/
def forEach {α : Type} (l : List α) (f : α → State → List Upd) : State → List Upd := inOrder (l.map f)

/-- The script g after f. -/
def andThen (f g : State → List Upd) : State → List Upd := inOrder [f, g]

/-! ### Look-ups -/

/-- The warp with an identity. -/
def State.warp? (s : State) (id : Nat) : Option Warp := s.warps.find? (fun w => w.id == id)
/-- The task with an identity. -/
def State.task? (s : State) (id : Nat) : Option Task := s.tasks.find? (fun t => t.id == id)
/-- Launch record n of partition p. -/
def State.launch? (s : State) (p n : Nat) : Option Launch := s.launches.find? (fun l => l.part == p && l.num == n)
/-- Partition p. -/
def State.part? (s : State) (p : Nat) : Option Part := s.parts.find? (fun q => q.num == p)
/-- A fragment of a warp. -/
def Warp.frag? (w : Warp) (f : Nat) : Option Frag := w.regs.frags.find? (fun g => g.id == f)
/-- An engine job. -/
def State.job? (s : State) (id : Nat) : Option Job := s.eng.jobs.find? (fun j => j.id == id)
/-- A matrix entry. -/
def State.entry? (s : State) (id : Nat) : Option Entry := s.mat.entries.find? (fun e => e.id == id)

/-- A partition works: it runs and its halt line is down (R473). -/
def partWorks (s : State) (part : Nat) : Bool := (s.part? part).any (fun p => p.state == .running && !p.haltLine)

/-- The fragment that is issuing, with its warp. -/
def State.current (s : State) : Option (Warp × Frag) :=
  match s.cur with
  | none => none
  | some (wid, fid) =>
    match s.warp? wid with
    | none => none
    | some w =>
      match w.frag? fid with
      | none => none
      | some f => some (w, f)

/-- The launch of a warp; none for a warp of a handler task (R471). -/
def State.launchOf (s : State) (w : Warp) : Option Launch := if w.hnd then none else s.launch? w.part w.launch

/-- Replace a warp by what a function makes of it. -/
def onWarp (id : Nat) (g : Warp → Warp) (s : State) : List Upd :=
  match s.warp? id with
  | none => []
  | some w => [.warp (g w)]

/-- Replace a task. -/
def onTask (id : Nat) (g : Task → Task) (s : State) : List Upd :=
  match s.task? id with
  | none => []
  | some t => [.task (g t)]

/-- Replace a launch. -/
def onLaunch (p n : Nat) (g : Launch → Launch) (s : State) : List Upd :=
  match s.launch? p n with
  | none => []
  | some l => [.launch (g l)]

/-- Replace a partition. -/
def onPart (p : Nat) (g : Part → Part) (s : State) : List Upd :=
  match s.part? p with
  | none => []
  | some q => [.part (g q)]

/-- Replace an engine job. -/
def onJob (id : Nat) (g : Job → Job) (s : State) : List Upd :=
  [.eng { s.eng with jobs := s.eng.jobs.map (fun j => if j.id = id then g j else j) }]

/-- Change the ordering machinery. -/
def onOrder (g : Ordering_ → Ordering_) (s : State) : List Upd := [.order (g s.order)]
/-- Change the network. -/
def onNet (g : Net → Net) (s : State) : List Upd := [.net (g s.net)]
/-- Change the matrix engines. -/
def onMat (g : Matrix → Matrix) (s : State) : List Upd := [.mat (g s.mat)]
/-- Change the device's registers. -/
def onDev (g : Device → Device) (s : State) : List Upd := [.dev (g s.dev)]

/-- Put a message into the outbox. -/
def sendOut (m : OutMsg) (s : State) : List Upd := [.net { s.net with outbox := s.net.outbox ++ [m] }]

/-- A fresh identity is model.nextId; this uses n of them. -/
def useIds (n : Nat) (s : State) : List Upd := [.model { s.model with nextId := s.model.nextId + n }]

/-- Put turns at the end of the agenda. -/
def addTurns (ts : List Turn) (s : State) : List Upd := [.model { s.model with agenda := s.model.agenda ++ ts }]

/-- The die of a core (R6). -/
def dieOf (core : Nat) : Nat := core / 128

/-! ### Lanes and registers -/

/-- The lanes of a mask, ascending. -/
def lanesOf (m : LaneMask) : List Nat := (List.range 32).filter (fun l => m.getLsbD l)

/-- The mask of the lanes listed. -/
def maskOf (ls : List Nat) : LaneMask := ls.foldl (fun m l => m ||| BitVec.twoPow 32 l) 0

/-- The lowest lane of a mask; 0 for none. -/
def lowLane (m : LaneMask) : Nat := (lanesOf m).headD 0

/-- Vector register r in a lane. -/
def Regs.vreg (r : Regs) (n lane : Nat) : Word := cellGet r.v (32 * n + lane)
/-- Uniform register n. -/
def Regs.ureg (r : Regs) (n : Nat) : Word := cellGet r.u n
/-- The stored value of predicate n in a lane; p7 holds 01 (R20). -/
def Regs.pred (r : Regs) (n lane : Nat) : BitVec 2 := if n = 7 then 1 else cellGet r.p (32 * n + lane)

/-- A stored predicate value as read: 0b11 reads undecided (R20, R56). -/
def triOfBits (b : BitVec 2) : Tri :=
  match b.toNat with
  | 0 => .no
  | 1 => .yes
  | _ => .undecided

/-- The stored value of a predicate (R20). -/
def bitsOfTri (t : Tri) : BitVec 2 :=
  match t with
  | .no => 0
  | .yes => 1
  | .undecided => 2

/-- Mark or unmark a key as poisoned. -/
def markPoison (l : List Nat) (k : Nat) (p : Bool) : List Nat :=
  if p then (if l.contains k then l else k :: l) else (if l.contains k then l.filter (fun x => x != k) else l)

/-- One register write. A write of p7 is discarded (R20, R48). -/
def Regs.put (r : Regs) (x : RegWrite) : Regs :=
  match x with
  | .v n l val p => { r with v := cellSet r.v (32 * n + l) val, poisonV := markPoison r.poisonV (32 * n + l) p }
  | .u n val p => { r with u := cellSet r.u n val, poisonU := markPoison r.poisonU n p }
  | .p n l val => if n = 7 then r else { r with p := cellSet r.p (32 * n + l) val }
  | .m i val => { r with mm := r.mm.set i val }

/-- Register writes in order. -/
def Regs.putAll (r : Regs) (xs : List RegWrite) : Regs := xs.foldl Regs.put r

/-- The vector banks a write dirties (R479). -/
def RegWrite.bank (x : RegWrite) : List Nat :=
  match x with
  | .v n _ _ _ => [n / 8]
  | .u .. => []
  | .p .. => []
  | .m .. => []

/-- Dirty banks after writes (R479). -/
def dirtied (d : List Nat) (xs : List RegWrite) : List Nat :=
  xs.foldl (fun acc x => match x.bank with
    | [] => acc
    | b :: _ => if acc.contains b then acc else b :: acc) d

/-- Write registers of a warp. -/
def Warp.write (w : Warp) (xs : List RegWrite) : Warp :=
  { w with regs := w.regs.putAll xs, dirty := dirtied w.dirty xs }

/-- Change a fragment of a warp. -/
def Regs.mapFrag (r : Regs) (id : Nat) (g : Frag → Frag) : Regs :=
  { r with frags := r.frags.map (fun f => if f.id = id then g f else f) }

/-! ### Program counters -/

/-- The PC of the next slot in sequence (R43). -/
def nextPc (pc : DWord) : DWord :=
  if (pc.toNat % 8) < 5 then pc + 1 else BitVec.ofNat 64 ((pc.toNat / 64 + 1) * 64)

/-- The linear slot number of a PC (R44). -/
def linear (pc : DWord) : Nat := pc.toNat / 64 * 6 + pc.toNat % 8

/-- The PC of a linear slot number; none when out of range (R44; DEDUCED, log 78). -/
def ofLinear (t : Int) : Option DWord :=
  if 0 ≤ t ∧ t < 6 * 2 ^ 58 then some (BitVec.ofNat 64 (t.toNat / 6 * 64 + t.toNat % 6)) else none

/-- A PC that names a slot: bits 5:3 zero, bits 2:0 below 6 (R42, R45). -/
def wellPlaced (pc : DWord) : Bool := decide (pc.toNat % 64 < 6)

/-! ### Clocks (R263) -/

/-- The count of a thread in a clock. -/
def clockGet (c : Clock) (t : Nat) : Nat := ((c.find? (fun x => x.1 == t)).map (·.2)).getD 0

/-- Raise a thread's count to at least n. -/
def clockRaise (c : Clock) (t n : Nat) : Clock :=
  if clockGet c t < n then upsert (fun x => x.1 == t) (t, n) c else c

/-- The join of two clocks. -/
def clockJoin (a b : Clock) : Clock := b.foldl (fun c x => clockRaise c x.1 x.2) a

/-- A fragment's thread number. -/
def threadOf (w : Nat) (f : Nat) : Nat := w * 1048576 + f

/-! ### Chunks -/

/-- No chunk open: the next instruction starts one (R225). -/
def Chunk.fresh : Chunk where
  start := none
  rpc := 0
  lastPc := 0
  lastFrag := 0
  count := 0
  reads := []
  writes := []
  seen := []
  undo := []
  bytes := []
  poisoned := []
  atoms := []
  contribs := []
  pushes := []
  pops := []
  spawns := []
  peer := []
  after := []
  accesses := []
  flags := 0
  lateFlags := 0
  pages := []
  phase := .open_

/-- Tags allocated since the chunk started (R465, R468 CANCELLED). -/
def newTags (w : Warp) : List TagEntry :=
  match w.chunk.start with
  | none => []
  | some r => w.regs.tags.filter (fun e => !(r.tags.any (fun x => x.seq == e.seq)))

/-- The warp as it stood at its chunk start (R234, R465): registers and copied state restored, results cancelled. Tile-store
bytes stay written. -/
def Warp.rewind (w : Warp) : Warp :=
  match w.chunk.start with
  | none => { w with chunk := Chunk.fresh }
  | some r =>
    { w with
      regs := r
      chunk := Chunk.fresh
      inflight := []
      wave := w.waveDone
      waveAsk := none
      tileBusy := w.tileBusy.filter (fun b => !((newTags w).any (fun e => e.tag == b.2.2)))
      holds := w.holds.filter (fun h => h != .switch) }

/-- The oldest element of a queue that no open chunk has popped is popped by a warp's: the queue holds it until the commit (R227). -/
def takeHeld {α : Type} (wid : Nat) (l : List (Held α)) : List (Held α) :=
  match l with
  | [] => []
  | x :: rest => if x.chunk.isNone then ⟨x.item, some wid⟩ :: rest else x :: takeHeld wid rest

/-- What a warp's open chunk has popped can be popped again, where it stood (R227). -/
def giveBack {α : Type} (wid : Nat) (l : List (Held α)) : List (Held α) := l.map (fun x => if x.chunk = some wid then ⟨x.item, none⟩ else x)

/-- What a warp's chunk has popped is freed at its commit (R227). -/
def freeHeld {α : Type} (wid : Nat) (l : List (Held α)) : List (Held α) := l.filter (fun x => x.chunk != some wid)

/-- Change what every channel holds. -/
def mapChans (g : List (Held QItem) → List (Held QItem)) (q : Queues) : Queues := { q with chans := q.chans.map (fun c => { c with items := g c.items }) }

/-- Change what every inbound ring holds. -/
def mapInbound (g : List (Held Word) → List (Held Word)) (n : Net) : Net :=
  { n with rings := n.rings.map (fun r => { r with inbound := g r.inbound }) }

/-- Whether a queue is a mailbox ring. -/
def QueueId.isRing (q : QueueId) : Bool :=
  match q with
  | .ring .. => true
  | .core .. => false
  | .cluster .. => false

/-- Drop a warp's open chunk (R234, R465): the warp rewinds, its pops return, its locks, matrix reservations, unsent commands and
launch records are released. -/
def dropChunk (wid : Nat) (s : State) : List Upd :=
  match s.warp? wid with
  | none => []
  | some w =>
    [.warp w.rewind,
     .queues (mapChans (giveBack wid) s.queues),
     .net (mapInbound (giveBack wid) s.net),
     .order { s.order with
       locks := s.order.locks.filter (fun k => k.chunkOf != some wid)
       ranges := s.order.ranges.filter (fun r => r.live || !w.chunk.after.contains (.crdecl r.id)) },
     .mat { s.mat with entries := s.mat.entries.filter (fun e => !(e.warp == wid && !e.committed))
                       copies := s.mat.copies.filter (fun c => !(c.warp == wid && !c.committed)) },
     .eng { s.eng with jobs := s.eng.jobs.filter (fun j => !(j.warp == wid && !j.placed)) }]
    ++ (s.launches.filter (fun l => l.issuer == wid && l.phase == .issued)).map (fun l => .dropLaunch l.part l.num)
    ++ onTask w.task (fun t => { t with windows := t.windows.filter (fun x => !(x.state == 0 && x.binder == wid)) }) s

/-- Write the held results of the tags chosen, in the order their producers issued, OR their flags in and free them
(R63, R66, R95). -/
def Warp.consume (w : Warp) (pick : TagEntry → Bool) : Warp :=
  let es := sortBy (·.seq) (w.regs.tags.filter pick)
  let w1 := w.write (es.flatMap (·.writes))
  { w1 with
    regs := { w1.regs with
      tags := w1.regs.tags.filter (fun e => !pick e)
      fpstat := fpstatOr w1.regs.fpstat (es.foldl (fun a e => a ||| e.flags) 0) }
    tileBusy := w1.tileBusy.filter (fun b => !(es.any (fun e => e.tag == b.2.2))) }

/-- What the tags chosen raise when consumed: the first in the order their producers issued (R96, R159; DEDUCED, log 58). -/
def Warp.consumeTrap (w : Warp) (pick : TagEntry → Bool) : Option TrapReq :=
  (sortBy (·.seq) (w.regs.tags.filter pick)).findSome? (·.raises)

/-- Change the entries of a tag, in the scoreboard and in the copy taken at the chunk start. -/
def Warp.mapTags (w : Warp) (g : TagEntry → TagEntry) : Warp :=
  { w with
    regs := { w.regs with tags := w.regs.tags.map g }
    chunk := { w.chunk with start := w.chunk.start.map (fun r => { r with tags := r.tags.map g }) } }

/-! ### Taking a trap (R464 to R468) -/

/-- The code of a cause (R467). -/
def Cause.code (c : Cause) : Nat :=
  match c with
  | .illegalOpcode => 1 | .reservedField => 2 | .regBounds => 3 | .lineTarget => 4 | .lineParity => 5 | .priv => 6
  | .misaligned => 7 | .scratchBounds => 8 | .tileBounds => 9 | .realmFault => 10 | .xlateMiss => 11 | .xlateProt => 12
  | .sealedWrite => 13 | .rangeLock => 14 | .argRange => 15 | .matrixShape => 16 | .groupAbsent => 17
  | .launchInvalid => 18 | .spawnBind => 19 | .queueBind => 20 | .shootLimit => 21 | .versionSpill => 22
  | .kvFormat => 23 | .kvStale => 24 | .crOverflow => 25 | .fpTrap => 26 | .emptyInterval => 27 | .intervalOrder => 28
  | .race => 29 | .detAtomic => 30 | .detQueue => 31 | .waitProgress => 32 | .queueProgress => 33 | .collTimeout => 34
  | .linkDown => 35 | .mboxFault => 36 | .poison => 37 | .eccFatal => 38 | .machineCheck => 39 | .bridgeFault => 40
  | .ctxShape => 41 | .timer => 42 | .breakpoint => 43 | .step => 44 | .userTrap => 45 | .handlerFault => 46
  | .partHalt => 47

/-- The resolvable causes of R467, XLATE_MISS apart. -/
def Cause.resolvable (c : Cause) : Bool :=
  [21, 22, 24, 26, 27, 28, 32, 33, 34, 35, 36, 41, 42, 43, 44, 45].contains c.code

/-- The class of a raised cause: 0 resolvable, 1 halting, 2 notice (R464, R467, R440; DEDUCED, log 92). -/
def TrapReq.cls (t : TrapReq) : Nat :=
  if t.cause = .partHalt then 2
  else if t.cause = .xlateMiss then (if t.demand then 0 else 1)
  else if t.cause.resolvable && !t.halts then 0 else 1

/-- A cause with nothing further in its record (DEDUCED, log 29). -/
def raise (c : Cause) : TrapReq where
  cause := c
  demand := false
  halts := false
  sub := 0
  lanes := none
  fpc := none
  ppc := none
  addr := 0
  realm := 0
  d17 := 0
  d18 := 0
  d19 := 0
  eng := false

/-- A cause with an address. -/
def raiseAt (c : Cause) (addr : DWord) : TrapReq := { raise c with addr := addr }
/-- A cause with DETAIL. -/
def raiseD (c : Cause) (d : Word) : TrapReq := { raise c with d17 := d }
/-- ARG_RANGE of a descriptor word: word index and the field's low bit (R467). -/
def argRange (word low : Nat) : TrapReq := { raise .argRange with d17 := BitVec.ofNat 32 word, d18 := BitVec.ofNat 32 low }

/-- The same with its lanes (R498; DEDUCED, log 63). -/
def TrapReq.inLanes (t : TrapReq) (ls : List Nat) : TrapReq := { t with lanes := some (maskOf ls) }

/-- CTXCTL.VALID of a warp's partition (R476). -/
def ctxValid (s : State) (p : Nat) : Bool :=
  match s.part? p with
  | none => false
  | some q => q.ctxctl.getLsbD 0

/-- The cause as it is delivered: a handler's own causes become HANDLER_FAULT (R471; DEDUCED, log 62). -/
def asDelivered (hnd : Bool) (t : TrapReq) : TrapReq :=
  if hnd then { t with cause := .handlerFault, d17 := BitVec.ofNat 32 t.cause.code } else t

/-- A mask from tag numbers: bit i-1 for ti. -/
def tagMask (ts : List Nat) : Nat := (nub ts).foldl (fun m t => m + 2 ^ (t - 1)) 0

/-- The words of a trap record, SLOT apart (R468; DEDUCED, log 69). -/
def recordWords (s : State) (w : Warp) (f : Frag) (cancelled : List Nat) (rpc : DWord) (t : TrapReq) (cls : Nat) : List Word :=
  let n (k : Nat) : Word := BitVec.ofNat 32 k
  let ppc := t.ppc.getD 0
  let fpc := t.fpc.getD f.pc
  [ n (t.cause.code * 2 ^ 26 + cls * 2 ^ 24 + (if t.ppc.isSome then 2 ^ 23 else 0) + (if t.eng then 2 ^ 22 else 0)
       + w.level * 2 ^ 20 + (if w.hnd then 2 ^ 19 else 0) + t.sub),
    n (w.path.toNat * 2 ^ 16 + w.part),
    lowWord rpc, highWord rpc, lowWord fpc, highWord fpc, lowWord ppc, highWord ppc,
    (match t.lanes with | none => f.mask | some m => m), f.mask,
    n (tagMask cancelled * 2 ^ 8 + f.pid), w.taskid,
    n ((if w.hnd then 0 else w.launch * 2 ^ 20) + w.warpid * 2 ^ 16 + w.place * 2 ^ 8 + w.core),
    w.spawnix, lowWord t.addr, highWord t.addr, n (t.realm * 2 ^ 16), t.d17, t.d18, t.d19,
    lowWord s.dev.wall, highWord s.dev.wall, 0, 0 ] ++ List.replicate 8 0

/-- Park a warp on a record that waits to be written (R466, R469) and raise the halt line where the class is halting (R473). -/
def parkTrapped (wid : Nat) (words : List Word) (cls : Nat) (s : State) : List Upd :=
  match s.warp? wid with
  | none => []
  | some w =>
    .warp { w with mode := .trapping words } ::
    onPart w.part (fun p => { p with trapQueue := p.trapQueue ++ [wid], haltLine := p.haltLine || cls == 1 }) s

/-- Who a warp is, as a record names it after it has exited (R297). -/
def Warp.ident (w : Warp) : Ident where
  part := w.part
  core := w.core
  place := w.place
  launch := w.launch
  warpid := w.warpid
  level := w.level
  taskid := w.taskid
  spawnix := w.spawnix
  path := w.path
  hnd := w.hnd

/-- The class a trap is delivered with: halting while CTXCTL.VALID is 0 (R476, R477; DEDUCED, log 62). -/
def deliveredClass (s : State) (w : Warp) (t : TrapReq) : Nat := if ctxValid s w.part then t.cls else 1

/-- TAKING A TRAP, discarding (R465): the chunk is dropped, the warp stands at its start and parks on its record. The record names
the fragment fid, and own is the tag the faulting instruction would have allocated (R472); RPC is the first slot of the discarded chunk. A
trapped warp takes no second trap (R466; DEDUCED, log 62; DEDUCED, log 76). -/
def takeTrap (wid fid : Nat) (own : List Nat) (t0 : TrapReq) (s : State) : List Upd :=
  match s.warp? wid with
  | none => []
  | some w =>
    if w.mode != .run then [] else
    match (w.frag? fid).or w.regs.frags.head? with
    | none => []
    | some f =>
      let t := asDelivered w.hnd t0
      let cls := deliveredClass s w t
      let rpc := if w.chunk.start.isSome then w.chunk.rpc else f.pc
      let words := recordWords s w f ((newTags w).map (·.tag) ++ own) rpc t cls
      andThen (dropChunk wid) (parkTrapped wid words cls) s

/-- Taking a trap, committing (R465): the chunk stands; RPC is the next slot, FPC the instruction that ended the chunk (DEDUCED, log 50). -/
def takeCommitted (wid fid : Nat) (rpc : DWord) (t0 : TrapReq) (s : State) : List Upd :=
  match s.warp? wid with
  | none => []
  | some w =>
    if w.mode != .run then [] else
    match (w.frag? fid).or w.regs.frags.head? with
    | none => []
    | some f =>
      let t := asDelivered w.hnd t0
      let cls := deliveredClass s w t
      andThen (dropChunk wid) (parkTrapped wid (recordWords s w f [] rpc t cls) cls) s

/-- THE RETURN from a trap (R494): the warp runs again with the registers given. -/
def leaveTrap (wid : Nat) (regs : Regs) (s : State) : List Upd :=
  onWarp wid (fun w => { w with regs := regs, chunk := Chunk.fresh, endPc := none, inflight := [], mode := .run, squashes := 0 }) s

/-- The squash of a chunk by a conflict (R234, R235): the chunk is dropped and replays. Squashed eight times in a row from one PC it
replays with commit priority, if one of the 16 priority slots is free: it then waits for every commit that holds a position. -/
def squash (wid : Nat) (s : State) : List Upd :=
  match s.warp? wid with
  | none => []
  | some w =>
    if w.chunk.start.isNone then [] else
    let again := decide (0 < w.squashes) && decide (w.squashPc = w.chunk.rpc)
    let n := if again then w.squashes + 1 else 1
    let prio := (again && w.prio) || (decide (8 ≤ n) && decide (s.warps.countP (fun v => v.prio && v.id != wid) < 16))
    andThen (dropChunk wid) (onWarp wid (fun v => { v with
      squashes := n
      squashPc := w.chunk.rpc
      firstSquash := if again then v.firstSquash else s.model.cycle
      prio := prio
      holds := if prio then v.holds ++ s.order.commits.map (fun c => Hold.commit c.pos) else v.holds })) s

/-- A freed priority slot goes to the chunk that waits longest (R235; DEDUCED, log 12). -/
def passPriority (s : State) : List Upd :=
  match (sortBy (·.firstSquash) (s.warps.filter (fun v => decide (8 ≤ v.squashes) && !v.prio))).head? with
  | none => []
  | some w => if s.warps.countP (·.prio) < 16 then
      onWarp w.id (fun v => { v with prio := true, holds := v.holds ++ s.order.commits.map (fun c => Hold.commit c.pos) }) s
    else []

end Sys2Proof.Machine
end

