-- ==== Sys2Proof/WellFormed.lean ====
section
/-! DEFINITION. Which instructions have an encoding: the checks of step 4 of R70 that a slot's bits alone decide. -/

namespace Sys2Proof

/-- Register alignment of a pair, quad or octet (R49). -/
def alignedTo (n : BitVec 8) (k : Nat) : Bool := decide (n.toNat % k = 0)

/-- A uniform register number (R48). -/
def uniReg (n : BitVec 8) (k : Nat) : Bool := decide (n.toNat < 64) && alignedTo n k

/-- A uniform destination of a tagged instruction: no queue register (R50). -/
def uniDst (n : BitVec 8) (k : Nat) : Bool := decide (n.toNat + k ≤ 56) && alignedTo n k

/-- A descriptor of eight uniform registers (R295). -/
def octReg (n : BitVec 8) : Bool := decide (n.toNat < 56) && alignedTo n 8

/-- A source register of k registers under U = u (R48, R49, R58). -/
def srcOk (u : Bool) (s : Src) (k : Nat) : Bool :=
  match s with
  | .v n => !u && alignedTo n k
  | .u n => uniReg n k

/-- A register destination of k registers of a fixed-latency instruction (R48, R49). -/
def dstF (u : Bool) (n : BitVec 8) (k : Nat) : Bool := if u then uniReg n k else alignedTo n k

/-- A register destination of k registers of a tagged instruction (R48 to R50). -/
def dstT (u : Bool) (n : BitVec 8) (k : Nat) : Bool := if u then uniDst n k else alignedTo n k

/-- Checks every slot has: G with GS = 00 (R55), ALLOC 7 (R61). -/
def ctlOk (c : Ctl) : Bool :=
  (!decide (c.gs = .always) || decide (c.g = 0)) && !decide (c.alloc = 7)

/-- ALLOC is 0 (R61, and every row that says so). -/
def noTag (c : Ctl) : Bool := ctlOk c && decide (c.alloc = 0)

/-- ALLOC is 1 to 6 (R61). -/
def needTag (c : Ctl) : Bool := ctlOk c && !decide (c.alloc = 0)

/-- GS is 00 (R400). -/
def unguarded (c : Ctl) : Bool := decide (c.gs = .always)

/-- Registers of a value of a floating-point format (R131). -/
def ffmtRegs (f : FFmt) : Nat :=
  match f with
  | .f64 => 2
  | .f32 | .f16 | .bf16 | .f16x2 | .bf16x2 | .e5m2 | .e4m3 | .e3m2 | .e2m3 | .e2m1 => 1

/-- Registers of an interval (R84). -/
def ivRegs (f : IvFmt) : Nat :=
  match f with
  | .if64 => 4
  | .if32 => 2
  | .if16 | .ibf16 => 1

/-- Registers of a point (R155). -/
def pfmtRegs (f : PFmt) : Nat :=
  match f with
  | .f64 => 2
  | .f32 | .f16 | .bf16 => 1

/-- Formats 0 to 5 of R131. -/
def arithFmt (f : FFmt) : Bool :=
  match f with
  | .f32 | .f64 | .f16 | .bf16 | .f16x2 | .bf16x2 => true
  | .e5m2 | .e4m3 | .e3m2 | .e2m3 | .e2m1 => false

/-- Formats 0 to 3 of R131. -/
def scalarFmt (f : FFmt) : Bool :=
  match f with
  | .f32 | .f64 | .f16 | .bf16 => true
  | .f16x2 | .bf16x2 | .e5m2 | .e4m3 | .e3m2 | .e2m3 | .e2m1 => false

/-- Formats 0, 2 and 3 of R131 (R132). -/
def narrowFn (f : FFmt) : Bool := scalarFmt f && !decide (f = .f64)

/-- Float formats of a conversion (R142). -/
def convFmt (f : FFmt) : Bool := !decide (f = .f16x2) && !decide (f = .bf16x2)

/-- Element width of a conversion format. -/
def ffmtWidth (f : FFmt) : Nat :=
  match f with
  | .f64 => 64
  | .f32 => 32
  | .f16 | .bf16 | .f16x2 | .bf16x2 => 16
  | .e5m2 | .e4m3 => 8
  | .e3m2 | .e2m3 => 6
  | .e2m1 => 4

/-- Element width of an integer format (R142). -/
def ifmtBits (f : IFmt) : Nat :=
  match f with
  | .s32 | .u32 => 32
  | .s16 | .u16 => 16
  | .s8 | .u8 => 8
  | .s4 | .u4 => 4

/-- The bound IDX stays below for an element width (R143). -/
def idxBound (w : Nat) : Nat :=
  if w = 16 then 2 else if w = 8 then 4 else if w = 6 then 4 else if w = 4 then 8 else 0

/-- IDX against both sides of a conversion (R143). -/
def idxOk (i : BitVec 3) (dw sw : Nat) : Bool :=
  let ok : Nat → Bool := fun w => decide (32 ≤ w) || decide (i.toNat < idxBound w)
  if 32 ≤ dw ∧ 32 ≤ sw then decide (i = 0) else ok dw && ok sw

/-- Registers that a load or store of size SZ moves (R270). -/
def szRegs (s : Sz) : Nat :=
  match s with
  | .b32 | .u8 | .s8 | .u16 | .s16 => 1
  | .b64 => 2
  | .b128 => 4
  | .b256 => 8

/-- SZ codes a store takes (R270). -/
def storeSz (s : Sz) : Bool :=
  match s with
  | .b32 | .u8 | .u16 | .b64 | .b128 => true
  | .s8 | .s16 | .b256 => false

/-- A memory operand under U = u (R54, R271). -/
def memOk (u : Bool) (r : MemRef) : Bool := srcOk u r.base 2

/-- Whether the source register is uniform. -/
def isU (s : Src) : Bool :=
  match s with
  | .u _ => true
  | .v _ => false

/-- Scope codes 0 to 6 (R291). -/
def scopeTo6 (s : Scope) : Bool := !decide (s = .fabric) && !decide (s = .system)

/-- A floating-point range takes ADD only (R285). -/
def crOpOk (op : CrOp) (f : CrFmt) : Bool :=
  match f with
  | .f32 => decide (op = .add)
  | .f64 => decide (op = .add)
  | .s32 => true
  | .s64 => true

/-- Class of a matrix element format (R194). -/
def matClass (f : MatFmt) : Nat :=
  match f with
  | .bf16 | .f16 => 0
  | .e4m3 | .e5m2 | .mxe4m3 | .mxe5m2 => 1
  | .mxfp4 | .gb4 => 2
  | .s8 | .u8 => 3

/-- Formats 0 to 3 of R194 (R197). -/
def plainMat (f : MatFmt) : Bool := decide (f = .bf16) || decide (f = .f16) || decide (f = .e4m3) || decide (f = .e5m2)

/-- The system registers of R490 and whether each is 64 bits wide. -/
def sysregWide (n : Nat) : Option Bool :=
  if n ≤ 0x008 then some false
  else if 0x010 ≤ n ∧ n ≤ 0x013 then some false
  else if 0x018 ≤ n ∧ n ≤ 0x01F then some false
  else if 0x020 ≤ n ∧ n ≤ 0x022 then some true
  else if 0x040 ≤ n ∧ n ≤ 0x045 then some false
  else if n = 0x046 then some true
  else if n = 0x050 then some false
  else if 0x051 ≤ n ∧ n ≤ 0x053 then some true
  else if 0x054 ≤ n ∧ n ≤ 0x056 then some false
  else if n = 0x080 ∨ n = 0x081 then some false
  else if 0x0C0 ≤ n ∧ n ≤ 0x0C2 then some false
  else if 0x0D0 ≤ n ∧ n ≤ 0x0DF then some false
  else if n = 0x0E0 then some false
  else if 0x0E8 ≤ n ∧ n ≤ 0x0EF then some false
  else if n = 0x0F0 then some false
  else if 0x0F4 ≤ n ∧ n ≤ 0x0F7 then some false
  else if 0x100 ≤ n ∧ n ≤ 0x11F then some false
  else none

/-- The assigned opcodes as ranges (R77). -/
def opRanges : List (Nat × Nat) :=
  [(0x001, 0x00B), (0x040, 0x04E), (0x050, 0x05E), (0x060, 0x067), (0x080, 0x081), (0x084, 0x084), (0x08A, 0x08B),
   (0x096, 0x09D), (0x100, 0x106), (0x110, 0x118), (0x120, 0x123), (0x130, 0x133), (0x138, 0x13B), (0x180, 0x19A),
   (0x1C0, 0x1C6), (0x1E0, 0x1E2), (0x200, 0x204), (0x208, 0x20D), (0x210, 0x211), (0x218, 0x218)]
  ++ [(0x280, 0x287), (0x290, 0x294), (0x2A0, 0x2A1), (0x2B0, 0x2B1), (0x340, 0x343), (0x348, 0x34A), (0x350, 0x351),
   (0x358, 0x358), (0x380, 0x386), (0x388, 0x38A), (0x390, 0x390), (0x3C0, 0x3C3), (0x3D0, 0x3D1), (0x3D8, 0x3DA),
   (0x3F0, 0x3F7)]

/-- Whether an opcode is assigned (R77, R78). -/
def opAssigned (o : Nat) : Bool := opRanges.any (fun r => decide (r.1 ≤ o) && decide (o ≤ r.2))

/-- Two-operand arithmetic of one latency with a uniform form. -/
def fixed2 (c : Ctl) (d : BitVec 8) (a b : Src) : Bool := noTag c && dstF c.u d 1 && srcOk c.u a 1 && srcOk c.u b 1

/-- One-operand arithmetic of one latency with a uniform form. -/
def fixed1 (c : Ctl) (d : BitVec 8) (a : Src) : Bool := noTag c && dstF c.u d 1 && srcOk c.u a 1

/-- An immediate form: A is a vector register with U = 0, a uniform one with U = 1 (R52). -/
def fixedI (c : Ctl) (d a : BitVec 8) : Bool := noTag c && dstF c.u d 1 && (!c.u || uniReg a 1)

/-- Floating-point arithmetic of k registers a value. -/
def fixedF2 (c : Ctl) (d : BitVec 8) (a b : Src) (k : Nat) : Bool :=
  noTag c && dstF c.u d k && srcOk c.u a k && srcOk c.u b k

/-- A tagged one-operand function of k registers a value with a uniform form. -/
def taggedF1 (c : Ctl) (d : BitVec 8) (a : Src) (k : Nat) : Bool := needTag c && dstT c.u d k && srcOk c.u a k

/-- Tag and destination of an interval instruction: fixed-latency unless IF64 or always tagged (R156). -/
def ivDst (c : Ctl) (tagged : Bool) (f : IvFmt) (d : BitVec 8) (k : Nat) : Bool :=
  if tagged || decide (f = .if64) then needTag c && dstT c.u d k else noTag c && dstF c.u d k

/-- Tag of an interval instruction that writes a predicate. -/
def ivTag (c : Ctl) (f : IvFmt) : Bool := if f = .if64 then needTag c else noTag c

/-- Whether an instruction is one a slot encodes without RESERVED_FIELD (R70, step 4). Rows that are no slot are well formed. -/
def Instr.wf (i : Instr) : Bool :=
  match i with
  | .nop c => noTag c && !c.u
  | .bra c _ => noTag c
  | .br3 c _ _ _ => noTag c
  | .brx c a => noTag c && srcOk c.u a 1
  | .call c d _ => needTag c && dstT c.u d 2
  | .ret c a => noTag c && srcOk c.u a 2
  | .join c => noTag c && !c.u && unguarded c
  | .exit c => noTag c && !c.u
  | .yield c => noTag c && !c.u && unguarded c
  | .drain c => noTag c && !c.u && unguarded c
  | .sleep c _ => noTag c && !c.u && unguarded c
  | .iadd c _ _ d a b => fixed2 c d a b
  | .isub c _ _ d a b => fixed2 c d a b
  | .iaddc c d a b _ => fixed2 c d a b && !c.u
  | .isubb c d a b _ => fixed2 c d a b && !c.u
  | .imul c d a b => fixed2 c d a b
  | .imulh c _ d a b => fixed2 c d a b
  | .imad c _ _ d a b e => fixed2 c d a b && srcOk c.u e 1
  | .imadw c _ d a b e => noTag c && dstF c.u d 2 && srcOk c.u a 1 && srcOk c.u b 1 && srcOk c.u e 2
  | .idiv c _ d a b => needTag c && dstT c.u d 1 && srcOk c.u a 1 && srcOk c.u b 1
  | .irem c _ d a b => needTag c && dstT c.u d 1 && srcOk c.u a 1 && srcOk c.u b 1
  | .imin c _ d a b => fixed2 c d a b
  | .imax c _ d a b => fixed2 c d a b
  | .iabs c _ d a => fixed1 c d a
  | .ineg c _ d a => fixed1 c d a
  | .isad c _ d a b e => fixed2 c d a b && srcOk c.u e 1
  | .iaddImm c _ _ d a _ => fixedI c d a
  | .isubImm c _ _ d a _ => fixedI c d a
  | .imulImm c d a _ => fixedI c d a
  | .iminImm c _ d a _ => fixedI c d a
  | .imaxImm c _ d a _ => fixedI c d a
  | .popc c d a => fixed1 c d a
  | .clz c d a => fixed1 c d a
  | .ctz c d a => fixed1 c d a
  | .brev c d a => fixed1 c d a
  | .bfe c _ d a b => fixed2 c d a b
  | .bfi c d a b e => fixed2 c d a b && srcOk c.u e 1
  | .and c d a b => fixed2 c d a b
  | .or c d a b => fixed2 c d a b
  | .xor c d a b => fixed2 c d a b
  | .andn c d a b => fixed2 c d a b
  | .shl c d a b => fixed2 c d a b
  | .shr c d a b => fixed2 c d a b
  | .sar c d a b => fixed2 c d a b
  | .rol c d a b => fixed2 c d a b
  | .shf c _ d a b e => fixed2 c d a b && srcOk c.u e 1
  | .andImm c d a _ => fixedI c d a
  | .orImm c d a _ => fixedI c d a
  | .xorImm c d a _ => fixedI c d a
  | .andnImm c d a _ => fixedI c d a
  | .shlImm c d a _ => fixedI c d a
  | .shrImm c d a _ => fixedI c d a
  | .sarImm c d a _ => fixedI c d a
  | .rolImm c d a _ => fixedI c d a
  | .lea c _ _ d a b => noTag c && dstF c.u d 2 && srcOk c.u a 2 && srcOk c.u b 1
  | .mov c x2 d a => noTag c && dstF c.u d (if x2 then 2 else 1) && srcOk c.u a (if x2 then 2 else 1)
  | .movi c mode d _ => noTag c && dstF c.u d (if mode = .plain then 1 else 2)
  | .sel c _ d a b _ => fixed2 c d a b && !c.u
  | .cmpi c _ _ _ a b => noTag c && !c.u && srcOk c.u a 1 && srcOk c.u b 1
  | .plop c op _ _ pb =>
    noTag c && !c.u && (decide (pb = 0) || decide (op = .and) || decide (op = .or) || decide (op = .xor))
  | .ptov c _ _ => noTag c && !c.u
  | .vtop c _ _ a => noTag c && !c.u && srcOk c.u a 1
  | .fadd c f _ d a b => arithFmt f && fixedF2 c d a b (ffmtRegs f)
  | .fsub c f _ d a b => arithFmt f && fixedF2 c d a b (ffmtRegs f)
  | .fmul c f _ d a b => arithFmt f && fixedF2 c d a b (ffmtRegs f)
  | .ffma c f _ d a b e => arithFmt f && fixedF2 c d a b (ffmtRegs f) && srcOk c.u e (ffmtRegs f)
  | .fmin c f _ d a b => arithFmt f && fixedF2 c d a b (ffmtRegs f)
  | .fmax c f _ d a b => arithFmt f && fixedF2 c d a b (ffmtRegs f)
  | .fcmp c f _ _ a b => scalarFmt f && noTag c && !c.u && srcOk c.u a (ffmtRegs f) && srcOk c.u b (ffmtRegs f)
  | .frcp c f d a => scalarFmt f && taggedF1 c d a (ffmtRegs f)
  | .frsq c f d a => scalarFmt f && taggedF1 c d a (ffmtRegs f)
  | .fsqrt c f _ d a => scalarFmt f && taggedF1 c d a (ffmtRegs f)
  | .fdiv c f _ d a b => scalarFmt f && taggedF1 c d a (ffmtRegs f) && srcOk c.u b (ffmtRegs f)
  | .fex2 c f d a => narrowFn f && taggedF1 c d a 1
  | .flg2 c f d a => narrowFn f && taggedF1 c d a 1
  | .fsin c f d a => narrowFn f && taggedF1 c d a 1
  | .fcos c f d a => narrowFn f && taggedF1 c d a 1
  | .ftanh c f d a => narrowFn f && taggedF1 c d a 1
  | .fclass c f d a => scalarFmt f && noTag c && dstF c.u d 1 && srcOk c.u a (ffmtRegs f)
  | .frnd c f _ _ d a => arithFmt f && noTag c && dstF c.u d (ffmtRegs f) && srcOk c.u a (ffmtRegs f)
  | .fscale c f _ d a b =>
    arithFmt f && noTag c && dstF c.u d (ffmtRegs f) && srcOk c.u a (ffmtRegs f) && srcOk c.u b 1
  | .fgetexp c f d a => scalarFmt f && noTag c && dstF c.u d 1 && srcOk c.u a (ffmtRegs f)
  | .fcvt c df sf _ i d a =>
    convFmt df && convFmt sf && idxOk i (ffmtWidth df) (ffmtWidth sf)
      && noTag c && dstF c.u d (ffmtRegs df) && srcOk c.u a (ffmtRegs sf)
  | .ftoi c df sf _ i d a =>
    convFmt sf && idxOk i (ifmtBits df) (ffmtWidth sf) && noTag c && dstF c.u d 1 && srcOk c.u a (ffmtRegs sf)
  | .itof c df sf _ i d a =>
    convFmt df && idxOk i (ffmtWidth df) (ifmtBits sf) && noTag c && dstF c.u d (ffmtRegs df) && srcOk c.u a 1
  | .cvtsr c df sf i d a b =>
    convFmt df && !decide (df = .f64) && (decide (sf = .f64) || (decide (sf = .f32) && !decide (df = .f32)))
      && idxOk i (ffmtWidth df) (ffmtWidth sf) && noTag c && dstF c.u d 1 && srcOk c.u a (ffmtRegs sf) && srcOk c.u b 1
  | .qmx c _ _ d a => needTag c && !c.u && dstT c.u d 1 && srcOk c.u a 1
  | .dqmx c _ _ _ d a b => needTag c && dstT c.u d 1 && srcOk c.u a 1 && srcOk c.u b 1
  | .qgb c _ _ d a b => needTag c && !c.u && dstT c.u d 1 && srcOk c.u a 1 && srcOk c.u b 1
  | .dqgb c _ _ d a b e => needTag c && dstT c.u d 1 && srcOk c.u a 1 && srcOk c.u b 1 && srcOk c.u e 1
  | .ivset c f p d a => ivDst c false f d (ivRegs f) && srcOk c.u a (pfmtRegs p)
  | .ivmk c f p d a b => ivDst c false f d (ivRegs f) && srcOk c.u a (pfmtRegs p) && srcOk c.u b (pfmtRegs p)
  | .ivadd c f d a b => ivDst c false f d (ivRegs f) && srcOk c.u a (ivRegs f) && srcOk c.u b (ivRegs f)
  | .ivsub c f d a b => ivDst c false f d (ivRegs f) && srcOk c.u a (ivRegs f) && srcOk c.u b (ivRegs f)
  | .ivmul c f d a b => ivDst c false f d (ivRegs f) && srcOk c.u a (ivRegs f) && srcOk c.u b (ivRegs f)
  | .ivdiv c f d a b => ivDst c true f d (ivRegs f) && srcOk c.u a (ivRegs f) && srcOk c.u b (ivRegs f)
  | .ivfma c f d a b e =>
    ivDst c false f d (ivRegs f) && srcOk c.u a (ivRegs f) && srcOk c.u b (ivRegs f) && srcOk c.u e (ivRegs f)
  | .ivsqr c f d a => ivDst c false f d (ivRegs f) && srcOk c.u a (ivRegs f)
  | .ivsqrt c f d a => ivDst c true f d (ivRegs f) && srcOk c.u a (ivRegs f)
  | .ivrcp c f d a => ivDst c true f d (ivRegs f) && srcOk c.u a (ivRegs f)
  | .ivexp c f d a => !decide (f = .if64) && ivDst c true f d (ivRegs f) && srcOk c.u a (ivRegs f)
  | .ivlog c f d a => !decide (f = .if64) && ivDst c true f d (ivRegs f) && srcOk c.u a (ivRegs f)
  | .ivabs c f d a => ivDst c false f d (ivRegs f) && srcOk c.u a (ivRegs f)
  | .ivmin c f d a b => ivDst c false f d (ivRegs f) && srcOk c.u a (ivRegs f) && srcOk c.u b (ivRegs f)
  | .ivmax c f d a b => ivDst c false f d (ivRegs f) && srcOk c.u a (ivRegs f) && srcOk c.u b (ivRegs f)
  | .ivisect c f d a b => ivDst c false f d (ivRegs f) && srcOk c.u a (ivRegs f) && srcOk c.u b (ivRegs f)
  | .ivhull c f d a b => ivDst c false f d (ivRegs f) && srcOk c.u a (ivRegs f) && srcOk c.u b (ivRegs f)
  | .ivlo c f p d a => ivDst c false f d (pfmtRegs p) && srcOk c.u a (ivRegs f)
  | .ivhi c f p d a => ivDst c false f d (pfmtRegs p) && srcOk c.u a (ivRegs f)
  | .ivmid c f p d a => ivDst c false f d (pfmtRegs p) && srcOk c.u a (ivRegs f)
  | .ivwid c f p d a => ivDst c false f d (pfmtRegs p) && srcOk c.u a (ivRegs f)
  | .ivcmp c f _ _ a b => ivTag c f && !c.u && srcOk c.u a (ivRegs f) && srcOk c.u b (ivRegs f)
  | .ivin c f p _ a b => ivTag c f && !c.u && srcOk c.u a (pfmtRegs p) && srcOk c.u b (ivRegs f)
  | .ivsplit c f _ d a b =>
    ivDst c false f d (ivRegs f) && srcOk c.u a (ivRegs f) && srcOk c.u b (if f = .if64 then 2 else 1)
  | .ivbis c f _ d _ a => ivDst c true f d (ivRegs f) && !c.u && srcOk c.u a (ivRegs f)
  | .ivld c f d r => needTag c && !c.u && dstT c.u d (ivRegs f) && memOk c.u r
  | .ivst c f r e => ctlOk c && !c.u && memOk c.u r && srcOk c.u e (ivRegs f)
  | .shfl c mode ud d a b _ =>
    needTag c && !c.u && dstT ud d 1 && srcOk c.u a 1 && srcOk c.u b 1 && (!ud || (decide (mode = .idx) && isU b))
  | .lpush c _ a b _ => needTag c && !c.u && srcOk c.u a 1 && srcOk c.u b 1
  | .vote c mode ud d _ =>
    needTag c && !c.u &&
      (match mode with
      | .all | .any | .eq => !ud && decide (d.toNat < 8)
      | .ballot | .ballotF | .ballotU => dstT ud d 1)
  | .redux c _ ud d a => needTag c && !c.u && dstT ud d 1 && srcOk c.u a 1
  | .scan c _ _ _ a => needTag c && !c.u && srcOk c.u a 1
  | .matchLanes c _ a _ => needTag c && !c.u && srcOk c.u a 1
  | .partset c w => noTag c && !c.u && decide (w.toNat ≤ 4)
  | .rng c out d b => needTag c && dstT c.u d (if out = .x4 then 4 else 1) && srcOk c.u b 1
  | .rngkey c a => noTag c && !c.u && srcOk c.u a 2
  | .rngskip c _ a => needTag c && !c.u && srcOk c.u a 1
  | .talloc c d a => needTag c && c.u && uniDst d 1 && uniReg a 1
  | .tfree c a b => ctlOk c && c.u && uniReg a 1 && uniReg b 1
  | .tld c _ a r => ctlOk c && !c.u && srcOk c.u a 1 && memOk c.u r
  | .tst c _ a r => ctlOk c && !c.u && srcOk c.u a 1 && memOk c.u r
  | .mbq c _ _ a b => noTag c && c.u && uniReg a 1 && uniReg b 1
  | .mma c af bf acc _ _ d a b e =>
    noTag c && c.u && uniReg a 1 && uniReg b 1 && uniReg e 1 && decide (matClass af = matClass bf)
      && (if matClass af = 3 then decide (acc = .s32) || decide (acc = .s32s)
          else decide (acc = .f32) || decide (acc = .bf16sr))
      && (if acc = .bf16sr then uniReg d 1 else decide (d = 0))
  | .mzero c _ a => ctlOk c && c.u && uniReg a 1
  | .mmask c len _ a => noTag c && c.u && uniReg a (if len then 1 else 2)
  | .maccr c ac d a b => needTag c && !c.u && alignedTo d (if ac = .bf16 then 1 else 2) && uniReg a 1 && uniReg b 1
  | .maccw c ac a b e => ctlOk c && !c.u && uniReg a 1 && uniReg b 1 && alignedTo e (if ac = .bf16 then 1 else 2)
  | .mcvt c df _ _ _ _ a b => needTag c && c.u && plainMat df && uniReg a 1 && uniReg b 1
  | .mrowmax c _ d a e => needTag c && !c.u && alignedTo d 2 && uniReg a 1 && alignedTo e 2
  | .mrowexp c mul _ _ d a b e =>
    needTag c && !c.u && alignedTo d 2 && uniReg a 1 && uniReg b 1 && (if mul then decide (e = 0) else uniReg e 1)
  | .mstat c _ d => needTag c && c.u && uniDst d 1
  | .ld c sz ed d e r =>
    needTag c && !c.u && !decide (sz = .b256) && alignedTo d (szRegs sz) && (if ed then uniReg e 1 else decide (e = 0))
      && memOk c.u r
  | .st c sz r e => ctlOk c && storeSz sz && memOk c.u r && srcOk c.u e (szRegs sz)
  | .ldu c sz ed d e r =>
    needTag c && c.u && uniDst d (szRegs sz) && (if ed then uniReg e 1 else decide (e = 0)) && memOk c.u r
  | .lds c sz d r => needTag c && !decide (sz = .b256) && dstT c.u d (szRegs sz) && srcOk c.u r.base 1
  | .sts c sz r e => ctlOk c && storeSz sz && srcOk c.u r.base 1 && srcOk c.u e (szRegs sz)
  | .gather c sz _ d _ r =>
    needTag c && !c.u && !decide (sz = .b256) && alignedTo d (szRegs sz) && isU r.base && memOk c.u r
  | .scatter c sz _ _ e r => ctlOk c && !c.u && storeSz sz && alignedTo e (szRegs sz) && isU r.base && memOk c.u r
  | .pref c _ r => noTag c && memOk c.u r
  | .atom c _ w64 _ d r e =>
    needTag c && dstT c.u d (if w64 then 2 else 1) && memOk c.u r && srcOk c.u e (if w64 then 2 else 1)
  | .acas c w64 _ d r e =>
    needTag c && dstT c.u d (if w64 then 2 else 1) && memOk c.u r && srcOk c.u e (if w64 then 2 else 1)
  | .red c op w64 _ r e => ctlOk c && !decide (op = .exch) && memOk c.u r && srcOk c.u e (if w64 then 2 else 1)
  | .crdecl c op fmt _ a b e => noTag c && c.u && crOpOk op fmt && uniReg a 2 && uniReg b 1 && uniReg e 1
  | .crrel c _ a => noTag c && c.u && uniReg a 2
  | .fence c _ => noTag c
  | .chend c => noTag c
  | .cinv c s r len => noTag c && c.u && scopeTo6 s && memOk c.u r && uniReg len 1
  | .cwb c r len => ctlOk c && c.u && memOk c.u r && uniReg len 1
  | .wbind c m a e => noTag c && c.u && octReg a && (if m then uniReg e 4 else decide (e = 0))
  | .wkick c a => noTag c && c.u && uniReg a 1
  | .wdrop c a => noTag c && c.u && uniReg a 1
  | .wstat c d a => needTag c && c.u && uniDst d 1 && uniReg a 1
  | .rcopy c a b => noTag c && c.u && octReg a && uniReg b 1
  | .cntinc c _ _ a b => noTag c && c.u && uniReg a 2 && uniReg b 1
  | .cntrd c _ d a => needTag c && c.u && uniDst d 2 && uniReg a 2
  | .seal c _ a b e => noTag c && c.u && uniReg a 2 && uniReg b 1 && uniReg e 1
  | .unseal c _ a b => noTag c && c.u && uniReg a 2 && uniReg b 1
  | .coll c a => noTag c && c.u && octReg a
  | .kvld c _ _ d _ b _ => needTag c && !c.u && alignedTo d 4 && uniReg b 4
  | .kvappend c _ _ _ _ b e => ctlOk c && !c.u && uniReg b 4 && alignedTo e 4
  | .kvmask c _ _ a b => noTag c && c.u && uniReg a 4 && uniReg b 2
  | .kvcompact c _ a => noTag c && c.u && uniReg a 4
  | .kvfmt c _ a b => noTag c && c.u && uniReg a 4 && uniReg b 1
  | .kvprov c _ a b => noTag c && c.u && uniReg a 4 && uniReg b 2
  | .kvshare c _ a b => noTag c && c.u && uniReg a 4 && uniReg b 4
  | .graft c _ _ a b => noTag c && c.u && uniReg a 4 && uniReg b 4
  | .repair c _ a b => noTag c && c.u && uniReg a 4 && octReg b
  | .beammap c _ a b e => noTag c && c.u && uniReg a 4 && uniReg b 2 && uniReg e 1
  | .topk c a => noTag c && c.u && octReg a
  | .bar c task group => noTag c && !c.u && unguarded c && (!task || decide (group = 0))
  | .barc c op _ r =>
    c.u && (match op with
      | .gen => needTag c && uniDst r 2
      | .wait => noTag c && uniReg r 2
      | .init => noTag c && uniReg r 1
      | .arrive => noTag c && uniReg r 1)
  | .barq c op task group r =>
    !c.u && unguarded c && (!task || decide (group = 0)) &&
      (match op with
      | .arrive => needTag c && uniDst r 2
      | .wait => noTag c && uniReg r 2)
  | .cwait c _ cont a b off => noTag c && c.u && uniReg a 2 && uniReg b 2 && (cont || decide (off = 0))
  | .spawn c _ _ b => noTag c && c.u && uniReg b 1
  | .launch c _ a => noTag c && c.u && uniReg a 2
  | .shoot c _ d a b => needTag c && c.u && uniDst d 1 && uniReg a 2 && uniReg b 1
  | .resolve c d a b => needTag c && c.u && uniDst d 1 && uniReg a 1 && uniReg b 1
  | .role c _ => noTag c && c.u
  | .trap c _ => noTag c
  | .resume c mode a => noTag c && c.u && (if mode = .self then decide (a = 0) else uniReg a 1)
  | .sread c x2 d num =>
    needTag c && dstT c.u d (if x2 then 2 else 1) && decide (sysregWide num.toNat = some x2)
  | .swrite c x2 num a => noTag c && c.u && uniReg a (if x2 then 2 else 1) && decide (sysregWide num.toNat = some x2)
  | .tlbinv c _ all rsel a b =>
    noTag c && c.u && (if all then decide (rsel = 0) && decide (a = 0) && decide (b = 0) else uniReg a 2 && uniReg b 2)
  | .brk c _ => noTag c
  | .ckpt c _ a => noTag c && c.u && octReg a
  | .pwrhint c _ => noTag c
  | .illegalOpcode w => !opAssigned (w.extractLsb' 70 10).toNat
  | _ => true

end Sys2Proof
end

