-- ==== Sys2Proof/Machine/Operands.lean ====
section
/-! DEFINITION. How an encoded instruction issues: what registers its fields name, what it waits for, which lanes execute, how its
operands are read, and how its results, flags, tag and chunk record are put down (R48 to R70, R95, R96, R225, R399, R412 to R415). -/

namespace Sys2Proof.Machine

/-! ### What an instruction names -/

/-- A register field: uniform or vector, its number, how many registers it names (R48, R49). -/
structure Field where
  uni : Bool
  num : Nat
  width : Nat
  deriving DecidableEq, Repr

/-- What an instruction needs before it issues. lat 0: a tagged instruction (R60). -/
structure Need where
  dsts : List Field
  srcs : List Field
  preds : List Nat
  pdsts : List Nat
  mdsts : List Nat
  lat : Nat
  /-- Source fields whose poison travels on: data that a store writes (R268). -/
  carry : List Nat
  /-- Queue registers to which it pushes a spawn record (R399, R414). -/
  ports : List Nat

/-- A source field of k registers. -/
def srcField (a : Src) (k : Nat) : Field :=
  match a with
  | .v n => ⟨false, n.toNat, k⟩
  | .u n => ⟨true, n.toNat, k⟩

/-- A uniform source field (class uniform of R48). -/
def uniField (n : BitVec 8) (k : Nat) : Field := ⟨true, n.toNat, k⟩

/-- A destination field: vector, or uniform with U = 1 (R48). -/
def dstField (u : Bool) (n : BitVec 8) (k : Nat) : Field := ⟨u, n.toNat, k⟩

/-- A need of registers only. -/
def needs (dsts srcs : List Field) (lat : Nat) : Need where
  dsts := dsts
  srcs := srcs
  preds := []
  pdsts := []
  mdsts := []
  lat := lat
  carry := []
  ports := []

/-- The first field outside the warp's allocations (R22, R48), with its number. -/
def outOfBounds (w : Warp) (fs : List Field) : Option Nat :=
  (fs.find? (fun f =>
    if f.uni then decide (f.num < 56) && decide (8 * w.uni8 < f.num + f.width)
    else decide (8 * w.regs8 < f.num + f.width))).map (·.num)

/-- The registers a field names. -/
def Field.regs (f : Field) : List Nat := (List.range f.width).map (fun k => f.num + k)

/-- Vector registers named by fields. -/
def vregsOf (fs : List Field) : List Nat := (fs.filter (fun f => !f.uni)).flatMap Field.regs
/-- Uniform registers named by fields, queue ports among them. -/
def uregsOf (fs : List Field) : List Nat := (fs.filter (fun f => f.uni)).flatMap Field.regs
/-- The queue ports among uniform registers. -/
def portsOf (fs : List Field) : List Nat := ((uregsOf fs).filter (fun n => 56 ≤ n)).map (fun n => n - 56)

/-! ### Guards (R55 to R58) -/

/-- Whether a guard holds of a stored predicate value (DEDUCED, log 34). -/
def guardHolds (gs : GuardSense) (b : BitVec 2) : Bool :=
  match gs with
  | .always => true
  | .ifTrue => triOfBits b = .yes
  | .ifFalse => triOfBits b = .no
  | .ifUndecided => triOfBits b = .undecided

/-- The lanes a guard is read in: the fragment's, or its lowest with U = 1 (R58). -/
def guardLanes (c : Ctl) (f : Frag) : List Nat := if c.u then (lanesOf f.mask).take 1 else lanesOf f.mask

/-- The executing lanes (R55, R58). -/
def execLanes (c : Ctl) (r : Regs) (f : Frag) : List Nat :=
  (guardLanes c f).filter (fun l => guardHolds c.gs (r.pred c.g.toNat l))

/-- A predicate that holds 0b11 is read in one of these lanes (R56; DEDUCED, log 34). -/
def readsReserved (r : Regs) (p : Nat) (ls : List Nat) : Bool := ls.any (fun l => r.pred p l == 3)

/-! ### Waits -/

/-- The tags this instruction consumes: those of WAIT, and the tag it allocates (R63, R64). -/
def picks (c : Ctl) (e : TagEntry) : Bool := e.tag != 0 && (c.wait.getLsbD (e.tag - 1) || c.alloc.toNat == e.tag)

/-- A chosen tag has not returned (R63, R64). -/
def tagsPending (c : Ctl) (w : Warp) : Bool := w.regs.tags.any (fun e => picks c e && !e.returned)

/-- A pending fixed-latency write holds the instruction (R60). -/
def landingHolds (c : Ctl) (n : Need) (now : Nat) (w : Warp) : Bool :=
  w.inflight.any (fun x =>
    (vregsOf n.srcs).any (fun r => x.vregs.contains r)
    || (uregsOf n.srcs).any (fun r => x.uregs.contains r)
    || n.preds.any (fun p => x.preds.contains p)
    || (c.gs != .always && x.preds.contains c.g.toNat)
    || (n.lat != 0 && decide (now + n.lat ≤ x.at_)
        && ((vregsOf n.dsts).any (fun r => x.vregs.contains r)
            || (uregsOf n.dsts).any (fun r => x.uregs.contains r)
            || n.pdsts.any (fun p => x.preds.contains p))))

/-- The fragment may issue: its warp runs, holds nothing back, and its chunk is open (R368, R466). -/
def mayIssue (w : Warp) (f : Frag) : Bool :=
  w.mode == .run && w.holds.isEmpty && f.park == .run && !f.held && w.chunk.phase == .open_

/-! ### Queues (R412 to R415) -/

/-- The queue bound to a port, by the warp's core, cluster and partition; none where it is unbound or a spawn queue (R412, R413). -/
def boundQueue (w : Warp) (port : Nat) : Option QueueId :=
  let b := w.regs.qbind.getD port 0
  let arg := (b.extractLsb' 0 26).toNat
  match (b.extractLsb' 28 4).toNat with
  | 2 => some (.core w.core (arg % 64))
  | 3 => some (.cluster (w.core / 4) (arg % 64))
  | 4 => some (.ring w.part (arg % 16))
  | _ => none

/-- The elements of a queue that can be popped. -/
def poppable (s : State) (q : QueueId) : List QItem :=
  match q with
  | .ring p n => match s.net.rings.find? (fun r => r.part == p && r.num == n) with
    | none => []
    | some r => (r.inbound.filter (fun x => x.chunk.isNone)).map (fun x => (x.item, []))
  | .core .. => ((s.queues.chans.find? (fun c => c.queue == q)).elim [] (fun c => c.items.filter (fun x => x.chunk.isNone))).map (·.item)
  | .cluster .. => ((s.queues.chans.find? (fun c => c.queue == q)).elim [] (fun c => c.items.filter (fun x => x.chunk.isNone))).map (·.item)

/-- The elements of a queue that can be seen by a push. -/
def visible (s : State) (q : QueueId) : Nat :=
  match q with
  | .ring p n => match s.net.rings.find? (fun r => r.part == p && r.num == n) with
    | none => 0
    | some r => r.outbound.length
  | .core .. => (poppable s q).length
  | .cluster .. => (poppable s q).length

/-- The window of a partition's ring: number and words; inbound rings are KIND 1, outbound ones KIND 2 (R447, R449). -/
def ringWindow (s : State) (out : Bool) (p n : Nat) : Option (Nat × List Word) :=
  (s.net.windows.zipIdx.find? (fun x =>
    wfield x.1 0 31 1 == 1 && wfield x.1 0 28 3 == p && wfield x.1 0 26 2 == (if out then 2 else 1) && wfield x.1 0 16 4 == n)).map
    (fun x => (x.2, x.1))

/-- Words a ring holds (R447). -/
def ringWords (ws : List Word) : Nat := 32 * (wordAt ws 4).toNat

/-- A ring has no valid window, or its queue pair is in the error state (R449). -/
def ringBroken (s : State) (out : Bool) (q : QueueId) : Option Nat :=
  match q with
  | .ring p n =>
    match ringWindow s out p n with
    | none => some n
    | some (_, ws) => if s.net.qpErrors.contains (wfield ws 7 0 24) then some n else none
  | .core .. => none
  | .cluster .. => none

/-- The capacity of a queue for pushes, in elements (R413, R449). -/
def capacity (s : State) (q : QueueId) : Nat :=
  match q with
  | .core .. => 16
  | .cluster .. => 16
  | .ring p n => match ringWindow s true p n with
    | none => 0
    | some (_, ws) => ringWords ws

/-- Pushes to a queue that open chunks and commits not yet complete hold (R414). -/
def heldPushes (s : State) (q : QueueId) : Nat :=
  (s.warps.flatMap (fun w => w.chunk.pushes)).countP (fun x => x.1 == q)
  + (s.order.commits.flatMap (fun c => c.pushes)).countP (fun x => x.1 == q)

/-- What a queue access of an instruction meets. -/
inductive QueueStop where
  | none
  | wait (port : Option Nat)
  | endChunk
  | trap (t : TrapReq)

/-- A warp's launch runs in deterministic mode (R24). -/
def Warp.det (w : Warp) : Bool := w.detctl.getLsbD 0

/-- The launch tree of a warp (R32). -/
def treeOf (s : State) (w : Warp) : Nat :=
  match s.launchOf w with
  | none => 0
  | some l => l.tree

/-- A warp as its accesses and queues name it (R264, R415). -/
def warpKey (s : State) (w : Warp) : WarpKey := ⟨(s.launchOf w).elim 0 (·.uid), w.taskid, w.spawnix, w.warpid⟩

/-- Another warp of the tree is the producer (push) or consumer of the queue (R415). -/
def queueTaken (s : State) (w : Warp) (q : QueueId) (push : Bool) : Bool :=
  w.det &&
  (s.order.queueOwners.any (fun o => o.1 == treeOf s w && o.2.1 == q && o.2.2.1 == push && o.2.2.2 != warpKey s w)
   || s.warps.any (fun v => v.id != w.id && v.det && treeOf s v == treeOf s w
        && (if push then v.chunk.pushes else v.chunk.pops).any (fun x => x.1 == q)))

/-- What the pushes and pops of an instruction meet, port by port (R413 to R415). -/
def queueStop (s : State) (w : Warp) (pops pushes : List Nat) : QueueStop :=
  match (pops ++ pushes).find? (fun p => (boundQueue w p).isNone) with
  | some p => .trap (raiseD .queueBind (BitVec.ofNat 32 p))
  | none =>
    match (pops.findSome? (fun p => (boundQueue w p).bind (ringBroken s false))).or
        (pushes.findSome? (fun p => (boundQueue w p).bind (ringBroken s true))) with
    | some n => .trap (raiseD .mboxFault (BitVec.ofNat 32 n))
    | none =>
    match pops.find? (fun p => (boundQueue w p).any (fun q => queueTaken s w q false)) with
    | some p => .trap (raiseD .detQueue (BitVec.ofNat 32 p))
    | none =>
      match pushes.find? (fun p => (boundQueue w p).any (fun q => queueTaken s w q true)) with
      | some p => .trap (raiseD .detQueue (BitVec.ofNat 32 p))
      | none =>
        let qs (ps : List Nat) : List QueueId := ps.filterMap (boundQueue w)
        let mine (q : QueueId) : Nat := w.chunk.pushes.countP (fun x => x.1 == q)
        let short (q : QueueId) : Bool := decide ((poppable s q).length < (qs pops).countP (fun x => x == q))
        let full (q : QueueId) : Bool :=
          decide (capacity s q < visible s q + heldPushes s q + (qs pushes).countP (fun x => x == q))
        if (if w.det then (qs pushes).any (fun q => decide (capacity s q ≤ mine q)) || (qs pops).any (fun q => 0 < mine q)
            else (qs pushes).any (fun q => full q && 0 < mine q) || (qs pops).any (fun q => short q && 0 < mine q)) then
          .endChunk
        else if (qs pops).any short || (qs pushes).any full then
          .wait ((pops.find? (fun p => (boundQueue w p).any short)).or (pushes.find? (fun p => (boundQueue w p).any full)))
        else .none

/-! ### Operands as read -/

/-- One register's worth of a source: the register, or an element popped from a queue (R50). -/
inductive Opd where
  | v (n : Nat)
  | u (n : Nat)
  | popped (val : Word)
  deriving DecidableEq, Repr

/-- What an instruction sees once it issues: its warp after its waits, its fragment, the executing lanes, its sources field by
field, the elements it popped, and the updates that popping them makes. -/
structure Go where
  w : Warp
  f : Frag
  lanes : List Nat
  ops : List (List Opd)
  upds : List Upd

/-- Word k of source field i in a lane. -/
def Go.rd (g : Go) (i k lane : Nat) : Word :=
  match (g.ops.getD i []).getD k (.popped 0) with
  | .v n => g.w.regs.vreg n lane
  | .u n => g.w.regs.ureg n
  | .popped x => x

/-- Words k and k+1 of source field i as a pair. -/
def Go.rd2 (g : Go) (i k lane : Nat) : DWord := pairOf (g.rd i k lane) (g.rd i (k + 1) lane)

/-- Whether word k of source field i is poisoned in a lane. -/
def Go.poisoned (g : Go) (i k lane : Nat) : Bool :=
  match (g.ops.getD i []).getD k (.popped 0) with
  | .v n => g.w.regs.poisonV.contains (32 * n + lane)
  | .u n => g.w.regs.poisonU.contains n
  | .popped _ => false

/-- A warp's chunk takes one element from a queue, which holds it until the commit (R227). -/
def popOne (s : State) (wid : Nat) (q : QueueId) : Option (QItem × List Upd) :=
  let chan : List Upd := [.queues { s.queues with chans := s.queues.chans.map (fun c => if c.queue = q then { c with items := takeHeld wid c.items } else c) }]
  match poppable s q with
  | [] => none
  | x :: _ =>
    match q with
    | .ring p n => some (x, onNet (fun net => { net with
        rings := net.rings.map (fun r => if r.part = p ∧ r.num = n then { r with inbound := takeHeld wid r.inbound } else r) }) s)
    | .core .. => some (x, chan)
    | .cluster .. => some (x, chan)

/-- The operands of the registers listed, queue ports popped in order (R50). -/
def readOps (regs : List (Bool × Nat)) (s : State) (w : Warp) : List Opd × List (QueueId × QItem) × List Upd :=
  match regs with
  | [] => ([], [], [])
  | (uni, n) :: rest =>
    if uni && decide (56 ≤ n) then
      match (boundQueue w (n - 56)).bind (fun q => (popOne s w.id q).map (fun r => (q, r))) with
      | none => ([], [], [])
      | some (q, x, us) =>
        let r := readOps rest (s.run us) w
        (.popped x.1 :: r.1, (q, x) :: r.2.1, us ++ r.2.2)
    else
      let r := readOps rest s w
      ((if uni then .u n else .v n) :: r.1, r.2.1, r.2.2)

/-- Cut a list by the widths of fields. -/
def cutBy {α : Type} (ws : List Nat) (l : List α) : List (List α) :=
  match ws with
  | [] => []
  | k :: rest => l.take k :: cutBy rest (l.drop k)

/-- The operands of source fields. -/
def fieldOps (fs : List Field) (s : State) (w : Warp) : List (List Opd) × List (QueueId × QItem) × List Upd :=
  let r := readOps (fs.flatMap (fun f => f.regs.map (fun n => (f.uni, n)))) s w
  (cutBy (fs.map (·.width)) r.1, r.2.1, r.2.2)

/-- A uniform register that a sibling fragment has written, or a queue port that one has used, between their split and their fusion
(R399): fragments that share a lane with the use are the user's own, or have split from it or fused with it since. RACE names the register
in ADDR, with a space code of its own, and the warp itself as the other (R467; DESIGN CHOICE, log 105). -/
def usesClash (regs : List Nat) (w : Warp) (f : Frag) : Option TrapReq :=
  if !w.det then none else
  (w.regs.sib.find? (fun x => regs.contains x.reg && x.lanes &&& f.mask == 0)).map
    (fun x => if 56 ≤ x.reg then raiseD .detQueue (BitVec.ofNat 32 x.reg)
              else { raiseAt .race (BitVec.ofNat 64 x.reg) with
                       ppc := some x.pc, d17 := 3, d18 := w.taskid, d19 := BitVec.ofNat 32 w.warpid })

/-- The same of an instruction's uniform registers and ports. -/
def siblingClash (n : Need) (w : Warp) (f : Frag) : Option TrapReq := usesClash (uregsOf (n.srcs ++ n.dsts) ++ n.ports) w f

/-- Lanes in which an operand other than carried store data is poisoned (R268). -/
def poisonLanes (n : Need) (g : Go) : List Nat :=
  if g.w.regs.poisonV.isEmpty && g.w.regs.poisonU.isEmpty then [] else
  g.lanes.filter (fun l => (n.srcs.zipIdx).any (fun x => !n.carry.contains x.2
    && (List.range x.1.width).any (fun k => g.poisoned x.2 k l)))

/-- The first register an instruction finds poisoned in a lane (R467). -/
def poisonReg (n : Need) (g : Go) (l : Nat) : Nat :=
  ((n.srcs.zipIdx).findSome? (fun x => if n.carry.contains x.2 then none else
    ((List.range x.1.width).find? (fun k => g.poisoned x.2 k l)).map (fun k => x.1.num + k))).getD 0

/-! ### The gate -/

/-- What happens when an instruction tries to issue. -/
inductive Gate where
  /-- It waits; the port whose queue it waits for, where it is a queue. -/
  | wait (port : Option Nat)
  | endChunk
  | trap (t : TrapReq) (own : Bool)
  | go (g : Go)

/-- The waits and checks before an instruction executes, in order, a pop taking on the clock of its push (R414): its warp may issue (R368); register bounds (R70 step 5); tags and
landings (R60, R63, R64); what consumed tags raise (R96); guard; queues (R50, R413 to R415); poison (R268; DESIGN CHOICE, log 11). -/
def gate (c : Ctl) (n : Need) (s : State) (w : Warp) (f : Frag) : Gate :=
  if !mayIssue w f then .wait none else
  match outOfBounds w (n.dsts ++ n.srcs) with
  | some r => .trap (raiseD .regBounds (BitVec.ofNat 32 r)) false
  | none =>
    if tagsPending c w || landingHolds c n s.model.cycle w then .wait none else
    match w.consumeTrap (picks c) with
    | some t => .trap { t with fpc := some f.pc } false
    | none =>
      let w1 := w.consume (picks c)
      let prsv := c.gs != .always && readsReserved w1.regs c.g.toNat (guardLanes c f)
      let w2 := if prsv then { w1 with regs := { w1.regs with fpstat := fpstatOr w1.regs.fpstat flagPRSV } } else w1
      let ls := execLanes c w1.regs f
      if ls.isEmpty then .go ⟨w2, f, [], [], []⟩ else
      match siblingClash n w f with
      | some t => .trap t false
      | none =>
        match queueStop s w (portsOf n.srcs) (portsOf n.dsts) with
        | .wait port => .wait port
        | .endChunk => .endChunk
        | .trap t => .trap t false
        | .none =>
          let r := fieldOps n.srcs s w
          let w3 := if n.preds.any (fun p => readsReserved w1.regs p (guardLanes c f)) then
            { w2 with regs := { w2.regs with fpstat := fpstatOr w2.regs.fpstat flagPRSV } } else w2
          let clk (x : Frag) : Frag := { x with clock := r.2.1.foldl (fun k y => clockJoin k y.2.2) x.clock }
          let g : Go := ⟨{ w3 with chunk := { w3.chunk with pops := w3.chunk.pops ++ r.2.1 }
                                   regs := if r.2.1.isEmpty then w3.regs else w3.regs.mapFrag f.id clk }, clk f, ls, r.1, r.2.2⟩
          match poisonLanes n g with
          | [] => .go g
          | l :: ls => .trap ((raiseD .poison (BitVec.ofNat 32 (poisonReg n g l))).inLanes (l :: ls)) false

/-! ### What an instruction does -/

/-- The effect of an instruction in its executing lanes. -/
structure Act where
  /-- It raises a cause, and nothing takes effect. -/
  trap : Option TrapReq := none
  /-- What raising it leaves in the warp besides: a delivered fault is delivered once (R210, R297). -/
  atTrap : Warp → Warp := id
  /-- It cannot issue yet; what the attempt sets going (R302). -/
  wait : Bool := false
  waitUpds : State → List Upd := fun _ => []
  ask : Option Ask := none
  /-- Its chunk ends before it. -/
  endBefore : Bool := false
  /-- Register results, and the flags raised lane by lane. -/
  writes : List RegWrite := []
  flags : List (Nat × Flags) := []
  /-- What consuming the tag raises (R159, R173). -/
  raises : Option TrapReq := none
  /-- For a tagged instruction: what its result waits for, and what the entry keeps for it. -/
  awaits : Await := .unit
  entry : TagEntry → TagEntry := id
  own : Bool := false
  /-- Words read and written (R225), bytes buffered, and other chunk records. -/
  reads : List Place := []
  touches : List Place := []
  stores : List (Place × Byte) := []
  /-- What its accesses to a word are for the race rule (R264). -/
  kind : Place → AccKind := fun _ => .plain
  /-- Translations it used (R443). -/
  pages : List (Nat × Nat) := []
  chunk : Chunk → Chunk := id
  /-- The PC does not advance by itself. -/
  stays : Bool := false
  /-- The chunk ends after it, with what it does at its position. -/
  ends : Bool := false
  after : List Deferred := []
  /-- Further changes of the warp, and of the rest of the state. -/
  warp : Warp → Warp := id
  upds : State → List Upd := fun _ => []

/-- The word a byte lies in. -/
def Place.word (p : Place) : Place := { p with addr := p.addr / 4 * 4 }
/-- The 128-byte line a byte lies in (R225). -/
def Place.line (p : Place) : Place := { p with addr := p.addr / 128 }

/-- A chunk's own stores cover a word wholly (R227). -/
def coveredBy (bytes : List (Place × Byte)) (p : Place) : Bool :=
  (List.range 4).all (fun i => bytes.any (fun x => x.1 == { p with addr := p.addr + i }))

/-- Distinct lines of places; the carve map has none (R225). -/
def linesOf (ps : List Place) : List Place := nub ((ps.filter (fun p => p.space != .carve)).map Place.line)

/-- The undo-log keys of the registers a need writes (R225). -/
def undoKeys (n : Need) : List Nat :=
  vregsOf n.dsts ++ ((uregsOf n.dsts).filter (fun u => u < 56)).map (256 + ·) ++ (n.pdsts.filter (fun p => p < 7)).map (320 + ·)
    ++ n.mdsts.map (330 + ·)

/-- The undo-log keys of what an instruction writes: with no executing lane, none (R57, R225). -/
def Go.keys (g : Go) (n : Need) : List Nat := if g.lanes.isEmpty then [] else undoKeys n

/-- The instruction would take its chunk over a limit, and the chunk is not its own (R225). -/
def overLimit (k : Chunk) (keys : List Nat) (a : Act) : Bool :=
  decide (0 < k.count) &&
  (decide (64 < (nub (k.undo ++ keys)).length)
   || (!(a.touches.isEmpty && a.stores.isEmpty) && decide (128 < (linesOf (k.writes ++ a.touches ++ a.stores.map (·.1))).length))
   || (!a.reads.isEmpty && decide (256 < (linesOf (k.reads ++ a.reads)).length)))

/-- The chunk ends after the instruction (R225, R226, R487). -/
def endsAfter (w : Warp) (k : Chunk) (a : Act) : Bool :=
  a.ends || decide (512 ≤ k.count + 1) || w.stepping || (!a.reads.isEmpty && decide (256 < (linesOf a.reads).length))

/-- Lanes whose flags trap (R96). -/
def trappingLanes (w : Warp) (a : Act) : List Nat :=
  (a.flags.filter (fun x => trappingFlags w.regs.fpctl x.2 != 0)).map (·.1)

/-- Every flag an instruction raises. -/
def Act.allFlags (a : Act) : Flags := a.flags.foldl (fun m x => m ||| x.2) 0

/-- FP_TRAP of an instruction's own results (R96, R467; DEDUCED, log 69; DEDUCED, log 76). -/
def fpTrapReq (w : Warp) (a : Act) : Option TrapReq :=
  match trappingLanes w a with
  | [] => none
  | l :: ls => some { raise .fpTrap with
      lanes := some (maskOf (l :: ls))
      d17 := (trappingFlags w.regs.fpctl a.allFlags).setWidth 32
      d18 := a.allFlags.setWidth 32 }

/-- The flag that reading its guard and predicate operands has raised (R56). -/
def readFlags (c : Ctl) (n : Need) (g : Go) : Flags :=
  flagIf ((c.gs != .always && readsReserved g.w.regs c.g.toNat (guardLanes c g.f))
    || n.preds.any (fun p => readsReserved g.w.regs p (guardLanes c g.f))) flagPRSV

/-- FP_TRAP of an instruction, with every flag it raised (R56, R96). -/
def raisedTrap (c : Ctl) (n : Need) (g : Go) (a : Act) : Option TrapReq :=
  (fpTrapReq g.w a).map (fun t => { t with d18 := t.d18 ||| (readFlags c n g).setWidth 32 })

/-- Queue pushes of uniform writes that name ports (R50), with the clock they release, and the writes that stay. -/
def splitPushes (w : Warp) (clk : Clock) (xs : List RegWrite) : List RegWrite × List (QueueId × QItem) :=
  xs.foldr (fun x acc =>
    match x with
    | .u n val _ => if 56 ≤ n then
        (match boundQueue w (n - 56) with
         | none => acc
         | some q => (acc.1, (q, val, clk) :: acc.2))
        else (x :: acc.1, acc.2)
    | .v .. => (x :: acc.1, acc.2)
    | .p .. => (x :: acc.1, acc.2)
    | .m .. => (x :: acc.1, acc.2)) ([], [])

/-- The records that a PID leads through (R393). -/
def pidChain (fuel : Nat) (recs : List SplitRec) (p : Nat) : List Nat :=
  match fuel with
  | 0 => []
  | n + 1 => if p = 0 then [] else p :: ((recs.find? (fun r => r.id == p)).elim [] (fun r => pidChain n recs r.outer))

/-- Uses that siblings must not meet (R399), noted while the warp has several fragments. -/
def noteUses (regs : List Nat) (w : Warp) (f : Frag) : List SibUse :=
  if w.det && decide (1 < w.regs.frags.length) then
    w.regs.sib ++ (nub regs).map (fun r => ⟨r, f.mask, f.pc, pidChain 10 w.regs.splits f.pid⟩)
  else w.regs.sib

/-- Those of an instruction: uniform writes and queue ports. -/
def noteSiblings (n : Need) (w : Warp) (f : Frag) : List SibUse :=
  noteUses (uregsOf n.dsts ++ n.ports ++ (uregsOf n.srcs).filter (fun r => 56 ≤ r)) w f

/-- A tag entry of an instruction (R61, R62). With no executing lane it returns at once with nothing (R57). -/
def tagEntryOf (c : Ctl) (g : Go) (a : Act) (raises : Option TrapReq) : TagEntry :=
  a.entry
    { tag := c.alloc.toNat, seq := g.w.nextSeq, pc := g.f.pc, mask := maskOf g.lanes, returned := g.lanes.isEmpty,
      awaits := a.awaits, writes := if raises.isSome then [] else a.writes,
      flags := if raises.isSome then 0 else a.allFlags, raises := raises, own := a.own, dst := 0, duni := false, width := 0,
      lanes := [], stations := [], ext := 0, tiles := [], kv := [], since := 0 }

/-- A new epoch of a fragment: what it does from here on does not precede what it has released (R263). -/
def Frag.nextEpoch (wid : Nat) (f : Frag) : Frag :=
  { f with clock := clockRaise f.clock (threadOf wid f.id) (clockGet f.clock (threadOf wid f.id) + 1) }

/-- The results of an instruction in its warp: at once with a landing to wait for (R60), under its tag (R61), or, untagged with no
latency, at once. -/
def putResults (c : Ctl) (n : Need) (now : Nat) (g : Go) (a : Act) (w : Warp) : Warp :=
  if n.lat != 0 then
    if g.lanes.isEmpty then w else
    let xs := splitPushes w g.f.clock a.writes
    let w1 := w.write xs.1
    { w1 with
      chunk := { w1.chunk with pushes := w1.chunk.pushes ++ xs.2 }
      regs := if xs.2.isEmpty then w1.regs else w1.regs.mapFrag g.f.id (Frag.nextEpoch w1.id)
      inflight := w1.inflight ++ [{ at_ := now + n.lat, vregs := vregsOf n.dsts, uregs := (uregsOf n.dsts).filter (fun r => r < 56),
                                    preds := n.pdsts.filter (fun p => p < 7), flags := a.allFlags }] }
  else if c.alloc = 0 && !(a.awaits == .peer) then
    let w1 := w.write a.writes
    { w1 with regs := { w1.regs with fpstat := fpstatOr w1.regs.fpstat a.allFlags } }
  else
    let raises := ((raisedTrap c n g a).or a.raises).map (fun t => { t with ppc := some g.f.pc })
    { w with regs := { w.regs with tags := w.regs.tags ++ [tagEntryOf c g a raises] } }

/-- The chunk record of an issued instruction (R225). old is the warp before its waits: a chunk it opens starts from there. -/
def recordChunk (old : Warp) (n : Need) (g : Go) (a : Act) (w : Warp) : Chunk :=
  let k := w.chunk
  a.chunk { k with
    start := if old.chunk.start.isNone then some old.regs else old.chunk.start
    rpc := if old.chunk.start.isNone then g.f.pc else old.chunk.rpc
    lastPc := g.f.pc
    lastFrag := g.f.id
    count := k.count + 1
    reads := if a.reads.isEmpty then k.reads else nub (k.reads ++ a.reads.map Place.word)
    writes := if a.touches.isEmpty && a.stores.isEmpty then k.writes
              else nub (k.writes ++ (a.touches ++ a.stores.map (·.1)).map Place.word)
    seen := if a.reads.isEmpty then k.seen
            else nub (k.seen ++ (a.reads.map Place.word).filter (fun p => p.space == .mem && !coveredBy k.bytes p))
    undo := nub (k.undo ++ g.keys n)
    bytes := a.stores.reverse ++ k.bytes
    pages := if a.pages.isEmpty then k.pages else nub (k.pages ++ a.pages)
    after := k.after ++ a.after
    phase := if endsAfter old k a then .ended else .open_ }

/-- The fragment after its slot has issued (R43, R369). -/
def passedSlot (c : Ctl) (s : State) (a : Act) (f : Frag) : Frag :=
  { f with
    pc := if a.stays then f.pc else nextPc f.pc
    last := s.model.cycle
    since := s.dev.wall.toNat
    yields := c.y && !c.sw
    ask := none }

/-- The accesses an instruction of a deterministic launch leaves for the race rule (R263 to R265). -/
def accessesOf (s : State) (w : Warp) (f : Frag) (a : Act) : List Access :=
  if !w.det then [] else
  let one (write : Bool) (p : Place) : Access :=
    { tree := treeOf s w, warp := w.id, key := warpKey s w, thread := threadOf w.id f.id,
      stamp := clockGet f.clock (threadOf w.id f.id), place := p, path := w.path, write := write, kind := a.kind p, pc := f.pc,
      clock := f.clock }
  (nub (a.reads.map Place.word)).map (one false) ++ (nub ((a.touches ++ a.stores.map (·.1)).map Place.word)).map (one true)

/-- The warp after an instruction has issued (DEDUCED, log 34). -/
def issued (c : Ctl) (n : Need) (s : State) (old : Warp) (g : Go) (a : Act) : Warp :=
  let w1 := putResults c n s.model.cycle g a g.w
  let w2 := { w1 with
    chunk := { recordChunk old n g a w1 with accesses := w1.chunk.accesses ++ accessesOf s old g.f a }
    regs := { w1.regs.mapFrag g.f.id (passedSlot c s a) with sib := if g.lanes.isEmpty then w1.regs.sib else noteSiblings n w1 g.f }
    stallUntil := s.model.cycle + max c.stall.toNat 1
    holds := if c.sw then w1.holds ++ [.switch] else w1.holds
    nextSeq := w1.nextSeq + 1 }
  a.warp w2

/-- The chunk ends before the instruction, which issues again in the next chunk (R225). -/
def Warp.closed (w : Warp) : Warp := { w with chunk := { w.chunk with phase := .ended } }

/-- A tagged instruction's translation completes after its issue, and has failed (R266; DESIGN CHOICE, log 104). -/
def lateFault (c : Ctl) (n : Need) (s : State) (t : TrapReq) : Bool :=
  s.model.late && n.lat == 0 && c.alloc != 0 && (t.cause == .xlateMiss || t.cause == .xlateProt)

/-- Note what a fragment's attempt to issue waits for (R392, R485). -/
def noteAsk (fid : Nat) (a : Option Ask) (w : Warp) : Warp := { w with regs := w.regs.mapFrag fid (fun f => { f with ask := a }) }

/-- The updates of an instruction that passed its gate (DESIGN CHOICE, log 11). -/
def finish (c : Ctl) (n : Need) (s : State) (old : Warp) (g : Go) (a : Act) : List Upd :=
  if a.wait then andThen (fun _ => [.warp (noteAsk g.f.id a.ask old)]) a.waitUpds s
  else if a.endBefore || overLimit g.w.chunk (g.keys n) a then [.warp old.closed]
  else match a.trap with
  | some t =>
    if lateFault c n s t then g.upds ++ [.warp (issued c n s old g { awaits := .late, raises := some t })] else
    andThen (onWarp old.id a.atTrap) (takeTrap old.id g.f.id (if c.alloc = 0 then [] else [c.alloc.toNat]) t) s
  | none =>
    match (if n.lat != 0 || c.alloc = 0 then (raisedTrap c n g a).or a.raises else none) with
    | some t => takeTrap old.id g.f.id [] t s
    | none => andThen (fun _ => g.upds ++ [.warp (issued c n s old g a)]) a.upds s

/-- What issuing an instruction of a fragment does: gate, effect, results. With no executing lane it has no effect beyond its control
fields (R57), unless idle gives one (DESIGN CHOICE, log 11). -/
def issueScript (c : Ctl) (n : Need) (idle : Go → Act) (body : Go → Act) (s : State) (w : Warp) (f : Frag) : List Upd :=
  match gate c n s w f with
  | .wait port => [.warp (noteAsk f.id (port.map .queue) w)]
  | .endChunk => [.warp w.closed]
  | .trap t own => takeTrap w.id f.id (if own then [c.alloc.toNat] else []) t s
  | .go g => finish c n s w g (if g.lanes.isEmpty then idle g else body g)

/-- Issue an instruction of the current fragment. -/
def issueWith (c : Ctl) (n : Need) (idle : Go → Act) (body : Go → Act) (s : State) : Host.Outcome State Fault Refusal :=
  match s.current with
  | none => .fault .noCurrentWarp
  | some (w, f) => .next (s.run (issueScript c n idle body s w f))

/-- Issue an instruction that does nothing without an executing lane. -/
def issue (c : Ctl) (n : Need) (body : Go → Act) (s : State) : Host.Outcome State Fault Refusal :=
  issueWith c n (fun _ => { }) body s

/-! ### Drains (R66, R210, R297) -/

/-- A committed pass or quarter copy of the warp is not complete (R210). -/
def passesOpen (s : State) (wid : Nat) : Bool :=
  s.mat.entries.any (fun e => e.warp == wid && e.committed) || s.mat.copies.any (fun c => c.warp == wid && c.committed)

/-- A tag that a drain takes: every one but those whose results return only after their own chunk's commit (R233). -/
def drains (w : Warp) (e : TagEntry) : Bool := !(e.own && (newTags w).any (fun x => x.seq == e.seq))

/-- A warp in its task's save handler waits for the task's passes and window copies (R387). -/
def saveWaits (s : State) (w : Warp) : Bool :=
  (s.task? w.task).any (fun t => t.phase == 1 && (t.windows.any (fun x => x.state == 2)
    || s.mat.entries.any (fun e => e.task == t.id && e.committed) || s.mat.copies.any (fun c => c.task == t.id && c.committed)))

/-- A drain waits: a tag has not returned, or, unless a deferred command makes it, a pass or copy is not complete (R66, R210, R387). -/
def drainWaits (s : State) (w : Warp) (deferred : Bool) : Bool :=
  w.regs.tags.any (fun e => drains w e && !e.returned) || (!deferred && passesOpen s w.id) || saveWaits s w

/-- Flags of work that stands that a drain delivers: those of REDs, and those of passes unless a deferred command makes the drain (R210,
R284). -/
def Warp.dueFlags (deferred : Bool) (w : Warp) : List (Flags × DWord) := (if deferred then [] else w.passFlags) ++ w.drainFlags

/-- FP_TRAP at a drain point for flags of work that stands (R96, R210, R284; DEDUCED, log 28; DEDUCED, log 58; DEDUCED, log 76). -/
def drainFlagTrap (deferred : Bool) (w : Warp) : Option (Flags × DWord) :=
  (w.dueFlags deferred).find? (fun x => trappingFlags w.regs.fpctl x.1 != 0)

/-- FP_TRAP for the flags of work that stands. -/
def standingTrap (w : Warp) (x : Flags × DWord) : TrapReq :=
  { raise .fpTrap with ppc := some x.2, d17 := (trappingFlags w.regs.fpctl x.1).setWidth 32, d18 := x.1.setWidth 32 }

/-- The lanes that register writes go to; lane 0 for uniform ones. -/
def writeLanes (ws : List RegWrite) : LaneMask :=
  maskOf (ws.map (fun x => match x with
    | .v _ l _ _ => l
    | .p _ l _ => l
    | .u .. => 0
    | .m .. => 0))

/-- A tag gains a result with its flags after its chunk's commit; FP_TRAP waits for its consumer (R96, R284). -/
def TagEntry.gain (fpctl : Word) (ws : List RegWrite) (fl : Flags) (e : TagEntry) : TagEntry :=
  let all := e.flags ||| fl
  let old : LaneMask := (e.raises.bind (·.lanes)).getD 0
  { e with
    writes := e.writes ++ ws
    flags := all
    raises := if (e.raises.any (fun t => t.cause != .fpTrap)) || trappingFlags fpctl all = 0 then e.raises else
      some { raise .fpTrap with
        lanes := some (if trappingFlags fpctl fl = 0 then old else old ||| writeLanes ws)
        ppc := some e.pc, d17 := (trappingFlags fpctl all).setWidth 32, d18 := all.setWidth 32 } }

/-- What a drain raises, and the warp to which it is delivered: a fault of an engine or pass, what a held result raises, the flags of
work that stands (DEDUCED, log 58). -/
def drainTrapOf (deferred : Bool) (w : Warp) : Option (TrapReq × (Warp → Warp)) :=
  match w.pending with
  | t :: _ => some (t, fun v => { v with pending := v.pending.drop 1 })
  | [] =>
    match w.consumeTrap (drains w) with
    | some t => some (t, id)
    | none =>
      (drainFlagTrap deferred w).map (fun x =>
        (standingTrap w x,
         fun v => if v.drainFlags.contains x then { v with drainFlags := v.drainFlags.erase x } else { v with passFlags := v.passFlags.erase x }))

/-- What a drain that no deferred command makes raises (DEDUCED, log 58). -/
def drainTrap (w : Warp) : Option (TrapReq × (Warp → Warp)) := drainTrapOf false w

/-- Flags of work that stands go into FPSTAT, and into the FPSTAT of the open chunk's start: a squash does not take them back (R210). -/
def Warp.deliverFlags (deferred : Bool) (w : Warp) : Warp :=
  let fl := (w.dueFlags deferred).foldl (fun m x => m ||| x.1) 0
  { w with
    regs := { w.regs with fpstat := fpstatOr w.regs.fpstat fl }
    chunk := { w.chunk with start := w.chunk.start.map (fun r => { r with fpstat := fpstatOr r.fpstat fl }) }
    drainFlags := []
    passFlags := if deferred then w.passFlags else [] }

/-- The warp after a drain: results written, tags freed, flags ORed in. -/
def Warp.drainOf (deferred : Bool) (w : Warp) : Warp := (w.consume (drains w)).deliverFlags deferred

/-- The warp after a drain that no deferred command makes. -/
def Warp.drain (w : Warp) : Warp := w.drainOf false

/-! ### Register results -/

/-- One 32-bit result per executing lane in vector register d, or one in uniform register d with U = 1 (R48, R58). -/
def putWord (u : Bool) (d : Nat) (ls : List Nat) (f : Nat → Word) : List RegWrite :=
  ls.map (fun l => if u then .u d (f l) false else .v d l (f l) false)

/-- The same for a pair. -/
def putPair (u : Bool) (d : Nat) (ls : List Nat) (f : Nat → DWord) : List RegWrite :=
  ls.flatMap (fun l => [if u then .u d (lowWord (f l)) false else .v d l (lowWord (f l)) false,
                        if u then .u (d + 1) (highWord (f l)) false else .v (d + 1) l (highWord (f l)) false])

/-- The same for any number of words. -/
def putWords (u : Bool) (d : Nat) (ls : List Nat) (f : Nat → List Word) : List RegWrite :=
  ls.flatMap (fun l => (f l).zipIdx.map (fun x => if u then .u (d + x.2) x.1 false else .v (d + x.2) l x.1 false))

/-- A predicate result per executing lane (R20). -/
def putPred (p : Nat) (ls : List Nat) (f : Nat → Tri) : List RegWrite := ls.map (fun l => .p p l (bitsOfTri (f l)))

/-- A predicate operand in a lane (R56). -/
def Go.tri (g : Go) (p lane : Nat) : Tri := triOfBits (g.w.regs.pred p lane)

/-- An instruction with one 32-bit result per lane and no flags; lat 0 is a tagged instruction. -/
def aluWord (c : Ctl) (lat : Nat) (d : BitVec 8) (srcs : List Field) (f : Go → Nat → Word) (s : State) :
    Host.Outcome State Fault Refusal :=
  issue c (needs [dstField c.u d 1] srcs lat) (fun g => { writes := putWord c.u d.toNat g.lanes (f g) }) s

/-- The same with a 64-bit result in a pair. -/
def aluPair (c : Ctl) (lat : Nat) (d : BitVec 8) (srcs : List Field) (f : Go → Nat → DWord) (s : State) :
    Host.Outcome State Fault Refusal :=
  issue c (needs [dstField c.u d 2] srcs lat) (fun g => { writes := putPair c.u d.toNat g.lanes (f g) }) s

/-- An instruction that writes a predicate and no register. -/
def aluPred (c : Ctl) (lat : Nat) (pd : BitVec 3) (srcs : List Field) (preds : List Nat) (f : Go → Nat → Tri) (s : State) :
    Host.Outcome State Fault Refusal :=
  issue c { needs [] srcs lat with preds := preds, pdsts := [pd.toNat] }
    (fun g => { writes := putPred pd.toNat g.lanes (f g) }) s

/-- An instruction whose results are k words per lane and whose flags arise lane by lane. -/
def aluFlags (c : Ctl) (lat : Nat) (d : BitVec 8) (k : Nat) (srcs : List Field) (f : Go → Nat → List Word × Flags) (s : State) :
    Host.Outcome State Fault Refusal :=
  issue c (needs [dstField c.u d k] srcs lat)
    (fun g => { writes := putWords c.u d.toNat g.lanes (fun l => (f g l).1), flags := g.lanes.map (fun l => (l, (f g l).2)) }) s

end Sys2Proof.Machine
end

