-- ==== Sys2Proof/Machine/Special.lean ====
section
/-! DEFINITION. The special functions of R137 and the enclosing functions of R161. Each computes an enclosure of the exact value in fixed
point; the result is the free value of Config where that lies inside the bound the manual gives, else the enclosure rounded. -/

namespace Sys2Proof.Machine

/-- An enclosure of a real: lo * 2^e ≤ x ≤ hi * 2^e. -/
structure Encl where
  lo : Int
  hi : Int
  e : Int
  deriving DecidableEq, Repr

/-- pi/2 scaled by 2^320, rounded down. -/
def halfPi320 : Nat := 0x1921fb54442d18469898cc51701b839a252049c1114cf98e804177d4c76273644a29410f31c6809bb

/-- ln 2 scaled by 2^200, rounded down. -/
def ln2At200 : Nat := 0xb17217f7d1cf79abc9e3b39803f2f6af40f343267298b62d8a

/-- Adds the Taylor terms of e^x: t is the term number k, both scaled by 2^p. -/
def expTaylor (fuel p x k t acc : Nat) : Nat :=
  match fuel with
  | 0 => acc
  | n + 1 =>
    let t' := t * x / 2 ^ p / k
    expTaylor n p x (k + 1) t' (acc + t')

/-- e^x for x in [0, 1), scaled by 2^200, to within 2^20 units. -/
def expFix (x : Nat) : Nat := expTaylor 70 200 x 1 (2 ^ 200) (2 ^ 200)

/-- Alternating Taylor terms of sine (from the term x) and cosine (from the term 1), scaled by 2^p. -/
def trigTaylor (fuel p x k : Nat) (t acc : Int) : Int :=
  match fuel with
  | 0 => acc
  | n + 1 =>
    let t' := -(t * (x * x : Nat) / 2 ^ (2 * p) / ((k + 1) * (k + 2) : Nat))
    trigTaylor n p x (k + 2) t' (acc + t')

/-- The fraction bits of log2 y for y in [1, 2) scaled by 2^200, n of them. -/
def log2Bits (n y acc : Nat) : Nat :=
  match n with
  | 0 => acc
  | k + 1 =>
    let y2 := y * y / 2 ^ 200
    if 2 ^ 201 ≤ y2 then log2Bits k (y2 / 2) (2 * acc + 1) else log2Bits k y2 (2 * acc)

/-- Enclosure of 2^x for x = n * 2^(-200), exact where x is an integer. -/
def enclExp2 (n : Int) : Encl :=
  let i := n / 2 ^ 200
  let fr := (n % 2 ^ 200).toNat
  if fr = 0 then ⟨1, 1, i⟩
  else
    let v := expFix (fr * ln2At200 / 2 ^ 200)
    ⟨(v : Int) - 2 ^ 20, (v : Int) + 2 ^ 20, i - 200⟩

/-- Enclosure of log2 of m * 2^e, exact for a power of two. -/
def enclLog2 (m : Nat) (e : Int) : Encl :=
  let l := Nat.log2 m
  let i := (l : Int) + e
  if m = 2 ^ l then ⟨i, i, 0⟩
  else
    let y := m * 2 ^ 200 / 2 ^ l
    let v := i * 2 ^ 96 + (log2Bits 96 y 0 : Nat)
    ⟨v - 2, v + 2, -96⟩

/-- Enclosure of the sine (or cosine) of |x| for |x| = m * 2^e. The reduction is exact to 2^(-190) at any FP32 magnitude. -/
def enclTrig (cosine : Bool) (m : Nat) (e : Int) : Encl :=
  let x := (roundShift .rz false m (-(e + 320))).1
  let k := x / halfPi320
  let r := (x % halfPi320) / 2 ^ 160
  let s := trigTaylor 40 160 r 1 r r
  let c := trigTaylor 40 160 r 0 (2 ^ 160) (2 ^ 160)
  let q := (k + if cosine then 1 else 0) % 4
  let v : Int := if q = 0 then s else if q = 1 then c else if q = 2 then -s else -c
  ⟨v - 2 ^ 20, v + 2 ^ 20, -160⟩

/-- Enclosure of tanh |x| for |x| = m * 2^e, m not 0. -/
def enclTanh (m : Nat) (e : Int) : Encl :=
  let l := (Nat.log2 m : Int) + e
  if l < -16 then
    let hi : Nat := m * 2 ^ 60
    let cube := (roundShift .rz false (m * m * m) (-(2 * e + 60))).1 / 3
    ⟨(hi : Int) - cube - 1, hi, e - 60⟩
  else if 5 ≤ l then ⟨2 ^ 60 - 1, 2 ^ 60, -60⟩
  else
    let y := (roundShift .rz false m (-(e + 201))).1
    let q := y / ln2At200
    let r := y % ln2At200
    let ex := expFix r * 2 ^ q
    let v : Nat := (ex - 2 ^ 200) * 2 ^ 200 / (ex + 2 ^ 200)
    ⟨(v : Int) - 2 ^ 40, (v : Int) + 2 ^ 40, -200⟩

/-- Enclosure of 1 / (m * 2^e), exact for a power of two. -/
def enclRcp (m : Nat) (e : Int) : Encl :=
  let k := 80 + Nat.log2 m
  let q : Nat := 2 ^ k / m
  ⟨q, if m * q = 2 ^ k then (q : Int) else (q : Int) + 1, -(k : Int) - e⟩

/-- Enclosure of 1 / sqrt (m * 2^e). -/
def enclRsq (m : Nat) (e : Int) : Encl :=
  let k0 := 200 + Nat.log2 m
  let k := if ((k0 : Int) + e) % 2 = 0 then k0 else k0 + 1
  let s := isqrt (2 ^ k / m)
  ⟨s, (s : Int) + 1, -((k : Int) + e) / 2⟩

/-- The enclosure of -x. -/
def Encl.neg (x : Encl) : Encl := ⟨-x.hi, -x.lo, x.e⟩

/-- Rounds an enclosure: its exact value where it is a point, a point strictly inside it otherwise. -/
def roundEncl (denorm : Bool) (f : FSpec) (mode : RMode) (x : Encl) : Nat × Flags :=
  if x.lo = x.hi then roundInt denorm f mode false x.lo x.e
  else roundInt denorm f mode false (2 * x.lo + 1) (x.e - 1)

/-- Whether the value v lies within n * 2^b of some real of the enclosure. -/
def withinOf (v : FVal) (x : Encl) (n : Nat) (b : Int) : Bool :=
  match v with
  | .fin s m e =>
    let g := min e (min x.e b)
    let w := alignTo g s m e
    let bd := (n : Int) * 2 ^ (b - g).toNat
    let lo := x.lo * 2 ^ (x.e - g).toNat
    let hi := x.hi * 2 ^ (x.e - g).toNat
    decide (lo - bd ≤ w) && decide (w ≤ hi + bd)
  | .nan _ => false
  | .inf _ => false

/-- The unit in the last place at the enclosed real, as an exponent (R87's grid); at 0 that of the subnormal grid. -/
def ulpExp (f : FSpec) (x : Encl) : Int :=
  if x.lo = 0 then gridExp f (1 - (f.bias : Int)) else gridExp f ((Nat.log2 x.lo.natAbs : Int) + x.e)

/-- Flags of a special result (R87, R137): NX, and UF where the value returned is below MinN, also where it is exact (DESIGN CHOICE, log 110). -/
def specialFlags (f : FSpec) (enc : Nat) : Flags :=
  flagNX ||| flagIf (decide (enc / 2 ^ f.frac % 2 ^ f.expBits = 0)) flagUF

/-- A special function's result: exact, or the free value where it is within the bound n * 2^b, or the enclosure rounded (R137;
DEDUCED, log 7; DESIGN CHOICE, log 80). -/
def specialResult (denorm : Bool) (f : FSpec) (exact : Bool) (x : Encl) (n : Nat) (b : Int) (free : Nat) : Nat × Flags :=
  let r := roundEncl denorm f .rn x
  if exact then r
  else if isInfVal (decodeF f r.1) then r
  else
    let v := free % 2 ^ f.width
    if withinOf (decodeF f v) x n b then flushResult denorm f (v, specialFlags f v)
    else (r.1, r.2 ||| specialFlags f r.1)

/-- The special functions (R137). -/
inductive SpFn where
  | rcp | rsq | ex2 | lg2 | sin | cos | tanh
  deriving DecidableEq, Repr

/-- The code of a function in Config.specialBits. -/
def spCode (fn : SpFn) : Nat :=
  match fn with
  | .rcp => 0 | .rsq => 1 | .ex2 => 2 | .lg2 => 3 | .sin => 4 | .cos => 5 | .tanh => 6

/-- x = m * 2^e scaled by 2^200, brought inside +-2^13, for the exponent functions. -/
def fix200 (neg : Bool) (m : Nat) (e : Int) : Int :=
  if 13 < (Nat.log2 m : Int) + e then (if neg then -(2 ^ 213) else 2 ^ 213)
  else
    let r := roundShift .rz false m (-(e + 200))
    if neg then -(r.1 : Int) - (if r.2 then 1 else 0) else r.1

/-- The function of a finite non-zero operand of the domain (R137). -/
def specialFin (fn : SpFn) (denorm : Bool) (f : FSpec) (free : Nat) (neg : Bool) (m : Nat) (e : Int) : Nat × Flags :=
  match fn with
  | .rcp =>
    let x := enclRcp m e
    let x' := if neg then x.neg else x
    let r := roundEncl false f .rn x'
    let exact := decide (x.lo = x.hi) && !isSubnormalEnc f r.1 && !isInfVal (decodeF f r.1)
    specialResult denorm f exact x' 1 (ulpExp f x) free
  | .rsq =>
    let x := enclRsq m e
    specialResult denorm f false x 2 (ulpExp f x) free
  | .ex2 =>
    let x := enclExp2 (fix200 neg m e)
    let exact := decide (x.lo = x.hi) && !isSubnormalEnc f (roundEncl false f .rn x).1
      && decide (0 < (roundEncl false f .rn x).1)
    specialResult denorm f exact x 2 (ulpExp f x) free
  | .lg2 =>
    let x := enclLog2 m e
    let inside := decide ((Nat.log2 m : Int) + e = 0 ∨ (Nat.log2 m : Int) + e = -1)
    specialResult denorm f (decide (x.lo = x.hi)) x (if inside then 1 else 2) (if inside then -22 else ulpExp f x) free
  | .sin =>
    let x := enclTrig false m e
    specialResult denorm f false (if neg then x.neg else x) 1 (-22) free
  | .cos => specialResult denorm f false (enclTrig true m e) 1 (-22) free
  | .tanh =>
    let x := enclTanh m e
    let x' := if neg then x.neg else x
    specialResult denorm f false x' 2 (ulpExp f x) free

/-- The table of special operands, and the finite ones (R137; DEDUCED, log 7). -/
def specialVal (fn : SpFn) (denorm : Bool) (f : FSpec) (free : Nat) (a : FVal) : Nat × Flags :=
  let one := encodeVal f (.fin false 1 0)
  match a with
  | .nan s => nanResult f s
  | .inf neg =>
    match fn with
    | .rcp => (zeroEnc f neg, 0)
    | .rsq => if neg then nanResult f true else (zeroEnc f false, 0)
    | .ex2 => (if neg then zeroEnc f false else infEnc f false, 0)
    | .lg2 => if neg then nanResult f true else (infEnc f false, 0)
    | .sin => nanResult f true
    | .cos => nanResult f true
    | .tanh => (signBit f neg + one, 0)
  | .fin neg m e =>
    if m = 0 then
      match fn with
      | .rcp => (infEnc f neg, flagDZ)
      | .rsq => (infEnc f neg, flagDZ)
      | .ex2 => (one, 0)
      | .lg2 => (infEnc f true, flagDZ)
      | .sin => (zeroEnc f neg, 0)
      | .cos => (one, 0)
      | .tanh => (zeroEnc f neg, 0)
    else if neg && (decide (fn = .rsq) || decide (fn = .lg2)) then nanResult f true
    else specialFin fn denorm f free neg m e

/-- A special function of an operand in FP32 or FP64, or in FP16 or BF16 through the FP32 result rounded once more (R137; DEDUCED, log 7).
That FP32 result is not flushed, and whether a result is normal, and so exact, is judged on it (DESIGN CHOICE, log 80). -/
def specialFn (fn : SpFn) (denorm : Bool) (fmt : FFmt) (bits : Nat) : Nat × Flags :=
  let f := fspec fmt
  let a := readF denorm f bits
  if f.width = 16 then
    let r := specialVal fn false specF32 (Config.specialBits (spCode fn) specF32.width (encodeVal specF32 a.1)) a.1
    let s := convertVal denorm f .rn (decodeF specF32 r.1)
    (s.1, a.2 ||| r.2 ||| s.2)
  else
    let r := specialVal fn denorm f (Config.specialBits (spCode fn) f.width (encodeVal f a.1)) a.1
    (r.1, a.2 ||| r.2)

end Sys2Proof.Machine
end

