-- ==== Sys2Proof/Machine/FloatI.lean ====
section
/-! DEFINITION. The floating-point instructions (R131 to R141). -/

namespace Sys2Proof.Machine

/-- DETCTL.DENORM of a warp (R24, R92). -/
def Warp.denorm (w : Warp) : Bool := w.detctl.getLsbD 1

/-- A floating-point operand field as bits: a pair at FP64, else one register (R131, R133). -/
def Go.fop (g : Go) (fmt : FFmt) (i lane : Nat) : Nat :=
  if fmt = .f64 then (g.rd2 i 0 lane).toNat else (g.rd i 0 lane).toNat

/-- Apply an element function to each element of the operands and put the results back (R116, R131). -/
def perElement (fmt : FFmt) (op : List Nat → Nat × Flags) (xs : List Nat) : List Word × Flags :=
  match fmt with
  | .f64 => let r := op xs; ([BitVec.ofNat 32 r.1, BitVec.ofNat 32 (r.1 / 2 ^ 32)], r.2)
  | .f32 => let r := op xs; ([BitVec.ofNat 32 r.1], r.2)
  | .f16 => let r := op (xs.map (· % 2 ^ 16)); ([BitVec.ofNat 32 r.1], r.2)
  | .bf16 => let r := op (xs.map (· % 2 ^ 16)); ([BitVec.ofNat 32 r.1], r.2)
  | .f16x2 =>
    let r := op (xs.map (· % 2 ^ 16)); let t := op (xs.map (· / 2 ^ 16)); ([BitVec.ofNat 32 (r.1 + t.1 * 2 ^ 16)], r.2 ||| t.2)
  | .bf16x2 =>
    let r := op (xs.map (· % 2 ^ 16)); let t := op (xs.map (· / 2 ^ 16)); ([BitVec.ofNat 32 (r.1 + t.1 * 2 ^ 16)], r.2 ||| t.2)
  | .e5m2 => ([], 0)
  | .e4m3 => ([], 0)
  | .e3m2 => ([], 0)
  | .e2m3 => ([], 0)
  | .e2m1 => ([], 0)

/-- The spec of one element of an arithmetic format. -/
def elemSpec (fmt : FFmt) : FSpec := fspec fmt

/-- An element function of values already read, with the flags of reading (R92, R116). -/
def onVals (denorm : Bool) (f : FSpec) (op : List FVal → Nat × Flags) (xs : List Nat) : Nat × Flags :=
  let rs := xs.map (readF denorm f)
  let r := op (rs.map (·.1))
  (r.1, rs.foldl (fun m x => m ||| x.2) r.2)

/-- Value i of a list of operands. -/
def valAt (vs : List FVal) (i : Nat) : FVal := vs.getD i (.nan false)

/-- The latency of a fixed-latency floating-point instruction (R60). -/
def fpLat (fmt : FFmt) : Nat := if fmt = .f64 then 7 else 5

/-- A floating-point instruction of n operands of the format. -/
def fpInstr (c : Ctl) (lat : Nat) (fmt : FFmt) (d : BitVec 8) (srcs : List Src)
    (op : Warp → List FVal → Nat × Flags) (s : State) : Host.Outcome State Fault Refusal :=
  aluFlags c lat d (ffmtRegs fmt) (srcs.map (fun a => srcField a (ffmtRegs fmt)))
    (fun g l => perElement fmt (onVals g.w.denorm (elemSpec fmt) (op g.w)) ((List.range srcs.length).map (fun i => g.fop fmt i l))) s

/-- FADD (R132, R134). -/
def execFadd (c : Ctl) (fmt : FFmt) (rnd : Rnd) (d : BitVec 8) (a b : Src) (s : State) : Host.Outcome State Fault Refusal :=
  fpInstr c (fpLat fmt) fmt d [a, b]
    (fun w v => addVals w.denorm (elemSpec fmt) (rmodeOf w.regs.fpctl rnd) (valAt v 0) (valAt v 1)) s

/-- FSUB (R132, R134). -/
def execFsub (c : Ctl) (fmt : FFmt) (rnd : Rnd) (d : BitVec 8) (a b : Src) (s : State) : Host.Outcome State Fault Refusal :=
  fpInstr c (fpLat fmt) fmt d [a, b]
    (fun w v => addVals w.denorm (elemSpec fmt) (rmodeOf w.regs.fpctl rnd) (valAt v 0) (negVal (valAt v 1))) s

/-- FMUL (R132, R134). -/
def execFmul (c : Ctl) (fmt : FFmt) (rnd : Rnd) (d : BitVec 8) (a b : Src) (s : State) : Host.Outcome State Fault Refusal :=
  fpInstr c (fpLat fmt) fmt d [a, b]
    (fun w v => mulVals w.denorm (elemSpec fmt) (rmodeOf w.regs.fpctl rnd) (valAt v 0) (valAt v 1)) s

/-- FFMA (R132, R134). -/
def execFfma (c : Ctl) (fmt : FFmt) (rnd : Rnd) (d : BitVec 8) (a b e : Src) (s : State) : Host.Outcome State Fault Refusal :=
  fpInstr c (fpLat fmt) fmt d [a, b, e]
    (fun w v => fmaVals w.denorm (elemSpec fmt) (rmodeOf w.regs.fpctl rnd) (valAt v 0) (valAt v 1) (valAt v 2)) s

/-- FMIN (R132, R135). -/
def execFmin (c : Ctl) (fmt : FFmt) (nan : Bool) (d : BitVec 8) (a b : Src) (s : State) : Host.Outcome State Fault Refusal :=
  fpInstr c (fpLat fmt) fmt d [a, b] (fun _ v => minMaxVals (elemSpec fmt) false nan (valAt v 0) (valAt v 1)) s

/-- FMAX (R132, R135). -/
def execFmax (c : Ctl) (fmt : FFmt) (nan : Bool) (d : BitVec 8) (a b : Src) (s : State) : Host.Outcome State Fault Refusal :=
  fpInstr c (fpLat fmt) fmt d [a, b] (fun _ v => minMaxVals (elemSpec fmt) true nan (valAt v 0) (valAt v 1)) s

/-- FCMP (R132, R136). -/
def execFcmp (c : Ctl) (fmt : FFmt) (cc : CmpCode) (pd : BitVec 3) (a b : Src) (s : State) : Host.Outcome State Fault Refusal :=
  issue c { needs [] [srcField a (ffmtRegs fmt), srcField b (ffmtRegs fmt)] (fpLat fmt) with pdsts := [pd.toNat] }
    (fun g =>
      let f := elemSpec fmt
      let r (l : Nat) : Tri × Flags :=
        let x := readF g.w.denorm f (g.fop fmt 0 l % 2 ^ f.width)
        let y := readF g.w.denorm f (g.fop fmt 1 l % 2 ^ f.width)
        let t := fcmpVals cc x.1 y.1
        (t.1, x.2 ||| y.2 ||| t.2)
      { writes := putPred pd.toNat g.lanes (fun l => (r l).1), flags := g.lanes.map (fun l => (l, (r l).2)) }) s

/-- A special function of R137. -/
def spInstr (c : Ctl) (fn : SpFn) (fmt : FFmt) (d : BitVec 8) (a : Src) (s : State) : Host.Outcome State Fault Refusal :=
  aluFlags c 0 d (ffmtRegs fmt) [srcField a (ffmtRegs fmt)]
    (fun g l => perElement fmt (fun xs => specialFn fn g.w.denorm fmt (xs.headD 0)) [g.fop fmt 0 l]) s

/-- FRCP (R132, R137). -/
def execFrcp (c : Ctl) (fmt : FFmt) (d : BitVec 8) (a : Src) (s : State) : Host.Outcome State Fault Refusal :=
  spInstr c .rcp fmt d a s

/-- FRSQ (R132, R137). -/
def execFrsq (c : Ctl) (fmt : FFmt) (d : BitVec 8) (a : Src) (s : State) : Host.Outcome State Fault Refusal :=
  spInstr c .rsq fmt d a s

/-- FEX2 (R132, R137). -/
def execFex2 (c : Ctl) (fmt : FFmt) (d : BitVec 8) (a : Src) (s : State) : Host.Outcome State Fault Refusal :=
  spInstr c .ex2 fmt d a s

/-- FLG2 (R132, R137). -/
def execFlg2 (c : Ctl) (fmt : FFmt) (d : BitVec 8) (a : Src) (s : State) : Host.Outcome State Fault Refusal :=
  spInstr c .lg2 fmt d a s

/-- FSIN (R132, R137). -/
def execFsin (c : Ctl) (fmt : FFmt) (d : BitVec 8) (a : Src) (s : State) : Host.Outcome State Fault Refusal :=
  spInstr c .sin fmt d a s

/-- FCOS (R132, R137). -/
def execFcos (c : Ctl) (fmt : FFmt) (d : BitVec 8) (a : Src) (s : State) : Host.Outcome State Fault Refusal :=
  spInstr c .cos fmt d a s

/-- FTANH (R132, R137). -/
def execFtanh (c : Ctl) (fmt : FFmt) (d : BitVec 8) (a : Src) (s : State) : Host.Outcome State Fault Refusal :=
  spInstr c .tanh fmt d a s

/-- FSQRT, correctly rounded, tagged (R132, R137). -/
def execFsqrt (c : Ctl) (fmt : FFmt) (rnd : Rnd) (d : BitVec 8) (a : Src) (s : State) : Host.Outcome State Fault Refusal :=
  fpInstr c 0 fmt d [a] (fun w v => sqrtVal w.denorm (elemSpec fmt) (rmodeOf w.regs.fpctl rnd) (valAt v 0)) s

/-- FDIV, correctly rounded, tagged (R132, R137). -/
def execFdiv (c : Ctl) (fmt : FFmt) (rnd : Rnd) (d : BitVec 8) (a b : Src) (s : State) : Host.Outcome State Fault Refusal :=
  fpInstr c 0 fmt d [a, b] (fun w v => divVals w.denorm (elemSpec fmt) (rmodeOf w.regs.fpctl rnd) (valAt v 0) (valAt v 1)) s

/-- FCLASS: the encoding as it stands; D is one register (R133, R138). -/
def execFclass (c : Ctl) (fmt : FFmt) (d : BitVec 8) (a : Src) (s : State) : Host.Outcome State Fault Refusal :=
  aluWord c (fpLat fmt) d [srcField a (ffmtRegs fmt)]
    (fun g l => BitVec.ofNat 32 (fclassBits (elemSpec fmt) (g.fop fmt 0 l % 2 ^ (elemSpec fmt).width))) s

/-- FRND (R132, R139). -/
def execFrnd (c : Ctl) (fmt : FFmt) (rnd : Rnd) (x : Bool) (d : BitVec 8) (a : Src) (s : State) : Host.Outcome State Fault Refusal :=
  fpInstr c (fpLat fmt) fmt d [a] (fun w v => frndVal (elemSpec fmt) (rmodeOf w.regs.fpctl rnd) x (valAt v 0)) s

/-- FSCALE: B is one register at every format (R133, R140). -/
def execFscale (c : Ctl) (fmt : FFmt) (rnd : Rnd) (d : BitVec 8) (a b : Src) (s : State) : Host.Outcome State Fault Refusal :=
  aluFlags c (fpLat fmt) d (ffmtRegs fmt) [srcField a (ffmtRegs fmt), srcField b 1]
    (fun g l => perElement fmt
      (onVals g.w.denorm (elemSpec fmt) (fun v =>
        fscaleVal g.w.denorm (elemSpec fmt) (rmodeOf g.w.regs.fpctl rnd) (valAt v 0) (g.rd 1 0 l).toInt)) [g.fop fmt 0 l]) s

/-- FGETEXP: D is one register at every format (R133, R141). -/
def execFgetexp (c : Ctl) (fmt : FFmt) (d : BitVec 8) (a : Src) (s : State) : Host.Outcome State Fault Refusal :=
  aluFlags c (fpLat fmt) d 1 [srcField a (ffmtRegs fmt)]
    (fun g l =>
      let x := readF g.w.denorm (elemSpec fmt) (g.fop fmt 0 l % 2 ^ (elemSpec fmt).width)
      let r := fgetexpVal x.1
      ([BitVec.ofInt 32 r.1], x.2 ||| r.2)) s

end Sys2Proof.Machine
end

