-- ==== Sys2Proof/Machine/Gkc.lean ====
section
/-! DEFINITION. The keyed counter generator (R107). -/

namespace Sys2Proof.Machine

/-- The four words of the generator's state. -/
structure GkcState where
  x0 : Word
  x1 : Word
  x2 : Word
  x3 : Word
  deriving DecidableEq, Repr

/-- The key words k[0..4] (R107). -/
def gkcKey (key : BitVec 128) (i : Nat) : Word :=
  let k0 := key.extractLsb' 64 32
  let k1 := key.extractLsb' 96 32
  let k2 := key.extractLsb' 0 32
  let k3 := key.extractLsb' 32 32
  match i % 5 with
  | 0 => k0
  | 1 => k1
  | 2 => k2
  | 3 => k3
  | _ => k0 ^^^ k1 ^^^ k2 ^^^ k3 ^^^ 0xA5C31E47

/-- Inject(j) (R107). -/
def gkcInject (key : BitVec 128) (j : Nat) (s : GkcState) : GkcState :=
  ⟨s.x0 + gkcKey key j, s.x1 + gkcKey key (j + 1), s.x2 + gkcKey key (j + 2),
    s.x3 + gkcKey key (j + 3) + BitVec.ofNat 32 j⟩

/-- One round with its two rotations (R107). -/
def gkcRound (ra rb : Nat) (s : GkcState) : GkcState :=
  let x0 := s.x0 + s.x1
  let x1 := s.x1.rotateLeft ra ^^^ x0
  let x2 := s.x2 + s.x3
  let x3 := s.x3.rotateLeft rb ^^^ x2
  ⟨x0, x3, x2, x1⟩

/-- GKC(key, ctr) (R107). -/
def gkc (key ctr : BitVec 128) : BitVec 128 :=
  let s := gkcInject key 0 ⟨ctr.extractLsb' 0 32, ctr.extractLsb' 32 32, ctr.extractLsb' 64 32, ctr.extractLsb' 96 32⟩
  let s := gkcInject key 1 (gkcRound 11 25 (gkcRound 7 21 s))
  let s := gkcInject key 2 (gkcRound 28 14 (gkcRound 19 3 s))
  let s := gkcInject key 3 (gkcRound 17 9 (gkcRound 5 23 s))
  let s := gkcInject key 4 (gkcRound 2 30 (gkcRound 26 12 s))
  let s := gkcInject key 5 (gkcRound 9 18 (gkcRound 15 27 s))
  s.x3 ++ s.x2 ++ s.x1 ++ s.x0

/-- Four words as a 128-bit value, the most significant first. -/
def cat4 (a b c d : Word) : BitVec 128 := a ++ b ++ c ++ d

/-- Two doublewords as a 128-bit value, the most significant first. -/
def cat2 (a b : DWord) : BitVec 128 := a ++ b

end Sys2Proof.Machine
end

