-- ==== Sys2Proof/Machine/Conv.lean ====
section
/-! DEFINITION. Conversions and block quantisation (R142 to R153). -/

namespace Sys2Proof.Machine

/-- The launch seed of a warp (R109, R354); 0 where there is no descriptor (R435), and for a handler task,
to which R471 gives no seed (DESIGN CHOICE, log 111). -/
def launchSeed (s : State) (w : Warp) : DWord :=
  match s.launchOf w with
  | none => 0
  | some l => if l.desc.isEmpty then 0 else wpair l.desc 8

/-- STREAM of a lane (R186). -/
def Regs.streamOf (r : Regs) (lane : Nat) : DWord := cellGet r.stream lane

/-- Bits of one element of a register: 4-bit elements stand every 4 bits, 6- and 8-bit ones every 8 (R83). -/
def elemStep (w : Nat) : Nat := if w = 6 then 8 else w

/-- Element idx, w bits wide, of a register (R83, R143). A 32- or 64-bit operand is taken whole. -/
def pickElem (w idx : Nat) (x : Nat) : Nat := if 32 ≤ w then x else x >>> (elemStep w * idx) % 2 ^ w

/-- Put element idx into a register, its other bits kept; a 6-bit element clears the two bits above it (R143). -/
def placeElem (w idx : Nat) (old : Word) (e : Nat) : Word :=
  let n := elemStep w
  let m := (2 ^ n - 1) <<< (n * idx)
  (old &&& ~~~(BitVec.ofNat 32 m)) ||| BitVec.ofNat 32 ((e % 2 ^ w) <<< (n * idx))

/-- The words a conversion writes: a narrow element into the register's element idx, else the whole (R143; DESIGN CHOICE, log 8). -/
def convWords (w idx : Nat) (old : Word) (e : Nat) : List Word :=
  if w = 64 then [BitVec.ofNat 32 e, BitVec.ofNat 32 (e / 2 ^ 32)]
  else if w = 32 then [BitVec.ofNat 32 e]
  else [placeElem w idx old e]

/-- A conversion: element function from source bits to destination bits. A narrow destination is also an operand (R143); a queue
port has no earlier contents and gives zeros (DESIGN CHOICE, log 8). -/
def convInstr (c : Ctl) (dw sw : Nat) (idx : BitVec 3) (d : BitVec 8) (srcs : List Field) (op : Go → Nat → Nat → Nat × Flags)
    (s : State) : Host.Outcome State Fault Refusal :=
  let keep := decide (dw < 32) && !(c.u && decide (56 ≤ d.toNat))
  let old (g : Go) (l : Nat) : Word := if !keep then 0 else if c.u then g.w.regs.ureg d.toNat else g.w.regs.vreg d.toNat l
  aluFlags c (if dw = 64 ∨ sw = 64 then 7 else 5) d (if dw = 64 then 2 else 1)
    (srcs ++ if keep then [dstField c.u d 1] else [])
    (fun g l =>
      let x := if sw = 64 then (g.rd2 0 0 l).toNat else (g.rd 0 0 l).toNat
      let r := op g l (pickElem sw idx.toNat x)
      (convWords dw idx.toNat (old g l) r.1, r.2)) s

/-- FCVT (R142 to R144, R98). -/
def execFcvt (c : Ctl) (dfmt sfmt : FFmt) (rnd : Rnd) (idx : BitVec 3) (d : BitVec 8) (a : Src) (s : State) :
    Host.Outcome State Fault Refusal :=
  convInstr c (fspec dfmt).width (fspec sfmt).width idx d [srcField a (ffmtRegs sfmt)]
    (fun g _ x =>
      let v := readF g.w.denorm (fspec sfmt) x
      let r := convertVal g.w.denorm (fspec dfmt) (rmodeOf g.w.regs.fpctl rnd) v.1
      (r.1, v.2 ||| r.2)) s

/-- FTOI (R142, R143, R145). -/
def execFtoi (c : Ctl) (dfmt : IFmt) (sfmt : FFmt) (rnd : Rnd) (idx : BitVec 3) (d : BitVec 8) (a : Src) (s : State) :
    Host.Outcome State Fault Refusal :=
  convInstr c (ifmtWidth dfmt) (fspec sfmt).width idx d [srcField a (ffmtRegs sfmt)]
    (fun g _ x =>
      let v := readF g.w.denorm (fspec sfmt) x
      let r := ftoiVal dfmt (rmodeOf g.w.regs.fpctl rnd) v.1
      (r.1, v.2 ||| r.2)) s

/-- ITOF (R142, R143, R146). -/
def execItof (c : Ctl) (dfmt : FFmt) (sfmt : IFmt) (rnd : Rnd) (idx : BitVec 3) (d : BitVec 8) (a : Src) (s : State) :
    Host.Outcome State Fault Refusal :=
  convInstr c (fspec dfmt).width (ifmtWidth sfmt) idx d [srcField a 1]
    (fun g _ x => itofInt g.w.denorm (fspec dfmt) (rmodeOf g.w.regs.fpctl rnd) (intOfCode sfmt x)) s

/-- The random word of CVTSR (R147). -/
def cvtsrWord (seed stream : DWord) (taskid b : Word) (place : Word) : Nat :=
  (gkc (cat2 seed (0x4356535200000000 ^^^ stream)) (cat4 taskid b place 0)).toNat % 2 ^ 32

/-- CVTSR (R142, R143, R147, R106). -/
def execCvtsr (c : Ctl) (dfmt sfmt : FFmt) (idx : BitVec 3) (d : BitVec 8) (a b : Src) (s : State) :
    Host.Outcome State Fault Refusal :=
  convInstr c (fspec dfmt).width (fspec sfmt).width idx d [srcField a (ffmtRegs sfmt), srcField b 1]
    (fun g l x =>
      let place : Word := if c.u then 0xFFFFFFFF else BitVec.ofNat 32 (g.w.warpid * 32 + l)
      let stream := g.w.regs.streamOf (if c.u then lowLane g.f.mask else l)
      let v := readF g.w.denorm (fspec sfmt) x
      let r := roundSR g.w.denorm (fpctlSrcompat g.w.regs.fpctl) (fspec dfmt)
        (cvtsrWord (launchSeed s g.w) stream g.w.taskid (g.rd 1 0 l) place) v.1
      (r.1, v.2 ||| r.2)) s

/-! ### Block quantisation -/

/-- A source of a quantising instruction: FP32, or BF16 in bits 15:0 (R148). -/
def quantSource (denorm bf16 : Bool) (x : Word) : FVal × Flags :=
  if bf16 then readF denorm specBF16 (x.toNat % 2 ^ 16) else readF denorm specF32 x.toNat

/-- What a quantised block gives each of its lanes: the word with element and scale, and its flags. -/
def blockResults (lanes : List Nat) (r : Nat × List (Nat × Flags)) (read : List Flags) : List (Nat × Word × Flags) :=
  (lanes.zip (r.2.zip read)).map (fun x => (x.1, BitVec.ofNat 32 (x.2.1.1 + r.1 * 256), x.2.1.2 ||| x.2.2))

/-- The result of a lane in a list of results. -/
def resultOf (rs : List (Nat × Word × Flags)) (l : Nat) : Word := ((rs.find? (fun r => r.1 == l)).map (·.2.1)).getD 0

/-- A block instruction from its results. -/
def blockAct (d : BitVec 8) (g : Go) (rs : List (Nat × Word × Flags)) : Act :=
  { writes := putWord false d.toNat g.lanes (resultOf rs), flags := rs.map (fun r => (r.1, r.2.2)) }

/-- QMX: one MX block from the executing lanes (R149). -/
def execQmx (c : Ctl) (ef : EFmt) (bf16 : Bool) (d : BitVec 8) (a : Src) (s : State) : Host.Outcome State Fault Refusal :=
  issue c (needs [dstField c.u d 1] [srcField a 1] 0) (fun g =>
    let vs := g.lanes.map (fun l => quantSource g.w.denorm bf16 (g.rd 0 0 l))
    blockAct d g (blockResults g.lanes (qmxBlock ef (vs.map (·.1))) (vs.map (·.2)))) s

/-- DQMX (R150). -/
def execDqmx (c : Ctl) (ef : EFmt) (bf16 : Bool) (rnd : Rnd) (d : BitVec 8) (a b : Src) (s : State) :
    Host.Outcome State Fault Refusal :=
  aluFlags c 0 d 1 [srcField a 1, srcField b 1] (fun g l =>
    let f := if bf16 then specBF16 else specF32
    let w := match efmtSpec ef with | some e => e.width | none => 8
    let r := convertVal g.w.denorm f (rmodeOf g.w.regs.fpctl rnd)
      (mxValue ef ((g.rd 0 0 l).toNat % 2 ^ w) ((g.rd 1 0 l).toNat % 256))
    ([BitVec.ofNat 32 r.1], r.2)) s

/-- The lanes of GB4 block j among those executing (R151). -/
def gbLanes (ls : List Nat) (j : Nat) : List Nat := ls.filter (fun l => l / 8 == j)

/-- QGB and QGB.BANDS (R151, R152; DEDUCED, log 72). -/
def execQgb (c : Ctl) (bands bf16 : Bool) (d : BitVec 8) (a b : Src) (s : State) : Host.Outcome State Fault Refusal :=
  issue c { needs [dstField c.u d 1] [srcField a 1, srcField b 1] 0 with carry := if bands then [1] else [] } (fun g =>
    if bands then
      blockAct d g (g.lanes.map (fun l =>
        let v := quantSource g.w.denorm bf16 (g.rd 0 0 l)
        let r := qgbBand v.1
        (l, BitVec.ofNat 32 r.1, v.2 ||| r.2)))
    else
      blockAct d g ((List.range 4).flatMap (fun j =>
        let ls := gbLanes g.lanes j
        let vs := ls.map (fun l => quantSource g.w.denorm bf16 (g.rd 0 0 l))
        let band := match ls.head? with
          | none => FVal.nan false
          | some l => decodeF specBF16 ((g.rd 1 0 l).toNat % 2 ^ 15)
        blockResults ls (qgbBlock band (vs.map (·.1))) (vs.map (·.2))))) s

/-- DQGB (R153). -/
def execDqgb (c : Ctl) (bf16 : Bool) (rnd : Rnd) (d : BitVec 8) (a b e : Src) (s : State) : Host.Outcome State Fault Refusal :=
  aluFlags c 0 d 1 [srcField a 1, srcField b 1, srcField e 1] (fun g l =>
    let f := if bf16 then specBF16 else specF32
    let r := convertVal g.w.denorm f (rmodeOf g.w.regs.fpctl rnd)
      (gb4Value ((g.rd 2 0 l).toNat % 2 ^ 16) ((g.rd 1 0 l).toNat % 256) ((g.rd 0 0 l).toNat % 16))
    ([BitVec.ofNat 32 r.1], r.2)) s

end Sys2Proof.Machine
end

