-- ==== Sys2Proof/Machine/IvVal.lean ====
section
/-! DEFINITION. Interval values and their operations (R84, R85, R92, R155 to R167). An interval is none (empty) or a pair of bounds. -/

namespace Sys2Proof.Machine

/-- A well-formed interval: none is the canonical empty one (R85). -/
abbrev Iv := Option (FVal × FVal)

/-- The bound format of an interval format (R84, R155). -/
def ivBound (f : IvFmt) : FSpec :=
  match f with
  | .if32 => specF32
  | .if64 => specF64
  | .if16 => specF16
  | .ibf16 => specBF16

/-- A point format (R155). -/
def pfmtSpec (f : PFmt) : FSpec :=
  match f with
  | .f32 => specF32
  | .f64 => specF64
  | .f16 => specF16
  | .bf16 => specBF16

def posInf : FVal := .inf false
def negInf : FVal := .inf true
def zeroVal : FVal := .fin false 0 0

/-- a ≤ b in the extended reals (no NaN). -/
def vLe (a b : FVal) : Bool :=
  match cmpVals a b with
  | .gt => false
  | .lt => true
  | .eq => true

/-- a < b in the extended reals (no NaN). -/
def vLt (a b : FVal) : Bool :=
  match cmpVals a b with
  | .lt => true
  | .gt => false
  | .eq => false

def vEq (a b : FVal) : Bool := vLe a b && vLe b a
def vMin (a b : FVal) : FVal := if vLe a b then a else b
def vMax (a b : FVal) : FVal := if vLe a b then b else a

/-- The outward flush of a bound under DETCTL.DENORM (R92). -/
def flushBound (denorm : Bool) (f : FSpec) (upper : Bool) (bits : Nat) : Nat × Flags :=
  if denorm && isSubnormalEnc f bits then
    let neg := decide (2 ^ (f.width - 1) ≤ bits % 2 ^ f.width)
    let minN := 2 ^ f.frac
    (if upper = neg then 0 else signBit f neg + minN, flagDEN)
  else (bits, 0)

/-- Reads an interval; none where it is not well formed (R85, R157). The check comes before the flush. -/
def ivRead (denorm : Bool) (f : FSpec) (lo hi : Nat) : Option (Iv × Flags) :=
  let l := decodeF f lo
  let h := decodeF f hi
  if isNaNVal l || isNaNVal h then none
  else if decide (l = posInf) && decide (h = negInf) then some (none, 0)
  else if vLe l h && !decide (l = posInf) && !decide (h = negInf) then
    let l' := flushBound denorm f false lo
    let h' := flushBound denorm f true hi
    some (some (decodeF f l'.1, decodeF f h'.1), l'.2 ||| h'.2)
  else none

/-- A zero bound is written +0 (R85, R158). -/
def plusZero (f : FSpec) (bits : Nat) : Nat := if bits % 2 ^ (f.width - 1) = 0 then 0 else bits

/-- Finishes a bound: the outward flush, then a zero as +0. -/
def finishBound (denorm : Bool) (f : FSpec) (upper : Bool) (bits : Nat) : Nat :=
  plusZero f (flushBound denorm f upper bits).1

/-- The direction of a bound's rounding (R158). -/
def boundMode (upper : Bool) : RMode := if upper then .rp else .rm

/-- A bound from an exact value (R158). -/
def boundOf (denorm : Bool) (f : FSpec) (upper : Bool) (v : FVal) : Nat :=
  finishBound denorm f upper (match v with
    | .fin s m e => (roundTo false f (boundMode upper) s m e).1
    | .inf s => infEnc f s
    | .nan _ => canonNaN f)

/-- The canonical empty interval's bounds (R85). -/
def emptyBounds (f : FSpec) : Nat × Nat := (infEnc f false, infEnc f true)

/-- The two bounds of an interval given exactly; none gives none (empty, R159). -/
def ivEncode (denorm : Bool) (f : FSpec) (v : Iv) : Option (Nat × Nat) :=
  match v with
  | none => none
  | some (l, h) => some (boundOf denorm f false l, boundOf denorm f true h)

/-- A real product with an infinite bound never an operand: 0 times infinity is 0 (R161). -/
def realMul (a b : FVal) : FVal := if isZeroVal a || isZeroVal b then zeroVal else mulExact a b

/-- The smallest (or largest) of four. -/
def vMin4 (a b c d : FVal) : FVal := vMin (vMin a b) (vMin c d)
def vMax4 (a b c d : FVal) : FVal := vMax (vMax a b) (vMax c d)

/-- The exact product of two non-empty intervals. -/
def mulBounds (a b : FVal × FVal) : FVal × FVal :=
  let p := realMul a.1 b.1
  let q := realMul a.1 b.2
  let r := realMul a.2 b.1
  let s := realMul a.2 b.2
  (vMin4 p q r s, vMax4 p q r s)

/-- A bound that is the sum of two extended reals, never of opposite infinities (R158). -/
def sumBound (denorm : Bool) (f : FSpec) (upper : Bool) (a b : FVal) : Nat :=
  finishBound denorm f upper (addVals false f (boundMode upper) a b).1

/-- IVADD (R160). -/
def ivAdd (denorm : Bool) (f : FSpec) (a b : Iv) : Option (Nat × Nat) :=
  match a, b with
  | some x, some y => some (sumBound denorm f false x.1 y.1, sumBound denorm f true x.2 y.2)
  | none, _ => none
  | some _, none => none

/-- IVSUB (R160). -/
def ivSub (denorm : Bool) (f : FSpec) (a b : Iv) : Option (Nat × Nat) :=
  match a, b with
  | some x, some y =>
    some (sumBound denorm f false x.1 (negVal y.2), sumBound denorm f true x.2 (negVal y.1))
  | none, _ => none
  | some _, none => none

/-- IVMUL (R160). -/
def ivMul (denorm : Bool) (f : FSpec) (a b : Iv) : Option (Nat × Nat) :=
  match a, b with
  | some x, some y => ivEncode denorm f (some (mulBounds x y))
  | none, _ => none
  | some _, none => none

/-- IVFMA: each bound rounded once after the exact sum (R160, R161). -/
def ivFma (denorm : Bool) (f : FSpec) (a b c : Iv) : Option (Nat × Nat) :=
  match a, b, c with
  | some x, some y, some z =>
    let p := mulBounds x y
    some (sumBound denorm f false p.1 z.1, sumBound denorm f true p.2 z.2)
  | none, _, _ => none
  | some _, none, _ => none
  | some _, some _, none => none

/-- IVSQR (R160). -/
def ivSqr (denorm : Bool) (f : FSpec) (a : Iv) : Option (Nat × Nat) :=
  match a with
  | none => none
  | some x =>
    let p := realMul x.1 x.1
    let q := realMul x.2 x.2
    let lo := if vLe x.1 zeroVal && vLe zeroVal x.2 then zeroVal else vMin p q
    ivEncode denorm f (some (lo, vMax p q))

/-- A bound that is the quotient of two extended reals, the divisor not 0. -/
def quotBound (denorm : Bool) (f : FSpec) (upper : Bool) (a b : FVal) : Nat :=
  finishBound denorm f upper (divVals false f (boundMode upper) a b).1

/-- IVDIV for b above 0 with b.lo = 0 allowed (R160). -/
def ivDivPos (denorm : Bool) (f : FSpec) (x y : FVal × FVal) : Nat × Nat :=
  let lo := if vLe zeroVal x.1 then quotBound denorm f false x.1 y.2
    else if isZeroVal y.1 then infEnc f true else quotBound denorm f false x.1 y.1
  let hi := if vLe x.2 zeroVal then quotBound denorm f true x.2 y.2
    else if isZeroVal y.1 then infEnc f false else quotBound denorm f true x.2 y.1
  (lo, hi)

/-- IVDIV: the set of x / y with y not 0 (R160). -/
def ivDiv (denorm : Bool) (f : FSpec) (a b : Iv) : Option (Nat × Nat) :=
  match a, b with
  | some x, some y =>
    if isZeroVal y.1 && isZeroVal y.2 then none
    else if isZeroVal x.1 && isZeroVal x.2 then some (0, 0)
    else if vLe zeroVal y.1 then some (ivDivPos denorm f x y)
    else if vLe y.2 zeroVal then
      some (ivDivPos denorm f (negVal x.2, negVal x.1) (negVal y.2, negVal y.1))
    else some (infEnc f true, infEnc f false)
  | none, _ => none
  | some _, none => none

/-- IVRCP: the set of 1 / x with x not 0 (R160). -/
def ivRcp (denorm : Bool) (f : FSpec) (a : Iv) : Option (Nat × Nat) :=
  ivDiv denorm f (some (.fin false 1 0, .fin false 1 0)) a

/-- IVSQRT (R160). -/
def ivSqrt (denorm : Bool) (f : FSpec) (a : Iv) : Option (Nat × Nat) :=
  match a with
  | none => none
  | some x =>
    if vLt x.2 zeroVal then none
    else some (finishBound denorm f false (sqrtVal false f .rm (vMax x.1 zeroVal)).1,
      finishBound denorm f true (sqrtVal false f .rp (vMax x.2 zeroVal)).1)

/-- An enclosing bound: the free value of Config where it encloses within 2 units in the last place, else the rounded enclosure (R161). -/
def enclosingBound (denorm : Bool) (f : FSpec) (upper : Bool) (x : Encl) (free : Nat) : Nat :=
  let v := free % 2 ^ f.width
  let d := decodeF f v
  let r := (roundEncl false f (boundMode upper) x).1
  let side : Bool := match d with
    | .fin s m e =>
      let g := min e x.e
      if upper then decide (x.hi * 2 ^ (x.e - g).toNat ≤ alignTo g s m e)
      else decide (alignTo g s m e ≤ x.lo * 2 ^ (x.e - g).toNat)
    | .inf _ => false
    | .nan _ => false
  finishBound denorm f upper (if side && withinOf d x 2 (ulpExp f x) && !isInfVal (decodeF f r) then v else r)

/-- A bound format's code in Config.intervalBits: its width and its exponent's. -/
def boundCode (f : FSpec) : Nat := 32 * f.width + f.expBits

/-- IVEXP of one bound (R160, R161). -/
def ivExpBound (denorm : Bool) (f : FSpec) (upper : Bool) (v : FVal) : Nat :=
  match v with
  | .fin s m e => enclosingBound denorm f upper (enclExp2 (fix200 s m e))
      (Config.intervalBits 0 (boundCode f) (if upper then 1 else 0) (encodeVal f v))
  | .inf s => if s then 0 else infEnc f false
  | .nan _ => canonNaN f

/-- IVEXP (R160). -/
def ivExp (denorm : Bool) (f : FSpec) (a : Iv) : Option (Nat × Nat) :=
  match a with
  | none => none
  | some x => some (ivExpBound denorm f false x.1, ivExpBound denorm f true x.2)

/-- IVLOG of one bound: minus infinity at or below 0 (R160, R161). -/
def ivLogBound (denorm : Bool) (f : FSpec) (upper : Bool) (v : FVal) : Nat :=
  match v with
  | .fin s m e =>
    if m = 0 ∨ s = true then infEnc f true
    else enclosingBound denorm f upper (enclLog2 m e)
      (Config.intervalBits 1 (boundCode f) (if upper then 1 else 0) (encodeVal f v))
  | .inf s => infEnc f s
  | .nan _ => canonNaN f

/-- IVLOG (R160). -/
def ivLog (denorm : Bool) (f : FSpec) (a : Iv) : Option (Nat × Nat) :=
  match a with
  | none => none
  | some x =>
    if vLe x.2 zeroVal then none
    else some (ivLogBound denorm f false x.1, ivLogBound denorm f true x.2)

/-- IVABS (R160). -/
def ivAbs (denorm : Bool) (f : FSpec) (a : Iv) : Option (Nat × Nat) :=
  match a with
  | none => none
  | some x =>
    ivEncode denorm f (some (
      if vLe zeroVal x.1 then x
      else if vLe x.2 zeroVal then (negVal x.2, negVal x.1)
      else (zeroVal, vMax (negVal x.1) x.2)))

/-- IVMIN (R160). -/
def ivMin (denorm : Bool) (f : FSpec) (a b : Iv) : Option (Nat × Nat) :=
  match a, b with
  | some x, some y => ivEncode denorm f (some (vMin x.1 y.1, vMin x.2 y.2))
  | none, _ => none
  | some _, none => none

/-- IVMAX (R160). -/
def ivMax (denorm : Bool) (f : FSpec) (a b : Iv) : Option (Nat × Nat) :=
  match a, b with
  | some x, some y => ivEncode denorm f (some (vMax x.1 y.1, vMax x.2 y.2))
  | none, _ => none
  | some _, none => none

/-- IVISECT (R160). -/
def ivIsect (denorm : Bool) (f : FSpec) (a b : Iv) : Option (Nat × Nat) :=
  match a, b with
  | some x, some y =>
    let lo := vMax x.1 y.1
    let hi := vMin x.2 y.2
    if vLt hi lo then none else ivEncode denorm f (some (lo, hi))
  | none, _ => none
  | some _, none => none

/-- IVHULL: empty only when both operands are (R160). -/
def ivHull (denorm : Bool) (f : FSpec) (a b : Iv) : Option (Nat × Nat) :=
  match a, b with
  | some x, some y => ivEncode denorm f (some (vMin x.1 y.1, vMax x.2 y.2))
  | some x, none => ivEncode denorm f (some x)
  | none, some y => ivEncode denorm f (some y)
  | none, none => none

/-- IVSET (R162). -/
def ivSet (denorm : Bool) (f : FSpec) (a : FVal) : Option (Nat × Nat) :=
  match a with
  | .fin s m e => some (boundOf denorm f false (.fin s m e), boundOf denorm f true (.fin s m e))
  | .nan _ => none
  | .inf _ => none

/-- IVMK (R162). -/
def ivMk (denorm : Bool) (f : FSpec) (a b : FVal) : Option (Nat × Nat) :=
  if isNaNVal a || isNaNVal b then none
  else if vLt b a || decide (a = posInf) || decide (b = negInf) then none
  else some (boundOf denorm f false a, boundOf denorm f true b)

/-- A point result: a zero as +0 (R162). -/
def ivPoint (p : FSpec) (r : Nat × Flags) : Nat × Flags := (plusZero p r.1, r.2)

/-- Rounds a bound to a point format (R162). -/
def ivToPoint (denorm : Bool) (p : FSpec) (mode : RMode) (v : FVal) : Nat × Flags :=
  ivPoint p (match v with
    | .fin s m e => roundTo denorm p mode s m e
    | .inf s => roundInf p s
    | .nan _ => (canonNaN p, 0))

/-- IVLO (R162). -/
def ivLo (denorm : Bool) (p : FSpec) (a : Iv) : Nat × Flags :=
  match a with
  | none => (infEnc p false, 0)
  | some x => ivToPoint denorm p .rm x.1

/-- IVHI (R162). -/
def ivHi (denorm : Bool) (p : FSpec) (a : Iv) : Nat × Flags :=
  match a with
  | none => (infEnc p true, 0)
  | some x => ivToPoint denorm p .rp x.2

/-- Half of an exact sum of two finite values. -/
def midExact (a b : FVal) : FVal :=
  match a, b with
  | .fin s m e, .fin t n h =>
    let g := min e h
    let w := alignTo g s m e + alignTo g t n h
    .fin (decide (w < 0)) w.natAbs (g - 1)
  | _, _ => zeroVal

/-- IVMID (R163; DEDUCED, log 65). -/
def ivMid (denorm : Bool) (p : FSpec) (a : Iv) : Nat × Flags :=
  match a with
  | none => (canonNaN p, 0)
  | some x =>
    match isInfVal x.1, isInfVal x.2 with
    | true, true => (0, 0)
    | true, false => (maxEnc p true, 0)
    | false, true => (maxEnc p false, 0)
    | false, false => ivToPoint denorm p .rn (midExact x.1 x.2)

/-- IVWID (R162). -/
def ivWid (denorm : Bool) (p : FSpec) (a : Iv) : Nat × Flags :=
  match a with
  | none => (canonNaN p, 0)
  | some x =>
    if isInfVal x.1 || isInfVal x.2 then (infEnc p false, 0)
    else ivPoint p (addVals denorm p .rp x.2 (negVal x.1))

/-- True, false or undecided from two conditions (R164). -/
def triOf (t f : Bool) : Tri := if t then .yes else if f then .no else .undecided

/-- Whether both intervals are the same single point. -/
def samePoint (x y : FVal × FVal) : Bool := vEq x.1 x.2 && vEq y.1 y.2 && vEq x.1 y.1

/-- IVCMP (R164). -/
def ivCmp (rel : Rel) (a b : Iv) : Tri :=
  match a, b with
  | some x, some y =>
    match rel with
    | .lt => triOf (vLt x.2 y.1) (vLe y.2 x.1)
    | .le => triOf (vLe x.2 y.1) (vLt y.2 x.1)
    | .gt => triOf (vLt y.2 x.1) (vLe x.2 y.1)
    | .ge => triOf (vLe y.2 x.1) (vLt x.2 y.1)
    | .eq => triOf (samePoint x y) (vLt x.2 y.1 || vLt y.2 x.1)
    | .ne => triOf (vLt x.2 y.1 || vLt y.2 x.1) (samePoint x y)
    | .sub => triOf (vLe y.1 x.1 && vLe x.2 y.2) true
    | .disj => triOf (vLt (vMin x.2 y.2) (vMax x.1 y.1)) true
    | .intr => triOf ((isInfVal y.1 || vLt y.1 x.1) && (isInfVal y.2 || vLt x.2 y.2)) true
  | none, _ =>
    match rel with
    | .sub => .yes
    | .disj => .yes
    | .intr => .yes
    | .lt => .undecided
    | .le => .undecided
    | .gt => .undecided
    | .ge => .undecided
    | .eq => .undecided
    | .ne => .undecided
  | some _, none =>
    match rel with
    | .sub => .no
    | .disj => .yes
    | .intr => .no
    | .lt => .undecided
    | .le => .undecided
    | .gt => .undecided
    | .ge => .undecided
    | .eq => .undecided
    | .ne => .undecided

/-- IVIN (R165). -/
def ivIn (p : FVal) (b : Iv) : Tri :=
  match p, b with
  | .fin s m e, some y => triOf (vLe y.1 (.fin s m e) && vLe (.fin s m e) y.2) true
  | .fin _ _ _, none => .no
  | .inf _, _ => .no
  | .nan _, _ => .no

/-- The cut point of IVSPLIT in the bound format (R166). -/
def ivCut (denorm : Bool) (f : FSpec) (x : FVal × FVal) (b : FVal) : FVal :=
  match b with
  | .fin s m e =>
    if vLe x.1 (.fin s m e) && vLe (.fin s m e) x.2 then .fin s m e
    else decodeF f (ivMid denorm f (some x)).1
  | .inf _ => decodeF f (ivMid denorm f (some x)).1
  | .nan _ => decodeF f (ivMid denorm f (some x)).1

/-- IVSPLIT (R166). -/
def ivSplit (denorm : Bool) (f : FSpec) (hi : Bool) (a : Iv) (b : FVal) : Option (Nat × Nat) :=
  match a with
  | none => none
  | some x =>
    let m := ivCut denorm f x b
    ivEncode denorm f (some (if hi then (m, x.2) else (x.1, m)))

/-- IVBIS of one lane: the kept part and the upper part, if it splits (R167). -/
def ivBisect (denorm : Bool) (f : FSpec) (x : FVal × FVal) : Option (Nat × Nat) × Option (Option (Nat × Nat)) :=
  let m := decodeF f (ivMid denorm f (some x)).1
  if vEq m x.1 || vEq m x.2 then (ivEncode denorm f (some x), none)
  else (ivEncode denorm f (some (x.1, m)), some (ivEncode denorm f (some (m, x.2))))

end Sys2Proof.Machine
end

