-- ==== Sys2Proof/Machine/Interval.lean ====
section
/-! DEFINITION. The interval instructions, IVLD and IVST apart (R155 to R170). -/

namespace Sys2Proof.Machine

/-- The bounds of interval field i in a lane (R84). -/
def Go.ivBits (g : Go) (f : IvFmt) (i l : Nat) : Nat × Nat :=
  match f with
  | .if64 => ((g.rd2 i 0 l).toNat, (g.rd2 i 2 l).toNat)
  | .if32 => ((g.rd i 0 l).toNat, (g.rd i 1 l).toNat)
  | .if16 => ((g.rd i 0 l).toNat % 2 ^ 16, (g.rd i 0 l).toNat / 2 ^ 16)
  | .ibf16 => ((g.rd i 0 l).toNat % 2 ^ 16, (g.rd i 0 l).toNat / 2 ^ 16)

/-- Interval field i in a lane; none where it is not well formed (R157). -/
def Go.iv (g : Go) (f : IvFmt) (i l : Nat) : Option (Iv × Flags) :=
  ivRead g.w.denorm (ivBound f) (g.ivBits f i l).1 (g.ivBits f i l).2

/-- The words of an interval's bounds (R84). -/
def ivWords (f : IvFmt) (b : Nat × Nat) : List Word :=
  match f with
  | .if64 => [BitVec.ofNat 32 b.1, BitVec.ofNat 32 (b.1 / 2 ^ 32), BitVec.ofNat 32 b.2, BitVec.ofNat 32 (b.2 / 2 ^ 32)]
  | .if32 => [BitVec.ofNat 32 b.1, BitVec.ofNat 32 b.2]
  | .if16 => [BitVec.ofNat 32 (b.1 + b.2 * 2 ^ 16)]
  | .ibf16 => [BitVec.ofNat 32 (b.1 + b.2 * 2 ^ 16)]

/-- The latency of a fixed-latency interval instruction; IF64 is tagged (R60, R156). -/
def ivLat (f : IvFmt) (l : Nat) : Nat := if f = .if64 then 0 else l

/-- Every interval operand of every executing lane is checked first (R157); then the instruction computes. -/
def ivChecked (g : Go) (f : IvFmt) (fields : List Nat) (k : (Nat → List Iv) → Act) : Act :=
  match g.lanes.filter (fun l => fields.any (fun i => (g.iv f i l).isNone)) with
  | [] => k (fun l => fields.map (fun i => (g.iv f i l).elim none (·.1)))
  | l :: ls => { trap := some ((raise .intervalOrder).inLanes (l :: ls)) }

/-- Flags of reading interval fields: DEN where a bound is flushed (R92; DEDUCED, log 65). -/
def ivReadFlags (g : Go) (f : IvFmt) (fields : List Nat) (l : Nat) : Flags :=
  fields.foldl (fun m i => m ||| (g.iv f i l).elim 0 (·.2)) 0

/-- Interval results: an empty one raises EMPTY_INTERVAL, or with EMASK gives the canonical empty interval and EMP (R159; DEDUCED, log 69). -/
def ivPut (u : Bool) (d : Nat) (g : Go) (f : IvFmt) (res : Nat → Option (Nat × Nat)) (read : Nat → Flags) : Act :=
  let empty := g.lanes.filter (fun l => (res l).isNone)
  if !empty.isEmpty && !fpctlEmask g.w.regs.fpctl then { raises := some ((raise .emptyInterval).inLanes empty) }
  else
    { writes := putWords u d g.lanes (fun l => ivWords f ((res l).getD (emptyBounds (ivBound f))))
      flags := g.lanes.map (fun l => (l, read l ||| flagIf (res l).isNone flagEMP)) }

/-- Interval i of a list. -/
def ivAt (vs : List Iv) (i : Nat) : Iv := vs.getD i none

/-- An instruction from interval operands to an interval. -/
def ivInstr (c : Ctl) (lat : Nat) (f : IvFmt) (d : BitVec 8) (srcs : List Src)
    (op : Bool → FSpec → List Iv → Option (Nat × Nat)) (s : State) : Host.Outcome State Fault Refusal :=
  issue c (needs [dstField c.u d (ivRegs f)] (srcs.map (fun a => srcField a (ivRegs f))) lat) (fun g =>
    let is := List.range srcs.length
    ivChecked g f is (fun v => ivPut c.u d.toNat g f (fun l => op g.w.denorm (ivBound f) (v l)) (ivReadFlags g f is))) s

/-- A point operand field as bits (R155). -/
def Go.point (g : Go) (p : PFmt) (i l : Nat) : Nat :=
  if p = .f64 then (g.rd2 i 0 l).toNat else (g.rd i 0 l).toNat % 2 ^ (pfmtSpec p).width

/-- A point operand as a value, with the flags of reading it (R92; DEDUCED, log 65). -/
def Go.pointVal (g : Go) (p : PFmt) (i l : Nat) : FVal × Flags := readF g.w.denorm (pfmtSpec p) (g.point p i l)

/-- The words of a point result: 16-bit formats clear bits 31:16 (R155). -/
def pointWords (p : PFmt) (b : Nat) : List Word :=
  if p = .f64 then [BitVec.ofNat 32 b, BitVec.ofNat 32 (b / 2 ^ 32)] else [BitVec.ofNat 32 b]

/-- An instruction from one interval to a point (R162). -/
def ivToPt (c : Ctl) (f : IvFmt) (p : PFmt) (d : BitVec 8) (a : Src) (op : Bool → FSpec → Iv → Nat × Flags) (s : State) :
    Host.Outcome State Fault Refusal :=
  issue c (needs [dstField c.u d (pfmtRegs p)] [srcField a (ivRegs f)] (ivLat f 6)) (fun g =>
    ivChecked g f [0] (fun v =>
      let r (l : Nat) : Nat × Flags := op g.w.denorm (pfmtSpec p) (ivAt (v l) 0)
      { writes := putWords c.u d.toNat g.lanes (fun l => pointWords p (r l).1)
        flags := g.lanes.map (fun l => (l, (r l).2 ||| ivReadFlags g f [0] l)) })) s

/-- IVSET (R162). -/
def execIvset (c : Ctl) (f : IvFmt) (pf : PFmt) (d : BitVec 8) (a : Src) (s : State) :
    Host.Outcome State Fault Refusal :=
  issue c (needs [dstField c.u d (ivRegs f)] [srcField a (pfmtRegs pf)] (ivLat f 6)) (fun g =>
    ivPut c.u d.toNat g f (fun l => ivSet g.w.denorm (ivBound f) (g.pointVal pf 0 l).1) (fun l => (g.pointVal pf 0 l).2)) s

/-- IVMK (R162). -/
def execIvmk (c : Ctl) (f : IvFmt) (pf : PFmt) (d : BitVec 8) (a b : Src) (s : State) :
    Host.Outcome State Fault Refusal :=
  issue c (needs [dstField c.u d (ivRegs f)] [srcField a (pfmtRegs pf), srcField b (pfmtRegs pf)] (ivLat f 6)) (fun g =>
    ivPut c.u d.toNat g f (fun l => ivMk g.w.denorm (ivBound f) (g.pointVal pf 0 l).1 (g.pointVal pf 1 l).1)
      (fun l => (g.pointVal pf 0 l).2 ||| (g.pointVal pf 1 l).2)) s

/-- IVADD (R160, R161). -/
def execIvadd (c : Ctl) (f : IvFmt) (d : BitVec 8) (a b : Src) (s : State) :
    Host.Outcome State Fault Refusal :=
  ivInstr c (ivLat f 6) f d [a, b] (fun dn b v => ivAdd dn b (ivAt v 0) (ivAt v 1)) s

/-- IVSUB (R160, R161). -/
def execIvsub (c : Ctl) (f : IvFmt) (d : BitVec 8) (a b : Src) (s : State) :
    Host.Outcome State Fault Refusal :=
  ivInstr c (ivLat f 6) f d [a, b] (fun dn b v => ivSub dn b (ivAt v 0) (ivAt v 1)) s

/-- IVMUL (R160, R161). -/
def execIvmul (c : Ctl) (f : IvFmt) (d : BitVec 8) (a b : Src) (s : State) :
    Host.Outcome State Fault Refusal :=
  ivInstr c (ivLat f 7) f d [a, b] (fun dn b v => ivMul dn b (ivAt v 0) (ivAt v 1)) s

/-- IVDIV (R160, R161). -/
def execIvdiv (c : Ctl) (f : IvFmt) (d : BitVec 8) (a b : Src) (s : State) :
    Host.Outcome State Fault Refusal :=
  ivInstr c 0 f d [a, b] (fun dn b v => ivDiv dn b (ivAt v 0) (ivAt v 1)) s

/-- IVFMA (R160, R161). -/
def execIvfma (c : Ctl) (f : IvFmt) (d : BitVec 8) (a b e : Src) (s : State) :
    Host.Outcome State Fault Refusal :=
  ivInstr c (ivLat f 7) f d [a, b, e] (fun dn b v => ivFma dn b (ivAt v 0) (ivAt v 1) (ivAt v 2)) s

/-- IVSQR (R160, R161). -/
def execIvsqr (c : Ctl) (f : IvFmt) (d : BitVec 8) (a : Src) (s : State) :
    Host.Outcome State Fault Refusal :=
  ivInstr c (ivLat f 7) f d [a] (fun dn b v => ivSqr dn b (ivAt v 0)) s

/-- IVSQRT (R160, R161). -/
def execIvsqrt (c : Ctl) (f : IvFmt) (d : BitVec 8) (a : Src) (s : State) :
    Host.Outcome State Fault Refusal :=
  ivInstr c 0 f d [a] (fun dn b v => ivSqrt dn b (ivAt v 0)) s

/-- IVRCP (R160, R161). -/
def execIvrcp (c : Ctl) (f : IvFmt) (d : BitVec 8) (a : Src) (s : State) :
    Host.Outcome State Fault Refusal :=
  ivInstr c 0 f d [a] (fun dn b v => ivRcp dn b (ivAt v 0)) s

/-- IVEXP (R160, R161). -/
def execIvexp (c : Ctl) (f : IvFmt) (d : BitVec 8) (a : Src) (s : State) :
    Host.Outcome State Fault Refusal :=
  ivInstr c 0 f d [a] (fun dn b v => ivExp dn b (ivAt v 0)) s

/-- IVLOG (R160, R161). -/
def execIvlog (c : Ctl) (f : IvFmt) (d : BitVec 8) (a : Src) (s : State) :
    Host.Outcome State Fault Refusal :=
  ivInstr c 0 f d [a] (fun dn b v => ivLog dn b (ivAt v 0)) s

/-- IVABS (R160, R161). -/
def execIvabs (c : Ctl) (f : IvFmt) (d : BitVec 8) (a : Src) (s : State) :
    Host.Outcome State Fault Refusal :=
  ivInstr c (ivLat f 6) f d [a] (fun dn b v => ivAbs dn b (ivAt v 0)) s

/-- IVMIN (R160, R161). -/
def execIvmin (c : Ctl) (f : IvFmt) (d : BitVec 8) (a b : Src) (s : State) :
    Host.Outcome State Fault Refusal :=
  ivInstr c (ivLat f 6) f d [a, b] (fun dn b v => ivMin dn b (ivAt v 0) (ivAt v 1)) s

/-- IVMAX (R160, R161). -/
def execIvmax (c : Ctl) (f : IvFmt) (d : BitVec 8) (a b : Src) (s : State) :
    Host.Outcome State Fault Refusal :=
  ivInstr c (ivLat f 6) f d [a, b] (fun dn b v => ivMax dn b (ivAt v 0) (ivAt v 1)) s

/-- IVISECT (R160, R161). -/
def execIvisect (c : Ctl) (f : IvFmt) (d : BitVec 8) (a b : Src) (s : State) :
    Host.Outcome State Fault Refusal :=
  ivInstr c (ivLat f 6) f d [a, b] (fun dn b v => ivIsect dn b (ivAt v 0) (ivAt v 1)) s

/-- IVHULL (R160, R161). -/
def execIvhull (c : Ctl) (f : IvFmt) (d : BitVec 8) (a b : Src) (s : State) :
    Host.Outcome State Fault Refusal :=
  ivInstr c (ivLat f 6) f d [a, b] (fun dn b v => ivHull dn b (ivAt v 0) (ivAt v 1)) s

/-- IVLO (R162). -/
def execIvlo (c : Ctl) (f : IvFmt) (pf : PFmt) (d : BitVec 8) (a : Src) (s : State) :
    Host.Outcome State Fault Refusal :=
  ivToPt c f pf d a (fun dn p v => ivLo dn p v) s

/-- IVHI (R162). -/
def execIvhi (c : Ctl) (f : IvFmt) (pf : PFmt) (d : BitVec 8) (a : Src) (s : State) :
    Host.Outcome State Fault Refusal :=
  ivToPt c f pf d a (fun dn p v => ivHi dn p v) s

/-- IVMID (R162, R163). -/
def execIvmid (c : Ctl) (f : IvFmt) (pf : PFmt) (d : BitVec 8) (a : Src) (s : State) :
    Host.Outcome State Fault Refusal :=
  ivToPt c f pf d a (fun dn p v => ivMid dn p v) s

/-- IVWID (R162). -/
def execIvwid (c : Ctl) (f : IvFmt) (pf : PFmt) (d : BitVec 8) (a : Src) (s : State) :
    Host.Outcome State Fault Refusal :=
  ivToPt c f pf d a (fun dn p v => ivWid dn p v) s

/-- IVCMP (R164). -/
def execIvcmp (c : Ctl) (f : IvFmt) (rel : Rel) (pd : BitVec 3) (a b : Src) (s : State) : Host.Outcome State Fault Refusal :=
  issue c { needs [] [srcField a (ivRegs f), srcField b (ivRegs f)] (ivLat f 6) with pdsts := [pd.toNat] } (fun g =>
    ivChecked g f [0, 1] (fun v =>
      { writes := putPred pd.toNat g.lanes (fun l => ivCmp rel (ivAt (v l) 0) (ivAt (v l) 1))
        flags := g.lanes.map (fun l => (l, ivReadFlags g f [0, 1] l)) })) s

/-- IVIN (R165). -/
def execIvin (c : Ctl) (f : IvFmt) (pf : PFmt) (pd : BitVec 3) (a b : Src) (s : State) : Host.Outcome State Fault Refusal :=
  issue c { needs [] [srcField a (pfmtRegs pf), srcField b (ivRegs f)] (ivLat f 6) with pdsts := [pd.toNat] } (fun g =>
    ivChecked g f [1] (fun v =>
      { writes := putPred pd.toNat g.lanes (fun l => ivIn (g.pointVal pf 0 l).1 (ivAt (v l) 0))
        flags := g.lanes.map (fun l => (l, (g.pointVal pf 0 l).2 ||| ivReadFlags g f [1] l)) })) s

/-- A point operand in the bound format of an interval format (R166). -/
def boundPoint (f : IvFmt) : PFmt :=
  match f with
  | .if32 => .f32
  | .if64 => .f64
  | .if16 => .f16
  | .ibf16 => .bf16

/-- IVSPLIT (R166). -/
def execIvsplit (c : Ctl) (f : IvFmt) (hi : Bool) (d : BitVec 8) (a b : Src) (s : State) : Host.Outcome State Fault Refusal :=
  let p := boundPoint f
  issue c (needs [dstField c.u d (ivRegs f)] [srcField a (ivRegs f), srcField b (pfmtRegs p)] (ivLat f 6)) (fun g =>
    ivChecked g f [0] (fun v =>
      ivPut c.u d.toNat g f (fun l => ivSplit g.w.denorm (ivBound f) hi (ivAt (v l) 0) (g.pointVal p 1 l).1)
        (fun l => ivReadFlags g f [0] l ||| (g.pointVal p 1 l).2))) s

/-! ### Spawn records (R168, R371, R413, R414, R422) -/

/-- QBINDn. -/
def Warp.binding (w : Warp) (q : Nat) : Word := w.regs.qbind.getD q 0

/-- The port is bound to the spawn queue (R412, R413). -/
def bindsSpawn (w : Warp) (q : Nat) : Bool := ((w.binding q).extractLsb' 28 4).toNat == 1

/-- ENTRYD of a binding (R412). -/
def entryD (w : Warp) (q : Nat) : Int := ((w.binding q).extractLsb' 0 26).toInt

/-- Records in a core's spawn queue (R371). -/
def spawnQueue (s : State) (core : Nat) : List SpawnRec := (s.queues.spawns.find? (fun x => x.1 == core)).elim [] (·.2)

/-- The spawn queue has room for a record (R414). -/
def spawnRoom (s : State) (core : Nat) : Bool := decide ((spawnQueue s core).length < 64)

/-- SPAWNIX of a child: never 0 (R168, R372). -/
def childIndex (seed : DWord) (tag : DWord) (taskid spawnix place count : Word) : Word :=
  let x : Word := (gkc (cat2 seed tag) (cat4 taskid spawnix place count)).setWidth 32
  if x = 0 then 1 else x

/-- What both spawning instructions meet first: the binding, a chunk full of records, and room (R167, R414, R422). In normal mode a chunk
that holds a record ends before it waits for room; a fragment that waits names its port (R392). -/
def spawnGate (s : State) (g : Go) (q : Nat) (k : Act) : Act :=
  if !bindsSpawn g.w q then { trap := some (raiseD .spawnBind (BitVec.ofNat 32 q)) }
  else if 64 ≤ g.w.chunk.spawns.length then { endBefore := true }
  else if !spawnRoom s g.w.core then
    (if g.w.det || g.w.chunk.spawns.isEmpty then
      { wait := true, ask := some (.queue q) }
    else { endBefore := true })
  else k

/-- IVBIS (R167, R168): it counts as a push where it pushes (R399). Its binding and the room of its queue are looked at before its interval (DESIGN CHOICE, log 83). -/
def execIvbis (c : Ctl) (f : IvFmt) (qn : BitVec 3) (d : BitVec 8) (pb : BitVec 3) (a : Src) (s : State) :
    Host.Outcome State Fault Refusal :=
  issue c { needs [dstField c.u d (ivRegs f)] [srcField a (ivRegs f)] 0 with pdsts := [pb.toNat] } (fun g =>
    spawnGate s g qn.toNat (ivChecked g f [0] (fun v =>
      let part (l : Nat) : Option (Option (Nat × Nat) × Option (Option (Nat × Nat))) :=
        (ivAt (v l) 0).map (ivBisect g.w.denorm (ivBound f))
      let res (l : Nat) : Option (Nat × Nat) := (part l).elim none (·.1)
      let upper (l : Nat) : Option (Nat × Nat) := (part l).elim none (fun x => x.2.elim none id)
      let cut := g.lanes.filter (fun l => (upper l).isSome)
      let base := ivPut c.u d.toNat g f res (ivReadFlags g f [0])
      let bump (r : Regs) : Regs := { r with
        biscnt := (g.lanes.filter (fun l => (part l).isSome)).foldl (fun m l => cellSet m l (cellGet m l + 1)) r.biscnt }
      let child : SpawnRec :=
        { launch := g.w.launch, entryOff := entryD g.w qn.toNat, warps := 1, mask := maskOf cut, taskid := g.w.taskid,
          spawnix := childIndex (launchSeed s g.w) 0x4956424900000000 g.w.taskid g.w.spawnix
            (BitVec.ofNat 32 (g.w.warpid * 32 + cut.headD 0)) (cellGet g.w.regs.biscnt (cut.headD 0)),
          uregs := g.w.regs.u, s0 := none,
          vregs := cut.foldl (fun m l => ((ivWords f ((upper l).getD (0, 0))).zipIdx).foldl
            (fun m x => cellSet m (32 * (d.toNat + x.2) + l) x.1) m) [],
          path := g.w.path, warp := g.w.id, clock := g.f.clock }
      match if cut.isEmpty then none else usesClash [56 + qn.toNat] g.w g.f with
      | some t => { trap := some t }
      | none => { base with
        writes := if base.raises.isSome then [] else base.writes ++ putPred pb.toNat g.lanes (fun l => if cut.contains l then .yes else .no)
        chunk := fun k => if cut.isEmpty then k else { k with spawns := k.spawns ++ [child] }
        warp := fun w => { w with regs := bump { w.regs with sib := if cut.isEmpty then w.regs.sib else noteUses [56 + qn.toNat] w g.f } } }))) s

end Sys2Proof.Machine
end

