-- ==== Sys2Proof/Machine/Cipher.lean ====
section
/-! DEFINITION. The cipher of a partition with ENC = 1 (R444): XTS-AES-256 of IEEE Std 1619, whose details the manual takes from that standard
(PRESUMED, log 60). -/

namespace Sys2Proof.Machine

/-- Multiplication by x in AES's field. -/
def aesDouble (b : Byte) : Byte := if b.getLsbD 7 then (b <<< 1) ^^^ 0x1b else b <<< 1

/-- A product in AES's field, by the bits of the second factor from bit n down. -/
def aesMulFrom (a b : Byte) : Nat → Byte
  | 0 => 0
  | n + 1 => aesDouble (aesMulFrom a b n) ^^^ (if b.getLsbD (7 - n) then a else 0)

def aesMul (a b : Byte) : Byte := aesMulFrom a b 8

/-- The inverse in AES's field: the 254th power, 0 for 0. -/
def aesInverse (a : Byte) : Byte :=
  let p2 := aesMul a a
  let p3 := aesMul p2 a
  let p6 := aesMul p3 p3
  let p12 := aesMul p6 p6
  let p15 := aesMul p12 p3
  let p30 := aesMul p15 p15
  let p60 := aesMul p30 p30
  let p120 := aesMul p60 p60
  let p240 := aesMul p120 p120
  aesMul (aesMul p240 p12) p2

/-- The substitution of a byte. -/
def aesSub (a : Byte) : Byte :=
  let i := aesInverse a
  i ^^^ i.rotateLeft 1 ^^^ i.rotateLeft 2 ^^^ i.rotateLeft 3 ^^^ i.rotateLeft 4 ^^^ 0x63

/-- Bytes combined bit by bit. -/
def xorBytes (xs ys : List Byte) : List Byte := (xs.zip ys).map (fun x => x.1 ^^^ x.2)

/-- The key schedule of a 256-bit key: 60 words of four bytes, given the words so far, the round constant and the words still to make. -/
def aesExpand (ws : List (List Byte)) (rcon : Byte) : Nat → List (List Byte)
  | 0 => ws
  | n + 1 =>
    let i := ws.length
    let last := ws.getD (i - 1) []
    let t := if i % 8 = 0 then xorBytes ((last.drop 1 ++ last.take 1).map aesSub) [rcon, 0, 0, 0]
      else if i % 8 = 4 then last.map aesSub else last
    aesExpand (ws ++ [xorBytes (ws.getD (i - 8) []) t]) (if i % 8 = 0 then aesDouble rcon else rcon) n

/-- The 15 round keys of a 32-byte key (PRESUMED, log 60). -/
def aesKeys (key : List Byte) : List (List Byte) :=
  let ws := aesExpand ((List.range 8).map (fun i => (key.drop (4 * i)).take 4)) 1 52
  (List.range 15).map (fun r => ((ws.drop (4 * r)).take 4).flatten)

/-- The inverse of the substitution. -/
def aesUnsub (b : Byte) : Byte := aesInverse (b.rotateLeft 1 ^^^ b.rotateLeft 3 ^^^ b.rotateLeft 6 ^^^ 0x05)

/-- The row shift of a 16-byte block, column by column. -/
def aesShift (bs : List Byte) : List Byte := (List.range 16).map (fun i => bs.getD ((i + 4 * (i % 4)) % 16) 0)

/-- The column mix of a block. -/
def aesMix (bs : List Byte) : List Byte :=
  (List.range 16).map (fun i =>
    let at_ (k : Nat) : Byte := bs.getD (4 * (i / 4) + (i + k) % 4) 0
    aesDouble (at_ 0) ^^^ aesDouble (at_ 1) ^^^ at_ 1 ^^^ at_ 2 ^^^ at_ 3)

/-- One block under round keys (PRESUMED, log 60). -/
def aesRounds (keys : List (List Byte)) (block : List Byte) : List Byte :=
  let mid := ((keys.drop 1).take 13).foldl (fun b k => xorBytes (aesMix (aesShift (b.map aesSub))) k) (xorBytes block (keys.getD 0 []))
  xorBytes (aesShift (mid.map aesSub)) (keys.getD 14 [])

/-- The inverse of the row shift. -/
def aesUnshift (bs : List Byte) : List Byte := (List.range 16).map (fun i => bs.getD ((i + 12 * (i % 4)) % 16) 0)

/-- The inverse of the column mix. -/
def aesUnmix (bs : List Byte) : List Byte :=
  (List.range 16).map (fun i =>
    let at_ (k : Nat) : Byte := bs.getD (4 * (i / 4) + (i + k) % 4) 0
    aesMul (at_ 0) 0x0e ^^^ aesMul (at_ 1) 0x0b ^^^ aesMul (at_ 2) 0x0d ^^^ aesMul (at_ 3) 0x09)

/-- One block back from under round keys (PRESUMED, log 60). -/
def aesUnrounds (keys : List (List Byte)) (block : List Byte) : List Byte :=
  let first := (aesUnshift (xorBytes block (keys.getD 14 []))).map aesUnsub
  xorBytes (((keys.drop 1).take 13).reverse.foldl (fun b k => (aesUnshift (aesUnmix (xorBytes b k))).map aesUnsub) first) (keys.getD 0 [])

/-- The next block's tweak: the product with x of the 128-bit little-endian number. -/
def xtsNext (t : List Byte) : List Byte :=
  let v := bytesVal t
  valBytes 16 (if v < 2 ^ 127 then 2 * v else (2 * v - 2 ^ 128) ^^^ 0x87)

/-- Blocks in order, each taken through a block function under its tweak. -/
def xtsBlocks (f : List Byte → List Byte) (tweak : List Byte) (bs : List Byte) : Nat → List Byte
  | 0 => []
  | n + 1 => xorBytes (f (xorBytes (bs.take 16) tweak)) tweak ++ xtsBlocks f (xtsNext tweak) (bs.drop 16) n

/-- One of the two keys of a slot (R446). -/
def slotKey (slot : List Word) (i : Nat) : List Byte := ((slot.drop (8 * i)).take 8).flatMap (fun w => valBytes 4 w.toNat)

/-- The tweak of a line: its number under the second key. -/
def lineTweak (slot : List Word) (line : Nat) : List Byte := aesRounds (aesKeys (slotKey slot 1)) (valBytes 16 line)

/-- A 128-byte line as it leaves under a key slot (R444): the first key ciphers data, the second the tweak, which is the line's number
(PRESUMED, log 60). -/
def cipherLine (slot : List Word) (line : Nat) (bs : List Byte) : List Byte :=
  xtsBlocks (aesRounds (aesKeys (slotKey slot 0))) (lineTweak slot line) bs 8

/-- What a line of ciphertext is read as under a key slot (R444, R445). -/
def plainLine (slot : List Word) (line : Nat) (bs : List Byte) : List Byte :=
  xtsBlocks (aesUnrounds (aesKeys (slotKey slot 0))) (lineTweak slot line) bs 8

/-! ### Which key ciphers a line, and what memory is read as (R444, R445) -/

/-- The memory unit of a physical address is one of those that two words of a map name (R430, R431). -/
def inUnits (lo hi : Word) (a : Nat) : Bool :=
  let u := a / 2 ^ 34
  decide (a < memLimit) && (if u < 32 then lo.getLsbD u else hi.getLsbD (u - 32))

/-- The partition owns the memory unit of a physical address (R430, R431). -/
def ownsAddr (p : Part) (a : Nat) : Bool := inUnits (wordAt p.desc 6) (wordAt p.desc 7) a

/-- The units and key slot of every partition with ENC = 1, in the partitions' order; none of the others (R444, R446). -/
def keysOf (s : State) : List UnitKey :=
  s.parts.map (fun p => if (wordAt p.desc 12).getLsbD 1 then ⟨wordAt p.desc 6, wordAt p.desc 7, p.enckey⟩ else ⟨0, 0, []⟩)

/-- The key slot that ciphers a line: that of the partition whose unit it lies in, where that has ENC = 1 (R444; DESIGN CHOICE, log 39). -/
def keyIn (ks : List UnitKey) (line : Nat) : Option (List Word) := (ks.find? (fun k => inUnits k.lo k.hi (128 * line))).map (·.slot)

/-- The same in a state (DESIGN CHOICE, log 39). -/
def lineKey (s : State) (line : Nat) : Option (List Word) := keyIn (keysOf s) line

/-- A line of a unit as HBM4E and the safe tier hold it (R444, R496). -/
def streamUnder (ks : List UnitKey) (line : Nat) (bs : List Byte) : List Byte :=
  match keyIn ks line with
  | some slot => cipherLine slot line bs
  | none => bs

/-- The same in a state. -/
def streamLine (s : State) (line : Nat) (bs : List Byte) : List Byte := streamUnder (keysOf s) line bs

/-- What a line held by HBM4E is read as. -/
def readUnder (ks : List UnitKey) (line : Nat) (bs : List Byte) : List Byte :=
  match keyIn ks line with
  | some slot => plainLine slot line bs
  | none => bs

/-- What a line is read as once its keys have changed (R445). -/
def rereadLine (r : Rekey) (line : Nat) (bs : List Byte) : List Byte :=
  if keyIn r.before line = keyIn r.after line then bs else readUnder r.after line (streamUnder r.before line bs)

/-- What an unlisted line is read as: zeros, read anew after each change of keys since reset (R445; DESIGN CHOICE, log 2; DESIGN CHOICE,
DESIGN CHOICE, log 39). -/
def blankLine (rs : List Rekey) (line : Nat) : List Byte := rs.foldl (fun bs r => rereadLine r line bs) (List.replicate 128 0)

/-- What an unlisted byte is read as. -/
def blankByte (s : State) (a : Nat) : Byte := if s.dev.rekeys.isEmpty then 0 else (blankLine s.dev.rekeys (a / 128)).getD (a % 128) 0

/-- The root byte at a physical address: a listed byte is the difference from what an unlisted one is read as (DESIGN CHOICE, log 39). -/
def rootByte (s : State) (a : Nat) : Byte :=
  if s.dev.rekeys.isEmpty then cellGet s.mem a else cellGet s.mem a ^^^ blankByte s a

/-- Write root bytes (DESIGN CHOICE, log 39). -/
def putBytes (cells : List Host.Cell) (s : State) : List Upd :=
  if s.dev.rekeys.isEmpty then [.bytes cells] else [.bytes (cells.map (fun c => (c.1, c.2 ^^^ blankByte s c.1)))]

/-- The lines of cells in rising order. -/
def linesOfCells (m : Memory) : List Nat :=
  m.foldr (fun c ls => if ls.head? = some (c.1 / 128) then ls else (c.1 / 128) :: ls) []

/-- Words that stand in a version-spill area under another key than they were written under are read as data unrelated to them (R444, R445;
DESIGN CHOICE, log 39). -/
def spillUnder (r : Rekey) (s : State) : List Upd :=
  let nums := ((s.parts.zip (r.before.zip r.after)).filter (fun x => x.2.1.slot != x.2.2.slot)).map (fun x => x.1.num)
  if !s.order.versions.any (fun v => v.spilled && nums.contains v.part) then [] else
  [.order { s.order with versions := s.order.versions.map (fun v =>
      if v.spilled && nums.contains v.part then { v with words := v.words.map (fun x => (x.1, Config.spillWord s.model.free x.1, x.2.2)) } else v) },
   .model { s.model with free := s.model.free + 1 }]

/-- State.mem is what memory is read as; where a line's key has changed since a state, it is read anew from what HBM4E holds
(R444, R445; DESIGN CHOICE, log 39). -/
def rekeyed (before : List UnitKey) (s : State) : List Upd :=
  let r : Rekey := ⟨before, keysOf s⟩
  if r.before = r.after then [] else
  let cells := ((linesOfCells s.mem).filter (fun l => keyIn r.before l != keyIn r.after l)).flatMap (fun l =>
    cellsAt (128 * l) (rereadLine r l ((List.range 128).map (fun i => rootByte s (128 * l + i)))))
  inOrder [fun s => [.dev { s.dev with rekeys := s.dev.rekeys ++ [r] }], putBytes cells, spillUnder r] s

/-- Updates that may change keys, with what memory is then read as (DESIGN CHOICE, log 39). -/
def withKeys (us : State → List Upd) (s : State) : List Upd := inOrder [us, rekeyed (keysOf s)] s

end Sys2Proof.Machine
end

