-- ==== Sys2Proof/Machine/Access.lean ====
section
/-! DEFINITION. What a load sees: versions by shoot path (R253 to R257), combining reads of commutative ranges (R241 to R246), a
chunk's own stores (R227), scratchpad and tile store (R26), poison (R268). -/

namespace Sys2Proof.Machine

/-! ### Shoot paths (R28, R110) -/

/-- Level k of a path, 0 the first (R28). -/
def pathLevel (p : Path) (k : Nat) : Nat := p.toNat / 16 ^ (3 - k) % 16

/-- Depth of a path (R110). -/
def depth (p : Path) : Nat := ((List.range 4).filter (fun k => pathLevel p k != 0)).length

/-- A path with no 0 level above a non-zero one (R28). -/
def wellFormedPath (p : Path) : Bool := (List.range 4).all (fun k => (pathLevel p k != 0) == decide (k < depth p))

/-- PathPrefix (R110). -/
def pathPrefix (p q : Path) : Bool :=
  decide (depth p ≤ depth q) && (List.range (depth p)).all (fun k => pathLevel p k == pathLevel q k)

/-- The path of the parent. -/
def parentPath (p : Path) : Path :=
  match depth p with
  | 0 => 0
  | d + 1 => p &&& ~~~(BitVec.ofNat 16 (15 * 16 ^ (3 - d)))

/-- A child's path at the next level with value v (R375). -/
def childPath (p : Path) (v : Nat) : Path := p ||| BitVec.ofNat 16 (v * 16 ^ (3 - depth p))

/-- Follow the remap table (R254). -/
def effectiveFrom (fuel : Nat) (rs : List Remap) (part : Nat) (station : Option Nat) (p : Path) : Path :=
  match fuel with
  | 0 => p
  | n + 1 =>
    match rs.find? (fun r => r.part == part && r.station == station && r.path == p) with
    | none => p
    | some r => effectiveFrom n rs part station r.parent

/-- A tag's effective path (R254). -/
def effective (s : State) (part : Nat) (p : Path) : Path := effectiveFrom 5 s.order.remaps part none p

/-! ### Versions (R253, R254) -/

/-- A word a version holds: its value and its place in the device order. -/
def Version.word (v : Version) (wi : Nat) : Option (Word × Nat) := (v.words.find? (fun x => x.1 == wi)).map (·.2)

/-- The better of two candidates for a word: the longer path, then the later write (R254). -/
def betterVersion (a b : Path × Word × Nat) : Path × Word × Nat :=
  if depth a.1 < depth b.1 then b
  else if depth b.1 < depth a.1 then a
  else if a.2.2 < b.2.2 then b else a

/-- The non-root version of a word that a shoot sees, if any: its effective path, the word, its order (R254). -/
def versionSeen (s : State) (part : Nat) (y : Path) (wi : Nat) : Option (Path × Word × Nat) :=
  let cs := s.order.versions.filterMap (fun v =>
    let p := effective s part v.tag
    if v.part == part && v.station.isNone && pathPrefix p y then (v.word wi).map (fun x => (p, x.1, x.2)) else none)
  match cs with
  | [] => none
  | c :: rest => some (rest.foldl betterVersion c)

/-- The word of that version. -/
def versionWord (s : State) (part : Nat) (y : Path) (wi : Nat) : Option Word := (versionSeen s part y wi).map (·.2.1)

/-- The path of the version of a word that a shoot sees; 0 for the root (R254). -/
def seenPath (s : State) (part : Nat) (y : Path) (wi : Nat) : Path := ((versionSeen s part y wi).map (·.1)).getD 0

/-- The foreign version of a word that a peer's access sees: its tag, the word, its order (R453). -/
def foreignSeen (s : State) (station : Nat) (y : Path) (wi : Nat) : Option (Path × Word × Nat) :=
  let cs := s.order.versions.filterMap (fun v =>
    if v.station == some station && pathPrefix v.tag y then (v.word wi).map (fun x => (v.tag, x.1, x.2)) else none)
  match cs with
  | [] => none
  | c :: rest => some (rest.foldl betterVersion c)

/-- The word that a peer's access sees in a foreign version (R453). -/
def foreignWord (s : State) (station : Nat) (y : Path) (wi : Nat) : Option Word := (foreignSeen s station y wi).map (·.2.1)

/-- The root word at word index wi (R253, R254; DESIGN CHOICE, log 39). -/
def rootWord (s : State) (wi : Nat) : Word :=
  if s.dev.rekeys.isEmpty then memWord s.mem (4 * wi)
  else BitVec.ofNat 32 (bytesVal ((List.range 4).map (fun i => rootByte s (4 * wi + i))))

/-- Words of root memory from a physical address: realm tables, page tables, partition descriptors (R436, R438, R431). -/
def rootWords (s : State) (a n : Nat) : List Word := (List.range n).map (fun i => rootWord s (a / 4 + i))

/-- The committed word at word index wi as a shoot of a partition sees it (R254). -/
def committedWord (s : State) (part : Nat) (y : Path) (wi : Nat) : Word :=
  match versionWord s part y wi with
  | some x => x
  | none => rootWord s wi

/-- Byte k of a word. -/
def byteOf (x : Word) (k : Nat) : Byte := (x >>> (8 * k)).setWidth 8

/-- The committed byte at a physical address as a shoot sees it. -/
def committedByte (s : State) (part : Nat) (y : Path) (a : Nat) : Byte :=
  if s.order.versions.isEmpty then rootByte s a else byteOf (committedWord s part y (a / 4)) (a % 4)

/-! ### Commutative ranges (R241 to R246) -/

/-- Bytes of an element. -/
def crWidth (f : CrFmt) : Nat :=
  match f with
  | .f32 => 4
  | .s32 => 4
  | .f64 => 8
  | .s64 => 8

/-- The floating-point format of a range, if it has one. -/
def crSpec (f : CrFmt) : Option FSpec :=
  match f with
  | .f32 => some specF32
  | .f64 => some specF64
  | .s32 => none
  | .s64 => none

/-- An integer range's operation on integers (R244). -/
def crIntOp (op : CrOp) (bits : Nat) (a b : Int) : Int :=
  let u (x : Int) : Nat := intCode bits x
  match op with
  | .add => a + b
  | .min => min a b
  | .max => max a b
  | .and => (Nat.land (u a) (u b) : Nat)
  | .or => (Nat.lor (u a) (u b) : Nat)
  | .xor => (Nat.xor (u a) (u b) : Nat)

/-- The value a code of an integer range stands for: signed for MIN and MAX. -/
def crInt (bits : Nat) (v : Nat) : Int := if 2 ^ (bits - 1) ≤ v % 2 ^ bits then (v % 2 ^ bits : Nat) - 2 ^ bits else (v % 2 ^ bits : Nat)

/-- The value of an element from its partials, with the flags of its rounding and flush (R87, R92, R244). -/
def combineResult (r : CRange) (e : CElem) : Nat × Flags :=
  let bits := 8 * crWidth r.fmt
  match crSpec r.fmt with
  | none =>
    match e.partials with
    | [] => (0, 0)
    | p :: ps => (intCode bits (ps.foldl (fun a q => crIntOp r.op bits (crInt bits (intCode bits a)) (crInt bits (intCode bits q.w))) p.w), 0)
  | some f =>
    let nan := e.partials.any (·.nan)
    let pinf := e.partials.any (·.pinf)
    let ninf := e.partials.any (·.ninf)
    let w := e.partials.foldl (fun a p => a + p.w) (0 : Int)
    if nan || (pinf && ninf) then (canonNaN f, 0)
    else if pinf then (infEnc f false, 0)
    else if ninf then (infEnc f true, 0)
    else if w = 0 then (zeroEnc f (e.partials.all (·.allneg)), 0)
    else roundTo r.denorm f .rn (decide (w < 0)) w.natAbs (r.q - 63)

/-- The value of an element (R244). -/
def combineElem (r : CRange) (e : CElem) : Nat := (combineResult r e).1

/-- The declared range and element that hold a physical byte. -/
def rangeAt (s : State) (a : Nat) : Option (CRange × CElem) :=
  s.order.ranges.findSome? (fun r =>
    if !r.live then none else
    (r.elems.find? (fun e => decide (e.addr ≤ a) && decide (a < e.addr + crWidth r.fmt))).map (fun e => (r, e)))

/-! ### Views -/

/-- Whose eyes a read has: partition, shoot, and the chunk's buffered bytes, latest first. -/
structure View where
  part : Nat
  path : Path
  own : List (Place × Byte)

/-- A warp's view: its chunk's stores over what its shoot sees (R227, R232). -/
def Warp.view (w : Warp) : View := ⟨w.part, w.path, w.chunk.bytes⟩

/-- A byte of a task's storage. -/
def taskByte (s : State) (p : Place) : Byte :=
  match s.task? p.owner with
  | none => 0
  | some t =>
    match p.space with
    | .scratch => cellGet t.scratch p.addr
    | .tile => cellGet t.tile p.addr
    | .carve => cellGet t.carve p.addr
    | .mem => 0

/-- The byte a read sees. -/
def viewByte (s : State) (v : View) (p : Place) : Byte :=
  match v.own.find? (fun x => x.1 == p) with
  | some x => x.2
  | none =>
    match p.space with
    | .mem =>
      match rangeAt s p.addr with
      | some (r, e) => BitVec.ofNat 8 (combineElem r e / 256 ^ (p.addr - e.addr))
      | none => committedByte s v.part v.path p.addr
    | .scratch => taskByte s p
    | .tile => taskByte s p
    | .carve => taskByte s p

/-- n bytes from a place on. -/
def placesFrom (p : Place) (n : Nat) : List Place := (List.range n).map (fun i => { p with addr := p.addr + i })

/-- The bytes a read sees from a place on. -/
def viewBytes (s : State) (v : View) (p : Place) (n : Nat) : List Byte := (placesFrom p n).map (viewByte s v)

/-- The little-endian value a read sees. -/
def viewVal (s : State) (v : View) (p : Place) (n : Nat) : Nat := bytesVal (viewBytes s v p n)

/-- The flags of the combining reads among n bytes that a read sees (R92, R244; DESIGN CHOICE, log 90). -/
def viewFlags (s : State) (v : View) (p : Place) (n : Nat) : Flags :=
  if s.order.ranges.isEmpty || p.space != .mem then 0 else
  (placesFrom p n).foldl (fun m q => m ||| (if v.own.any (fun x => x.1 == q) then 0 else (rangeAt s q.addr).elim 0 (fun x => (combineResult x.1 x.2).2))) 0

/-- A memory place. -/
def memPlace (a : Nat) : Place := ⟨.mem, 0, a⟩

/-- Words from a physical address as a view sees them. -/
def viewWords (s : State) (v : View) (a n : Nat) : List Word :=
  (List.range n).map (fun i => BitVec.ofNat 32 (viewVal s v (memPlace (a + 4 * i)) 4))

/-- The words that hold n bytes from a place. -/
def wordsOf (p : Place) (n : Nat) : List Place :=
  (List.range ((p.addr % 4 + n + 3) / 4)).map (fun i => { p with addr := p.addr / 4 * 4 + 4 * i })

/-- The owner of the poison marks of a foreign version's words (R268, R453). -/
def foreignOwner (station : Nat) (path : Path) : Nat := (station + 1) * 2 ^ 16 + path.toNat

/-- The mark of a word that is poisoned in a core's L1 only: its owner lies above those of versions (R488; DESIGN CHOICE, log 107). -/
def l1Owner : Nat := 2 ^ 40
def l1Mark (core : Nat) (p : Place) : Place := { p.word with owner := l1Owner + core }

/-- A write brings every L1's copy of its words up to date (R488; DESIGN CHOICE, log 107). -/
def refreshL1 (words : List Place) (poison : List Place) : List Place :=
  poison.filter (fun p => !(p.space == .mem && decide (l1Owner ≤ p.owner) && words.any (fun w => w.space == .mem && w.addr == p.addr)))

/-- The mark of a committed poisoned word: in memory the owner is the path of the version that holds it (R254, R268). -/
def poisonMark (p : Place) (path : Path) : Place := if p.space = .mem then { p.word with owner := path.toNat } else p.word

/-- Whether a word holds poison for a warp: the chunk's own marks, where it wrote the word, else the committed marks (R268). -/
def poisonedAt (s : State) (w : Warp) (p : Place) : Bool :=
  if w.chunk.bytes.any (fun x => x.1.word == p.word) then w.chunk.poisoned.contains p.word
  else if s.order.poison.isEmpty then false
  else s.order.poison.contains (poisonMark p (if p.space = .mem then seenPath s w.part w.path (p.addr / 4) else 0))
    || (p.space == .mem && s.order.poison.contains (l1Mark w.core p))

end Sys2Proof.Machine
end

