-- ==== Sys2Proof/Machine/Xlate.lean ====
section
/-! DEFINITION. Realms and translation (R427, R430, R436 to R441), and the fetch of an instruction's slot (R36 to R45). -/

namespace Sys2Proof.Machine

/-- Every byte of a range lies in a unit of the partition. -/
def ownsRange (p : Part) (a n : Nat) : Bool := ownsAddr p a && ownsAddr p (a + (n - 1))

/-- The base of a partition's realm table (R431). -/
def realmBase (p : Part) : Nat := (wfield p.desc 14 0 4 * 2 ^ 32 + (wordAt p.desc 13).toNat) * 2 ^ 16

/-- 2^RTLOG (R431). -/
def realmCount (p : Part) : Nat := 2 ^ wfield p.desc 14 4 5

/-- A realm table entry (R436). -/
def realmEntry (s : State) (p : Part) (n : Nat) : List Word := rootWords s (realmBase p + 16 * n) 4

/-- KIND of a realm entry (R436). -/
def realmKind (e : List Word) : Nat := wfield e 0 28 4
/-- ROOT of a realm entry (R436). -/
def realmRoot (e : List Word) : Nat := (wfield e 2 0 4 * 2 ^ 32 + (wordAt e 1).toNat) * 2 ^ 16
/-- A reserved bit of a realm entry is set (R436). -/
def realmReserved (e : List Word) : Bool := wfield e 0 0 24 != 0 || wfield e 2 4 28 != 0 || wfield e 3 23 9 != 0

/-- What an access is, for the checks of R437 and R440. -/
structure Acc where
  write : Bool := false
  fetch : Bool := false
  /-- An access that only local memory serves (R437 step 4). -/
  local_ : Bool := false
  /-- An access of RCOPY or COLL, or a counter instruction's (R437 step 6). -/
  engine : Bool := false
  counter : Bool := false
  scope : Nat := 0
  /-- An atomic (R437 step 7). -/
  atomic : Bool := false

/-- Who makes an access. -/
structure Who where
  part : Nat
  user : Bool
  path : Path
  own : List (Place × Byte)
  /-- The core whose TLB serves it, and its quadrant; an access that no warp makes has no TLB, and walks from a die's walk cache (R441). -/
  core : Nat := 0
  quadrant : Option Nat := none
  /-- Translations it holds (R443). -/
  held : List Xlat := []

/-- A warp as the maker of an access. -/
def Warp.who (w : Warp) : Who :=
  { part := w.part, user := w.level == 0, path := w.path, own := w.chunk.bytes, core := w.core, quadrant := some w.quadrant }

/-- Where an access goes. entry: the extended entry of a KV page. -/
inductive Route where
  | mem (addr : Nat) (entry : Option Nat)
  | peer (station aper offset : Nat)
  | ether (pod station window offset : Nat)
  deriving DecidableEq, Repr

/-- The result of a translation. -/
abbrev Xl (α : Type) := Except TrapReq α

/-! ### The walk (R438 to R440) -/

/-- Index of a level (R438). -/
def walkIndex (level off : Nat) : Nat :=
  match level with
  | 0 => off / 2 ^ 47
  | 1 => off / 2 ^ 30 % 2 ^ 17
  | 2 => off / 2 ^ 21 % 2 ^ 9
  | _ => off / 2 ^ 16 % 2 ^ 5

/-- Size of the page a leaf at a level maps (R438). -/
def pageSize (level : Nat) : Nat :=
  match level with
  | 1 => 2 ^ 30
  | 2 => 2 ^ 21
  | _ => 2 ^ 16

/-- Alignment of the table an entry at a level points to (R438, R326). -/
def tableAlign (level : Nat) (kv : Bool) : Nat :=
  match level with
  | 0 => 2 ^ 20
  | 1 => 2 ^ 12
  | _ => if kv then 1024 else 256

/-- What a walk finds (R440, R326): a page, with the permissions of all entries, or the extended entry of a KV page. -/
inductive Walked where
  | page (addr size : Nat) (u w x : Bool)
  | kv (entry : Nat) (u w : Bool) (demand : Bool)
  deriving DecidableEq, Repr

/-- A cause of an access through a realm, with the offset in ADDR and the realm number (R467). -/
def xlTrap (c : Cause) (realm : Nat) (off : DWord) : TrapReq := { raiseAt c off with realm := realm }

/-- A cause of the walk, step 8 of R437. -/
def walkTrap (c : Cause) (realm : Nat) (off : DWord) : TrapReq := { xlTrap c realm off with sub := 8 }

/-- ADDR of a table entry: physical bits 51:8 (R439). -/
def pteAddr (e : Nat) : Nat := e / 2 ^ 8 % 2 ^ 44 * 2 ^ 8

/-- A valid entry at level l that R439 refuses. -/
def pteBad (l e : Nat) : Bool :=
  e / 2 ^ 56 != 0 || e / 2 ^ 4 % 16 != 0 || e.testBit 1 || (e.testBit 2 && l == 0)
    || (!e.testBit 2 && l == 3) || (e.testBit 54 && (e.testBit 2 || l != 2))
    || (if e.testBit 2 then pteAddr e % pageSize l != 0 else pteAddr e % tableAlign l (e.testBit 54) != 0)

/-- A word of a table or an entry as a walk reads it for a shoot: one that started before the open commits completed reads what stood before
the first of them that wrote the version it sees (R515; DESIGN CHOICE, log 104). now: the word as it is. -/
def walkWord (s : State) (part : Nat) (path : Path) (wi : Nat) (now : Word) : Word :=
  if !s.model.stale then now else
  let p := seenPath s part (effective s part path) wi
  (s.order.commits.findSome? (fun c =>
    if c.part == part && effective s part c.who.path == p then (c.before.find? (fun x => x.1 == wi)).map (·.2) else none)).getD now

/-- The table entry at a physical address, as a partition's walk reads it. -/
def pteAt (s : State) (part ea : Nat) : Nat :=
  (walkWord s part 0 (ea / 4) (rootWord s (ea / 4))).toNat + (walkWord s part 0 (ea / 4 + 1) (rootWord s (ea / 4 + 1))).toNat * 2 ^ 32

/-- The offset bits that lead to an entry of a level (R438). -/
def walkPrefix (level off : Nat) : Nat :=
  match level with
  | 0 => off / 2 ^ 47
  | 1 => off / 2 ^ 30
  | 2 => off / 2 ^ 21
  | _ => off / 2 ^ 16

/-- The table entry at a physical address as a die's walks read it: its copy in the walk cache, or memory (R441, R442; DEDUCED, log 18). -/
def walkRead (s : State) (die part realm level off ea : Nat) : Nat :=
  match s.xl.walks.find? (fun x => x.die == die && x.part == part && x.realm == realm && x.level == level
      && x.index == walkPrefix level off && x.addr == ea) with
  | some x => x.value
  | none => pteAt s part ea

/-- The walk from a table at a level down; u, w, x: the bits set in every entry so far (R438 to R440). -/
def walkFrom (levels : List Nat) (s : State) (p : Part) (die realm : Nat) (off : DWord) (table : Nat) (kv u w x demand : Bool) : Xl Walked :=
  match levels with
  | [] => .error (walkTrap .xlateProt realm off)
  | l :: rest =>
    let ea := table + (if kv then 32 else 8) * walkIndex l off.toNat
    if !ownsAddr p ea then .error (walkTrap .xlateProt realm off)
    else if kv then .ok (.kv ea u w demand)
    else
      let e := walkRead s die p.num realm l off.toNat ea
      let dem := demand || e.testBit 55
      if !e.testBit 0 then .error { walkTrap .xlateMiss realm off with demand := dem }
      else if pteBad l e then .error (walkTrap .reservedField realm off)
      else if e.testBit 2 then
        .ok (.page (pteAddr e) (pageSize l) (u && e.testBit 53) (w && e.testBit 52) (x && e.testBit 3))
      else walkFrom rest s p die realm off (pteAddr e) (e.testBit 54) (u && e.testBit 53) (w && e.testBit 52) (x && e.testBit 3) dem

/-- The walk from a realm's ROOT (R438, R439). -/
def walk (s : State) (p : Part) (die realm : Nat) (root : Nat) (off : DWord) : Xl Walked :=
  if root % 2 ^ 20 != 0 then .error (walkTrap .reservedField realm off)
  else walkFrom [0, 1, 2, 3] s p die realm off root false true true true false

/-- The valid entries of levels 0 to 2 that a walk reads: what the walk cache keeps (R441). -/
def walkTrail (levels : List Nat) (s : State) (p : Part) (die realm : Nat) (off : DWord) (table : Nat) : List WalkEntry :=
  match levels with
  | [] => []
  | l :: rest =>
    let ea := table + 8 * walkIndex l off.toNat
    let e := walkRead s die p.num realm l off.toNat ea
    if !ownsAddr p ea || !e.testBit 0 || pteBad l e then [] else
    { die := die, part := p.num, realm := realm, level := l, index := walkPrefix l off.toNat, addr := ea, value := e }
      :: (if e.testBit 2 || e.testBit 54 then [] else walkTrail rest s p die realm off (pteAddr e))

/-! ### KV pages (R326, R327, R329) -/

/-- Footprint of a format tag in bytes (R329); 0 for a reserved tag. -/
def kvFootprint (fmt : Nat) : Nat :=
  match fmt with
  | 0 => 65536 | 1 => 65536 | 2 => 32768 | 3 => 32768 | 4 => 33792 | 5 => 17408 | 6 => 33792 | 7 => 17408 | 8 => 20482
  | _ => 0

/-- The eight words of an extended entry as a shoot sees them (R326, R328). -/
def kvEntry (s : State) (v : View) (ea : Nat) : List Word :=
  if s.model.stale && v.own.isEmpty then (viewWords s v ea 8).zipIdx.map (fun x => walkWord s v.part v.path (ea / 4 + x.2) x.1) else viewWords s v ea 8

/-- PFRAME (R326). -/
def kvPframe (e : List Word) : Nat := wfield e 7 4 26
/-- FMT (R326). -/
def kvFmtTag (e : List Word) : Nat := wfield e 4 0 4
/-- RO (R326). -/
def kvRo (e : List Word) : Bool := (wordAt e 7).getLsbD 31

/-- The physical address of a KV page's frame (R327). -/
def kvFrame (p : Part) (pframe : Nat) : Nat := (p.kvpool.toNat % 2 ^ 20) * 2 ^ 32 + pframe * 4096

/-- SIZE of KVPOOL in frames (R327). -/
def kvPoolFrames (p : Part) : Nat := (p.kvpool.toNat / 2 ^ 20 % 2 ^ 8) * 2 ^ 20

/-- A plain access to n bytes of a KV page (R327). -/
def kvPlain (s : State) (v : View) (p : Part) (realm : Nat) (off : DWord) (ea : Nat) (demand write : Bool) (n : Nat) : Xl Route :=
  let e := kvEntry s v ea
  let o := off.toNat % 2 ^ 16
  if kvPframe e = 0 then .error { walkTrap .xlateMiss realm off with demand := demand }
  else if kvPoolFrames p ≤ kvPframe e || (write && kvRo e) || decide (kvFootprint (kvFmtTag e) < o + n) then
    .error (walkTrap .xlateProt realm off)
  else
    let a := kvFrame p (kvPframe e) + o
    if ownsRange p a n then .ok (.mem a (some ea)) else .error (walkTrap .xlateProt realm off)

/-! ### Translation (R437, R440, R441) -/

/-- REALM_FAULT at a step (R437). -/
def realmFault (step realm : Nat) (off : DWord) : TrapReq := { xlTrap .realmFault realm off with sub := step }

/-- A page a walk found, under the access's permissions (R440). -/
def throughPage (p : Part) (who : Who) (acc : Acc) (realm : Nat) (off : DWord) (addr size : Nat) (u w x : Bool) (n : Nat) : Xl Route :=
  let a := addr + off.toNat % size
  if (who.user && !u) || (acc.write && !w) || (acc.fetch && !x) then .error (walkTrap .xlateProt realm off)
  else if ownsRange p a n then .ok (.mem a none)
  else .error (walkTrap .xlateProt realm off)

/-- A translation is of a partition's page (R441). -/
def Xlat.of (part realm : Nat) (off : DWord) (c : Xlat) : Bool := c.part == part && c.realm == realm && c.page == off.toNat / c.size

/-- The translation of an offset that its maker holds, or that its quadrant's TLB or its core's has (R441, R443; DEDUCED, log 18). -/
def cachedXlat (s : State) (who : Who) (realm : Nat) (off : DWord) : Option Xlat :=
  (who.held.find? (Xlat.of who.part realm off)).or
    (who.quadrant.bind (fun q =>
      (s.xl.cached.find? (fun c => c.of who.part realm off && c.core == who.core && c.quadrant == some q)).or
        (s.xl.cached.find? (fun c => c.of who.part realm off && c.core == who.core && c.quadrant.isNone))))

/-- The translation of a KV page that its core's KV translation cache has for its shoot (R328, R441; DEDUCED, log 18). -/
def cachedKv (s : State) (who : Who) (realm : Nat) (off : DWord) : Option KvXlat :=
  if who.quadrant.isNone then none else
  s.xl.kvs.find? (fun c => c.core == who.core && c.part == who.part && c.realm == realm && c.path == who.path && c.page == off.toNat / 2 ^ 16)

/-- The realm entry an access goes by: the one its cached translation was made under, or the table's (R436, R442; DEDUCED, log 18). -/
def realmEntryOf (s : State) (p : Part) (who : Who) (realm : Nat) (off : DWord) : List Word :=
  match (cachedXlat s who realm off).map (·.entry), (cachedKv s who realm off).map (·.entry) with
  | some e, _ => e
  | none, some e => e
  | none, none => realmEntry s p realm

/-- A walk, or what the KV translation cache keeps of one (R441). -/
def walkFor (s : State) (p : Part) (who : Who) (realm : Nat) (entry : List Word) (off : DWord) : Xl Walked :=
  match cachedKv s who realm off with
  | some c => .ok (.kv c.ea c.user c.write c.demand)
  | none => walk s p (dieOf who.core) realm (realmRoot entry) off

/-- The local walk of R440, a cached translation taken first (R441, R442; DEDUCED, log 18). -/
def translateLocal (s : State) (p : Part) (who : Who) (acc : Acc) (realm : Nat) (entry : List Word) (off : DWord) (n : Nat) : Xl Route :=
  match cachedXlat s who realm off with
  | some c => throughPage p who acc realm off (c.frame * 2 ^ 16) c.size c.user c.write c.exec n
  | none =>
    match walkFor s p who realm entry off with
    | .error t => .error t
    | .ok (.page a size u w x) => throughPage p who acc realm off a size u w x n
    | .ok (.kv ea u w demand) =>
      if (who.user && !u) || (acc.write && !w) || acc.fetch then .error (walkTrap .xlateProt realm off)
      else kvPlain s ⟨who.part, who.path, who.own⟩ p realm off ea demand acc.write n

/-- The translation of an ordinary page that an access goes by: the one it holds or a TLB has, or a walk's, in place for a TLB (R441,
R443). -/
def xlatOf (s : State) (p : Part) (who : Who) (realm : Nat) (off : DWord) (quadrant : Option Nat) : Option Xlat :=
  match cachedXlat s who realm off with
  | some c => some { c with core := who.core, quadrant := quadrant }
  | none =>
    let e := realmEntry s p realm
    if realmKind e ≠ 1 then none else
    match walk s p (dieOf who.core) realm (realmRoot e) off with
    | .error _ => none
    | .ok (.kv ..) => none
    | .ok (.page a size u w x) => some
        { core := who.core, quadrant := quadrant, entry := e, part := p.num, realm := realm, page := off.toNat / size, size := size,
          frame := a / 2 ^ 16, user := u, write := w, exec := x }

/-- The 64 KiB of a translation that an offset lies in (R443). -/
def Xlat.piece (off : DWord) (c : Xlat) : Xlat :=
  { c with page := off.toNat / 2 ^ 16, size := 2 ^ 16, frame := c.frame + off.toNat % c.size / 2 ^ 16 }

/-- The first byte and the bytes of the page whose translation serves a 64 KiB page: as a TLB has it, else as the tables give it (R441; DEDUCED,
DEDUCED, log 18). -/
def pageSpan (s : State) (part realm page : Nat) : Nat × Nat :=
  let off : DWord := BitVec.ofNat 64 (page * 2 ^ 16)
  match s.xl.cached.find? (Xlat.of part realm off), s.part? part with
  | some c, _ => (c.page * c.size, c.size)
  | none, none => (page * 2 ^ 16, 2 ^ 16)
  | none, some p =>
    match walk s p 0 realm (realmRoot (realmEntry s p realm)) off with
    | .ok (.page _ size _ _ _) => (off.toNat / size * size, size)
    | .ok (.kv ..) => (page * 2 ^ 16, 2 ^ 16)
    | .error _ => (page * 2 ^ 16, 2 ^ 16)

/-- The checks of R437 in the order of their steps: the partition and the realm entry they pass. -/
def realmChecks (s : State) (who : Who) (acc : Acc) (realm : Nat) (off : DWord) : Xl (Part × List Word) :=
  match s.part? who.part with
  | none => .error (realmFault 1 realm off)
  | some p =>
    let e := realmEntryOf s p who realm off
    let kind := realmKind e
    if decide (realmCount p ≤ realm) || !(kind == 1 || kind == 2 || kind == 3) || realmReserved e then .error (realmFault 1 realm off)
    else if who.user && !(wordAt e 0).getLsbD 27 then .error (realmFault 2 realm off)
    else if acc.write && !(wordAt e 0).getLsbD 26 then .error (realmFault 3 realm off)
    else if (acc.fetch || acc.local_) && kind != 1 then .error (realmFault 4 realm off)
    else if acc.fetch && !(wordAt e 0).getLsbD 25 then .error (realmFault 5 realm off)
    else if kind == 3 && (!(acc.engine || acc.counter) || (acc.counter && acc.write && acc.scope != 8)) then .error (realmFault 6 realm off)
    else if (kind == 3 || (kind == 2 && acc.atomic)) && who.path != 0 then
      .error { xlTrap .shootLimit realm off with sub := 7, d17 := who.path.setWidth 32 }
    else .ok (p, e)

/-- An access to n bytes: the checks of its realm, then the walk (R437, R440). -/
def translate (s : State) (who : Who) (acc : Acc) (realm : Nat) (off : DWord) (n : Nat) : Xl Route :=
  match realmChecks s who acc realm off with
  | .error t => .error t
  | .ok (p, e) =>
    if realmKind e = 1 then translateLocal s p who acc realm e off n
    else if realmKind e = 2 then
      if off.toNat + n ≤ 2 ^ 36 then .ok (.peer (wfield e 3 0 10) (wfield e 3 17 6) off.toNat) else .error (realmFault 9 realm off)
    else .ok (.ether (wfield e 3 10 7) (wfield e 3 0 10) (wfield e 3 17 6) off.toNat)

/-- Realm number of a selector (R54). -/
def Warp.realmOf (w : Warp) (rsel : Nat) : Nat := (w.regs.realm.getD rsel 0).toNat

/-- Read n words from a realm offset that only local memory serves, with the words for the read set. -/
def readLocal (s : State) (who : Who) (realm : Nat) (off : DWord) (n : Nat) : Xl (List Word × List Place) :=
  match translate s who { local_ := true } realm off (4 * n) with
  | .error t => .error t
  | .ok (.mem a _) => .ok (viewWords s ⟨who.part, who.path, who.own⟩ a n, wordsOf (memPlace a) (4 * n))
  | .ok (.peer ..) => .error (realmFault 4 realm off)
  | .ok (.ether ..) => .error (realmFault 4 realm off)

/-- Read words that may cross 64 KiB pages, one piece of at most 64 bytes at a time. -/
def readLocalPieces (fuel : Nat) (s : State) (who : Who) (realm : Nat) (off : DWord) (n : Nat) : Xl (List Word × List Place) :=
  match fuel with
  | 0 => .ok ([], [])
  | k + 1 =>
    if n = 0 then .ok ([], []) else
    let m := min n ((64 - off.toNat % 64 + 3) / 4)
    match readLocal s who realm off m with
    | .error t => .error t
    | .ok (ws, ps) =>
      match readLocalPieces k s who realm (off + BitVec.ofNat 64 (4 * m)) (n - m) with
      | .error t => .error t
      | .ok (ws', ps') => .ok (ws ++ ws', ps ++ ps')

/-! ### Fetch (R36 to R45) -/

/-- The bytes of a line in memory as a shoot sees them. -/
def lineAt (s : State) (part : Nat) (path : Path) (a : Nat) : List Byte := (List.range 64).map (fun i => committedByte s part path (a + i))

/-- The bytes a core fetches for a line: its copy if it holds one, else the line in memory (R38, R41). Instruction lines are read in
the root version's place as the warp's shoot sees them (DEDUCED, log 19). -/
def lineBytes (s : State) (w : Warp) (a : Nat) : List Byte :=
  match s.xl.lines.find? (fun c => c.core == w.core && c.addr == a && c.part == w.part && c.path == w.path) with
  | some c => c.bytes
  | none => lineAt s w.part w.path a

/-- Translate the line of a PC for a fetch through the code realm (R42, R437). -/
def fetchLine (s : State) (w : Warp) (pc : DWord) : Xl (Nat × List Byte) :=
  let off : DWord := pc &&& ~~~(63 : DWord)
  match translate s { w.who with own := [] } { fetch := true } w.crealm.toNat off 64 with
  | .error t => .error t
  | .ok (.mem a _) => .ok (a, lineBytes s w a)
  | .ok (.peer ..) => .error (realmFault 4 w.crealm.toNat off)
  | .ok (.ether ..) => .error (realmFault 4 w.crealm.toNat off)

end Sys2Proof.Machine
end

