-- ==== Sys2Proof/Machine/Mem.lean ====
section
/-! DEFINITION. Loads and stores (R266 to R278), IVLD and IVST (R170 to R173), cache maintenance (R291 to R293), FENCE and CHEND (R238,
R289, R290), with the checks every access makes: locks (R247, R248), seals (R260), declared ranges (R241). -/

namespace Sys2Proof.Machine

/-! ### Sizes (R270) -/

/-- Bytes of an access size. -/
def szBytes (s : Sz) : Nat :=
  match s with
  | .u8 => 1 | .s8 => 1 | .u16 => 2 | .s16 => 2 | .b32 => 4 | .b64 => 8 | .b128 => 16 | .b256 => 32

/-- SZ code (R270). -/
def szCode (s : Sz) : Nat :=
  match s with
  | .b32 => 0 | .u8 => 1 | .s8 => 2 | .u16 => 3 | .s16 => 4 | .b64 => 5 | .b128 => 6 | .b256 => 7

/-- The size of an SZ code; 8 plus IFMT is an interval's (R171, R172). -/
def szOfCode (n : Nat) : Sz :=
  match n with
  | 1 => .u8 | 2 => .s8 | 3 => .u16 | 4 => .s16 | 5 => .b64 | 6 => .b128 | 7 => .b256 | 8 => .b64 | 9 => .b128 | _ => .b32

/-- The k words of a value, low word first. -/
def wordsOfVal (k v : Nat) : List Word := (List.range k).map (fun i => BitVec.ofNat 32 (v / 2 ^ (32 * i)))

/-- A loaded value extended into its registers. -/
def extendVal (s : Sz) (v : Nat) : List Word :=
  match s with
  | .s8 => [(BitVec.ofNat 8 v).signExtend 32]
  | .s16 => [(BitVec.ofNat 16 v).signExtend 32]
  | .u8 => [BitVec.ofNat 32 v]
  | .u16 => [BitVec.ofNat 32 v]
  | .b32 => [BitVec.ofNat 32 v]
  | .b64 => wordsOfVal 2 v
  | .b128 => wordsOfVal 4 v
  | .b256 => wordsOfVal 8 v

/-! ### Locks, seals, declared ranges -/

/-- A lock covers some of n bytes from a place, for accesses of its partition (R247). -/
def Lock.meets (l : Lock) (part : Nat) (p : Place) (n : Nat) : Bool :=
  l.part == part && l.space == p.space && l.owner == p.owner && decide (l.lo < p.addr + n) && decide (p.addr < l.hi)

/-- What an access finds among the locks (R248). -/
inductive LockHit where
  | free
  | touch (words : List Nat)
  /-- The warp's own pass or copy, or its own transfer, which it waits for (R199). -/
  | own
  | locked
  deriving DecidableEq, Repr

/-- A window of a task. -/
def Task.window? (t : Task) (word : Nat) : Option Window := t.windows.find? (fun x => x.word == word && x.state != 0)

/-- A touch of a window waits for its landing: it is bound, not landed, and a halo's barrier has released it (R302, R303). -/
def touchable (s : State) (task word : Nat) : Bool :=
  match (s.task? task).bind (fun t => t.window? word) with
  | none => false
  | some x => x.state != 3 && (match s.job? x.job with | none => false | some j => j.phase == 2)

/-- Holders of matrix entries and copies are numbered from here on. -/
def matrixHolder : Nat := 2 ^ 20

/-- A lock of the warp's own pass or copy (R199, R215). -/
def Lock.ownPass (l : Lock) (w : Warp) : Bool := l.warp == w.id && decide (matrixHolder ≤ l.holder)

/-- Tile bytes that a transfer of the warp has not written yet (R199). -/
def tileBusyAt (w : Warp) (p : Place) (n : Nat) : Bool :=
  p.space == .tile && w.tileBusy.any (fun b => decide (b.1 < p.addr + n) && decide (p.addr < b.2.1)
    && w.regs.tags.any (fun e => e.tag == b.2.2 && !e.returned))

/-- The window of the warp's task whose destination a lock covers, where a touch of it waits (R248, R302). -/
def Lock.touched (s : State) (w : Warp) (l : Lock) : Option Nat :=
  if l.dest && l.owner == w.task then l.windowOf.filter (touchable s w.task) else none

/-- A thread access against the locks (R248, R199, R215): it waits for its warp's own passes and for windows of its task. -/
def lockHit (s : State) (w : Warp) (p : Place) (n : Nat) (write : Bool) : LockHit :=
  if tileBusyAt w p n then .own else
  match s.order.locks.filter (fun l => l.meets w.part p n && (l.dest || write || l.ownPass w)) with
  | [] => .free
  | l :: ls =>
    if !(l :: ls).all (fun k => k.ownPass w || (k.touched s w).isSome) then .locked else
    match nub ((l :: ls).filterMap (Lock.touched s w)) with
    | [] => .own
    | x :: xs => .touch (x :: xs)

/-- The edition a page is sealed under (R260). -/
def sealedAt (s : State) (a : Nat) : Option Word :=
  (s.order.editions.find? (fun e => e.page == a / 2 ^ 16 && e.sealed_)).map (·.last)

/-- The edition of the first sealed page that n bytes from an address lie in (R260). -/
def sealedRange (s : State) (a n : Nat) : Option Word :=
  (List.range ((a % 2 ^ 16 + n + 65535) / 2 ^ 16)).findSome? (fun i => sealedAt s (a + i * 2 ^ 16))

/-- Some of n bytes lie in a declared range (R241). -/
def meetsRange (s : State) (a n : Nat) : Bool := (List.range n).any (fun i => (rangeAt s (a + i)).isSome)

/-- Start the copy of a window that an access touched or WKICK named (R302, R305). -/
def requestWindow (task word : Nat) (s : State) : List Upd :=
  match (s.task? task).bind (fun t => t.window? word) with
  | none => []
  | some x => if x.state = 1 then onJob x.job (fun j => { j with started := true }) s else []

/-! ### One lane's access -/

/-- Where a lane's access goes. entry: the extended entry of a KV page; hit: what it waits for; page: the translation used. -/
inductive Spot where
  | at_ (p : Place) (entry : Option Nat) (hit : LockHit) (page : Option (Nat × Nat))
  | peer (station aper offset : Nat)
  deriving DecidableEq, Repr

/-- A cause with an offset and its realm number. -/
def raiseIn (c : Cause) (realm : Nat) (off : DWord) : TrapReq := xlTrap c realm off

/-- Steps 2, 4 and 5 of R266 for a plain access to memory: where it goes. -/
def memRoute (s : State) (w : Warp) (acc : Acc) (rsel : Nat) (off : DWord) (n align : Nat) : Xl Route :=
  let realm := w.realmOf rsel
  if off.toNat % align ≠ 0 then .error (raiseIn .misaligned realm off) else
  match translate s w.who acc realm off n with
  | .error t => .error t
  | .ok (.peer st ap o) => .ok (.peer st ap o)
  | .ok (.ether ..) => .error (realmFault 6 realm off)
  | .ok (.mem a e) =>
    match (if acc.write then sealedAt s a else none) with
    | some ed => .error { raiseIn .sealedWrite realm off with d17 := ed }
    | none => .ok (.mem a e)

/-- Step 6 of R266 for a plain access to memory that has its route. -/
def memLocks (s : State) (w : Warp) (write : Bool) (realm : Nat) (off : DWord) (n : Nat) (r : Route) : Xl Spot :=
  match r with
  | .peer st ap o => .ok (.peer st ap o)
  | .ether .. => .error (realmFault 6 realm off)
  | .mem a e =>
    if lockHit s w (memPlace a) n write != .free || (write && meetsRange s a n) then .error (raiseIn .rangeLock realm off)
    else .ok (.at_ (memPlace a) e .free (some (realm, off.toNat / 2 ^ 16)))

/-- Steps 2, 4, 5 and 6 of R266 for a plain access to memory. -/
def memSpot (s : State) (w : Warp) (acc : Acc) (rsel : Nat) (off : DWord) (n align : Nat) : Xl Spot :=
  match memRoute s w acc rsel off n align with
  | .error t => .error t
  | .ok r => memLocks s w acc.write (w.realmOf rsel) off n r

/-- Bytes of a task's allocation in a space (R26). -/
def spaceBytes (s : State) (task : Nat) (sp : Space) : Nat :=
  match s.task? task with
  | none => 0
  | some t =>
    match sp with
    | .scratch => 1024 * t.scrk
    | .tile => 1024 * t.tilek
    | .mem => 0
    | .carve => 32

/-- Steps 2 and 3 of R266 for an access to the task's scratchpad or tile store. -/
def taskBounds (s : State) (w : Warp) (sp : Space) (off : Int) (n align : Nat) : Option TrapReq :=
  let addr : DWord := BitVec.ofInt 64 off
  if off % align ≠ 0 then some (raiseAt .misaligned addr)
  else if off < 0 || (spaceBytes s w.task sp : Int) < off + n then
    some (raiseAt (if sp = .tile then .tileBounds else .scratchBounds) addr)
  else none

/-- Step 6 of R266 for an access within the task's allocation. -/
def taskLocks (s : State) (w : Warp) (sp : Space) (off n : Nat) (write : Bool) : Xl LockHit :=
  let hit := lockHit s w ⟨sp, w.task, off⟩ n write
  if hit = .locked then .error (raiseAt .rangeLock (BitVec.ofNat 64 off)) else .ok hit

/-- Steps 2, 3 and 6 of R266 for an access to the task's scratchpad or tile store. -/
def taskSpot (s : State) (w : Warp) (sp : Space) (off : Int) (n align : Nat) (write : Bool) : Xl Spot :=
  match taskBounds s w sp off n align with
  | some t => .error t
  | none =>
    match taskLocks s w sp off.toNat n write with
    | .error t => .error t
    | .ok hit => .ok (.at_ ⟨sp, w.task, off.toNat⟩ none hit none)

/-- The accesses of an instruction, lane by lane; the first cause of the lowest failing lane, with every lane that failed for that
cause (R266, R498; DEDUCED, log 63). -/
def eachLane {α : Type} (ls : List Nat) (f : Nat → Xl α) : Xl (List (Nat × α)) :=
  match ls.findSome? (fun l => match f l with
    | .error t => some t
    | .ok _ => none) with
  | some t => .error (t.inLanes (ls.filter (fun l => match f l with
      | .error u => u.cause == t.cause
      | .ok _ => false)))
  | none => .ok (ls.filterMap (fun l => match f l with
      | .error _ => none
      | .ok x => some (l, x)))

/-- What accesses wait for. -/
def waitsFor (xs : List (Nat × Spot)) : List LockHit :=
  nub ((xs.map (fun x => match x.2 with
    | .at_ _ _ h _ => h
    | .peer .. => .free)).filter (fun h => h != .free))

/-- Start the copies of the windows among waits (R302). -/
def requestHits (task : Nat) (hs : List LockHit) : State → List Upd :=
  forEach hs (fun h => match h with
    | .touch words => forEach words (requestWindow task)
    | .free => fun _ => []
    | .own => fun _ => []
    | .locked => fun _ => [])

/-- A touching instruction waits, and the copies of the windows it touches start (R199, R302; DEDUCED, log 22). -/
def touchWait (g : Go) (hs : List LockHit) : Act := { wait := true, waitUpds := requestHits g.w.task hs }

/-- The translations that accesses used (R443). -/
def pagesOf (xs : List (Nat × Spot)) : List (Nat × Nat) :=
  nub (xs.filterMap (fun x => match x.2 with
    | .at_ _ _ _ g => g
    | .peer .. => none))

/-- An instruction's accesses: its causes, its wait for windows it touches, else its effect. -/
def withSpots (g : Go) (r : Xl (List (Nat × Spot))) (k : List (Nat × Spot) → Act) : Act :=
  match r with
  | .error t => { trap := some t }
  | .ok xs =>
    match waitsFor xs with
    | [] => { k xs with pages := pagesOf xs }
    | h :: hs => touchWait g (h :: hs)

/-- The words of an extended entry that a plain access reads (R327, R328): FMT's, and PFRAME's with RO. -/
def entryWords (ea : Option Nat) : List Place :=
  match ea with
  | none => []
  | some a => [memPlace (a + 16), memPlace (a + 28)]

/-! ### Loads -/

/-- A register number's write in a lane. -/
def regWrite (u : Bool) (d l : Nat) (x : Word) (p : Bool) : RegWrite := if u then .u d x p else .v d l x p

/-- The register writes of one lane's load: each destination word is poisoned with the words it comes from (R268). -/
def loadWrites (s : State) (g : Go) (u : Bool) (d : Nat) (sz : Sz) (l : Nat) (p : Place) : List RegWrite :=
  let n := szBytes sz
  let v := viewVal s g.w.view p n
  (extendVal sz v).zipIdx.map (fun x =>
    regWrite u (d + x.2) l x.1 (poisonedAt s g.w { p with addr := p.addr + 4 * x.2 }))

/-- The flags of the combining reads of a lane's access (R92, R95, R244; DESIGN CHOICE, log 90). -/
def spotFlags (s : State) (g : Go) (n : Nat) (x : Spot) : Flags :=
  match x with
  | .at_ p _ _ _ => viewFlags s g.w.view p n
  | .peer .. => 0

/-- A load from checked spots, with the flags of its combining reads (R244). cached: an .ED load, which enters no read set (R273). -/
def loadAct (s : State) (g : Go) (u : Bool) (d : Nat) (sz : Sz) (edition : Option Word) (xs : List (Nat × Spot)) : Act :=
  let peers := xs.filterMap (fun x => match x.2 with
    | .at_ .. => none
    | .peer st ap o => some (x.1, st, ap, o))
  { writes := xs.flatMap (fun x => match x.2 with
      | .at_ p _ _ _ => loadWrites s g u d sz x.1 p
      | .peer .. => [])
    flags := xs.map (fun x => (x.1, spotFlags s g (szBytes sz) x.2))
    reads := if edition.isSome then [] else xs.flatMap (fun x => match x.2 with
      | .at_ p e _ _ => entryWords e ++ wordsOf p (szBytes sz)
      | .peer .. => [])
    awaits := if peers.isEmpty then .unit else .peer
    entry := fun e => { e with dst := d, duni := u, width := (szBytes sz + 3) / 4, lanes := peers.map (·.1), stations := peers.map (·.2.1), ext := szCode sz, kv := edition.toList }
    upds := forEach peers (fun x => sendOut (.peerRead x.2.1 x.2.2.1 g.w.path x.2.2.2 (szBytes sz) edition)) }

/-- A page is not sealed under the edition an .ED load names (R273); a peer checks its own. -/
def wrongEdition (s : State) (edition : Option Word) (r : Route) : Option Word :=
  match r with
  | .mem a _ => edition.filter (fun ed => sealedAt s a != some ed)
  | .peer .. => none
  | .ether .. => none

/-- The access of a load: in step 4 of R266 an .ED load finds its page sealed under the edition named (R273; DEDUCED, log 71). -/
def editionSpot (s : State) (w : Warp) (edition : Option Word) (rsel : Nat) (off : DWord) (n : Nat) : Xl Spot :=
  match memRoute s w { } rsel off n n with
  | .error t => .error t
  | .ok r =>
    match wrongEdition s edition r with
    | some ed => .error { raiseIn .realmFault (w.realmOf rsel) off with d17 := ed }
    | none => memLocks s w false (w.realmOf rsel) off n r

/-- The offset base + index * S + DISP * S (R272). -/
def memOffset (g : Go) (i l : Nat) (idx : Int) (r : MemRef) (n : Nat) : DWord :=
  g.rd2 i 0 l + BitVec.ofInt 64 (idx * n) + BitVec.ofInt 64 (r.disp.toInt * n)

/-- A load in form Mem. -/
def loadInstr (c : Ctl) (u : Bool) (sz : Sz) (ed : Bool) (d e : BitVec 8) (r : MemRef) (s : State) :
    Host.Outcome State Fault Refusal :=
  issue c (needs [dstField u d (szRegs sz)] ((if ed then [uniField e 1] else []) ++ [srcField r.base 2]) 0) (fun g =>
    let edition (l : Nat) : Option Word := if ed then some (g.rd 0 0 l) else none
    let base : Nat := if ed then 1 else 0
    withSpots g (eachLane g.lanes (fun l => editionSpot s g.w (edition l) r.rsel.toNat (memOffset g base l 0 r (szBytes sz)) (szBytes sz)))
      (loadAct s g u d.toNat sz (edition (g.lanes.headD 0)))) s

/-- LD (R271 to R273). -/
def execLd (c : Ctl) (sz : Sz) (ed : Bool) (d e : BitVec 8) (r : MemRef) (s : State) : Host.Outcome State Fault Refusal :=
  loadInstr c false sz ed d e r s

/-- LDU (R275). -/
def execLdu (c : Ctl) (sz : Sz) (ed : Bool) (d e : BitVec 8) (r : MemRef) (s : State) : Host.Outcome State Fault Refusal :=
  loadInstr c true sz ed d e r s

/-- The offset of a scratchpad access, exactly (R276). -/
def scrOffset (g : Go) (i l : Nat) (r : ScrRef) (n : Nat) : Int := (g.rd i 0 l).toNat + r.disp.toInt * n

/-- LDS (R276). -/
def execLds (c : Ctl) (sz : Sz) (d : BitVec 8) (r : ScrRef) (s : State) : Host.Outcome State Fault Refusal :=
  let n := szBytes sz
  issue c (needs [dstField c.u d (szRegs sz)] [srcField r.base 1] 0) (fun g =>
    withSpots g (eachLane g.lanes (fun l => taskSpot s g.w .scratch (scrOffset g 0 l r n) n n false))
      (loadAct s g c.u d.toNat sz none)) s

/-- The index of GATHER and SCATTER (R272). -/
def indexOf (zx : Bool) (x : Word) : Int := if zx then x.toNat else x.toInt

/-- GATHER (R277). -/
def execGather (c : Ctl) (sz : Sz) (zx : Bool) (d a : BitVec 8) (r : MemRef) (s : State) : Host.Outcome State Fault Refusal :=
  let n := szBytes sz
  issue c (needs [dstField false d (szRegs sz)] [srcField r.base 2, srcField (.v a) 1] 0) (fun g =>
    withSpots g (eachLane g.lanes (fun l =>
        memSpot s g.w { } r.rsel.toNat (memOffset g 0 l (indexOf zx (g.rd 1 0 l)) r n) n n))
      (loadAct s g false d.toNat sz none)) s

/-! ### Stores -/

/-- The low n bytes of the words of source field i in a lane. -/
def dataBytes (g : Go) (i l n : Nat) : List Byte :=
  (valBytes n (bytesVal ((List.range ((n + 3) / 4)).flatMap (fun k => valBytes 4 (g.rd i k l).toNat))))

/-- Mark and unmark words of a chunk. -/
def markWords (l : List Place) (xs : List (Place × Bool)) : List Place :=
  xs.foldl (fun m x => if x.2 then (if m.contains x.1 then m else x.1 :: m) else m.filter (fun q => q != x.1)) l

/-- A chunk's poisoned words after the lanes' stores of n bytes, lane after lane: a word stored into is poisoned when its data is, or when
the store leaves some of a poisoned word standing (R268). xs: where each lane stores, and which of its data words are poisoned. -/
def storeMarks (s : State) (w : Warp) (n : Nat) (old : List Place) (xs : List (Place × (Nat → Bool))) : List Place :=
  (xs.foldl (fun acc x => (wordsOf x.1 n).zipIdx.foldl (fun (acc : List Place × List Place) y =>
    let was := if acc.1.contains y.1 then acc.2.contains y.1 else poisonedAt s w y.1
    (y.1 :: acc.1, markWords acc.2 [(y.1, x.2 y.2 || (decide (n < 4) && was))])) acc) (([] : List Place), old)).2

/-- What a lane's store leaves for a peer (R239); poison: whether a byte of its data is poisoned. -/
def peerStoreOf (g : Go) (x : Nat × Spot) (bs : List (Byte × Bool)) : List PeerStore :=
  match x.2 with
  | .at_ .. => []
  | .peer st ap o => [{ station := st, aper := ap, offset := o, bytes := bs, pc := g.f.pc }]

/-- The peer a commit's part sends a store to. -/
def AfterCommit.station (a : AfterCommit) : Option Nat :=
  match a with
  | .peerStore p => some p.station
  | .tag .. => none
  | .peerAtomic _ => none
  | .count .. => none
  | .trap .. => none
  | .cwb _ => none

/-- The peers a shoot has stored to, in open chunks, in commits under way and before, with the tasks of the children it has resolved (R379). -/
def shootPeers (s : State) (part : Nat) (path : Path) : List Nat :=
  nub (((s.part? part).bind (fun p => p.shoots.find? (fun x => x.path == path))).elim [] (·.peers)
    ++ (s.order.commits.filter (fun c => c.part == part && effective s part c.who.path == path)).flatMap (fun c => c.after.filterMap AfterCommit.station)
    ++ (s.warps.filter (fun v => v.part == part && effective s part v.path == path)).flatMap (fun v => v.chunk.peer.map (·.station)))

/-- SHOOT_LIMIT of a store that would take its shoot past 64 peer devices, in the lanes that store to further ones (R379;
DESIGN CHOICE, log 101). -/
def peersTrap (s : State) (w : Warp) (xs : List (Nat × Spot)) : Option TrapReq :=
  let path := effective s w.part w.path
  if path = 0 then none else
  let known := shootPeers s w.part path
  let news := xs.filterMap (fun x => match x.2 with
    | .at_ .. => none
    | .peer st _ _ => if known.contains st then none else some (x.1, st))
  if known.length + (nub (news.map (·.2))).length ≤ 64 then none
  else some ((raiseD .shootLimit (path.setWidth 32)).inLanes (news.map (·.1)))

/-- A store of n bytes to checked spots; field i is the data. -/
def storeAct (s : State) (g : Go) (i n : Nat) (xs : List (Nat × Spot)) : Act :=
  let local_ := xs.filterMap (fun x => match x.2 with
    | .at_ p e _ _ => some (x.1, p, e)
    | .peer .. => none)
  { trap := peersTrap s g.w xs
    stores := local_.flatMap (fun x => ((placesFrom x.2.1 n).zip (dataBytes g i x.1 n)))
    reads := local_.flatMap (fun x => entryWords x.2.2)
    chunk := fun k =>
      { k with
        poisoned := storeMarks s g.w n k.poisoned (local_.map (fun x => (x.2.1, fun j => g.poisoned i j x.1)))
        peer := k.peer ++ xs.flatMap (fun x => peerStoreOf g x ((dataBytes g i x.1 n).zipIdx.map (fun b => (b.1, g.poisoned i (b.2 / 4) x.1)))) } }

/-- The need of a store: its address fields, then its data, whose poison travels. -/
def storeNeed (addr : List Field) (data : Field) : Need := { needs [] (addr ++ [data]) 0 with carry := [addr.length] }

/-- ST (R272, R274). -/
def execSt (c : Ctl) (sz : Sz) (r : MemRef) (e : Src) (s : State) : Host.Outcome State Fault Refusal :=
  let n := szBytes sz
  issue c (storeNeed [srcField r.base 2] (srcField e (szRegs sz))) (fun g =>
    withSpots g (eachLane g.lanes (fun l => memSpot s g.w { write := true } r.rsel.toNat (memOffset g 0 l 0 r n) n n))
      (storeAct s g 1 n)) s

/-- STS (R276). -/
def execSts (c : Ctl) (sz : Sz) (r : ScrRef) (e : Src) (s : State) : Host.Outcome State Fault Refusal :=
  let n := szBytes sz
  issue c (storeNeed [srcField r.base 1] (srcField e (szRegs sz))) (fun g =>
    withSpots g (eachLane g.lanes (fun l => taskSpot s g.w .scratch (scrOffset g 0 l r n) n n true))
      (storeAct s g 1 n)) s

/-- SCATTER (R277). -/
def execScatter (c : Ctl) (sz : Sz) (zx : Bool) (a e : BitVec 8) (r : MemRef) (s : State) : Host.Outcome State Fault Refusal :=
  let n := szBytes sz
  issue c (storeNeed [srcField r.base 2, srcField (.v a) 1] (srcField (.v e) (szRegs sz))) (fun g =>
    withSpots g (eachLane g.lanes (fun l =>
        memSpot s g.w { write := true } r.rsel.toNat (memOffset g 0 l (indexOf zx (g.rd 1 0 l)) r n) n n))
      (storeAct s g 2 n)) s

/-- The need of PREF: its base, whose poison raises nothing; where the base would fault after decode, it is not read (R268, R278). -/
def prefNeed (r : MemRef) (s : State) : Need :=
  let n : Need := { needs [] [srcField r.base 2] 0 with carry := [0] }
  match s.current with
  | none => n
  | some (w, f) =>
    if (siblingClash n w f).isSome then needs [] [] 0 else
    match queueStop s w (portsOf n.srcs) [] with
    | .trap _ => needs [] [] 0
    | .none => n
    | .wait _ => n
    | .endChunk => n

/-- PREF: an effect on timing alone; it never faults after decode (R278). -/
def execPref (c : Ctl) (_l2 : Bool) (r : MemRef) (s : State) : Host.Outcome State Fault Refusal :=
  issue c (prefNeed r s) (fun _ => { }) s

/-! ### Interval loads and stores (R170 to R173) -/

/-- Bytes of an interval in memory (R84). -/
def ivBytes (f : IvFmt) : Nat :=
  match f with
  | .if32 => 8 | .if64 => 16 | .if16 => 4 | .ibf16 => 4

/-- IFMT of a format (R171). -/
def ivCode (f : IvFmt) : Nat :=
  match f with
  | .if32 => 0 | .if64 => 1 | .if16 => 2 | .ibf16 => 3

/-- SZ of an interval. -/
def ivSz (f : IvFmt) : Sz :=
  match f with
  | .if32 => .b64 | .if64 => .b128 | .if16 => .b32 | .ibf16 => .b32

/-- Whether loaded bytes are a well-formed interval (R157). -/
def ivBytesOk (denorm : Bool) (f : IvFmt) (v : Nat) : Bool :=
  let h := 4 * ivBytes f
  (ivRead denorm (ivBound f) (v % 2 ^ h) (v / 2 ^ h)).isSome

/-- Whether words of a loaded interval are well formed (R157, R173). -/
def ivWordsOk (denorm : Bool) (f : IvFmt) (ws : List Word) : Bool :=
  ivBytesOk denorm f (ws.foldr (fun x acc => x.toNat + 2 ^ 32 * acc) 0)

/-- IVLD (R171 to R173). -/
def execIvld (c : Ctl) (f : IvFmt) (d : BitVec 8) (r : MemRef) (s : State) : Host.Outcome State Fault Refusal :=
  let n := ivBytes f
  issue c (needs [dstField false d (ivRegs f)] [srcField r.base 2] 0) (fun g =>
    withSpots g (eachLane g.lanes (fun l => memSpot s g.w { } r.rsel.toNat (memOffset g 0 l 0 r n) n n)) (fun xs =>
      let a := loadAct s g false d.toNat (ivSz f) none xs
      let bad := (xs.filter (fun x => match x.2 with
        | .at_ p _ _ _ => !ivBytesOk g.w.denorm f (viewVal s g.w.view p n)
        | .peer .. => false)).map (·.1)
      { a with
        flags := []
        raises := if bad.isEmpty then none else some ((raise .intervalOrder).inLanes bad)
        entry := fun e => { a.entry e with ext := 8 + ivCode f } })) s

/-- IVST: its intervals are checked before its accesses (R173). -/
def execIvst (c : Ctl) (f : IvFmt) (r : MemRef) (e : Src) (s : State) : Host.Outcome State Fault Refusal :=
  let n := ivBytes f
  issue c (storeNeed [srcField r.base 2] (srcField e (ivRegs f))) (fun g =>
    ivChecked g f [1] (fun _ =>
      withSpots g (eachLane g.lanes (fun l => memSpot s g.w { write := true } r.rsel.toNat (memOffset g 0 l 0 r n) n n))
        (storeAct s g 1 n))) s

/-! ### Ranges -/

/-- The pieces of a range that lie in one 64 KiB page each: offset and bytes (DEDUCED, log 70). -/
def pieces (fuel : Nat) (off : DWord) (len : Nat) : List (DWord × Nat) :=
  match fuel with
  | 0 => []
  | k + 1 =>
    if len = 0 then [] else
    let n := min len (2 ^ 16 - off.toNat % 2 ^ 16)
    (off, n) :: pieces k (off + BitVec.ofNat 64 n) (len - n)

/-- A piece of a range on its way: bytes before it, its length, where it goes. -/
structure Piece where
  at_ : Nat
  len : Nat
  route : Route
  deriving DecidableEq, Repr

/-- The routes of a range, page by page; the first failure in address order. -/
def routesFrom (s : State) (who : Who) (acc : Acc) (realm : Nat) (done : Nat) (ps : List (DWord × Nat)) : Xl (List Piece) :=
  match ps with
  | [] => .ok []
  | p :: rest =>
    match translate s who acc realm p.1 p.2 with
    | .error t => .error t
    | .ok r =>
      match routesFrom s who acc realm (done + p.2) rest with
      | .error t => .error t
      | .ok rs => .ok ({ at_ := done, len := p.2, route := r } :: rs)

/-- The routes of len bytes from an offset of a realm. -/
def routes (s : State) (who : Who) (acc : Acc) (realm : Nat) (off : DWord) (len : Nat) : Xl (List Piece) :=
  routesFrom s who acc realm 0 (pieces (len / 2 ^ 16 + 2) off len)

/-- The physical ranges of pieces that lie here. -/
def localRanges (ps : List Piece) : List (Nat × Nat) :=
  ps.filterMap (fun p => match p.route with
    | .mem a _ => some (a, a + p.len)
    | .peer .. => none
    | .ether .. => none)

/-- A piece that leaves the device. -/
def Piece.remote (p : Piece) : Bool :=
  match p.route with
  | .mem .. => false
  | .peer .. => true
  | .ether .. => true

/-- The code of a scope (R29). -/
def scopeCode (s : Scope) : Nat :=
  match s with
  | .lane => 0 | .warp => 1 | .task => 2 | .core => 3 | .cluster => 4 | .die => 5 | .device => 6 | .fabric => 7 | .system => 8

/-! ### Cache maintenance (R291 to R293) -/

/-- Both operands of a cache instruction are multiples of 128 (R291). -/
def cacheAligned (w : Warp) (rsel : Nat) (off : DWord) (len : Nat) : Option TrapReq :=
  if off.toNat % 128 ≠ 0 ∨ len % 128 ≠ 0 then some (raiseIn .misaligned (w.realmOf rsel) off) else none

/-- CINV: fetched copies are discarded at its position (R292). -/
def execCinv (c : Ctl) (scope : Scope) (r : MemRef) (len : BitVec 8) (s : State) : Host.Outcome State Fault Refusal :=
  issue c (needs [] [srcField r.base 2, uniField len 1] 0) (fun g =>
    let off := memOffset g 0 (g.lanes.headD 0) 0 r 128
    let n := (g.rd 1 0 (g.lanes.headD 0)).toNat
    match cacheAligned g.w r.rsel.toNat off n with
    | some t => { trap := some t }
    | none =>
      match routes s g.w.who { } (g.w.realmOf r.rsel.toNat) off n with
      | .error t => { trap := some t }
      | .ok ps => { after := (localRanges ps).map (fun x => .cinv x.1 x.2 (scopeCode scope)) }) s

/-- A command as it is created (R294): not sent, nothing done. -/
def newJob (s : State) (w : Warp) (f : Frag) (kind : JobKind) : Job where
  id := s.model.nextId
  kind := kind
  part := w.part
  launch := w.launch
  task := w.task
  warp := w.id
  who := w.ident
  core := w.core
  path := w.path
  level := w.level
  pc := f.pc
  placed := false
  sent := false
  started := false
  done := false
  asked := false
  askedAt := 0
  held := []
  desc := []
  realms := w.regs.realm
  src := 0
  dst := 0
  total := 0
  landed := 0
  phase := 0
  amount := 0
  counter := .none
  scope := 6
  tag := 0
  seq := s.model.nextId
  data := []
  msgs := []
  clock := f.clock
  startedAt := 0
  flags := 0
  picks := []

/-- Add a command. -/
def addJob (j : Job) (s : State) : List Upd := [.eng { s.eng with jobs := s.eng.jobs ++ [j] }]

/-- CWB: the lines are written after its chunk commits; its tag returns then (R293). -/
def execCwb (c : Ctl) (r : MemRef) (len : BitVec 8) (s : State) : Host.Outcome State Fault Refusal :=
  issue c (needs [] [srcField r.base 2, uniField len 1] 0) (fun g =>
    let off := memOffset g 0 (g.lanes.headD 0) 0 r 128
    let n := (g.rd 1 0 (g.lanes.headD 0)).toNat
    let realm := g.w.realmOf r.rsel.toNat
    match cacheAligned g.w r.rsel.toNat off n with
    | some t => { trap := some t }
    | none =>
      match routes s g.w.who { } realm off n with
      | .error t => { trap := some t }
      | .ok ps =>
        if ps.any Piece.remote then { trap := some (realmFault 4 realm off) }
        else if n = 0 then { }
        else
          { awaits := .job s.model.nextId, own := true, after := [.job s.model.nextId]
            upds := inOrder [addJob { newJob s g.w g.f .cwb with tag := c.alloc.toNat, total := n }, useIds 1] }) s

/-! ### FENCE and CHEND (R238, R289, R290) -/

/-- A tile-store write of the warp has not landed (R238). -/
def tileWritesPending (w : Warp) : Bool :=
  w.tileBusy.any (fun b => w.regs.tags.any (fun e => e.tag == b.2.2 && !e.returned))

/-- FENCE, with or without executing lanes (R290). -/
def fenceAct (code : Nat) (g : Go) : Act :=
  if code < 2 then { }
  else if tileWritesPending g.w then { wait := true }
  else if code < 6 then { }
  else { ends := true, after := [.fence code] }

/-- FENCE (R238, R289). -/
def execFence (c : Ctl) (scope : Scope) (s : State) : Host.Outcome State Fault Refusal :=
  issueWith c (needs [] [] 0) (fenceAct (scopeCode scope)) (fenceAct (scopeCode scope)) s

/-- CHEND (R226, R289). -/
def execChend (c : Ctl) (s : State) : Host.Outcome State Fault Refusal :=
  issueWith c (needs [] [] 0) (fun _ => { ends := true }) (fun _ => { ends := true }) s

end Sys2Proof.Machine
end

