-- ==== Sys2Proof/Machine/Atomic.lean ====
section
/-! DEFINITION. Atomics (R279 to R284, R240), commutative ranges (R241 to R246, R285 to R288), counters (R251, R308 to R310) and sealed
editions (R260, R313, R314). -/

namespace Sys2Proof.Machine

/-! ### Operations (R280) -/

/-- The floating-point format of an atomic. -/
def atomSpec (w64 : Bool) : FSpec := if w64 then specF64 else specF32

/-- A floating-point operation (R280). -/
def AtomOp.isFloat (op : AtomOp) : Bool :=
  match op with
  | .fadd => true | .fmin => true | .fmax => true
  | .add => false | .adds => false | .and => false | .or => false | .xor => false | .min => false | .max => false
  | .minu => false | .maxu => false | .exch => false

/-- An integer clamped to the signed range of a width. -/
def clampSigned (bits : Nat) (v : Int) : Int := max (-(2 ^ (bits - 1))) (min (2 ^ (bits - 1) - 1) v)

/-- new from the old word and the operand, with its flags (R280). -/
def atomNew (denorm : Bool) (op : AtomOp) (w64 : Bool) (old x : Nat) : Nat × Flags :=
  let bits := if w64 then 64 else 32
  let sgn (v : Nat) : Int := crInt bits v
  let f2 (r : FVal → FVal → Nat × Flags) : Nat × Flags :=
    let a := readF denorm (atomSpec w64) old
    let b := readF denorm (atomSpec w64) x
    let t := r a.1 b.1
    (t.1, a.2 ||| b.2 ||| t.2)
  match op with
  | .add => ((old + x) % 2 ^ bits, 0)
  | .adds => (intCode bits (clampSigned bits (sgn old + sgn x)), 0)
  | .and => (Nat.land old x, 0)
  | .or => (Nat.lor old x, 0)
  | .xor => (Nat.xor old x, 0)
  | .min => (if sgn old ≤ sgn x then old else x, 0)
  | .max => (if sgn old ≤ sgn x then x else old, 0)
  | .minu => (min old x, 0)
  | .maxu => (max old x, 0)
  | .exch => (x, 0)
  | .fadd => f2 (addVals denorm (atomSpec w64) .rn)
  | .fmin => f2 (minMaxVals (atomSpec w64) false false)
  | .fmax => f2 (minMaxVals (atomSpec w64) true false)

/-- new for an atomic or, with no operation, for a compare and swap (R281). -/
def atomResult (denorm : Bool) (op : Option AtomOp) (w64 : Bool) (old x cmp : Nat) : Nat × Flags :=
  match op with
  | some o => atomNew denorm o w64 old x
  | none => (if old = cmp then x else old, 0)

/-! ### Declared ranges -/

/-- A RED that contributes to a range (R286). -/
def contributes (r : CRange) (op : AtomOp) (w64 : Bool) : Bool :=
  match r.fmt with
  | .f32 => op == .fadd && !w64
  | .f64 => op == .fadd && w64
  | .s32 => !w64 && sameOp r.op op
  | .s64 => w64 && sameOp r.op op
where
  /-- The integer operation of a declaration is that of the RED. -/
  sameOp (c : CrOp) (op : AtomOp) : Bool :=
    match c with
    | .add => op == .add
    | .min => op == .min
    | .max => op == .max
    | .and => op == .and
    | .or => op == .or
    | .xor => op == .xor

/-- A value in units of a window; none where it is no multiple of the unit (R242). -/
def crUnits (q : Int) (v : FVal) : Option Int :=
  match v with
  | .nan _ => some 0
  | .inf _ => some 0
  | .fin neg m e =>
    let sh := e - (q - 63)
    if 0 ≤ sh then some ((if neg then -1 else 1) * ((m * 2 ^ sh.toNat : Nat) : Int))
    else if m % 2 ^ (-sh).toNat = 0 then some ((if neg then -1 else 1) * ((m / 2 ^ (-sh).toNat : Nat) : Int))
    else none

/-- A value as a partial of a core (R242, R243); none where it is not exact in the window. -/
def crPartial (r : CRange) (core : Nat) (denorm : Bool) (v : Nat) : Option (Partial × Flags) :=
  match crSpec r.fmt with
  | none => some ({ core := core, w := crInt (8 * crWidth r.fmt) v, nan := false, pinf := false, ninf := false, allneg := false }, 0)
  | some f =>
    let x := readF denorm f v
    match crUnits r.q x.1 with
    | none => none
    | some w =>
      if 2 ^ 95 ≤ w.natAbs then none else
      some ({ core := core, w := w, nan := isNaNVal x.1, pinf := isInfVal x.1 && !valNeg x.1, ninf := isInfVal x.1 && valNeg x.1,
              allneg := isZeroVal x.1 && valNeg x.1 }, x.2 ||| flagIf (isSNaN x.1) flagNV)

/-- Add a partial to that of the same core, or put it in core order, the base first (R242, R243, R244). -/
def addPartial (r : CRange) (p : Partial) (ps : List Partial) : List Partial :=
  match ps.find? (fun x => x.core == p.core) with
  | none => p :: ps
  | some x =>
    let bits := 8 * crWidth r.fmt
    let w := match crSpec r.fmt with
      | some _ => x.w + p.w
      | none => crInt bits (intCode bits (crIntOp r.op bits x.w p.w))
    let y : Partial := { x with w := w, nan := x.nan || p.nan, pinf := x.pinf || p.pinf, ninf := x.ninf || p.ninf,
                                allneg := x.allneg && p.allneg }
    ps.map (fun z => if z.core = p.core then y else z)

/-- A partial or the sum of all would leave the window (R242). -/
def crOverflows (r : CRange) (ps : List Partial) : Bool :=
  (crSpec r.fmt).isSome &&
  (ps.any (fun p => decide (2 ^ 95 ≤ p.w.natAbs)) || decide (2 ^ 95 ≤ (ps.foldl (fun a p => a + p.w) (0 : Int)).natAbs))

/-- The base partial's core number: it is added before any core's (R244). -/
def baseCore : Nat := 256

/-! ### One lane of an atomic -/

/-- Where a lane's atomic goes. -/
inductive AtomSpot where
  | word (p : Place) (page : Nat × Nat)
  | contrib (r : CRange) (elem : Nat) (page : Nat × Nat)
  | peer (station aper offset : Nat)

/-- The refusals of a deterministic launch that an atomic alone decides (R266 step 1, R282). op: none for ACAS. -/
def detRefused (w : Warp) (isRed : Bool) (op : Option AtomOp) (code : Nat) : Bool :=
  w.det && (if isRed then op == some .adds else decide (3 ≤ code) || op.any AtomOp.isFloat)

/-- The checks of R266 for one lane of an atomic (DEDUCED, log 92). -/
def atomSpot (s : State) (w : Warp) (isRed : Bool) (op : Option AtomOp) (w64 : Bool) (code rsel : Nat) (off : DWord) : Xl AtomSpot :=
  let n := if w64 then 8 else 4
  let realm := w.realmOf rsel
  if detRefused w isRed op code then .error (raise .detAtomic)
  else if off.toNat % n ≠ 0 then .error (raiseIn .misaligned realm off) else
  match translate s w.who { write := true, atomic := true, scope := code } realm off n with
  | .error t => .error t
  | .ok (.ether ..) => .error (realmFault 6 realm off)
  | .ok (.peer st ap o) =>
    if code < 7 then .error { raiseIn .realmFault realm off with d17 := BitVec.ofNat 32 code }
    else if w.det && isRed && op.any AtomOp.isFloat then .error (raise .detAtomic)
    else .ok (.peer st ap o)
  | .ok (.mem a _) =>
    let page := (realm, off.toNat / 2 ^ 16)
    match sealedAt s a with
    | some ed => .error { raiseIn .sealedWrite realm off with d17 := ed }
    | none =>
      if lockHit s w (memPlace a) n true != .free then .error (raiseIn .rangeLock realm off) else
      match (rangeAt s a).or (rangeAt s (a + n - 1)) with
      | some (r, e) =>
        if !(isRed && op.any (fun o => contributes r o w64) && e.addr == a) then .error (raiseIn .rangeLock realm off)
        else if w.path ≠ 0 then .error { raiseIn .shootLimit realm off with d17 := w.path.setWidth 32, halts := true }
        else .ok (.contrib r e.addr page)
      | none =>
        if w.det && isRed && op.any AtomOp.isFloat then .error (raise .detAtomic) else .ok (.word (memPlace a) page)

/-! ### Waves (R240) -/

/-- The barrier of a task: its own, or that of a group with no other member (R416). -/
def isTaskBar (s : State) (t : Task) (b : BarId) : Bool :=
  match b with
  | .task id => id == t.id
  | .group uid g =>
    match (s.launches.find? (fun l => l.uid == uid)).bind (fun l => l.groups[g]?) with
    | none => false
    | some x => !x.ranges.isEmpty && x.ranges.all (fun r => r.1 == t.index.toNat && r.2 == t.index.toNat)

/-- A warp has reached its task's barrier, by BAR or BARQ, or left (R240, R416). -/
def atBarrier (s : State) (t : Task) (v : Warp) : Bool :=
  v.regs.frags.isEmpty || v.regs.frags.all (fun f => match f.park with
    | .bar b _ _ => isTaskBar s t b
    | .barq b _ => isTaskBar s t b
    | .barWait b _ => isTaskBar s t b
    | .run => false | .join => false | .cbWait .. => false
    | .counter .. => false | .sleep _ => false)

/-- The warps of a task that have not exited. -/
def taskWarps (s : State) (task : Nat) : List Warp := s.warps.filter (fun v => v.task == task)

/-- The wave atomic of a warp may execute: every lower warp has done and committed its own of this wave, or stands at the task barrier;
every warp has done that of the wave before, or stands at the barrier. -/
def waveReady (s : State) (w : Warp) : Bool :=
  match s.task? w.task with
  | none => true
  | some t =>
    let k := w.wave + 1
    (taskWarps s w.task).all (fun v => v.id == w.id
      || atBarrier s t v
      || (decide (k ≤ v.wave + 1) && (decide (w.warpid ≤ v.warpid) || decide (k ≤ v.waveDone))))

/-- A value-returning task-scope atomic of a deterministic launch (R240). -/
def isWave (w : Warp) (isRed : Bool) (code : Nat) : Bool := w.det && !isRed && code == 2

/-- A wave atomic opens its own chunk, and waits for its turn with the instruction noted (R240). -/
def waveGate (s : State) (ask : Instr) (g : Go) (wave : Bool) (k : Act) : Act :=
  if wave && g.w.chunk.count != 0 then { endBefore := true }
  else if wave && !waveReady s g.w then
    { wait := true, waitUpds := onWarp g.w.id (fun w => { w with waveAsk := some (g.f.id, ask) }) }
  else k

/-- What the waves of a warp's task so far release (R263). -/
def waveClockOf (s : State) (w : Warp) : Clock := (s.task? w.task).elim [] (·.waveClock)

/-- A wave atomic of the warp has executed in a fragment, after the waves before it (R240, R263). -/
def Warp.waved (w : Warp) (wave : Bool) (fid : Nat) (clk : Clock) : Warp :=
  if wave then
    { w with wave := w.wave + 1, waveAsk := none
             regs := w.regs.mapFrag fid (fun f => Frag.nextEpoch w.id { f with clock := clockJoin f.clock clk }) }
  else w

/-! ### ATOM, ACAS, RED -/

/-- Operand and compare value of an atomic in a lane: source field 1, and field 2 for ACAS. -/
def atomArgs (g : Go) (cas w64 : Bool) (l : Nat) : Nat × Nat :=
  (if w64 then (g.rd2 1 0 l).toNat else (g.rd 1 0 l).toNat,
   if cas then (if w64 then (g.rd2 2 0 l).toNat else (g.rd 2 0 l).toNat) else 0)

/-- What the lanes of an atomic leave inside a chunk (R236, R281): buffered bytes in lane order, old values with their poison, flags. -/
structure AtomRun where
  bytes : List (Place × Byte)
  old : List (Nat × Nat × Bool)
  flags : List (Nat × Flags)

/-- One lane of an atomic inside a chunk. -/
def atomStep (s : State) (g : Go) (op : Option AtomOp) (cas w64 : Bool) (run : AtomRun) (x : Nat × AtomSpot) : AtomRun :=
  let n := if w64 then 8 else 4
  match x.2 with
  | .word p _ =>
    let old := viewVal s ⟨g.w.part, g.w.path, run.bytes.reverse ++ g.w.chunk.bytes⟩ p n
    let a := atomArgs g cas w64 x.1
    let r := atomResult g.w.denorm op w64 old a.1 a.2
    { bytes := run.bytes ++ (placesFrom p n).zip (valBytes n r.1)
      old := run.old ++ [(x.1, old, (wordsOf p n).any (poisonedAt s g.w))]
      flags := run.flags ++ [(x.1, r.2)] }
  | .contrib .. => run
  | .peer .. => run

/-- Contributions of a RED, lane by lane, with their flags; the lanes whose value is not exact in the window (R242). -/
def contribsOf (g : Go) (w64 : Bool) (xs : List (Nat × AtomSpot)) : List (Nat × Contribution × Flags) × List (Nat × DWord) :=
  xs.foldl (fun acc x => match x.2 with
    | .contrib r e _ =>
      let v := (atomArgs g false w64 x.1).1
      (match crPartial r g.w.core g.w.denorm v with
      | some (_, fl) => (acc.1 ++ [(x.1, { range := r.id, elem := e, value := BitVec.ofNat 64 v }, fl)], acc.2)
      | none => (acc.1, acc.2 ++ [(x.1, BitVec.ofNat 64 e)]))
    | .word .. => acc
    | .peer .. => acc) ([], [])

/-- The atomics of an instruction at codes 6 to 8, performed at their homes (R281). -/
def homeAtomics (g : Go) (op : Option AtomOp) (cas w64 : Bool) (dst : Option (Nat × Bool)) (tag : Nat) (xs : List (Nat × AtomSpot)) :
    List HomeAtomic :=
  xs.filterMap (fun x =>
    let a := atomArgs g cas w64 x.1
    let mk (t : AtomTarget) : HomeAtomic :=
      { target := t, op := op, w64 := w64, operand := BitVec.ofNat 64 a.1, compare := BitVec.ofNat 64 a.2, denorm := g.w.denorm, lane := x.1, dst := dst, tag := tag }
    match x.2 with
    | .word p _ => some (mk (.home p.addr))
    | .peer st ap o => some (mk (.peer st ap o))
    | .contrib .. => none)

/-- The words an atomic touches. -/
def AtomSpot.words (w64 : Bool) (x : AtomSpot) : List Place :=
  match x with
  | .word p _ => wordsOf p (if w64 then 8 else 4)
  | .contrib _ e _ => wordsOf (memPlace e) (if w64 then 8 else 4)
  | .peer .. => []

/-- The translation an atomic used. -/
def AtomSpot.page? (x : AtomSpot) : Option (Nat × Nat) :=
  match x with
  | .word _ g => some g
  | .contrib _ _ g => some g
  | .peer .. => none

/-- A contribution's words. -/
def contribWords (w64 : Bool) (xs : List (Nat × AtomSpot)) : List Place :=
  xs.flatMap (fun x => match x.2 with
    | .contrib .. => x.2.words w64
    | .word .. => []
    | .peer .. => [])

/-- The value-returning results of an atomic inside a chunk. -/
def oldWrites (u : Bool) (d : Nat) (w64 : Bool) (old : List (Nat × Nat × Bool)) : List RegWrite :=
  old.flatMap (fun x => (wordsOfVal (if w64 then 2 else 1) x.2.1).zipIdx.map (fun y => regWrite u (d + y.2) x.1 y.1 x.2.2))

/-- Poison marks of the words an atomic writes inside a chunk. -/
def atomPoison (s : State) (w : Warp) (w64 : Bool) (xs : List (Nat × AtomSpot)) : List (Place × Bool) :=
  (xs.flatMap (fun x => match x.2 with
    | .word .. => x.2.words w64
    | .contrib .. => []
    | .peer .. => [])).map (fun p => (p, poisonedAt s w p))

/-- ATOM, ACAS or RED once its lanes are checked (R281, R284, R286). -/
def atomAct (s : State) (c : Ctl) (g : Go) (isRed cas : Bool) (op : Option AtomOp) (w64 : Bool) (code : Nat) (d : BitVec 8)
    (xs : List (Nat × AtomSpot)) : Act :=
  let cs := contribsOf g w64 xs
  let run := if code ≤ 5 then xs.foldl (atomStep s g op cas w64) ⟨[], [], []⟩ else ⟨[], [], []⟩
  let homes := if code ≤ 5 then [] else
    homeAtomics g op cas w64 (if isRed then none else some (d.toNat, c.u)) (if isRed then 0 else c.alloc.toNat) xs
  let contribFlags := cs.1.map (fun x => (x.1, x.2.2))
  let redFlags := if code ≤ 5 then run.flags ++ contribFlags else []
  let cw := contribWords w64 xs
  match cs.2 with
  | x :: _ => { trap := some ({ raiseAt .crOverflow x.2 with lanes := some (maskOf (cs.2.map (·.1))) }) }
  | [] =>
    match (if isRed then raisedTrap c (needs [] [] 0) g { flags := redFlags } else none) with
    | some t => { trap := some t }
    | none =>
      { writes := if isRed then [] else oldWrites c.u d.toNat w64 run.old
        flags := if isRed then [] else run.flags
        reads := if code ≤ 5 then xs.flatMap (fun x => match x.2 with
            | .word .. => x.2.words w64
            | .contrib .. => []
            | .peer .. => []) else []
        touches := xs.flatMap (fun x => x.2.words w64)
        stores := run.bytes
        kind := fun p => if cw.contains p then .contribution
          else if isRed then .red (op.getD .add) w64
          else if isWave g.w isRed code then .wave g.w.task else .plain
        pages := nub (xs.filterMap (fun x => x.2.page?))
        awaits := if isRed || code ≤ 5 then .unit else .commit
        own := !isRed && 6 ≤ code
        entry := fun e => { e with dst := d.toNat, duni := c.u, width := if w64 then 2 else 1 }
        ends := 6 ≤ code
        chunk := fun k => { k with
          atoms := k.atoms ++ homes
          contribs := k.contribs ++ cs.1.map (fun x => x.2.1)
          poisoned := markWords k.poisoned (if code ≤ 5 then atomPoison s g.w w64 xs else [])
          flags := k.flags ||| (if isRed then redFlags.foldl (fun m x => m ||| x.2) 0 else 0)
          lateFlags := k.lateFlags ||| (if code ≤ 5 then 0 else contribFlags.foldl (fun m x => m ||| x.2) 0) }
        warp := fun w => w.waved (isWave g.w isRed code) g.f.id (waveClockOf s g.w) }

/-- The need of an atomic: address, operand, and the compare value of ACAS. -/
def atomNeed (c : Ctl) (isRed cas w64 : Bool) (d : BitVec 8) (r : MemRef) (e : Src) : Need :=
  let k := if w64 then 2 else 1
  needs (if isRed then [] else [dstField c.u d k])
    ([srcField r.base 2, srcField e k] ++ (if cas then [dstField c.u d k] else [])) 0

/-- The body of an atomic: its wave, its checks, its effect. ask: the instruction to note when it waits for its wave. -/
def atomBody (ask : Instr) (c : Ctl) (isRed cas : Bool) (op : Option AtomOp) (w64 : Bool) (scope : Scope) (d : BitVec 8) (r : MemRef)
    (s : State) (g : Go) : Act :=
  let code := scopeCode scope
  match eachLane g.lanes (fun l =>
    atomSpot s g.w isRed op w64 code r.rsel.toNat (memOffset g 0 l 0 r (if w64 then 8 else 4))) with
  | .error t => { trap := some t }
  | .ok xs =>
    waveGate s ask g (isWave g.w isRed code) (atomAct s c g isRed cas op w64 code d xs)

/-- An atomic at scope codes 6 to 8 ends its chunk with no executing lane too (R290). -/
def atomIdle (scope : Scope) (_ : Go) : Act := { ends := 6 ≤ scopeCode scope }

/-- What issuing an atomic of a fragment does. -/
def atomScript (ask : Instr) (c : Ctl) (isRed cas : Bool) (op : Option AtomOp) (w64 : Bool) (scope : Scope) (d : BitVec 8) (r : MemRef)
    (e : Src) (s : State) (w : Warp) (f : Frag) : List Upd :=
  issueScript c (atomNeed c isRed cas w64 d r e) (atomIdle scope) (atomBody ask c isRed cas op w64 scope d r s) s w f

/-- An atomic of the current fragment. -/
def atomInstr (ask : Instr) (c : Ctl) (isRed cas : Bool) (op : Option AtomOp) (w64 : Bool) (scope : Scope) (d : BitVec 8) (r : MemRef)
    (e : Src) (s : State) : Host.Outcome State Fault Refusal :=
  match s.current with
  | none => .fault .noCurrentWarp
  | some (w, f) => .next (s.run (atomScript ask c isRed cas op w64 scope d r e s w f))

/-- ATOM (R279 to R284). -/
def execAtom (c : Ctl) (op : AtomOp) (w64 : Bool) (scope : Scope) (d : BitVec 8) (r : MemRef) (e : Src) (s : State) :
    Host.Outcome State Fault Refusal :=
  atomInstr (.atom c op w64 scope d r e) c false false (some op) w64 scope d r e s

/-- ACAS (R281). -/
def execAcas (c : Ctl) (w64 : Bool) (scope : Scope) (d : BitVec 8) (r : MemRef) (e : Src) (s : State) :
    Host.Outcome State Fault Refusal :=
  atomInstr (.acas c w64 scope d r e) c false true none w64 scope d r e s

/-- RED (R281, R284, R286). -/
def execRed (c : Ctl) (op : AtomOp) (w64 : Bool) (scope : Scope) (r : MemRef) (e : Src) (s : State) :
    Host.Outcome State Fault Refusal :=
  atomInstr (.red c op w64 scope r e) c true false (some op) w64 scope 0 r e s

/-! ### Declarations (R285 to R288) -/

/-- Range-lock entries a die has in use (R247): each range that a command registers takes one, a declaration one (DESIGN CHOICE, log 64). -/
def locksInUse (s : State) (die : Nat) : Nat :=
  (nub ((s.order.locks.filter (fun l => l.die == die)).map (fun l => (l.holder, l.range)))).length
    + s.order.ranges.countP (fun r => r.die == die)

/-- A die's table has room for n ranges (R247; DESIGN CHOICE, log 64). -/
def lockRoom (s : State) (die n : Nat) : Bool := decide (locksInUse s die + n ≤ 2048)

/-- A physical range meets a lock of the partition. -/
def meetsLock (s : State) (part lo hi : Nat) (destOnly : Bool) : Bool :=
  s.order.locks.any (fun l => (l.dest || !destOnly) && l.meets part (memPlace lo) (hi - lo))

/-- A physical range meets a declared range, from the declaration's commit on (R241). -/
def meetsDeclared (s : State) (lo hi : Nat) : Bool :=
  s.order.ranges.any (fun r => r.live && r.elems.any (fun e => decide (lo < e.addr + crWidth r.fmt) && decide (e.addr < hi)))

/-- The elements of a range with their base partials; none where a base value is not exact (R242, R285). -/
def baseElems (s : State) (v : View) (r : CRange) (addrs : List Nat) : Option (List CElem) :=
  addrs.foldr (fun a acc =>
    match acc, crPartial r baseCore r.denorm (viewVal s v (memPlace a) (crWidth r.fmt)) with
    | some es, some (p, _) => some ({ addr := a, partials := [p] } :: es)
    | _, _ => none) (some [])

/-- Element addresses of physical ranges. -/
def elemAddrs (width : Nat) (rs : List (Nat × Nat)) : List Nat :=
  rs.flatMap (fun x => (List.range ((x.2 - x.1) / width)).map (fun i => x.1 + width * i))

/-- CRDECL: checked and named at issue, declared at its position (R241, R285; DESIGN CHOICE, log 115). -/
def execCrdecl (c : Ctl) (op : CrOp) (fmt : CrFmt) (rsel : BitVec 2) (a b e : BitVec 8) (s : State) :
    Host.Outcome State Fault Refusal :=
  issueWith c (needs [] [uniField a 2, uniField b 1, uniField e 1] 0) (fun _ => { ends := true }) (fun g =>
    let off := g.rd2 0 0 0
    let len := (g.rd 1 0 0).toNat
    let q := (g.rd 2 0 0).toInt
    let realm := g.w.realmOf rsel.toNat
    let float := (crSpec fmt).isSome
    if g.w.path ≠ 0 then { trap := some (raiseD .shootLimit (g.w.path.setWidth 32)) }
    else if off.toNat % 128 ≠ 0 then { trap := some (raiseIn .misaligned realm off) }
    else if len % 128 ≠ 0 ∨ len < 128 ∨ 2 ^ 24 < len then { trap := some (argRange 0 0) }
    else if float && (decide (q < -1100) || decide (1100 < q)) then { trap := some (argRange 0 0) } else
    match routes s g.w.who { local_ := true } realm off len with
    | .error t => { trap := some t }
    | .ok ps =>
      let rs := localRanges ps
      if rs.any (fun x => meetsLock s g.w.part x.1 x.2 false || meetsDeclared s x.1 x.2) then { trap := some (raiseIn .rangeLock realm off) }
      else if !lockRoom s (dieOf g.w.core) 1 then { wait := true, ask := some .table } else
      let r : CRange := { id := s.model.nextId, part := g.w.part, realm := realm, offset := off, op := op, fmt := fmt, q := q,
                          denorm := g.w.denorm, die := dieOf g.w.core, live := false, elems := [] }
      match baseElems s g.w.view r (elemAddrs (crWidth fmt) rs) with
      | none => { trap := some (raiseIn .crOverflow realm off) }
      | some es =>
        { ends := true
          after := [.crdecl r.id]
          upds := inOrder [onOrder (fun o => { o with ranges := o.ranges ++ [{ r with elems := es }] }), useIds 1] }) s

/-- CRREL (R245, R285, R287). -/
def execCrrel (c : Ctl) (rsel : BitVec 2) (a : BitVec 8) (s : State) : Host.Outcome State Fault Refusal :=
  issueWith c (needs [] [uniField a 2] 0) (fun _ => { ends := true }) (fun g =>
    let off := g.rd2 0 0 0
    let realm := g.w.realmOf rsel.toNat
    if g.w.path ≠ 0 then { trap := some (raiseD .shootLimit (g.w.path.setWidth 32)) }
    else if off.toNat % 128 ≠ 0 then { trap := some (raiseIn .misaligned realm off) } else
    match translate s g.w.who { local_ := true } realm off 128 with
    | .error t => { trap := some t }
    | .ok _ =>
      match s.order.ranges.find? (fun r => r.live && r.part == g.w.part && r.realm == realm && r.offset == off) with
      | none => { trap := some (argRange 0 0) }
      | some r => { ends := true, after := [.crrel r.id] }) s

/-! ### Counters (R251, R308 to R310) -/

/-- Where a counter lies, with its checks (R308). -/
def counterAt (s : State) (who : Who) (write : Bool) (code realm : Nat) (off : DWord) : Xl AtomTarget :=
  if off.toNat % 8 ≠ 0 then .error (raiseIn .misaligned realm off) else
  match translate s who { write := write, counter := true, scope := code } realm off 8 with
  | .error t => .error t
  | .ok (.mem a _) => .ok (.home a)
  | .ok (.ether p st wn o) => .ok (.ether p st wn o)
  | .ok (.peer st ap o) =>
    if write && decide (code < 7) then .error { raiseIn .realmFault realm off with d17 := BitVec.ofNat 32 code } else .ok (.peer st ap o)

/-- A counter that a warp names through a realm selector. -/
def counterSpot (s : State) (w : Warp) (write : Bool) (code rsel : Nat) (off : DWord) : Xl AtomTarget :=
  counterAt s w.who write code (w.realmOf rsel) off

/-- CNTINC (R308; DEDUCED, log 27). -/
def execCntinc (c : Ctl) (scope : Scope) (rsel : BitVec 2) (a b : BitVec 8) (s : State) : Host.Outcome State Fault Refusal :=
  let code := scopeCode scope
  issueWith c (needs [] [uniField a 2, uniField b 1] 0) (fun _ => { ends := 6 ≤ code }) (fun g =>
    match counterSpot s g.w true code rsel.toNat (g.rd2 0 0 0) with
    | .error t => { trap := some t }
    | .ok t =>
      { ends := 6 ≤ code
        after := [.cntinc t ((g.rd 1 0 0).setWidth 64) code g.f.clock]
        warp := fun w => { w with regs := w.regs.mapFrag g.f.id (Frag.nextEpoch w.id) } }) s

/-- CNTRD: the value at the counter's home; no load of the chunk (R310). -/
def execCntrd (c : Ctl) (rsel : BitVec 2) (d a : BitVec 8) (s : State) : Host.Outcome State Fault Refusal :=
  issue c (needs [dstField true d 2] [uniField a 2] 0) (fun g =>
    match counterSpot s g.w false 6 rsel.toNat (g.rd2 0 0 0) with
    | .error t => { trap := some t }
    | .ok (.home x) => { writes := putPair true d.toNat [0] (fun _ => pairOf (rootWord s (x / 4)) (rootWord s (x / 4 + 1))) }
    | .ok (.peer st ap o) =>
      { awaits := .peer
        entry := fun e => { e with dst := d.toNat, duni := true, width := 2, lanes := [0], stations := [st], ext := szCode .b64 }
        upds := sendOut (.peerRead st ap g.w.path o 8 none) }
    | .ok (.ether p st wn o) =>
      { awaits := .peer
        entry := fun e => { e with dst := d.toNat, duni := true, width := 2, lanes := [0], stations := [1024], ext := szCode .b64 }
        upds := sendOut (.rdmaRead p st wn o 8) }) s

/-! ### Editions (R313, R314) -/

/-- A page that has no translation is not local memory: SEAL and UNSEAL raise REALM_FAULT for it, the only cause of step 4 that their row
names, with the step of the walk (R313, R322, R437; DEDUCED, log 96). -/
def bufferCause (realm : Nat) (t : TrapReq) : TrapReq :=
  if t.cause = .xlateMiss ∨ t.cause = .xlateProt then realmFault 8 realm t.addr else t

/-- The operand checks of SEAL and UNSEAL, in order; the pages of the buffer. -/
def sealPages (s : State) (w : Warp) (rsel : Nat) (off : DWord) (len : Nat) : Xl (List Nat) :=
  let realm := w.realmOf rsel
  if off.toNat % 2 ^ 16 ≠ 0 then .error (raiseIn .misaligned realm off)
  else if len = 0 ∨ len % 2 ^ 16 ≠ 0 then .error (argRange 0 0) else
  match routes s w.who { local_ := true } realm off len with
  | .error t => .error (bufferCause realm t)
  | .ok ps => if w.path ≠ 0 then .error (raiseD .shootLimit (w.path.setWidth 32)) else .ok ((localRanges ps).map (fun x => x.1 / 2 ^ 16))

/-- The edition record of a page; none where it has never been sealed. -/
def editionOf (s : State) (page : Nat) : Option Edition := s.order.editions.find? (fun e => e.page == page)

/-- A page that SEAL refuses under an edition (R314). -/
def sealRefused (s : State) (edition : Word) (page : Nat) : Bool :=
  edition = 0 || (editionOf s page).any (fun e => e.sealed_ || decide (edition.toNat ≤ e.last.toNat))

/-- SEAL (R260, R314). -/
def execSeal (c : Ctl) (rsel : BitVec 2) (a b e : BitVec 8) (s : State) : Host.Outcome State Fault Refusal :=
  issueWith c (needs [] [uniField a 2, uniField b 1, uniField e 1] 0) (fun _ => { ends := true }) (fun g =>
    let off := g.rd2 0 0 0
    let realm := g.w.realmOf rsel.toNat
    let edition := g.rd 2 0 0
    match sealPages s g.w rsel.toNat off (g.rd 1 0 0).toNat with
    | .error t => { trap := some t }
    | .ok pages =>
      match pages.find? (sealRefused s edition) with
      | some p => { trap := some { raiseIn .sealedWrite realm off with d17 := ((editionOf s p).map (·.last)).getD 0 } }
      | none =>
        if pages.any (fun p => meetsLock s g.w.part (p * 2 ^ 16) ((p + 1) * 2 ^ 16) true) then { trap := some (raiseIn .rangeLock realm off) }
        else { ends := true, after := [.seal pages edition] }) s

/-- UNSEAL (R260, R314). -/
def execUnseal (c : Ctl) (rsel : BitVec 2) (a b : BitVec 8) (s : State) : Host.Outcome State Fault Refusal :=
  issueWith c (needs [] [uniField a 2, uniField b 1] 0) (fun _ => { ends := true }) (fun g =>
    match sealPages s g.w rsel.toNat (g.rd2 0 0 0) (g.rd 1 0 0).toNat with
    | .error t => { trap := some t }
    | .ok pages => { ends := true, after := [.unseal pages] }) s

end Sys2Proof.Machine
end

