-- ==== Sys2Proof/Machine/Home.lean ====
section
/-! DEFINITION. What takes a position in the device order: words applied at their homes under a shoot's tag (R230, R253 to R258), the
conflicts and taints that follow (R234, R235, R257, R258), counters (R251), range locks of commands (R247 to R249), races (R263 to R265). -/

namespace Sys2Proof.Machine

/-! ### Versions (R253 to R255) -/

/-- Bytes of an address put into a word. -/
def mergeByte (x : Word) (k : Nat) (b : Byte) : Word := (x &&& ~~~(0xFF#32 <<< (8 * k))) ||| (b.setWidth 32 <<< (8 * k))

/-- A word with the bytes that cells give it. -/
def mergeCells (x : Word) (wi : Nat) (cells : List (Nat × Byte)) : Word :=
  cells.foldl (fun x c => if c.1 / 4 = wi then mergeByte x (c.1 % 4) c.2 else x) x

/-- The words that cells touch. -/
def wordsTouched (cells : List (Nat × Byte)) : List Nat := nub (cells.map (fun c => c.1 / 4))

/-- Put words into the version of their line under a tag (R253). -/
def putVersion (part : Nat) (station : Option Nat) (tag : Path) (pos : Nat) (vs : List Version) (wi : Nat) (x : Word) : List Version :=
  let line := wi / 32
  match vs.find? (fun v => v.part == part && v.station == station && v.tag == tag && v.line == line) with
  | none => vs ++ [{ part := part, station := station, tag := tag, line := line, words := [(wi, x, pos)], spilled := false, used := pos }]
  | some v =>
    let w : Version := { v with words := upsert (fun y => y.1 == wi) (wi, x, pos) v.words, used := pos }
    vs.map (fun u => if u.part = part ∧ u.station = station ∧ u.tag = tag ∧ u.line = line then w else u)

/-- At most four versions of a line are resident; the least recently accessed of more are spilled (R255). -/
def respill (line : Nat) (vs : List Version) : List Version :=
  let mine := sortBy (·.used) (vs.filter (fun v => v.line == line))
  let out := mine.take (mine.length - 4)
  vs.map (fun v => if v.line = line then { v with spilled := out.any (fun u => u.part == v.part && u.station == v.station && u.tag == v.tag) } else v)

/-- Versions after words are written under a tag. -/
def writeVersions (s : State) (part : Nat) (station : Option Nat) (tag : Path) (pos : Nat) (old : Nat → Word) (cells : List (Nat × Byte)) : List Version :=
  let wis := wordsTouched cells
  let vs := wis.foldl (fun vs wi => putVersion part station tag pos vs wi (mergeCells (old wi) wi cells)) s.order.versions
  (nub (wis.map (· / 32))).foldl (fun vs l => respill l vs) vs

/-- Versions after words that a shoot has read were accessed at a position: those it saw are the line's latest, and none of them stays
spilled (R255). -/
def touchVersions (s : State) (part : Nat) (y : Path) (pos : Nat) (words : List Place) (vs : List Version) : List Version :=
  let wis := (words.filter (fun p => p.space == .mem)).map (fun p => p.addr / 4)
  let touched (v : Version) : Bool := v.part == part && v.station.isNone
    && wis.any (fun wi => wi / 32 == v.line && (v.word wi).isSome && effective s part v.tag == seenPath s part y wi)
  let hit := (vs.filter touched).map (·.line)
  if hit.isEmpty then vs else
  (nub hit).foldl (fun vs l => respill l vs) (vs.map (fun v => if touched v then { v with used := pos } else v))

/-- Records of a partition's version-spill area (R255). -/
def spillCapacity (s : State) (part : Nat) : Nat :=
  match s.part? part with
  | none => 0
  | some p => p.vspill.toNat / 2 ^ 52 * 2 ^ 26 / 256

/-- Versions of a line beyond the four resident ones. -/
def spilledOf (vs : List Version) (line : Nat) : Nat := vs.countP (fun v => v.line == line) - 4

/-- Records in use by a partition. -/
def spillUsed (s : State) (part : Nat) : Nat := s.order.versions.countP (fun v => v.part == part && v.spilled)

/-- The first line, in order, for which a write under a tag would need a record the area has not (R255; DEDUCED, log 15). -/
def spillFails (s : State) (part : Nat) (station : Option Nat) (tag : Path) (lines : List Nat) : Option Nat :=
  if tag = 0 then none else
  let fresh := lines.filter (fun l => !s.order.versions.any (fun v => v.part == part && v.station == station && v.tag == tag && v.line == l))
  let need := fresh.filter (fun l => decide (4 ≤ s.order.versions.countP (fun v => v.line == l)))
  if spillUsed s part + need.length ≤ spillCapacity s part then none else (need.drop (spillCapacity s part - spillUsed s part)).head?

/-! ### Writers, conflicts, taints -/

/-- Whose write it is: partition, shoot, whether its launch is deterministic and in which tree, and the warp it does not squash. -/
structure Writer where
  part : Nat
  path : Path
  det : Bool
  tree : Nat
  warp : Option Nat

/-- A warp as a writer. -/
def warpWriter (s : State) (w : Warp) : Writer := ⟨w.part, w.path, w.det, treeOf s w, some w.id⟩

/-- An engine command as a writer (R253). -/
def jobWriter (s : State) (j : Job) : Writer :=
  let l := s.launch? j.part j.launch
  ⟨j.part, j.path, l.elim false (·.det), l.elim 0 (·.tree), none⟩

/-- A word that a chunk has accessed only as its reductions and mask changes do (R264): an update that replays on a conflict (DEDUCED,
DEDUCED, log 13). -/
def reducedOnly (v : Warp) (p : Place) : Bool :=
  (v.chunk.accesses.filter (fun a => a.place == p)).all (fun a => match a.kind with
    | .red .. => true
    | .plain => false
    | .contribution => false
    | .wave _ => false
    | .mask => true)

/-- An open chunk conflicts with words written under a tag (R234, R257): it read one, its shoot sees the tag, and it is in normal mode
or the writer is of another tree or in normal mode. Within a deterministic tree only words it reduces do, since those are no race (R34,
R264; DEDUCED, log 13). -/
def conflicts (s : State) (wr : Writer) (tag : Path) (words : List Place) (v : Warp) : Bool :=
  some v.id != wr.warp && v.chunk.start.isSome && v.part == wr.part && pathPrefix tag v.path
    && (let hit := v.chunk.reads.filter (fun p => words.contains p)
        if !v.det || !wr.det || wr.tree != treeOf s v then !hit.isEmpty else hit.any (reducedOnly v))

/-- Of two chunks with commit priority, a's was squashed first (DEDUCED, log 12). -/
def squashedFirst (a b : Warp) : Bool := decide (a.firstSquash < b.firstSquash) || (a.firstSquash == b.firstSquash && decide (a.id < b.id))

/-- A commit-priority chunk reads one of these words: the write is held (R235), unless the writer has priority and was squashed first,
so that two such chunks do not hold each other for ever (R391; DEDUCED, log 12). -/
def heldByPriority (s : State) (wr : Writer) (words : List Place) : Bool :=
  s.warps.any (fun v => v.prio && conflicts s wr (effective s wr.part wr.path) words v
    && !(wr.warp.bind s.warp?).any (fun w => w.prio && squashedFirst w v))

/-- The shoots that a write of words under a tag taints, descendants with them (R258). own: the writer's shoot. The reads of a child that
RESOLVE has committed stay its own and are its parent's too, so that both its descendants and its parent are tainted (DEDUCED, log 100). -/
def taintShoots (s : State) (part : Nat) (own a : Path) (wis : List Nat) (shoots : List Shoot) : List Shoot :=
  let hit := (shoots.filter (fun y => (y.live || effective s part y.path != y.path) && y.path != a && y.path != own && pathPrefix a y.path
    && y.reads.any (fun r => wis.contains r.1 && pathPrefix (effective s part r.2) a))).map (·.path)
  if hit.isEmpty then shoots else
  let up := (hit.map (effective s part)).filter (fun y => y != 0 && y != a && pathPrefix a y)
  shoots.map (fun y => if (hit ++ up).any (fun h => pathPrefix h y.path) then { y with tainted := true } else y)

/-- The memory bytes among cells, as addresses. -/
def memCells (cells : List (Place × Byte)) : List (Nat × Byte) :=
  cells.filterMap (fun c => if c.1.space = .mem then some (c.1.addr, c.2) else none)

/-- A task with the scratchpad and carve-map bytes among cells written. -/
def taskCells (t : Task) (cells : List (Place × Byte)) : Task :=
  cells.foldl (fun t c =>
    if c.1.owner = t.id then
      match c.1.space with
      | .scratch => { t with scratch := cellSet t.scratch c.1.addr c.2 }
      | .tile => { t with tile := cellSet t.tile c.1.addr c.2 }
      | .carve => { t with carve := cellSet t.carve c.1.addr c.2 }
      | .mem => t
    else t) t

/-- The tasks whose storage cells touch. -/
def cellTasks (cells : List (Place × Byte)) : List Nat :=
  nub (cells.filterMap (fun c => if c.1.space = .mem then none else some c.1.owner))

/-- Apply bytes at their homes at the next position, each after those listed before it, with the poison marks of their words; then
squash the chunks that conflict and taint the shoots that read what was there (R230, R234, R253, R258; DESIGN CHOICE, log 4). -/
def applyCells (wr : Writer) (cells : List (Place × Byte)) (marks : List (Place × Bool)) (s : State) : List Upd :=
  let y := effective s wr.part wr.path
  let pos := s.order.pos + 1
  let mem := memCells cells
  let wis := wordsTouched mem
  let words := nub (cells.map (fun c => c.1.word))
  let vs := if y = 0 then s.order.versions else writeVersions s wr.part none y pos (committedWord s wr.part y) mem
  let ids := (s.warps.filter (conflicts s wr y words)).map (·.id)
  inOrder ([(fun s => if y = 0 && !mem.isEmpty then putBytes mem s else []),
    onOrder (fun o => { o with
      pos := pos
      versions := vs
      poison := markWords (refreshL1 words o.poison) (marks.map (fun m => (poisonMark m.1 y, m.2))) }),
    forEach (cellTasks cells) (fun t => onTask t (fun k => taskCells k cells)),
    onPart wr.part (fun p => if wis.isEmpty then p else { p with shoots := taintShoots s wr.part wr.path y wis p.shoots })]
    ++ ids.map squash) s

/-! ### Mailbox windows in memory (R447 to R449, DEDUCED, log 17) -/

/-- Physical pieces of a window's realm, at supervisor level (R448). -/
def windowPieces (s : State) (w : List Word) (write : Bool) (off : DWord) (n : Nat) : Option (List (Nat × Nat)) :=
  match routes s { part := wfield w 0 28 3, user := false, path := 0, own := [] } { write := write, local_ := true } (wfield w 0 0 16) off n with
  | .error _ => none
  | .ok ps => some ((localRanges ps).map (fun r => (r.1, r.2 - r.1)))

/-- The physical address of a byte of some pieces. -/
def pieceByte (ps : List (Nat × Nat)) (off : Nat) : Option Nat :=
  match ps with
  | [] => none
  | p :: rest => if off < p.2 then some (p.1 + off) else pieceByte rest (off - p.2)

/-- Words of a ring from its word number n on, as cells of its window: word n stands at n modulo its length (DEDUCED, log 17). -/
def ringCells (ps : List (Nat × Nat)) (len n : Nat) (ws : List Word) : List (Place × Byte) :=
  ws.zipIdx.flatMap (fun x => (pieceByte ps (4 * ((n + x.2) % len))).elim [] (fun a => (placesFrom (memPlace a) 4).zip (valBytes 4 x.1.toNat)))

/-- Pieces of cells in order, of one aligned 128-byte granule each (R262; DESIGN CHOICE, log 21). -/
def payloadGranules (fuel : Nat) (cells : List (Place × Byte)) : List (List (Place × Byte)) :=
  match fuel with
  | 0 => []
  | k + 1 =>
    match cells with
    | [] => []
    | c :: _ =>
      let g := cells.takeWhile (fun x => x.1.addr / 128 == c.1.addr / 128)
      g :: payloadGranules k (cells.drop g.length)

/-- The root of a partition as a writer: the mailbox engine, a counter's home (R253, R309). -/
def rootWriter (part : Nat) : Writer := ⟨part, 0, false, 0, none⟩

/-- A granule is written at a position (R262). -/
def landGranule (wr : Writer) (g : List (Place × Byte)) : State → List Upd :=
  applyCells wr g ((nub (g.map (fun x => x.1.word))).map (fun p => (p, false)))

/-- Cells are written, granule by granule. -/
def landCells (wr : Writer) (cells : List (Place × Byte)) : State → List Upd :=
  inOrder ((payloadGranules cells.length cells).map (landGranule wr))

/-! ### Counters (R251, R263, R309) -/

/-- The root value of a counter. -/
def counterValue (s : State) (a : Nat) : Nat := (rootWord s (a / 4)).toNat + 2 ^ 32 * (rootWord s (a / 4 + 1)).toNat

/-- Add to a counter here: saturating, on the root version; chunks that read it are squashed; a CWAIT that observes it takes the
clock the increment releases (DEDUCED, log 27). -/
def counterAdd (part a amount : Nat) (clk : Clock) (s : State) : List Upd :=
  let v := min (2 ^ 64 - 1) (counterValue s a + amount)
  andThen (applyCells (rootWriter part) ((placesFrom (memPlace a) 8).zip (valBytes 8 v)) [])
    (onOrder (fun o => { o with counterClocks := o.counterClocks ++ [⟨.home a, BitVec.ofNat 64 v, clk⟩] })) s

/-- The clock that a wait for a value at a counter takes on (R263; DEDUCED, log 84). -/
def counterClock (s : State) (t : AtomTarget) (v : Nat) : Clock :=
  s.order.counterClocks.foldl (fun c x => if x.target = t ∧ x.value.toNat ≤ v then clockJoin c x.clock else c) []

/-- An increment leaves for a peer's counter; what it releases is kept under the sum of this device's increments to that counter, which
its value just after is not below (R32, R263; DEDUCED, log 84). -/
def sendCount (t : AtomTarget) (m : OutMsg) (amount : Nat) (clk : Clock) : State → List Upd :=
  andThen (sendOut m) (onOrder (fun o =>
    let sum := (o.counterClocks.filter (fun x => x.target == t)).foldl (fun k x => max k x.value.toNat) 0
    { o with counterClocks := o.counterClocks ++ [⟨t, BitVec.ofNat 64 (min (2 ^ 64 - 1) (sum + amount)), clk⟩] }))

/-- The write of a counter here is held for a chunk with commit priority (R235). -/
def counterHeld (s : State) (part : Nat) (t : AtomTarget) : Bool :=
  match t with
  | .home a => heldByPriority s (rootWriter part) (wordsOf (memPlace a) 8)
  | .peer .. => false
  | .ether .. => false

/-- Add to a counter wherever it lies (R251, R308; DEDUCED, log 27). -/
def counterAddAt (part : Nat) (path : Path) (t : AtomTarget) (amount : Nat) (clk : Clock) : State → List Upd :=
  match t with
  | .home a => counterAdd part a amount clk
  | .peer st ap o => sendCount t (.peerCount st ap path o (BitVec.ofNat 64 amount)) amount clk
  | .ether p st wn o => sendCount t (.rdmaCount p st wn o (BitVec.ofNat 64 amount)) amount clk

/-- Where a command's counter lies. -/
def CounterRef.target (c : CounterRef) : Option AtomTarget :=
  match c with
  | .none => Option.none
  | .local a => some (.home a)
  | .peer st ap o => some (.peer st ap o)
  | .ether p st wn o => some (.ether p st wn o)

/-- The counter of a command or launch advances (R251). -/
def advance (part : Nat) (path : Path) (c : CounterRef) (amount : Nat) (clk : Clock) : State → List Upd :=
  match c.target with
  | Option.none => fun _ => []
  | some t => counterAddAt part path t amount clk

/-- The counter of a command cannot advance yet (R235). -/
def advanceHeld (s : State) (part : Nat) (c : CounterRef) : Bool := c.target.any (counterHeld s part)

/-- A counter's place as a command keeps it. -/
def counterRef (t : AtomTarget) : CounterRef :=
  match t with
  | .home a => .local a
  | .peer st ap o => .peer st ap o
  | .ether p st wn o => .ether p st wn o

/-! ### Locks of commands (R247 to R249) -/

/-- A lock on a range of memory for a command. -/
def memLock (s : State) (w : Warp) (lo hi : Nat) (dest : Bool) (holder range id : Nat) : Lock where
  id := id
  part := w.part
  space := .mem
  owner := 0
  lo := lo
  hi := hi
  dest := dest
  holder := holder
  range := range
  warp := w.id
  chunkOf := some w.id
  windowOf := none
  die := dieOf w.core
  seq := s.model.nextId

/-- A lock on a range of memory that an engine command places itself. -/
def jobLock (s : State) (j : Job) (lo hi : Nat) (dest : Bool) (holder range id : Nat) : Lock where
  id := id
  part := j.part
  space := .mem
  owner := 0
  lo := lo
  hi := hi
  dest := dest
  holder := holder
  range := range
  warp := j.warp
  chunkOf := none
  windowOf := none
  die := dieOf j.core
  seq := s.model.nextId

/-- Two locks meet in a way that involves a write (R249). -/
def locksClash (a b : Lock) : Bool :=
  a.part == b.part && a.space == b.space && a.owner == b.owner && decide (a.lo < b.hi) && decide (b.lo < a.hi) && (a.dest || b.dest)

/-- A command waits behind an earlier command's lock (R249). -/
def behindLock (s : State) (holder : Nat) : Bool :=
  (s.order.locks.filter (fun l => l.holder == holder)).any (fun l =>
    s.order.locks.any (fun k => k.holder != holder && decide (k.seq < l.seq) && locksClash l k))

/-- Release the locks of a command. -/
def releaseLocks (holder : Nat) (s : State) : List Upd := onOrder (fun o => { o with locks := o.locks.filter (fun l => l.holder != holder) }) s

/-- The chunk that placed locks has its position: they are its command's alone. -/
def settleLocks (wid : Nat) (s : State) : List Upd :=
  onOrder (fun o => { o with locks := o.locks.map (fun l => if l.chunkOf = some wid then { l with chunkOf := none } else l) }) s

/-! ### Races (R263 to R265) -/

/-- Two accesses that never race by their kinds (R264). What two shoots do to one page's masks is ordered by their commits, taints and
RESOLVE instead (R258, R517, R518; DEDUCED, log 103). -/
def kindsAgree (a b : Access) : Bool :=
  match a.kind, b.kind with
  | .red o w, .red p x => o == p && w == x
  | .contribution, .contribution => true
  | .wave t, .wave u => t == u
  | .mask, .mask => a.path != b.path
  | .mask, .red .. => a.path != b.path
  | .red .., .mask => a.path != b.path
  | _, _ => false

/-- Two accesses are of two starts of one warp (R386): no race, for they come from one warp (R264; DEDUCED, log 102). -/
def restarted (a b : Access) : Bool := a.key == b.key && a.warp != b.warp

/-- An access does again what an earlier start of its warp did (R386, R506; DEDUCED, log 102). -/
def repeats (log : List Access) (a : Access) : Bool :=
  log.any (fun b => restarted a b && a.place == b.place && a.write == b.write && a.pc == b.pc)

/-- The accesses that no earlier start of their warp has made: the others have been checked and stand in the log (DEDUCED, log 102). -/
def freshOnly (log as : List Access) : List Access := if log.isEmpty then as else as.filter (fun a => !repeats log a)

/-- Access a, made later, races with access b (R264): each is visible by the effective path of its version (R254, R257). -/
def races (eff : Path → Path) (a b : Access) : Bool :=
  a.tree == b.tree && a.place == b.place && (a.write || b.write) && a.thread != b.thread
    && decide (clockGet a.clock b.thread < b.stamp) && !kindsAgree a b && !restarted a b
    && ((a.write && pathPrefix (eff a.path) (eff b.path)) || (b.write && pathPrefix (eff b.path) (eff a.path)))

/-- The first race of accesses in order with those logged and those before them. -/
def firstRaceOf (eff : Path → Path) (log : List Access) (as : List Access) : Option (Access × Access) :=
  match as with
  | [] => none
  | a :: rest =>
    match log.find? (races eff a) with
    | some b => some (a, b)
    | none => firstRaceOf eff (log ++ [a]) rest

/-- The first race of the accesses that are new. -/
def firstRace (eff : Path → Path) (log : List Access) (as : List Access) : Option (Access × Access) :=
  firstRaceOf eff log (freshOnly log as)

/-- The number of a space in a trap record (R467; DESIGN CHOICE, log 113). -/
def spaceCode (s : Space) : Nat :=
  match s with
  | .mem => 0 | .scratch => 1 | .tile => 2 | .carve => 2

/-- RACE with what its record carries (R265; DESIGN CHOICE, log 113). -/
def raceTrap (x : Access × Access) : TrapReq :=
  { raiseAt .race (BitVec.ofNat 64 x.1.place.addr) with
    fpc := some x.1.pc, ppc := some x.2.pc, d17 := BitVec.ofNat 32 (spaceCode x.1.place.space), d18 := x.2.key.taskid,
    d19 := BitVec.ofNat 32 x.2.key.warpid }

/-- Log accesses, those apart that repeat an earlier start's. -/
def logAccesses (as : List Access) (s : State) : List Upd :=
  if as.isEmpty then [] else onOrder (fun o => { o with accesses := o.accesses ++ freshOnly o.accesses as }) s

/-- The thread number of an engine command's accesses (DEDUCED, log 77). -/
def jobThread (id : Nat) : Nat := 2 ^ 60 + id

/-- The clock of a command's accesses: after the chunk that issued it (R263; DEDUCED, log 77). -/
def jobClock (j : Job) : Clock := clockRaise j.clock (jobThread j.id) 1

/-- The accesses of a command to words, for the race rule (R265; DEDUCED, log 77). -/
def jobAccesses (s : State) (j : Job) (reads writes : List Place) : List Access :=
  match s.launch? j.part j.launch with
  | none => []
  | some l =>
    if !l.det then [] else
    let one (write : Bool) (p : Place) : Access :=
      { tree := l.tree, warp := j.warp, key := ⟨l.uid, j.who.taskid, j.who.spawnix, j.who.warpid⟩, thread := jobThread j.id, stamp := 1, place := p,
        path := j.path, write := write, kind := .plain, pc := j.pc, clock := jobClock j }
    (nub (reads.map Place.word)).map (one false) ++ (nub (writes.map Place.word)).map (one true)

end Sys2Proof.Machine
end

