-- ==== Sys2Proof/Machine/Tensor.lean ====
section
/-! DEFINITION. What a matrix pass computes: element images (R194, R195), the windowed sum (R99), the steps of the three accumulator
kinds (R206 to R209). -/

namespace Sys2Proof.Machine

/-! ### Images (R194, R195) -/

/-- Bytes of one row of an image (R194). -/
def matRow (f : MatFmt) : Nat :=
  match f with
  | .bf16 => 256 | .f16 => 256 | .e4m3 => 128 | .e5m2 => 128 | .mxe4m3 => 132 | .mxe5m2 => 132 | .mxfp4 => 68 | .gb4 => 80
  | .s8 => 128 | .u8 => 128

/-- Bytes of the band scale at the end of an image (R194). -/
def matTail (f : MatFmt) : Nat := if f = .gb4 then 2 else 0

/-- Bytes of an image of some rows: 64 for A, 16 for a quarter (R194). -/
def matImage (f : MatFmt) (rows : Nat) : Nat := matRow f * rows + matTail f

/-- The code of a format (R194). -/
def matCode (f : MatFmt) : Nat :=
  match f with
  | .bf16 => 0 | .f16 => 1 | .e4m3 => 2 | .e5m2 => 3 | .mxe4m3 => 4 | .mxe5m2 => 5 | .mxfp4 => 6 | .gb4 => 7 | .s8 => 8 | .u8 => 9

/-- The format of a code (R194); none is reserved. -/
def matOfCode (n : Nat) : Option MatFmt :=
  match n with
  | 0 => some .bf16 | 1 => some .f16 | 2 => some .e4m3 | 3 => some .e5m2 | 4 => some .mxe4m3 | 5 => some .mxe5m2 | 6 => some .mxfp4
  | 7 => some .gb4 | 8 => some .s8 | 9 => some .u8 | _ => none

/-- The class of a format: 0 16-bit, 1 8-bit, 2 4-bit, 3 integer (R194). -/
def matClassOf (f : MatFmt) : Nat :=
  match f with
  | .bf16 => 0 | .f16 => 0 | .e4m3 => 1 | .e5m2 => 1 | .mxe4m3 => 1 | .mxe5m2 => 1 | .mxfp4 => 2 | .gb4 => 2 | .s8 => 3 | .u8 => 3

/-- Cycles of a pass (R213). -/
def passCycles (f : MatFmt) : Nat :=
  match matClassOf f with
  | 0 => 32 | 2 => 8 | _ => 16

/-- Bytes of an accumulator row (R195). -/
def accRow (a : AcFmt) : Nat := if a = .bf16 then 128 else 256

/-- Bytes of an accumulator image (R195). -/
def accImage (a : AcFmt) : Nat := 64 * accRow a

/-- The accumulator format of an ACC code (R197). -/
def accFmt (a : AccMode) : AcFmt :=
  match a with
  | .f32 => .f32 | .s32 => .s32 | .s32s => .s32 | .bf16sr => .bf16

/-- ACC of a code (R197). -/
def accOfCode (n : Nat) : AccMode :=
  match n with
  | 0 => .f32 | 1 => .s32 | 2 => .s32s | _ => .bf16sr

/-! ### Elements -/

/-- A nibble of packed 4-bit elements, low nibble first (R83). -/
def nibbleAt (b : Nat → Byte) (base i : Nat) : Nat := (b (base + i / 2)).toNat / 16 ^ (i % 2) % 16

/-- The value of element k of row r of an image of some rows, read through b from offset 0, with the flags of reading it
(R83, R92, R101, R105, R194, R207). -/
def matElem (denorm : Bool) (f : MatFmt) (rows : Nat) (b : Nat → Byte) (r k : Nat) : FVal × Flags :=
  let row := r * matRow f
  let half (i : Nat) : Nat := (b i).toNat + 256 * (b (i + 1)).toNat
  match f with
  | .bf16 => readF denorm specBF16 (half (row + 2 * k))
  | .f16 => readF denorm specF16 (half (row + 2 * k))
  | .e4m3 => (decodeF specE4M3 (b (row + k)).toNat, 0)
  | .e5m2 => (decodeF specE5M2 (b (row + k)).toNat, 0)
  | .mxe4m3 => (mxValue .e4m3 (b (row + 33 * (k / 32) + k % 32)).toNat (b (row + 33 * (k / 32) + 32)).toNat, 0)
  | .mxe5m2 => (mxValue .e5m2 (b (row + 33 * (k / 32) + k % 32)).toNat (b (row + 33 * (k / 32) + 32)).toNat, 0)
  | .mxfp4 => (mxValue .e2m1 (nibbleAt b (row + 17 * (k / 32)) (k % 32)) (b (row + 17 * (k / 32) + 16)).toNat, 0)
  | .gb4 => (gb4Value (half (matRow f * rows)) (b (row + 5 * (k / 8) + 4)).toNat (nibbleAt b (row + 5 * (k / 8)) (k % 8)), 0)
  | .s8 => (.fin false 0 0, 0)
  | .u8 => (.fin false 0 0, 0)

/-- The bytes of an image of some rows that hold the first kv elements of a row, with their scales (R83, R194, R206). -/
def matBytes (f : MatFmt) (rows r kv : Nat) : List Nat :=
  let row := r * matRow f
  let of (k : Nat) : List Nat := match f with
    | .bf16 => [row + 2 * k, row + 2 * k + 1]
    | .f16 => [row + 2 * k, row + 2 * k + 1]
    | .mxe4m3 => [row + 33 * (k / 32) + k % 32, row + 33 * (k / 32) + 32]
    | .mxe5m2 => [row + 33 * (k / 32) + k % 32, row + 33 * (k / 32) + 32]
    | .mxfp4 => [row + 17 * (k / 32) + k % 32 / 2, row + 17 * (k / 32) + 16]
    | .gb4 => [row + 5 * (k / 8) + k % 8 / 2, row + 5 * (k / 8) + 4, matRow f * rows, matRow f * rows + 1]
    | .e4m3 => [row + k]
    | .e5m2 => [row + k]
    | .s8 => [row + k]
    | .u8 => [row + k]
  (List.range kv).flatMap of

/-- The value of an integer element (R194). -/
def matInt (f : MatFmt) (b : Nat → Byte) (r k : Nat) : Int :=
  let x := b (r * matRow f + k)
  if f = .s8 then x.toInt else x.toNat

/-! ### The windowed sum (R99) -/

/-- A product of two elements, and whether it sets NV: 0 times infinity, or a signalling NaN (R99 step 1). -/
def winTerm (a b : FVal) : FVal × Bool :=
  if isNaNVal a || isNaNVal b then (.nan false, isSNaN a || isSNaN b)
  else if zeroTimesInf a b then (.nan false, true)
  else (mulExact a b, false)

/-- What steps 1 to 5 of R99 find. -/
inductive WinSum where
  | nan (nv : Bool)
  | inf (neg : Bool)
  | zero (neg : Bool)
  | sum (w : Int) (u : Int) (sticky : Bool)

/-- The exponent of a non-zero finite value. -/
def expOf (v : FVal) : Option Int :=
  match v with
  | .fin _ m e => if m = 0 then none else some ((Nat.log2 m : Int) + e)
  | .inf _ => none
  | .nan _ => none

/-- The contribution of a value to the window with unit 2^u, and whether it is cut (R99 step 4). -/
def winPart (u : Int) (v : FVal) : Int × Bool :=
  match v with
  | .fin s m e =>
    let sh := e - u
    let q := if 0 ≤ sh then m * 2 ^ sh.toNat else m / 2 ^ (-sh).toNat
    (if s then -(q : Int) else q, decide (sh < 0) && decide (m % 2 ^ (-sh).toNat ≠ 0))
  | .inf _ => (0, false)
  | .nan _ => (0, false)

/-- Steps 1 to 5 of Window32 over terms with their NV marks and an accumulator (R99). -/
def winSum (ts : List (FVal × Bool)) (c : FVal) : WinSum :=
  let vs := c :: ts.map (·.1)
  if vs.any isNaNVal then .nan (ts.any (·.2) || isSNaN c)
  else
    let infs := vs.filter isInfVal
    if infs.any valNeg && infs.any (fun v => !valNeg v) then .nan true
    else match infs with
    | v :: _ => .inf (valNeg v)
    | [] =>
      match vs.filterMap expOf with
      | [] => .zero (vs.all valNeg)
      | x :: xs =>
        let u := xs.foldl max x - 56
        let ps := vs.map (winPart u)
        .sum (ps.foldl (fun a p => a + p.1) 0) u (ps.any (·.2))

/-- Step 6 of Window32: W * U rounded to FP32, a tie broken away from zero where the sticky bit is set, in the result and in the value
that tininess is judged on (R87, R99). -/
def winF32 (denorm : Bool) (x : WinSum) : Nat × Flags :=
  match x with
  | .nan nv => (canonNaN specF32, flagIf nv flagNV)
  | .inf s => (infEnc specF32 s, 0)
  | .zero s => (zeroEnc specF32 s, 0)
  | .sum w u st => if w = 0 then (0, flagIf st flagNX)
    else
      let r := roundFin specF32 (if st then .ra else .rn) (decide (w < 0)) w.natAbs u
      flushResult denorm specF32 (r.1, r.2 ||| flagIf st flagNX)

/-- Window32 over values that are no products (R99, R221). -/
def window32 (denorm : Bool) (ts : List FVal) (c : FVal) : Nat × Flags := winF32 denorm (winSum (ts.map (fun t => (t, isSNaN t))) c)

/-- The stochastic rounding of the BF16 accumulator (R209). -/
def winBF16 (denorm compat : Bool) (rand : Nat) (x : WinSum) : Nat × Flags :=
  match x with
  | .nan nv => (canonNaN specBF16, flagIf nv flagNV)
  | .inf s => (infEnc specBF16 s, 0)
  | .zero s => (zeroEnc specBF16 s, 0)
  | .sum w u st => if w = 0 then (0, flagIf st flagNX)
    else
      let r := roundSR denorm compat specBF16 rand (.fin (decide (w < 0)) w.natAbs u)
      (r.1, r.2 ||| flagIf st flagNX)

/-! ### Steps (R206 to R209) -/

/-- What a pass needs to compute one element: its formats, masks taken, coordinates and settings. -/
structure PassArgs where
  af : MatFmt
  bf : MatFmt
  acc : AccMode
  kv : Nat
  denorm : Bool
  compat : Bool
  seed : DWord
  taskid : Word
  warpid : Nat
  step : Word

/-- The random word of an element's K group (R209). -/
def passRandom (p : PassArgs) (i n g : Nat) : Nat :=
  (gkc (cat2 p.seed (BitVec.ofNat 64 (0x4D414343 * 2 ^ 32 + n)))
    (cat4 p.taskid p.step (BitVec.ofNat 32 (p.warpid * 64 + i)) (BitVec.ofNat 32 g))).toNat % 2 ^ 32

/-- The terms of K group g for row i of A and column j of a quarter, with the flags of reading them; +0 beyond KV. -/
def groupTerms (p : PassArgs) (a b : Nat → Byte) (i j g : Nat) : List (FVal × Bool) × Flags :=
  (List.range 32).foldr (fun t acc =>
    let k := 32 * g + t
    if k < p.kv then
      let x := matElem p.denorm p.af 64 a i k
      let y := matElem p.denorm p.bf 16 b j k
      (winTerm x.1 y.1 :: acc.1, acc.2 ||| x.2 ||| y.2)
    else ((.fin false 0 0, false) :: acc.1, acc.2)) ([], 0)

/-- One integer element over a K group (R208). -/
def groupInt (p : PassArgs) (a b : Nat → Byte) (i j g : Nat) (c : Int) : Int :=
  (List.range 32).foldl (fun c t =>
    let k := 32 * g + t
    if k < p.kv then
      let x := c + matInt p.af a i k * matInt p.bf b j k
      if p.acc = .s32s then max (-(2 ^ 31)) (min (2 ^ 31 - 1) x) else crWrap x
    else c) c
where
  /-- The low 32 bits as a signed number. -/
  crWrap (x : Int) : Int := (BitVec.ofInt 32 x).toInt

/-- One element of a pass: row i of A, column j of the quarter, pass column n, from its accumulator bits (R206 to R209). -/
def passElem (p : PassArgs) (a b : Nat → Byte) (i j n : Nat) (acc : Nat) : Nat × Flags :=
  match p.acc with
  | .f32 => (List.range 4).foldl (fun c g =>
      let t := groupTerms p a b i j g
      let v := readF p.denorm specF32 c.1
      let r := winF32 p.denorm (winSum t.1 v.1)
      (r.1, c.2 ||| t.2 ||| v.2 ||| r.2)) (acc, 0)
  | .bf16sr => (List.range 4).foldl (fun c g =>
      let t := groupTerms p a b i j g
      let r := winBF16 p.denorm p.compat (passRandom p i n g) (winSum t.1 (decodeF specBF16 c.1))
      (r.1, c.2 ||| t.2 ||| r.2)) (acc, 0)
  | .s32 => (((BitVec.ofInt 32 ((List.range 4).foldl (fun c g => groupInt p a b i j g c) (BitVec.ofNat 32 acc).toInt)).toNat), 0)
  | .s32s => (((BitVec.ofInt 32 ((List.range 4).foldl (fun c g => groupInt p a b i j g c) (BitVec.ofNat 32 acc).toInt)).toNat), 0)

end Sys2Proof.Machine
end

