-- ==== Sys2Proof/Machine/Matrix.lean ====
section
/-! DEFINITION. The matrix instructions and tile-store transfers (R192 to R222), the follow-on pass (R214), what a pass and a copy do;
WAVE_ATOMIC_EXECUTE (R240). -/

namespace Sys2Proof.Machine

/-! ### The tile store -/

/-- A place in a warp's tile store. -/
def tileAt (w : Warp) (off : Nat) : Place := ⟨.tile, w.task, off⟩

/-- Write tile bytes when the instruction executes, with the poison marks of their words (R199, R268). -/
def putTile (task : Nat) (cells : List (Nat × Byte)) (marks : List (Place × Bool)) (s : State) : List Upd :=
  onTask task (fun t => { t with tile := cells.foldl (fun m c => cellSet m c.1 c.2) t.tile }) s
  ++ onOrder (fun o => { o with poison := markWords o.poison marks }) s

/-- Tile bytes as cells. -/
def tileCells (off : Nat) (bs : List Byte) : List (Nat × Byte) := cellsAt off bs

/-- The marks of words written clean. -/
def cleanMarks (w : Warp) (off n : Nat) : List (Place × Bool) := (wordsOf (tileAt w off) n).map (fun p => (p, false))

/-- A range of the tile store that an instruction names: offset, bytes, written or read. -/
structure Img where
  off : Nat
  size : Nat
  write : Bool

/-- Two ranges overlap. -/
def Img.meets (a b : Img) : Bool := decide (a.off < b.off + b.size) && decide (b.off < a.off + a.size)

/-- The checks of R196 on images, in order: offset, overlap of a read and a written image, bounds. -/
def imageShape (s : State) (w : Warp) (imgs : List Img) : Option TrapReq :=
  if imgs.any (fun i => decide (i.off % 256 ≠ 0)) then some (raise .matrixShape)
  else if imgs.any (fun i => i.write && imgs.any (fun j => !j.write && i.meets j)) then some (raise .matrixShape)
  else (imgs.find? (fun i => decide (spaceBytes s w.task .tile < i.off + i.size))).map (fun i => raiseAt .tileBounds (BitVec.ofNat 64 i.off))

/-- The range-lock check of R196 on tile ranges. -/
def imageLocks (s : State) (w : Warp) (imgs : List Img) : Xl (List LockHit) :=
  imgs.foldr (fun i acc =>
    match acc, taskLocks s w .tile i.off i.size i.write with
    | .error t, .ok _ => .error t
    | _, .error t => .error t
    | .ok hs, .ok h => .ok (h :: hs)) (.ok [])

/-- A fault of a granted pass that the warp's next tile-store instruction raises (R212). -/
def tilePending (w : Warp) : Option TrapReq := w.pending.find? (fun t => t.cause == .matrixShape)

/-- The row unit of the warp's core is at a quarter copy issued earlier on the core (R191; DEDUCED, log 93). -/
def rowUnitBusy (s : State) (w : Warp) : Bool := s.mat.copies.any (fun c => c.core == w.core && (c.committed || !w.prio))

/-- An instruction on the tile store: pending faults of its passes (R212), its images' shapes and bounds, the locks of the bytes it
touches, its waits, the core's row unit among them (R191), then its effect. -/
def withImages (s : State) (g : Go) (imgs touched : List Img) (k : Act) : Act :=
  match tilePending g.w with
  | some t => { trap := some t, atTrap := fun w => { w with pending := w.pending.erase t } }
  | none =>
    match imageShape s g.w imgs with
    | some t => { trap := some t }
    | none =>
      match imageLocks s g.w touched with
      | .error t => { trap := some t }
      | .ok hs =>
        match hs.filter (fun h => h != .free) with
        | [] => if rowUnitBusy s g.w then { wait := true } else k
        | h :: rest => touchWait g (nub (h :: rest))

/-- The bytes of a tile word range that some word poisons. -/
def tilePoison (s : State) (w : Warp) (off n : Nat) : Option Nat :=
  if s.order.poison.isEmpty then none else ((wordsOf (tileAt w off) n).find? (poisonedAt s w)).map (·.addr)

/-- POISON of a tile word an instruction consumes (R215, R268, R467). -/
def tilePoisonTrap (s : State) (g : Go) (imgs : List Img) (k : Act) : Act :=
  match imgs.findSome? (fun i => if i.write then none else tilePoison s g.w i.off i.size) with
  | some a => { trap := some (raiseD .poison (BitVec.ofNat 32 a)) }
  | none => k

/-- The little-endian value at a tile offset as the warp sees it. -/
def tileVal (s : State) (w : Warp) (off n : Nat) : Nat := viewVal s w.view (tileAt w off) n

/-! ### TALLOC and TFREE (R192, R193) -/

/-- The carve map a chunk sees, as a number (R192). -/
def carveMap (s : State) (w : Warp) : Nat := viewVal s w.view ⟨.carve, w.task, 0⟩ 32

/-- Granules of a task's allocation. -/
def granules (s : State) (task : Nat) : Nat := spaceBytes s task .tile / 1024

/-- A run of n granules from g is in the allocation and all of one state. -/
def carved (map total g n : Nat) (set : Bool) : Bool :=
  decide (g + n ≤ total) && (List.range n).all (fun i => map.testBit (g + i) == set)

/-- The lowest g for n clear granules (R193). -/
def carveFit (map total n : Nat) : Option Nat :=
  if n = 0 ∨ 256 < n then none else (List.range total).find? (fun g => carved map total g n false)

/-- The stores that replace the carve map. -/
def carveStores (w : Warp) (map : Nat) : List (Place × Byte) := (placesFrom ⟨.carve, w.task, 0⟩ 32).zip (valBytes 32 map)

/-- The words of the carve map. -/
def carveWords (w : Warp) : List Place := wordsOf ⟨.carve, w.task, 0⟩ 32

/-- The kind of a carve-map access for the race rule (R240, R264). -/
def carveKind (w : Warp) (_ : Place) : AccKind := if w.det then .wave w.task else .plain

/-- TALLOC's effect (R193). -/
def tallocAct (s : State) (ask : Instr) (d : BitVec 8) (g : Go) : Act :=
  let map := carveMap s g.w
  let n := (g.rd 0 0 0).toNat
  waveGate s ask g g.w.det
    { reads := carveWords g.w
      kind := carveKind g.w
      warp := fun w => w.waved g.w.det g.f.id (waveClockOf s g.w)
      writes := putWord true d.toNat [0] (fun _ => match carveFit map (granules s g.w.task) n with
        | some k => BitVec.ofNat 32 (k * 1024)
        | none => 0xFFFFFFFF)
      stores := match carveFit map (granules s g.w.task) n with
        | some k => carveStores g.w (map + (2 ^ n - 1) * 2 ^ k)
        | none => [] }

/-- TFREE's effect (R193). -/
def tfreeAct (s : State) (ask : Instr) (g : Go) : Act :=
  let map := carveMap s g.w
  let a := (g.rd 0 0 0).toNat
  let n := (g.rd 1 0 0).toNat
  if a % 1024 ≠ 0 then { trap := some (raise .matrixShape) }
  else
    waveGate s ask g g.w.det
      (if n ≠ 0 && !(decide (n ≤ 256) && carved map (granules s g.w.task) (a / 1024) n true) then
        { trap := some (raiseAt .tileBounds (BitVec.ofNat 64 a)) }
      else
        { reads := carveWords g.w
          kind := carveKind g.w
          warp := fun w => w.waved g.w.det g.f.id (waveClockOf s g.w)
          stores := if n = 0 then [] else carveStores g.w (map - (2 ^ n - 1) * 2 ^ (a / 1024)) })

/-- What TALLOC and TFREE need. -/
def tallocNeed (d a : BitVec 8) : Need := needs [dstField true d 1] [uniField a 1] 0
def tfreeNeed (a b : BitVec 8) : Need := needs [] [uniField a 1, uniField b 1] 0

/-- TALLOC (R193). -/
def execTalloc (c : Ctl) (d a : BitVec 8) (s : State) : Host.Outcome State Fault Refusal :=
  issue c (tallocNeed d a) (tallocAct s (.talloc c d a) d) s

/-- TFREE (R193). -/
def execTfree (c : Ctl) (a b : BitVec 8) (s : State) : Host.Outcome State Fault Refusal :=
  issue c (tfreeNeed a b) (tfreeAct s (.tfree c a b)) s

/-- What the wave atomic a warp asked for does when it issues. -/
def waveScript (i : Instr) (s : State) (w : Warp) (f : Frag) : List Upd :=
  match i with
  | .atom c op w64 scope d r e => atomScript i c false false (some op) w64 scope d r e s w f
  | .acas c w64 scope d r e => atomScript i c false true none w64 scope d r e s w f
  | .talloc c d a => issueScript c (tallocNeed d a) (fun _ => { }) (tallocAct s i d) s w f
  | .tfree c a b => issueScript c (tfreeNeed a b) (fun _ => { }) (tfreeAct s i) s w f
  | _ => []

/-- WAVE_ATOMIC_EXECUTE: the wave atomic a warp asked for executes when its turn has come (R240). -/
def execWaveAtomicExecute (warp : Nat) (s : State) : Host.Outcome State Fault Refusal :=
  .next (s.run (match s.warp? warp with
    | none => []
    | some w =>
      match w.waveAsk with
      | none => []
      | some (fid, i) =>
        match w.frag? fid with
        | none => []
        | some f => if waveReady s w && decide (w.stallUntil ≤ s.model.cycle) then waveScript i s w f else []))

/-! ### TLD and TST (R200) -/

/-- Bytes of a TLD or TST access. -/
def tileBytes (z : TileSz) : Nat :=
  match z with
  | .b4 => 4 | .b8 => 8 | .b16 => 16

/-- T_l (R200): A of lane l, or A + S * l with a uniform A. -/
def tileOffset (g : Go) (a : Src) (i n l : Nat) : Nat :=
  match a with
  | .v _ => (g.rd i 0 l).toNat
  | .u _ => (g.rd i 0 l).toNat + n * l

/-- A lane's memory and tile accesses: alignment, tile bounds, memory, locks, in the order of R266. -/
def tileSpots (s : State) (w : Warp) (acc : Acc) (rsel : Nat) (off : DWord) (n tile : Nat) : Xl (Spot × LockHit) :=
  if off.toNat % n ≠ 0 then .error (raiseIn .misaligned (w.realmOf rsel) off) else
  match taskBounds s w .tile tile n n with
  | some t => .error t
  | none =>
    match memSpot s w acc rsel off n n with
    | .error t => .error t
    | .ok m =>
      match taskLocks s w .tile tile n (!acc.write) with
      | .error t => .error t
      | .ok h => .ok (m, h)

/-- What the lanes of TLD or TST wait for; else the effect. -/
def withTileSpots (g : Go) (r : Xl (List (Nat × Spot × LockHit))) (k : List (Nat × Spot) → Act) : Act :=
  match tilePending g.w with
  | some t => { trap := some t, atTrap := fun w => { w with pending := w.pending.erase t } }
  | none =>
    match r with
    | .error t => { trap := some t }
    | .ok xs =>
      match (waitsFor (xs.map (fun x => (x.1, x.2.1))) ++ xs.map (fun x => x.2.2)).filter (fun h => h != .free) with
      | [] =>
        let a := k (xs.map (fun x => (x.1, x.2.1)))
        { a with pages := pagesOf (xs.map (fun x => (x.1, x.2.1))) }
      | h :: hs => touchWait g (nub (h :: hs))

/-- TLD: memory bytes into the tile store (R200). Bytes a peer sends are written when they return. -/
def execTld (c : Ctl) (sz : TileSz) (a : Src) (r : MemRef) (s : State) : Host.Outcome State Fault Refusal :=
  let n := tileBytes sz
  issue c (needs [] [srcField a 1, srcField r.base 2] 0) (fun g =>
    let tile (l : Nat) : Nat := tileOffset g a 0 n l
    withTileSpots g (eachLane g.lanes (fun l => tileSpots s g.w { } r.rsel.toNat (memOffset g 1 l 0 r n) n (tile l))) (fun xs =>
      let here := xs.filterMap (fun x => match x.2 with
        | .at_ p e _ _ => some (x.1, p, e)
        | .peer .. => none)
      let peers := xs.filterMap (fun x => match x.2 with
        | .at_ .. => none
        | .peer st ap o => some (x.1, st, ap, o))
      { reads := here.flatMap (fun x => entryWords x.2.2 ++ wordsOf x.2.1 n)
        touches := g.lanes.flatMap (fun l => wordsOf (tileAt g.w (tile l)) n)
        flags := xs.map (fun x => (x.1, spotFlags s g n x.2))
        awaits := if peers.isEmpty then .unit else .peer
        entry := fun e => { e with lanes := peers.map (·.1), stations := peers.map (·.2.1), tiles := peers.map (fun x => (x.1, tile x.1)), width := n / 4, ext := 16 }
        warp := fun w => { w with tileBusy := w.tileBusy ++ peers.map (fun x => (tile x.1, tile x.1 + n, c.alloc.toNat)) }
        upds := andThen
          (putTile g.w.task (here.flatMap (fun x => tileCells (tile x.1) (viewBytes s g.w.view x.2.1 n)))
            (here.flatMap (fun x => (wordsOf (tileAt g.w (tile x.1)) n).zip ((wordsOf x.2.1 n).map (poisonedAt s g.w)))))
          (forEach peers (fun x => sendOut (.peerRead x.2.1 x.2.2.1 g.w.path x.2.2.2 n none))) })) s

/-- TST: tile bytes into memory (R200). -/
def execTst (c : Ctl) (sz : TileSz) (a : Src) (r : MemRef) (s : State) : Host.Outcome State Fault Refusal :=
  let n := tileBytes sz
  issue c (needs [] [srcField a 1, srcField r.base 2] 0) (fun g =>
    let tile (l : Nat) : Nat := tileOffset g a 0 n l
    withTileSpots g (eachLane g.lanes (fun l => tileSpots s g.w { write := true } r.rsel.toNat (memOffset g 1 l 0 r n) n (tile l))) (fun xs =>
      let data (l : Nat) : List Byte := viewBytes s g.w.view (tileAt g.w (tile l)) n
      let here := xs.filterMap (fun x => match x.2 with
        | .at_ p e _ _ => some (x.1, p, e)
        | .peer .. => none)
      { trap := peersTrap s g.w xs
        reads := g.lanes.flatMap (fun l => wordsOf (tileAt g.w (tile l)) n) ++ here.flatMap (fun x => entryWords x.2.2)
        stores := here.flatMap (fun x => (placesFrom x.2.1 n).zip (data x.1))
        chunk := fun k => { k with
          poisoned := markWords k.poisoned (here.flatMap (fun x =>
            (wordsOf x.2.1 n).zip ((wordsOf (tileAt g.w (tile x.1)) n).map (poisonedAt s g.w))))
          peer := k.peer ++ xs.flatMap (fun x => peerStoreOf g x ((data x.1).zipIdx.map (fun b => (b.1, poisonedAt s g.w (tileAt g.w (tile x.1 + b.2 / 4 * 4)))))) } })) s

/-! ### MBQ and MMA (R202 to R205, R211) -/

/-- The identity of a warp's launch for the quarters (R201): a handler task has its own. -/
def launchIdent (s : State) (w : Warp) : Nat :=
  match s.launchOf w with
  | none => 2 ^ 40 + w.task
  | some l => l.uid

/-- A lock on a range of a task's tile store or scratchpad for a pass or command. -/
def taskLock (s : State) (w : Warp) (sp : Space) (i : Img) (holder range id : Nat) (window : Option Nat) : Lock where
  id := id
  part := w.part
  space := sp
  owner := w.task
  lo := i.off
  hi := i.off + i.size
  dest := i.write
  holder := holder
  range := range
  warp := w.id
  chunkOf := some w.id
  windowOf := window
  die := dieOf w.core
  seq := s.model.nextId

/-- Add locks. -/
def addLocks (ls : List Lock) (s : State) : List Upd := onOrder (fun o => { o with locks := o.locks ++ ls }) s

/-- The range-lock check of MMA and MBQ: the warp's own passes are no obstacle, a window that has not landed is (R199, R302). -/
def commandLocks (s : State) (w : Warp) (imgs : List Img) : Option TrapReq :=
  (imgs.find? (fun i => match lockHit s w (tileAt w i.off) i.size i.write with
    | .free => false
    | .own => false
    | .touch _ => true
    | .locked => true)).map (fun i => raiseAt .rangeLock (BitVec.ofNat 64 i.off))

/-- A core may take an entry of its cluster's table (R211; DESIGN CHOICE, log 64). -/
def entryFree (s : State) (core : Nat) : Bool :=
  let mine := s.mat.entries.filter (fun e => e.cluster == core / 4)
  let empty := ((List.range 4).filter (fun q => q != core % 4 && !mine.any (fun e => e.core == core / 4 * 4 + q))).length
  decide (empty < 16 - mine.length)

/-- MBQ (R202, R204). -/
def execMbq (c : Ctl) (fmt : MatFmt) (set1 : Bool) (a b : BitVec 8) (s : State) : Host.Outcome State Fault Refusal :=
  issueWith c (needs [] [uniField a 1, uniField b 1] 0) (fun _ => { ends := true }) (fun g =>
    let img : Img := ⟨(g.rd 0 0 0).toNat, matImage fmt 16, false⟩
    let gen := g.rd 1 0 0
    match tilePending g.w with
    | some t => { trap := some t, atTrap := fun w => { w with pending := w.pending.erase t } }
    | none =>
      if gen.toNat / 2 ^ 16 ≠ 0 then { trap := some (raise .matrixShape) } else
      match (imageShape s g.w [img]).or (commandLocks s g.w [img]) with
      | some t => { trap := some t }
      | none =>
        if !lockRoom s (dieOf g.w.core) 1 then { wait := true, ask := some .table } else
        let id := s.model.nextId
        let copy : QCopy := { id := id, core := g.w.core, set := if set1 then 1 else 0, fmt := fmt, gen := gen.setWidth 16,
                              launch := launchIdent s g.w, task := g.w.task, warp := g.w.id, tile := img.off, committed := false, pos := 0,
                              seq := id, pc := g.f.pc, path := g.w.path, who := g.w.ident, thread := threadOf g.w.id g.f.id,
                              stamp := clockGet g.f.clock (threadOf g.w.id g.f.id), clock := g.f.clock }
        { ends := true
          after := [.copy id]
          upds := inOrder [onMat (fun m => { m with copies := m.copies ++ [copy] }),
                           addLocks [taskLock s g.w .tile img (matrixHolder + id) 0 (id + 1) none], useIds 2] }) s

/-- What MMA and a follow-on pass ask for. -/
structure MmaAsk where
  af : MatFmt
  bf : MatFmt
  acc : AccMode
  row : Nat
  col : Nat
  a : Nat
  b : Nat
  sel : Word
  step : Word

/-- The images of a pass: A is read, the accumulator written. -/
def MmaAsk.images (m : MmaAsk) : List Img :=
  [⟨m.a, matImage m.af 64, false⟩, ⟨m.b, accImage (accFmt m.acc), true⟩]

/-- MMA's checks in the order of R196 and R205. -/
def mmaCheck (s : State) (w : Warp) (m : MmaAsk) : Option TrapReq :=
  let kv := m.sel.toNat / 2 ^ 18 % 2 ^ 8
  ((imageShape s w m.images).or (commandLocks s w m.images)).or
    (if 128 < kv ∨ m.sel.toNat / 2 ^ 26 ≠ 0 then some (raise .matrixShape) else none)

/-- The entry a pass takes (R205, R211). -/
def mmaEntry (s : State) (w : Warp) (f : Frag) (m : MmaAsk) (window : Option Nat) : Entry where
  id := s.model.nextId
  cluster := w.core / 4
  core := w.core
  task := w.task
  warp := w.id
  launch := launchIdent s w
  part := w.part
  pc := f.pc
  seq := s.model.nextId
  af := m.af
  bf := m.bf
  acc := m.acc
  aOff := m.a
  cOff := m.b
  gen := m.sel.setWidth 16
  kv := if m.sel.toNat / 2 ^ 18 % 2 ^ 8 = 0 then 128 else m.sel.toNat / 2 ^ 18 % 2 ^ 8
  step := m.step
  set := m.sel.toNat / 2 ^ 16 % 2
  own := m.sel.getLsbD 17
  rowMask := w.regs.mm.getD m.row 0
  colMask := w.regs.mm.getD (4 + m.col) 0
  denorm := w.denorm
  srcompat := fpctlSrcompat w.regs.fpctl
  seed := launchSeed s w
  taskid := w.taskid
  warpid := w.warpid
  prio := (s.launchOf w).elim 7 (·.prio)
  committed := false
  pos := 0
  granted := false
  eligibleAt := none
  since := s.dev.wall.toNat
  window := window
  path := w.path
  who := w.ident
  thread := threadOf w.id f.id
  stamp := clockGet f.clock (threadOf w.id f.id)
  clock := f.clock

/-- Take an entry and place its locks; three identities are used. -/
def takeEntry (w : Warp) (e : Entry) (m : MmaAsk) (s : State) : List Upd :=
  inOrder [onMat (fun x => { x with entries := x.entries ++ [e] }),
    addLocks ((m.images.zipIdx).map (fun x => taskLock s w .tile x.1 (matrixHolder + e.id) x.2 (e.id + 1 + x.2) none)), useIds 3] s

/-- MMA (R204, R205, R211). -/
def execMma (c : Ctl) (af bf : MatFmt) (acc : AccMode) (row col : BitVec 2) (d a b e : BitVec 8) (s : State) :
    Host.Outcome State Fault Refusal :=
  issueWith c (needs [] ([uniField a 1, uniField b 1, uniField e 1] ++ (if acc = .bf16sr then [uniField d 1] else [])) 0)
    (fun _ => { ends := true }) (fun g =>
    let m : MmaAsk := { af := af, bf := bf, acc := acc, row := row.toNat, col := col.toNat, a := (g.rd 0 0 0).toNat,
                        b := (g.rd 1 0 0).toNat, sel := g.rd 2 0 0, step := if acc = .bf16sr then g.rd 3 0 0 else 0 }
    match tilePending g.w with
    | some t => { trap := some t, atTrap := fun w => { w with pending := w.pending.erase t } }
    | none =>
      match mmaCheck s g.w m with
      | some t => { trap := some t }
      | none =>
        if !(entryFree s g.w.core && lockRoom s (dieOf g.w.core) 2) then { wait := true, ask := some .table } else
        let en := mmaEntry s g.w g.f m none
        { ends := true, after := [.entry en.id], upds := takeEntry g.w en m }) s

/-! ### Masks, zeroing, rows (R203, R217, R218) -/

/-- MMASK (R203). -/
def execMmask (c : Ctl) (len : Bool) (d : BitVec 3) (a : BitVec 8) (s : State) : Host.Outcome State Fault Refusal :=
  issue c { needs [] [uniField a (if len then 1 else 2)] 0 with mdsts := [d.toNat] } (fun g =>
    let n := (g.rd 0 0 0).toNat
    { writes := [.m d.toNat (if len then (if n < 64 then BitVec.ofNat 64 (2 ^ n - 1) else BitVec.allOnes 64) else g.rd2 0 0 0)] }) s

/-- MZERO (R217). -/
def execMzero (c : Ctl) (ac : AcFmt) (a : BitVec 8) (s : State) : Host.Outcome State Fault Refusal :=
  issue c (needs [] [uniField a 1] 0) (fun g =>
    let img : Img := ⟨(g.rd 0 0 0).toNat, accImage ac, true⟩
    withImages s g [img] [img]
      { touches := wordsOf (tileAt g.w img.off) img.size
        upds := putTile g.w.task (tileCells img.off (List.replicate img.size 0)) (cleanMarks g.w img.off img.size) }) s

/-- Bytes of a lane's two columns in a row. -/
def laneBytes (ac : AcFmt) : Nat := if ac = .bf16 then 4 else 8

/-- The tile offset of a lane's two columns of row i (R195, R218). -/
def laneOffset (ac : AcFmt) (base i l : Nat) : Nat := base + i * accRow ac + laneBytes ac * l

/-- MACCR; a row index above 63 raises before what R196 and R212 find (R218; DESIGN CHOICE, log 85; DESIGN CHOICE, log 95). -/
def execMaccr (c : Ctl) (ac : AcFmt) (d a b : BitVec 8) (s : State) : Host.Outcome State Fault Refusal :=
  let n := laneBytes ac
  issue c (needs [dstField false d (n / 4)] [uniField a 1, uniField b 1] 0) (fun g =>
    let base := (g.rd 0 0 0).toNat
    let i := (g.rd 1 0 0).toNat
    if 63 < i then { trap := some (raise .matrixShape) } else
    withImages s g [⟨base, accImage ac, false⟩] (g.lanes.map (fun l => ⟨laneOffset ac base i l, n, false⟩))
      { reads := g.lanes.flatMap (fun l => wordsOf (tileAt g.w (laneOffset ac base i l)) n)
        writes := g.lanes.flatMap (fun l => (wordsOfVal (n / 4) (tileVal s g.w (laneOffset ac base i l) n)).zipIdx.map (fun x =>
          .v (d.toNat + x.2) l x.1 (poisonedAt s g.w (tileAt g.w (laneOffset ac base i l + 4 * x.2))))) }) s

/-- MACCW; a row index above 63 raises before what R196 and R212 find (R218; DESIGN CHOICE, log 85). It is no store of R268: poison in C
raises (DESIGN CHOICE, log 95). -/
def execMaccw (c : Ctl) (ac : AcFmt) (a b e : BitVec 8) (s : State) : Host.Outcome State Fault Refusal :=
  let n := laneBytes ac
  issue c (needs [] [uniField a 1, uniField b 1, srcField (.v e) (n / 4)] 0) (fun g =>
    let base := (g.rd 0 0 0).toNat
    let i := (g.rd 1 0 0).toNat
    if 63 < i then { trap := some (raise .matrixShape) } else
    withImages s g [⟨base, accImage ac, true⟩] (g.lanes.map (fun l => ⟨laneOffset ac base i l, n, true⟩))
      { touches := g.lanes.flatMap (fun l => wordsOf (tileAt g.w (laneOffset ac base i l)) n)
        upds := putTile g.w.task (g.lanes.flatMap (fun l => tileCells (laneOffset ac base i l) (dataBytes g 2 l n)))
          (g.lanes.flatMap (fun l => cleanMarks g.w (laneOffset ac base i l) n)) }) s

/-! ### MCVT, MROWMAX, MROWEXP (R219 to R221) -/

/-- The float format of an MCVT destination (R197). -/
def mcvtSpec (f : MatFmt) : FSpec :=
  match f with
  | .bf16 => specBF16 | .f16 => specF16 | .e4m3 => specE4M3 | .e5m2 => specE5M2
  | .mxe4m3 => specE4M3 | .mxe5m2 => specE5M2 | .mxfp4 => specE2M1 | .gb4 => specE2M1 | .s8 => specE4M3 | .u8 => specE4M3

/-- One element of MCVT (R98, R92, R219). -/
def mcvtElem (denorm s32 : Bool) (f : FSpec) (mode : RMode) (masked : Bool) (x : Nat) : Nat × Flags :=
  if masked then (0, 0)
  else if s32 then itofInt denorm f mode (BitVec.ofNat 32 x).toInt
  else
    let v := readF denorm specF32 x
    let r := convertVal denorm f mode v.1
    (r.1, v.2 ||| r.2)

/-- The runs of consecutive columns that a mask selects: first column, columns. -/
def colRuns (mask : DWord) : List (Nat × Nat) :=
  (List.range 64).foldr (fun n rs =>
    if !mask.getLsbD n then rs else
    match rs with
    | [] => [(n, 1)]
    | r :: rest => if r.1 = n + 1 then (n, r.2 + 1) :: rest else (n, 1) :: r :: rest) []

/-- The bytes of a row of 32-bit elements that an instruction reads under a column mask. -/
def rowReads (mask : DWord) (off : Nat) : List Img := (colRuns mask).map (fun r => ⟨off + 4 * r.1, 4 * r.2, false⟩)

/-- The words of ranges. -/
def imgWords (w : Warp) (is : List Img) : List Place := is.flatMap (fun i => wordsOf (tileAt w i.off) i.size)

/-- MCVT (R219): it reads the columns that its mask selects. -/
def execMcvt (c : Ctl) (df : MatFmt) (s32 : Bool) (rnd : Rnd) (k1 : Bool) (col : BitVec 2) (a b : BitVec 8) (s : State) :
    Host.Outcome State Fault Refusal :=
  issue c (needs [] [uniField a 1, uniField b 1] 0) (fun g =>
    let dst := (g.rd 0 0 0).toNat
    let src := (g.rd 1 0 0).toNat
    let f := mcvtSpec df
    let es := f.width / 8
    let mask := g.w.regs.mm.getD (4 + col.toNat) 0
    let half (i : Nat) : Nat := dst + i * matRow df + es * 64 * (if k1 then 1 else 0)
    let imgs : List Img := [⟨dst, matImage df 64, true⟩, ⟨src, 16384, false⟩]
    let elem (i n : Nat) : Nat × Flags :=
      mcvtElem g.w.denorm s32 f (rmodeOf g.w.regs.fpctl rnd) (!mask.getLsbD n) (tileVal s g.w (src + 256 * i + 4 * n) 4)
    let rows := (List.range 64).map (fun i => (i, (List.range 64).map (elem i)))
    let srcs := (List.range 64).flatMap (fun i => rowReads mask (src + 256 * i))
    let dsts : List Img := (List.range 64).map (fun i => ⟨half i, 64 * es, true⟩)
    withImages s g imgs (srcs ++ dsts) (tilePoisonTrap s g srcs
      { reads := imgWords g.w srcs
        touches := (List.range 64).flatMap (fun i => wordsOf (tileAt g.w (half i)) (64 * es))
        flags := [(g.lanes.headD 0, rows.foldl (fun m r => r.2.foldl (fun m x => m ||| x.2) m) 0)]
        upds := putTile g.w.task (rows.flatMap (fun r => tileCells (half r.1) (r.2.flatMap (fun x => valBytes es x.1))))
          ((List.range 64).flatMap (fun i => cleanMarks g.w (half i) (64 * es))) })) s

/-- MROWMAX over one row (R220); C is an operand, and m a result, although no column is chosen (R90, R92). -/
def rowMax (s : State) (w : Warp) (mask : DWord) (src i : Nat) (c : Word) : Word × Flags :=
  let first := readF w.denorm specF32 c.toNat
  let r := ((List.range 64).filter (fun n => mask.getLsbD n)).foldl (fun m n =>
    let x := readF w.denorm specF32 m.1
    let y := readF w.denorm specF32 (tileVal s w (src + 256 * i + 4 * n) 4)
    let t := minMaxVals specF32 true true x.1 y.1
    (t.1, m.2 ||| x.2 ||| y.2 ||| t.2)) (encodeVal specF32 first.1, first.2 ||| flagIf (isSNaN first.1) flagNV)
  (BitVec.ofNat 32 r.1, r.2)

/-- MROWMAX (R220). -/
def execMrowmax (c : Ctl) (col : BitVec 2) (d a e : BitVec 8) (s : State) : Host.Outcome State Fault Refusal :=
  issue c (needs [dstField false d 2] [uniField a 1, srcField (.v e) 2] 0) (fun g =>
    let src := (g.rd 0 0 0).toNat
    let mask := g.w.regs.mm.getD (4 + col.toNat) 0
    let rows : List Img := g.lanes.flatMap (fun l => rowReads mask (src + 512 * l) ++ rowReads mask (src + 512 * l + 256))
    let res (l j : Nat) : Word × Flags := rowMax s g.w mask src (2 * l + j) (g.rd 1 j l)
    withImages s g [⟨src, 16384, false⟩] rows (tilePoisonTrap s g rows
      { reads := imgWords g.w rows
        writes := putWords false d.toNat g.lanes (fun l => [(res l 0).1, (res l 1).1])
        flags := g.lanes.map (fun l => (l, (res l 0).2 ||| (res l 1).2)) })) s

/-- One probability of MROWEXP.EXP: FEX2 of FFMA(x, C, -D) (R221). -/
def expElem (denorm : Bool) (x c dj : Nat) : Nat × Flags :=
  let a := readF denorm specF32 x
  let b := readF denorm specF32 c
  let y := readF denorm specF32 dj
  let t := fmaVals denorm specF32 .rn a.1 b.1 (negVal y.1)
  let p := specialFn .ex2 denorm .f32 t.1
  (p.1, a.2 ||| b.2 ||| y.2 ||| t.2 ||| p.2)

/-- One product of MROWEXP.MUL (R221). -/
def mulElem (denorm : Bool) (x dj : Nat) : Nat × Flags :=
  let a := readF denorm specF32 x
  let y := readF denorm specF32 dj
  let t := mulVals denorm specF32 .rn a.1 y.1
  (t.1, a.2 ||| y.2 ||| t.2)

/-- One row of MROWEXP: its 64 results, the new D[j], the flags (R221). -/
def rowExp (s : State) (w : Warp) (mul : Bool) (row col : DWord) (src i : Nat) (c dj : Word) : List Nat × Word × Flags :=
  let x (n : Nat) : Nat := tileVal s w (src + 256 * i + 4 * n) 4
  if mul then
    let rs := (List.range 64).map (fun n => if row.getLsbD i && col.getLsbD n then mulElem w.denorm (x n) dj.toNat else (x n, 0))
    (rs.map (·.1), dj, rs.foldl (fun m r => m ||| r.2) 0)
  else if !row.getLsbD i then (List.replicate 64 0, 0, 0)
  else
    let rs := (List.range 64).map (fun n => if col.getLsbD n then expElem w.denorm (x n) c.toNat dj.toNat else (0, 0))
    let ps := rs.map (fun r => readF w.denorm specF32 r.1)
    let lo := window32 w.denorm ((ps.take 32).map (·.1)) (.fin false 0 0)
    let lv := readF w.denorm specF32 lo.1
    let hi := window32 w.denorm ((ps.drop 32).map (·.1)) lv.1
    (rs.map (·.1), BitVec.ofNat 32 hi.1,
     rs.foldl (fun m r => m ||| r.2) (ps.foldl (fun m p => m ||| p.2) (lo.2 ||| lv.2 ||| hi.2)))

/-- MROWEXP (R221). -/
def execMrowexp (c : Ctl) (mul : Bool) (row col : BitVec 2) (d a b e : BitVec 8) (s : State) : Host.Outcome State Fault Refusal :=
  issue c (needs (if mul then [] else [dstField false d 2])
      ([uniField a 1, uniField b 1, srcField (.v d) 2] ++ (if mul then [] else [uniField e 1])) 0) (fun g =>
    let dst := (g.rd 0 0 0).toNat
    let src := (g.rd 1 0 0).toNat
    let rm := g.w.regs.mm.getD row.toNat 0
    let cm := g.w.regs.mm.getD (4 + col.toNat) 0
    let res (l j : Nat) : List Nat × Word × Flags :=
      rowExp s g.w mul rm cm src (2 * l + j) (if mul then 0 else g.rd 3 0 0) (g.rd 2 j l)
    let srcs : List Img := if mul then g.lanes.map (fun l => ⟨src + 512 * l, 512, false⟩) else
      g.lanes.flatMap (fun l => [2 * l, 2 * l + 1].flatMap (fun i => if rm.getLsbD i then rowReads cm (src + 256 * i) else []))
    let dsts : List Img := g.lanes.map (fun l => ⟨dst + 512 * l, 512, true⟩)
    withImages s g [⟨dst, 16384, true⟩, ⟨src, 16384, false⟩] (srcs ++ dsts) (tilePoisonTrap s g srcs
      { reads := imgWords g.w srcs
        touches := imgWords g.w dsts
        writes := if mul then [] else putWords false d.toNat g.lanes (fun l => [(res l 0).2.1, (res l 1).2.1])
        flags := g.lanes.map (fun l => (l, (res l 0).2.2 ||| (res l 1).2.2))
        upds := putTile g.w.task (g.lanes.flatMap (fun l => [0, 1].flatMap (fun j =>
            tileCells (dst + 256 * (2 * l + j)) ((res l j).1.flatMap (valBytes 4)))))
          (dsts.flatMap (fun i => cleanMarks g.w i.off i.size)) })) s

/-! ### MSTAT (R222) -/

/-- The quarter register of a core and set. -/
def quarterOf (s : State) (core set : Nat) : Option Quarter := s.mat.quarters.find? (fun q => q.core == core && q.set == set)

/-- The status word (R222; SEL 0 has no bound of its own: DESIGN CHOICE, log 94). -/
def mstatWord (s : State) (w : Warp) (sel : Nat) : Nat :=
  let base := w.core / 4 * 4
  let gen (q set : Nat) : Nat := ((quarterOf s (base + q) set).map (·.gen.toNat)).getD 0
  match sel with
  | 0 => s.mat.entries.countP (fun e => e.warp == w.id) + s.mat.copies.countP (fun c => c.warp == w.id)
  | 5 => ((List.range 8).filter (fun i => (quarterOf s (base + i / 2) (i % 2)).any (fun q => q.launch == launchIdent s w))).foldl
      (fun m i => m + 2 ^ i) 0
  | 6 => s.mat.entries.countP (fun e => e.cluster == w.core / 4) + 256 * s.mat.entries.countP (fun e => e.core == w.core)
  | 7 => (cellGet s.mat.done w.core).toNat
  | k => gen (k - 1) 0 + 2 ^ 16 * gen (k - 1) 1

/-- MSTAT (R222). -/
def execMstat (c : Ctl) (sel : BitVec 3) (d : BitVec 8) (s : State) : Host.Outcome State Fault Refusal :=
  issue c (needs [dstField true d 1] [] 0) (fun g =>
    { writes := putWord true d.toNat [0] (fun _ => BitVec.ofNat 32 (mstatWord s g.w sel.toNat)) }) s

/-! ### The engine's own steps (R206, R210, R212, R213, R202) -/

/-- The quarters an entry reads, with the columns they give (R201, R205, R206). -/
def entryQuarters (e : Entry) : List (Nat × Nat) :=
  if e.own then [(e.core, 0)] else (List.range 4).map (fun q => (e.cluster * 4 + q, 16 * q))

/-- A quarter that matches an entry (R201). -/
def quarterFor (s : State) (e : Entry) (core : Nat) : Option Quarter :=
  s.mat.quarters.find? (fun q => q.core == core && q.set == e.set && q.launch == e.launch && q.gen == e.gen)

/-- A commit that holds a position and is not complete. -/
def commitOpen (s : State) (pos : Nat) : Bool := s.order.commits.any (fun c => c.pos == pos)

/-- An earlier pass or copy of the warp is not finished; earlier transfers into the tile store are, once the chunk has drained (R66, R212). -/
def earlierTileWork (s : State) (e : Entry) : Bool :=
  s.mat.entries.any (fun x => x.warp == e.warp && decide (x.seq < e.seq)) || s.mat.copies.any (fun x => x.warp == e.warp && decide (x.seq < e.seq))

/-- The window of a follow-on pass has landed (R214). -/
def windowLandedFor (s : State) (e : Entry) : Bool := e.window.all (fun j => (s.job? j).isNone)

/-- An entry is eligible (R212). -/
def entryEligible (s : State) (e : Entry) : Bool :=
  e.committed && !e.granted && !commitOpen s e.pos && !earlierTileWork s e && windowLandedFor s e
    && (entryQuarters e).all (fun q => (quarterFor s e q.1).isSome)

/-- Effective priority (R213). -/
def entryPriority (s : State) (e : Entry) : Nat := min 7 (e.prio + (s.model.cycle - e.eligibleAt.getD s.model.cycle) / 4096)

/-- The better of two entries: higher effective priority, then older (R213). -/
def betterEntry (s : State) (a b : Entry) : Entry :=
  if entryPriority s a < entryPriority s b then b
  else if entryPriority s b < entryPriority s a then a
  else if b.seq < a.seq then b else a

/-- The entry an idle array is granted (R213). -/
def nextGrant (s : State) (core : Nat) : Option Entry :=
  if s.mat.entries.any (fun e => e.core == core && e.granted) then none else
  match s.mat.entries.filter (fun e => e.core == core && entryEligible s e) with
  | [] => none
  | e :: es => some (es.foldl (betterEntry s) e)

/-- Free an entry with its locks. -/
def freeEntry (e : Entry) (s : State) : List Upd :=
  onMat (fun m => { m with entries := m.entries.filter (fun x => x.id != e.id) }) s
  ++ onOrder (fun o => { o with locks := o.locks.filter (fun l => l.holder != matrixHolder + e.id) }) s

/-- The follow-on entry of a window's copy is freed where its pass has not been granted: the binding is dropped, or the copy aborted (R214). -/
def freeFollowOn (job : Nat) (s : State) : List Upd :=
  forEach (s.mat.entries.filter (fun e => e.window == some job && !e.granted)) freeEntry s

/-- Entries that have become eligible, with the cycle when they did (R212, R213). -/
def noteEligible (s : State) : List Upd :=
  if s.mat.entries.isEmpty then [] else
  onMat (fun m => { m with entries := m.entries.map (fun e =>
    { e with eligibleAt := if e.granted then e.eligibleAt else if entryEligible s e then some (e.eligibleAt.getD s.model.cycle) else none }) }) s

/-- The settings of an entry's pass. -/
def Entry.args (e : Entry) : PassArgs :=
  { af := e.af, bf := e.bf, acc := e.acc, kv := e.kv, denorm := e.denorm, compat := e.srcompat, seed := e.seed, taskid := e.taskid,
    warpid := e.warpid, step := e.step }

/-- A byte of a task's tile store. -/
def taskTile (s : State) (task off : Nat) : Byte := taskByte s ⟨.tile, task, off⟩

/-- The word of a byte of a task's tile store is poisoned. -/
def taskTilePoison (s : State) (task off : Nat) : Bool := s.order.poison.contains (Place.word ⟨.tile, task, off⟩)

/-- An input of a result is poisoned: its accumulator element, a byte of A that it reads, a byte of the quarter (R206, R215). -/
def passPoison (s : State) (e : Entry) (q : Quarter) (i j off : Nat) : Bool :=
  (!q.poison.isEmpty && (matBytes e.bf 16 j e.kv).any q.poison.contains)
  || (!s.order.poison.isEmpty &&
      (taskTilePoison s e.task off || (matBytes e.af 64 i e.kv).any (fun k => taskTilePoison s e.task (e.aOff + k))))

/-- Bytes of an accumulator element. -/
def Entry.accBytes (e : Entry) : Nat := if accFmt e.acc = .bf16 then 2 else 4

/-- One result of a pass: its tile offset, its bits, its flags, its poison. -/
def passResult (s : State) (e : Entry) (q : Quarter) (i j n : Nat) : Nat × Nat × Flags × Bool :=
  let off := e.cOff + i * accRow (accFmt e.acc) + e.accBytes * n
  let acc := bytesVal ((List.range e.accBytes).map (fun k => taskTile s e.task (off + k)))
  let r := passElem e.args (fun k => taskTile s e.task (e.aOff + k)) (fun k => q.bytes.getD k 0) i j n acc
  (off, r.1, r.2, passPoison s e q i j off)

/-- Every result of a pass: rows and columns inside the masks (R206). -/
def passResults (s : State) (e : Entry) : List (Nat × Nat × Flags × Bool) :=
  ((List.range 64).filter (fun i => e.rowMask.getLsbD i)).flatMap (fun i =>
    (entryQuarters e).flatMap (fun x => match quarterFor s e x.1 with
      | none => []
      | some q => ((List.range 16).filter (fun j => e.colMask.getLsbD (x.2 + j))).map (fun j => passResult s e q i j (x.2 + j))))

/-- The words of the tile store that a pass reads besides its accumulator (R206). -/
def passReads (e : Entry) : List Place :=
  ((List.range 64).filter (fun i => e.rowMask.getLsbD i)).flatMap (fun i =>
    (matBytes e.af 64 i e.kv).map (fun k => ⟨.tile, e.task, e.aOff + k⟩))

/-- The accesses of a pass or copy of a deterministic launch, which stand in the program order of the fragment that issued it (R199, R263,
R265; DEDUCED, log 77). -/
def tileAccesses (s : State) (launch warp : Nat) (who : Ident) (path : Path) (pc : DWord) (thread stamp : Nat) (clock : Clock)
    (reads writes : List Place) : List Access :=
  match s.launches.find? (fun l => l.uid == launch) with
  | none => []
  | some l =>
    if !l.det then [] else
    let one (write : Bool) (p : Place) : Access :=
      { tree := l.tree, warp := warp, key := ⟨l.uid, who.taskid, who.spawnix, who.warpid⟩, thread := thread, stamp := stamp, place := p,
        path := path, write := write, kind := .plain, pc := pc, clock := clock }
    (nub (reads.map Place.word)).map (one false) ++ (nub (writes.map Place.word)).map (one true)

/-- A copy may run: its chunk has committed, earlier tile work of its warp and earlier copies of its core are done, and no entry
still needs the quarter as it is (R191, R202, R199, R215). -/
def copyReady (s : State) (c : QCopy) : Bool :=
  c.committed && !commitOpen s c.pos
  && !s.mat.entries.any (fun e => e.warp == c.warp && decide (e.seq < c.seq))
  && !s.mat.copies.any (fun x => decide (x.seq < c.seq) && (x.warp == c.warp || x.core == c.core))
  && (match quarterOf s c.core c.set with
    | none => true
    | some q => !s.mat.entries.any (fun e => e.set == c.set && (entryQuarters e).any (fun x => x.1 == c.core)
        && e.launch == q.launch && e.gen == q.gen))

/-- A copy is over: its quarter set anew, if it ran, and its lock released (R202). -/
def endCopy (c : QCopy) (q : Option Quarter) (s : State) : List Upd :=
  onMat (fun m => { m with
    quarters := match q with
      | none => m.quarters
      | some x => x :: m.quarters.filter (fun y => !(y.core == c.core && y.set == c.set))
    copies := m.copies.filter (fun x => x.id != c.id) }) s
  ++ onOrder (fun o => { o with locks := o.locks.filter (fun l => l.holder != matrixHolder + c.id) }) s

end Sys2Proof.Machine
end

