-- ==== Sys2Proof/Machine/Engine.lean ====
section
/-! DEFINITION. Engine commands as they issue: WBIND, WKICK, WDROP, WSTAT, RCOPY, COLL (R294 to R321). -/

namespace Sys2Proof.Machine

/-! ### Descriptors (R295, R296) -/

/-- The words of a descriptor in source field i. -/
def descWords (g : Go) (i n : Nat) : List Word := (List.range n).map (fun k => g.rd i k 0)

/-- The first limit that is not met, as ARG_RANGE naming word and field (R296). -/
def firstBad (cs : List (Bool × Nat × Nat)) : Option TrapReq := (cs.find? (fun c => c.1)).map (fun c => argRange c.2.1 c.2.2)

/-- A Reserved field of a descriptor is not 0 (R13; DEDUCED, log 29). -/
def reservedDesc (bad : Bool) : Option TrapReq := if bad then some (raise .reservedField) else none

/-- A counter scope an engine cannot use (R300, R311). -/
def badScope (nocnt : Bool) (code : Nat) : Bool := !nocnt && (decide (code < 2) || decide (8 < code))

/-- Step 5 of R266 for a range that a command writes, piece by piece (R260). -/
def sealedPieces (s : State) (realm : Nat) (off : DWord) (ps : List Piece) : Option TrapReq :=
  ps.findSome? (fun p => match p.route with
    | .mem a _ => (sealedRange s a p.len).map (fun ed =>
        { raiseIn .sealedWrite realm (off + BitVec.ofNat 64 p.at_) with d17 := ed })
    | .peer .. => none
    | .ether .. => none)

/-- Step 6 of R266 for a command's range: no declared range is met (R241). -/
def declaredPieces (s : State) (realm : Nat) (off : DWord) (ps : List Piece) : Option TrapReq :=
  ps.findSome? (fun p => match p.route with
    | .mem a _ => if meetsDeclared s a (a + p.len) then some (raiseIn .rangeLock realm (off + BitVec.ofNat 64 p.at_)) else none
    | .peer .. => none
    | .ether .. => none)

/-- A command's range: translated page by page, no sealed page written, no declared range met (R241, R260, R294; DEDUCED, log 20;
DEDUCED, log 70). -/
def engineRange (s : State) (w : Warp) (acc : Acc) (realm : Nat) (off : DWord) (len : Nat) : Xl (List Piece) :=
  match routes s w.who acc realm off len with
  | .error t => .error t
  | .ok ps =>
    match (if acc.write then sealedPieces s realm off ps else none).or (declaredPieces s realm off ps) with
    | some t => .error t
    | none => .ok ps

/-- The table entries that a command's range takes: one where some of it lies here (R247; DESIGN CHOICE, log 64). -/
def rangeCount (ps : List Piece) : Nat := if (localRanges ps).isEmpty then 0 else 1

/-- Step 2 of R266 for a command's counter. -/
def counterAligned (w : Warp) (nocnt : Bool) (rsel : Nat) (off : DWord) : Option TrapReq :=
  if !nocnt && decide (off.toNat % 8 ≠ 0) then some (raiseIn .misaligned (w.realmOf rsel) off) else none

/-- A command's counter (R251, R300, R311). -/
def engineCounter (s : State) (w : Warp) (nocnt : Bool) (code rsel : Nat) (off : DWord) : Xl CounterRef :=
  if nocnt then .ok .none else
  match counterSpot s w true code rsel off with
  | .error t => .error t
  | .ok t => .ok (counterRef t)

/-- The source, the destination and the counter of a command that moves data, step by step, in each step those of the source, the
destination and the counter in turn (R266). -/
def commandRanges (s : State) (w : Warp) (engine local_ : Bool) (srealm : Nat) (src : DWord) (slen drealm : Nat) (dst : DWord) (dlen : Nat)
    (counter : Xl CounterRef) : Xl (List Piece × List Piece × CounterRef) :=
  match routes s w.who { local_ := local_, engine := engine } srealm src slen,
        routes s w.who { write := true, local_ := local_, engine := engine } drealm dst dlen, counter with
  | .error t, _, _ => .error t
  | .ok _, .error t, _ => .error t
  | .ok _, .ok _, .error t => .error t
  | .ok ps, .ok qs, .ok ctr =>
    match ((sealedPieces s drealm dst qs).or (declaredPieces s srealm src ps)).or (declaredPieces s drealm dst qs) with
    | some t => .error t
    | none => .ok (ps, qs, ctr)

/-- Locks on physical ranges for a command, numbered from an identity. -/
def rangeLocks (s : State) (w : Warp) (rs : List (Nat × Nat)) (dest : Bool) (holder range first : Nat) : List Lock :=
  rs.zipIdx.map (fun x => memLock s w x.1.1 x.1.2 dest holder range (first + x.2))

/-- Locks on ranges that are each a range of the command. -/
def eachLocks (s : State) (w : Warp) (rs : List (Nat × Nat)) (dest : Bool) (holder first : Nat) : List Lock :=
  rs.zipIdx.map (fun x => memLock s w x.1.1 x.1.2 dest holder x.2 (first + x.2))

/-! ### Windows (R299 to R307) -/

/-- Byte i of a window's source, as an offset from the start of the source (R300). -/
def windowSource (desc : List Word) (i : Nat) : Nat :=
  let rowb := wfield desc 3 0 16
  i / rowb * (wordAt desc 4).toNat + i % rowb

/-- Bytes of a window. -/
def windowLen (desc : List Word) : Nat := wfield desc 3 16 16 * wfield desc 3 0 16

/-- The space of a window word (R299). -/
def windowSpace (word : Nat) : Space := if 2 ^ 31 ≤ word then .tile else .scratch

/-- The offset of a window word (R299). -/
def windowOffset (word : Nat) : Nat := word % 2 ^ 18

/-- A window's source runs: offset from the source's start and bytes, rows that adjoin made one. -/
def windowRuns (desc : List Word) : List (Nat × Nat) :=
  let rowb := wfield desc 3 0 16
  let stride := (wordAt desc 4).toNat
  if stride = rowb then [(0, windowLen desc)]
  else (List.range (wfield desc 3 16 16)).map (fun r => (r * stride, rowb))

/-- The values of WBIND's descriptor: its fields named Reserved raise RESERVED_FIELD (R13, R324), a value out of its limit ARG_RANGE (R296,
R300; DEDUCED, log 97). -/
def wbindLimits (d : List Word) : Option TrapReq :=
  let halo := (wordAt d 2).getLsbD 9
  (reservedDesc (decide (wfield d 2 30 2 ≠ 0 ∨ wfield d 5 18 13 ≠ 0))).or
    (firstBad [(halo && decide (wordAt d 1 ≠ 0), 1, 0), (badScope false (wfield d 2 4 4), 2, 4),
      (decide (wfield d 3 16 16 = 0), 3, 16), (decide (wfield d 3 0 16 = 0) || decide (wfield d 3 0 16 % 4 ≠ 0), 3, 0),
      (decide ((wordAt d 4).toNat % 4 ≠ 0), 4, 0), (decide (wfield d 5 0 18 % 4 ≠ 0), 5, 0)])

/-- The routes of a window's source rows, in order. -/
def sourceRoutes (s : State) (w : Warp) (realm : Nat) (src : DWord) (runs : List (Nat × Nat)) : Xl (List Piece) :=
  match runs with
  | [] => .ok []
  | r :: rest =>
    match routes s w.who { } realm (src + BitVec.ofNat 64 r.1) r.2 with
    | .error t => .error t
    | .ok ps =>
      match sourceRoutes s w realm src rest with
      | .error t => .error t
      | .ok qs => .ok (ps.map (fun p => { p with at_ := p.at_ + r.1 }) ++ qs)

/-- A group of a warp's launch. -/
def groupOf? (s : State) (w : Warp) (g : Nat) : Option Group :=
  match s.launchOf w with
  | none => none
  | some l => l.groups[g]?

/-- A task index is a member of a group (R361). -/
def Group.has (g : Group) (task : Nat) : Bool := g.ranges.any (fun r => decide (r.1 ≤ task) && decide (task ≤ r.2))

/-- The neighbour's task index of a halo window (R303). -/
def haloTask (w : Warp) (d : List Word) : Int := w.taskid.toNat + (BitVec.ofNat 12 (wfield d 2 18 12)).toInt

/-- A halo's rows lie in the neighbour's scratchpad (R300, R303). -/
def haloBounds (s : State) (w : Warp) (d : List Word) : Option TrapReq :=
  let last := (wordAt d 0).toNat + (wfield d 3 16 16 - 1) * (wordAt d 4).toNat + wfield d 3 0 16
  if spaceBytes s w.task .scratch < last then some (raiseAt .scratchBounds ((wordAt d 0).setWidth 64)) else none

/-- A halo's neighbour and binder are members of its group; a spawned task is in none (R303, R373). -/
def haloCheck (s : State) (w : Warp) (d : List Word) : Option TrapReq :=
  let gnum := wfield d 2 10 8
  if (s.task? w.task).any (·.spawned) || haloTask w d < 0
      || !(groupOf? s w gnum).any (fun g => g.has w.taskid.toNat && g.has (haloTask w d).toNat) then
    some (raiseD .groupAbsent (BitVec.ofNat 32 gnum))
  else none

/-- A value of a follow-on pass that is reserved, by its field's low bit (R296, R304). -/
def followBad (q : List Word) : Option TrapReq :=
  firstBad [((matOfCode (wfield q 3 0 4)).isNone, 3, 0), ((matOfCode (wfield q 3 4 4)).isNone, 3, 4), (decide (wfield q 3 8 2 = 3), 3, 8),
    (decide (wfield q 3 14 18 ≠ 0), 3, 14)]

/-- The follow-on pass of WBIND.MMA (R304); none for a value that is reserved. -/
def followOn (q : List Word) : Option MmaAsk :=
  match matOfCode (wfield q 3 0 4), matOfCode (wfield q 3 4 4) with
  | some af, some bf =>
    if wfield q 3 14 18 ≠ 0 ∨ wfield q 3 8 2 = 3 then none else
    some { af := af, bf := bf, acc := accOfCode (wfield q 3 8 2), row := wfield q 3 10 2, col := wfield q 3 12 2,
           a := (wordAt q 0).toNat, b := (wordAt q 1).toNat, sel := wordAt q 2, step := 0 }
  | _, _ => none

/-- The classes of a pass fit each other and its accumulator (R198). -/
def mmaClasses (m : MmaAsk) : Bool :=
  matClassOf m.af == matClassOf m.bf && ((matClassOf m.af == 3) == (m.acc == .s32 || m.acc == .s32s))

/-- The checks of a follow-on pass (R196, R198, R205, R304); w17 of RESERVED_FIELD is 4 as for MMA's classes, which step 4 of R70 checks
(DESIGN CHOICE, log 98). -/
def followCheck (s : State) (w : Warp) (tile : Bool) (q : List Word) : Option TrapReq :=
  if !tile then some (argRange 5 31) else
  (followBad q).or ((followOn q).bind (fun m => if !mmaClasses m then some (raiseD .reservedField 4) else mmaCheck s w m))

/-- A destination meets another window of the task (R300). -/
def meetsWindow (t : Task) (word len : Nat) : Bool :=
  t.windows.any (fun x => windowSpace x.word == windowSpace word
    && decide (windowOffset x.word < windowOffset word + len) && decide (windowOffset word < windowOffset x.word + x.len))

/-- Region-table entries of a core in use (R299; DESIGN CHOICE, log 64). -/
def regionUse (s : State) (core : Nat) : Nat := (s.tasks.filter (fun t => t.core == core)).foldl (fun n t => n + t.windows.length) 0

/-- The task whose scratchpad a halo window reads (R303). -/
def haloSource (s : State) (j : Job) : Option Task :=
  match s.task? j.task with
  | none => none
  | some t =>
    let i : Int := t.index.toNat + (BitVec.ofNat 12 (wfield j.desc 2 18 12)).toInt
    s.tasks.find? (fun k => k.handler.isNone && !k.spawned && k.part == j.part && k.launch == j.launch && decide ((k.index.toNat : Int) = i))

/-- The source locks of a halo copy, while it runs: the rows it reads in its neighbour's scratchpad (R303). -/
def haloLocks (s : State) (j : Job) (first : Nat) : List Lock :=
  if !(wordAt j.desc 2).getLsbD 9 then [] else
  match haloSource s j with
  | none => []
  | some t => (windowRuns j.desc).zipIdx.map (fun x =>
      { id := first + x.2, part := j.part, space := .scratch, owner := t.id, lo := j.src + x.1.1, hi := j.src + x.1.1 + x.1.2, dest := false,
        holder := j.id, range := 1, warp := j.warp, chunkOf := none, windowOf := none, die := dieOf j.core, seq := first })

/-- WBIND's effect once its checks have passed: an entry, its locks, its copy command, the follow-on entry (R301, R304). -/
def bindWindow (s : State) (g : Go) (d : List Word) (word : Nat) (src : List Piece) (ctr : CounterRef) (m : Option MmaAsk) : Act :=
  let halo := (wordAt d 2).getLsbD 9
  let id := s.model.nextId
  let len := windowLen d
  let job : Job := { newJob s g.w g.f .window with
    desc := d, src := (wpair d 0).toNat, dst := word, total := len, phase := if halo then 0 else 2, amount := 1, counter := ctr,
    scope := if (wordAt d 2).getLsbD 8 then 6 else wfield d 2 4 4, tag := wfield d 2 10 8 }
  let win : Window := { word := word, state := 0, len := len, desc := d, job := id, first := id, counter := ctr, realms := g.w.regs.realm, landed := 0, fault := false,
                        binder := g.w.id, pc := g.f.pc, path := g.w.path }
  let locks := taskLock s g.w (windowSpace word) ⟨windowOffset word, len, true⟩ id 0 (id + 1) (some word)
    :: (if halo then [taskLock s g.w .scratch ⟨0, 0, false⟩ id 1 (id + 2) none] else rangeLocks s g.w (localRanges src) false id 1 (id + 2))
  { after := [.job id] ++ (if m.isSome then [.entry (id + 2 + locks.length)] else [])
    upds := inOrder [addJob job, onTask g.w.task (fun t => { t with windows := t.windows ++ [win] }), addLocks locks,
      useIds (2 + locks.length),
      fun s2 => match m with
        | none => []
        | some ask => takeEntry g.w (mmaEntry s2 g.w g.f ask (some id)) ask s2] }

/-- Steps 3 to 6 of R266 for WBIND, in order: the destination's bounds and a halo's, the source and the counter, then the windows and declared
ranges that it meets (DESIGN CHOICE, log 99). -/
def wbindRanges (s : State) (w : Warp) (t : Task) (d : List Word) : Xl (List Piece × CounterRef) :=
  let word := wfield d 5 0 18 + 2 ^ 31 * wfield d 5 31 1
  let len := windowLen d
  let halo := (wordAt d 2).getLsbD 9
  let srealm := w.realmOf (wfield d 2 0 2)
  if spaceBytes s t.id (windowSpace word) < windowOffset word + len then
    .error (raiseAt (if windowSpace word = .tile then .tileBounds else .scratchBounds) (BitVec.ofNat 64 (windowOffset word)))
  else match (if halo then haloBounds s w d else none), (if halo then .ok [] else sourceRoutes s w srealm (wpair d 0) (windowRuns d)),
      engineCounter s w ((wordAt d 2).getLsbD 8) (wfield d 2 4 4) (wfield d 2 2 2) (wpair d 6) with
  | some r, _, _ => .error r
  | none, .error r, _ => .error r
  | none, .ok _, .error r => .error r
  | none, .ok src, .ok ctr =>
    if meetsWindow t word len then .error (raiseAt .rangeLock (BitVec.ofNat 64 (windowOffset word))) else
    match declaredPieces s srealm (wpair d 0) src with
    | some r => .error r
    | none => .ok (src, ctr)

/-- WBIND's own checks: a 17th entry, the halo's group, the follow-on pass (R299, R303, R304; DESIGN CHOICE, log 99). -/
def wbindOwn (s : State) (w : Warp) (t : Task) (d : List Word) (mma : Bool) (q : List Word) : Option TrapReq :=
  if 16 ≤ t.windows.length then some (argRange 5 0) else
  (if (wordAt d 2).getLsbD 9 then haloCheck s w d else none).or (if mma then followCheck s w (windowSpace (wfield d 5 0 18 + 2 ^ 31 * wfield d 5 31 1) = .tile) q else none)

/-- WBIND (R299 to R304): its descriptor's values, the steps of R266, then its own checks (DESIGN CHOICE, log 99), where a 17th entry carries
word 5 and bit 0, those of the window's name (DESIGN CHOICE, log 99). -/
def execWbind (c : Ctl) (mma : Bool) (a e : BitVec 8) (s : State) : Host.Outcome State Fault Refusal :=
  issue c (needs [] (uniField a 8 :: (if mma then [uniField e 4] else [])) 0) (fun g =>
    let d := descWords g 0 8
    let q := if mma then descWords g 1 4 else []
    let word := wfield d 5 0 18 + 2 ^ 31 * wfield d 5 31 1
    let halo := (wordAt d 2).getLsbD 9
    match s.task? g.w.task with
    | none => { }
    | some t =>
      match (wbindLimits d).or (counterAligned g.w ((wordAt d 2).getLsbD 8) (wfield d 2 2 2) (wpair d 6)), wbindRanges s g.w t d with
      | some r, _ => { trap := some r }
      | none, .error r => { trap := some r }
      | none, .ok (src, ctr) =>
        match wbindOwn s g.w t d mma q with
        | some r => { trap := some r }
        | none =>
          if 64 ≤ regionUse s g.w.core || !lockRoom s (dieOf g.w.core) (1 + (if halo then 1 else rangeCount src) + (if mma then 2 else 0))
              || (mma && !entryFree s g.w.core) then
            { wait := true, ask := some .table }
          else bindWindow s g d word src ctr (if mma then followOn q else none)) s

/-- A window word that names a window the warp may act on: bound, or reserved in its own chunk (R305). -/
def namesWindow (t : Task) (wid : Nat) (word : Word) : Bool :=
  t.windows.any (fun x => x.word == word.toNat && (x.state != 0 || x.binder == wid))

/-- A refresh of a window that has landed takes its destination lock again, a halo's its source lock too, and waits while its die's table is
full (R294, R303, R305). -/
def refreshWaits (s : State) (w : Warp) (t : Task) (word : Nat) : Bool :=
  t.windows.any (fun x => x.word == word && x.state == 3 && !lockRoom s (dieOf w.core) (if (wordAt x.desc 2).getLsbD 9 then 2 else 1))

/-- WKICK and WDROP: the window is checked at issue (R305). -/
def windowCommand (c : Ctl) (a : BitVec 8) (kick : Bool) (after : Nat → Nat → Deferred) (s : State) : Host.Outcome State Fault Refusal :=
  issue c (needs [] [uniField a 1] 0) (fun g =>
    let word := g.rd 0 0 0
    match s.task? g.w.task with
    | none => { }
    | some t =>
      if wfield [word] 0 18 13 ≠ 0 then { trap := some (argRange 0 18) }
      else if namesWindow t g.w.id word = false then { trap := some (argRange 0 0) }
      else if kick && refreshWaits s g.w t word.toNat then { wait := true, ask := some .table }
      else { after := [after t.id word.toNat] }) s

/-- WKICK (R305). -/
def execWkick (c : Ctl) (a : BitVec 8) (s : State) : Host.Outcome State Fault Refusal := windowCommand c a true .windowKick s

/-- WDROP (R305). -/
def execWdrop (c : Ctl) (a : BitVec 8) (s : State) : Host.Outcome State Fault Refusal := windowCommand c a false .windowDrop s

/-- Granules of 128 bytes that a run of bytes from an offset touches (R250). -/
def granulesOf (off n : Nat) : Nat := if n = 0 then 0 else (off + n - 1) / 128 - off / 128 + 1

/-- The status word of a window (R306; DEDUCED, log 22). -/
def windowStatus (s : State) (x : Window) : Nat :=
  let landed := if x.state = 2 then (s.job? x.job).elim 0 (·.landed) else x.landed
  min (2 ^ 24 - 1) (granulesOf (windowOffset x.word) landed) * 2 ^ 8 + (if x.fault then 8 else 0)
    + (if s.mat.entries.any (fun e => e.window == some x.first) then 4 else 0) + x.state

/-- WSTAT (R306). -/
def execWstat (c : Ctl) (d a : BitVec 8) (s : State) : Host.Outcome State Fault Refusal :=
  issue c (needs [dstField true d 1] [uniField a 1] 0) (fun g =>
    { writes := putWord true d.toNat [0] (fun _ =>
        match (s.task? g.w.task).bind (fun t => t.window? (g.rd 0 0 0).toNat) with
        | none => 0
        | some x => BitVec.ofNat 32 (windowStatus s x)) }) s

/-! ### RCOPY (R311, R312) -/

/-- The device a range lies on besides this one: kind, numbers. -/
def Piece.device (p : Piece) : Option (Nat × Nat × Nat) :=
  match p.route with
  | .mem .. => none
  | .peer st _ _ => some (0, st, 0)
  | .ether pod st _ _ => some (1, pod, st)

/-- Two pieces overlap on one device (R311). -/
def Piece.meets (p q : Piece) : Bool :=
  match p.route, q.route with
  | .mem a _, .mem b _ => decide (a < b + q.len) && decide (b < a + p.len)
  | .peer st ap o, .peer st' ap' o' => st == st' && ap == ap' && decide (o < o' + q.len) && decide (o' < o + p.len)
  | .ether pd st wn o, .ether pd' st' wn' o' => pd == pd' && st == st' && wn == wn' && decide (o < o' + q.len) && decide (o' < o + p.len)
  | _, _ => false

/-- The limits of RCOPY's descriptor (R311). -/
def rcopyLimits (d : List Word) : Option TrapReq :=
  (reservedDesc (decide (wfield d 5 11 21 ≠ 0))).or
    (firstBad [(badScope ((wordAt d 5).getLsbD 10) (wfield d 5 6 4), 5, 6), (decide ((wordAt d 4).toNat % 4 ≠ 0), 4, 0)])

/-- The alignment of RCOPY's offsets. -/
def rcopyAligned (w : Warp) (d : List Word) : Option TrapReq :=
  if (wpair d 0).toNat % 4 ≠ 0 then some (raiseIn .misaligned (w.realmOf (wfield d 5 0 2)) (wpair d 0))
  else if (wpair d 2).toNat % 4 ≠ 0 then some (raiseIn .misaligned (w.realmOf (wfield d 5 2 2)) (wpair d 2))
  else counterAligned w ((wordAt d 5).getLsbD 10) (wfield d 5 4 2) (wpair d 6)

/-- RCOPY (R266, R311, R322). -/
def execRcopy (c : Ctl) (a b : BitVec 8) (s : State) : Host.Outcome State Fault Refusal :=
  issue c (needs [] [uniField a 8, uniField b 1] 0) (fun g =>
    let d := descWords g 0 8
    let len := (wordAt d 4).toNat
    match (rcopyLimits d).or (rcopyAligned g.w d) with
    | some t => { trap := some t }
    | none =>
      let srealm := g.w.realmOf (wfield d 5 0 2)
      let drealm := g.w.realmOf (wfield d 5 2 2)
      match commandRanges s g.w true false srealm (wpair d 0) len drealm (wpair d 2) len
          (engineCounter s g.w ((wordAt d 5).getLsbD 10) (wfield d 5 6 4) (wfield d 5 4 2) (wpair d 6)) with
      | .error t => { trap := some t }
      | .ok (src, dst, ctr) =>
        if 1 < (nub ((src ++ dst).filterMap Piece.device)).length then { trap := some (argRange 0 0) }
        else if src.any (fun p => dst.any p.meets) then { trap := some (argRange 0 0) }
        else if !lockRoom s (dieOf g.w.core) (rangeCount src + rangeCount dst) then { wait := true, ask := some .table } else
        let id := s.model.nextId
        let job : Job := { newJob s g.w g.f .rcopy with
          desc := d, src := (wpair d 0).toNat, dst := (wpair d 2).toNat, total := len, amount := (g.rd 1 0 0).setWidth 64, counter := ctr,
          scope := if (wordAt d 5).getLsbD 10 then 6 else wfield d 5 6 4 }
        let srcLocks := rangeLocks s g.w (localRanges src) false id 0 (id + 1)
        let dstLocks := rangeLocks s g.w (localRanges dst) true id 1 (id + 1 + srcLocks.length)
        { after := [.job id]
          upds := inOrder [addJob job, addLocks (srcLocks ++ dstLocks), useIds (1 + srcLocks.length + dstLocks.length)] }) s

/-! ### COLL (R315 to R321) -/

/-- Bytes of a collective's element (R315). -/
def collBytes (efmt : Nat) : Nat :=
  match efmt with
  | 1 => 2 | 3 => 8 | _ => 4

/-- The limits of COLL's descriptor (R315). -/
def collLimits (d : List Word) : Option TrapReq :=
  let kind := wfield d 3 0 3
  let count := (wordAt d 2).toNat
  let nmem := wfield d 4 16 11
  (reservedDesc (decide (wfield d 3 12 20 ≠ 0 ∨ wfield d 4 27 5 ≠ 0 ∨ wfield d 4 11 5 ≠ 0 ∨ wfield d 7 11 21 ≠ 0))).or <|
  firstBad [(decide (count = 0) || decide (2 ^ 28 < count), 2, 0), (decide (wfield d 3 6 2 = 3), 3, 6),
    (decide (3 < wfield d 3 3 3), 3, 3), (decide (3 < kind), 3, 0),
    (decide (nmem < 2) || decide (1024 < nmem), 4, 16), (decide (nmem ≤ wfield d 4 0 11), 4, 0),
    (if kind = 3 then decide (nmem ≤ wfield d 7 0 11) else decide (wfield d 7 0 11 ≠ 0), 7, 0),
    ((kind == 1 || kind == 2) && decide (count % nmem ≠ 0), 2, 0)]

/-- Collectives of a partition in flight (R321). -/
def collsInFlight (s : State) (part : Nat) : Nat := s.eng.jobs.countP (fun j => j.kind == .coll && j.part == part)

/-- COLL's buffer and member table, step by step, in each step those of the buffer and of the table in turn (R266, R315). -/
def collRanges (s : State) (w : Warp) (brealm : Nat) (buf : DWord) (len trealm : Nat) (tab : DWord) (tlen : Nat) : Xl (List Piece × List Piece) :=
  let acc : Acc := { write := true, local_ := true, engine := true }
  match routes s w.who acc brealm buf len, routes s w.who acc trealm tab tlen with
  | .error t, _ => .error t
  | .ok _, .error t => .error t
  | .ok ps, .ok qs =>
    match ((sealedPieces s brealm buf ps).or (sealedPieces s trealm tab qs)).or
        ((declaredPieces s brealm buf ps).or (declaredPieces s trealm tab qs)) with
    | some t => .error t
    | none => .ok (ps, qs)

/-- COLL (R315, R316, R321). -/
def execColl (c : Ctl) (a : BitVec 8) (s : State) : Host.Outcome State Fault Refusal :=
  issueWith c (needs [] [uniField a 8] 0) (fun _ => { ends := true }) (fun g =>
    let d := descWords g 0 8
    let brealm := g.w.realmOf (wfield d 3 8 2)
    let trealm := g.w.realmOf (wfield d 3 10 2)
    let len := (wordAt d 2).toNat * collBytes (wfield d 3 3 3)
    let tlen := 8 + 4 * wfield d 4 16 11
    if g.w.path ≠ 0 then { trap := some (raiseD .shootLimit (g.w.path.setWidth 32)) } else
    match collLimits d with
    | some t => { trap := some t }
    | none =>
      if (wpair d 0).toNat % 128 ≠ 0 then { trap := some (raiseIn .misaligned brealm (wpair d 0)) }
      else if (wpair d 5).toNat % 8 ≠ 0 then { trap := some (raiseIn .misaligned trealm (wpair d 5)) } else
      match collRanges s g.w brealm (wpair d 0) len trealm (wpair d 5) tlen with
      | .error t => { trap := some t }
      | .ok (buf, tab) =>
        if 8 ≤ collsInFlight s g.w.part || !lockRoom s (dieOf g.w.core) 2 then { wait := true, ask := some .table } else
        let id := s.model.nextId
        let ctr : CounterRef := match (localRanges tab).head? with
          | none => .none
          | some r => .local r.1
        let job : Job := { newJob s g.w g.f .coll with
          desc := d, src := (wpair d 0).toNat, dst := (wpair d 5).toNat, total := len, amount := 1, counter := ctr, scope := 7
          data := [if g.w.denorm then 1 else 0] }
        let bl := rangeLocks s g.w (localRanges buf) true id 0 (id + 1)
        let tl := rangeLocks s g.w (localRanges tab) true id 1 (id + 1 + bl.length)
        { ends := true, after := [.job id]
          upds := inOrder [addJob job, addLocks (bl ++ tl), useIds (1 + bl.length + tl.length)] }) s

end Sys2Proof.Machine
end

