-- ==== Sys2Proof/Machine/Kv.lean ====
section
/-! DEFINITION. The KV cache (R323 to R352): region descriptors and selectors, slot images, rotation, KVLD and KVAPPEND, the page
instructions, REPAIR, BEAMMAP and TOPK as they issue. -/

namespace Sys2Proof.Machine

/-! ### Region descriptors (R323, R324) -/

/-- BASE. -/
def kvBase (d : List Word) : DWord := wpair d 0
/-- PPS, pages per sequence. -/
def kvPps (d : List Word) : Nat := wfield d 2 16 16
/-- GROUPS. -/
def kvGroups (d : List Word) : Nat := wfield d 2 8 8
/-- LAYERS. -/
def kvLayers (d : List Word) : Nat := wfield d 2 0 8
/-- RD, rotary channels. -/
def kvRd (d : List Word) : Nat := wfield d 3 6 10
/-- ROPE. -/
def kvRope (d : List Word) : Nat := wfield d 3 4 2

/-- A reserved field or a value outside its limit (R324). -/
def kvDescTrap (d : List Word) : Option TrapReq :=
  if wfield d 3 16 16 ≠ 0 ∨ wfield d 10 5 27 ≠ 0 ∨ (d.drop 11).any (fun x => x != 0) then some (raise .reservedField) else
  firstBad [(decide ((kvBase d).toNat % 65536 ≠ 0), 0, 0), (decide (kvPps d = 0), 2, 16), (decide (kvGroups d = 0), 2, 8),
    (decide (kvLayers d = 0), 2, 0),
    (decide (kvRope d ≠ 0) && (decide (kvRd d % 2 ≠ 0) || decide (kvRd d < 2) || decide (512 < kvRd d)), 3, 6),
    (decide (kvRope d = 3), 3, 4), (decide (1 < wfield d 3 1 2), 3, 1), (decide ((wpair d 6).toNat % 1024 ≠ 0), 6, 0),
    (decide (24 < wfield d 10 0 5), 10, 0)]

/-- The offset of page pg of a column (R323). -/
def kvPageVa (d : List Word) (layer group pg : Nat) : DWord :=
  kvBase d + BitVec.ofNat 64 (65536 * ((layer * kvGroups d + group) * kvPps d + pg))

/-- Raise, if there is something to raise. -/
def orRaise (t : Option TrapReq) : Xl Unit :=
  match t with
  | some t => .error t
  | none => .ok ()

/-- A thread's reads of words of memory meet a destination lock (R248). -/
def readLocked (s : State) (part : Nat) (ps : List Place) : Bool := ps.any (fun p => s.order.locks.any (fun l => l.dest && l.meets part p 4))

/-- The RANGE_LOCK of words that an instruction reads at an offset (R248). -/
def readFree (s : State) (part realm : Nat) (off : DWord) (ps : List Place) : Xl Unit :=
  orRaise (if readLocked s part ps then some (raiseIn .rangeLock realm off) else none)

/-- Steps 1 to 3 of R335 for a descriptor offset: its alignment, its translation, its fields. -/
def kvDescAt (s : State) (w : Warp) (rsel : Nat) (off : DWord) (reserved : Bool) : Xl (List Word × List Place) := do
  orRaise (if off.toNat % 64 ≠ 0 then some (raiseIn .misaligned (w.realmOf rsel) off) else none)
  orRaise (if reserved then some (raise .reservedField) else none)
  let d ← readLocal s w.who (w.realmOf rsel) off 16
  orRaise (kvDescTrap d.1)
  .ok d

/-- The descriptor of a page instruction, which no destination lock covers. -/
def kvDescOf (s : State) (w : Warp) (rsel : Nat) (off : DWord) (reserved : Bool) : Xl (List Word) := do
  let d ← kvDescAt s w rsel off reserved
  readFree s w.part (w.realmOf rsel) off d.2
  .ok d.1

/-! ### Extended entries (R326 to R328) -/

/-- The words of an entry as one 256-bit number. -/
def kvNat (e : List Word) : Nat := e.foldr (fun x acc => x.toNat + 2 ^ 32 * acc) 0

/-- A field of an entry. -/
def kvGet (e : List Word) (lo n : Nat) : Nat := kvNat e / 2 ^ lo % 2 ^ n

/-- An entry with a field set. -/
def kvSet (e : List Word) (lo n v : Nat) : List Word :=
  let x := kvNat e
  wordsOfVal 8 (x - x / 2 ^ lo % 2 ^ n * 2 ^ lo + v % 2 ^ n * 2 ^ lo)

/-- VALID, SPEC, SHOOT, RDELTA, WMARK, DOCID, DVER, RPEND (R326). -/
def kvValid (e : List Word) : Nat := kvGet e 0 64
def kvSpec (e : List Word) : Nat := kvGet e 64 64
def kvRdelta (e : List Word) : Int := (BitVec.ofNat 24 (kvGet e 148 24)).toInt
def kvWmark (e : List Word) : Nat := kvGet e 172 8
def kvDocid (e : List Word) : Nat := kvGet e 180 32
def kvDver (e : List Word) : Nat := kvGet e 212 16
def kvRpend (e : List Word) : Bool := kvGet e 254 1 == 1

/-- Where a page's extended entry lies. -/
structure KvLeaf where
  part : Part
  realm : Nat
  va : DWord
  ea : Nat
  demand : Bool
  e : List Word

/-- The walk to a page's entry; an ordinary leaf raises XLATE_PROT (R326). -/
def kvLeafOf (s : State) (who : Who) (v : View) (write : Bool) (realm : Nat) (va : DWord) : Xl KvLeaf :=
  match realmChecks s who { write := write, local_ := true } realm va with
  | .error t => .error t
  | .ok (p, re) =>
    match walkFor s p who realm re va with
    | .error t => .error t
    | .ok (.page ..) => .error (walkTrap .xlateProt realm va)
    | .ok (.kv ea u wr demand) =>
      if (who.user && !u) || (write && !wr) then .error (walkTrap .xlateProt realm va)
      else .ok { part := p, realm := realm, va := va, ea := ea, demand := demand, e := kvEntry s v ea }

/-- The walk of a KV instruction to a page's entry (R326). -/
def kvLeaf (s : State) (w : Warp) (v : View) (write : Bool) (rsel : Nat) (va : DWord) : Xl KvLeaf :=
  kvLeafOf s w.who v write (w.realmOf rsel) va

/-- The frame of a page, with its checks (R327, R430). -/
def kvFrameOf (l : KvLeaf) (write : Bool) : Xl Nat :=
  if kvPframe l.e = 0 then .error { walkTrap .xlateMiss l.realm l.va with demand := l.demand }
  else if kvPoolFrames l.part ≤ kvPframe l.e || (write && kvRo l.e) then .error (walkTrap .xlateProt l.realm l.va)
  else
    let a := kvFrame l.part (kvPframe l.e)
    if ownsRange l.part a (max 1 (kvFootprint (kvFmtTag l.e))) then .ok a else .error (walkTrap .xlateProt l.realm l.va)

/-- KV_FORMAT of a tag that is not in the table (R329). -/
def kvFormatTrap (tag limit : Nat) : Option TrapReq := if limit ≤ tag then some (raiseD .kvFormat (BitVec.ofNat 32 tag)) else none

/-- The words of an entry. -/
def kvPlaces (ea : Nat) : List Place := wordsOf (memPlace ea) 32

/-- Buffered stores of some words of an entry. -/
def kvStores (ea : Nat) (idx : List Nat) (e : List Word) : List (Place × Byte) :=
  idx.flatMap (fun k => (placesFrom (memPlace (ea + 4 * k)) 4).zip (valBytes 4 (wordAt e k).toNat))

/-! ### Slot images (R329) -/

/-- The offset and width of each datum that element c of slot sl needs: the element, then its scales. -/
def kvReads (fmt sl c : Nat) : List (Nat × Nat) :=
  match fmt with
  | 0 => [(1024 * sl + 2 * c, 2)]
  | 1 => [(1024 * sl + 2 * c, 2)]
  | 2 => [(512 * sl + c, 1)]
  | 3 => [(512 * sl + c, 1)]
  | 4 => [(512 * sl + c, 1), (32768 + 2 * c, 2)]
  | 5 => [(256 * sl + c / 2, 1), (16384 + 2 * c, 2)]
  | 6 => [(33 * (16 * sl + c / 32) + c % 32, 1), (33 * (16 * sl + c / 32) + 32, 1)]
  | 7 => [(17 * (16 * sl + c / 32) + c % 32 / 2, 1), (17 * (16 * sl + c / 32) + 16, 1)]
  | 8 => [(5 * (64 * sl + c / 8) + c % 8 / 2, 1), (5 * (64 * sl + c / 8) + 4, 1), (20480, 2)]
  | _ => []

/-- The value of an element from those data. -/
def kvDecode (fmt c : Nat) (xs : List Nat) : FVal :=
  let x := xs.getD 0 0
  let k := xs.getD 1 0
  let nib := x / 16 ^ (c % 2) % 16
  let scaled (n : Int) : FVal :=
    let v := (winTerm (.fin (decide (n < 0)) n.natAbs 0) (decodeF specBF16 k)).1
    if isNaNVal v then .nan (isSNaN (decodeF specBF16 k)) else v
  match fmt with
  | 0 => decodeF specBF16 x
  | 1 => decodeF specF16 x
  | 2 => decodeF specE4M3 x
  | 3 => decodeF specE5M2 x
  | 4 => scaled (intOfCode .s8 x)
  | 5 => scaled (intOfCode .s4 nib)
  | 6 => mxValue .e4m3 x k
  | 7 => mxValue .e2m1 nib k
  | _ => gb4Value (xs.getD 2 0) k nib

/-- Element c of slot sl of the frame at a, as a view sees it. -/
def kvElem (s : State) (v : View) (a fmt sl c : Nat) : FVal :=
  kvDecode fmt c ((kvReads fmt sl c).map (fun r => viewVal s v (memPlace (a + r.1)) r.2))

/-! ### Rotation (R330) -/

/-- A channel of a page is rotated. -/
def kvTurns (d e : List Word) (c : Nat) : Bool :=
  decide (wfield d 3 0 1 = 0) && decide (kvRope d ≠ 0) && decide (c < kvRd d) && decide (kvRdelta e ≠ 0)

/-- The lower and the upper channel of c's pair, and its frequency. -/
def kvPair (d : List Word) (c : Nat) : Nat × Nat × Nat :=
  if kvRope d = 1 then (c / 2 * 2, c / 2 * 2 + 1, c / 2)
  else (c % (kvRd d / 2), c % (kvRd d / 2) + kvRd d / 2, c % (kvRd d / 2))

/-- A member of a pair turned by RDELTA at a frequency. Its roundings flush nothing and raise no flag. -/
def kvRotate (rdelta : Int) (freq : FVal) (upper : Bool) (u w : FVal) : FVal :=
  if isNaNVal u || isNaNVal w then .nan false else
  let times (x y : FVal) : FVal := (winTerm x y).1
  let ang := (mulVals false specF32 .rn (.fin (decide (rdelta < 0)) rdelta.natAbs 0) freq).1
  let co := decodeF specF32 (specialFn .cos false .f32 ang).1
  let sn := decodeF specF32 (specialFn .sin false .f32 ang).1
  decodeF specF32 (if upper then (addVals false specF32 .rn (times u sn) (times w co)).1
    else (addVals false specF32 .rn (times u co) (negVal (times w sn))).1)

/-! ### Slot instructions (R325, R334, R335) -/

/-- What a lane of a slot instruction reaches. -/
structure KvSlot where
  d : List Word
  layer : Nat
  ch : Nat
  leaf : KvLeaf
  frame : Nat
  slot : Nat
  beam : List Place
  /-- The words of its descriptors and of its beam table. -/
  aux : List Place

/-- The slot selector's reserved bits (R325). -/
def kvSlotReserved (sel : List Word) : Bool := decide (wfield sel 2 25 7 ≠ 0) || decide (wfield sel 3 6 26 ≠ 0)

/-- The slot selector's limits against a descriptor (R325). -/
def kvSlotLimits (sel d : List Word) (count : Nat) : Option TrapReq :=
  firstBad [(decide (kvLayers d ≤ wfield sel 2 0 8), 2, 0), (decide (kvGroups d ≤ wfield sel 2 8 8), 2, 8),
    (decide (wfield sel 2 16 9 % count ≠ 0) || decide (512 < wfield sel 2 16 9 + count), 2, 16)]

/-- A token index outside its region. -/
def kvTokenTrap (d : List Word) (t : Nat) : Option TrapReq := if 64 * kvPps d ≤ t then some (argRange 0 0) else none

/-- Words of a beam table: n words from byte o. -/
def kvTableWords (s : State) (w : Warp) (rsel : Nat) (table : DWord) (o n : Nat) : Xl (List Word × List Place) :=
  readLocal s w.who (w.realmOf rsel) (table + BitVec.ofNat 64 o) n

/-- NB and TCAP of a beam table's first word, with their limits (R348). -/
def kvBeamHead (h : Word) : Nat × Nat := (wfield [h] 0 8 7, 128 * wfield [h] 0 16 16)
def kvBeamTrap (h : Word) : Option TrapReq :=
  firstBad [(decide (64 < (kvBeamHead h).1), 0, 8), (decide (128 * 512 < (kvBeamHead h).2), 0, 16)]

/-- The byte of bank b, row j, token t. -/
def kvBankByte (tcap b j t : Nat) : Nat := 1024 + (64 * b + j) * tcap + t

/-- Step 4 of R335: the descriptor of the beam that a token of the lane's beam comes from (R348), the beam byte's word, and all words read. -/
def kvBeamDesc (s : State) (w : Warp) (rsel : Nat) (sel d : List Word) (count t : Nat) : Xl (List Word × List Place × List Place) := do
  let table := wpair d 6
  let h ← kvTableWords s w rsel table 0 1
  let head := wordAt h.1 0
  let (nb, tcap) := kvBeamHead head
  let beam := wfield sel 3 0 6
  orRaise (kvBeamTrap head)
  orRaise (if nb ≤ beam then some (argRange 3 0) else none)
  orRaise (if tcap ≤ t then some (argRange 0 0) else none)
  let at_ := kvBankByte tcap (wfield [head] 0 0 1) beam t
  let b ← kvTableWords s w rsel table (at_ / 4 * 4) 1
  let e := (byteOf (wordAt b.1 0) (at_ % 4)).toNat
  let src := if 128 ≤ e then beam else e % 64
  orRaise (if nb ≤ src || e.testBit 6 then some (argRange 3 0) else none)
  let o ← kvTableWords s w rsel table (64 + 8 * src) 2
  let bd ← kvDescAt s w rsel (wpair o.1 0) (kvSlotReserved sel)
  orRaise (kvSlotLimits sel bd.1 count)
  orRaise (kvTokenTrap bd.1 t)
  .ok (bd.1, b.2, h.2 ++ b.2 ++ o.2 ++ bd.2)

/-- Steps 1 to 6 of R335. beams: the region's beam table counts (KVLD). -/
def kvSlotAt (s : State) (w : Warp) (write beams : Bool) (rsel : Nat) (sel : List Word) (count t limit : Nat) : Xl KvSlot := do
  let (d0, read) ← kvDescAt s w rsel (wpair sel 0) (kvSlotReserved sel)
  orRaise (kvSlotLimits sel d0 count)
  let (d, beam, aux) ← (if beams && wpair d0 6 != 0 then kvBeamDesc s w rsel sel d0 count t else
    match kvTokenTrap d0 t with
    | some e => .error e
    | none => .ok (d0, [], []))
  let layer := wfield sel 2 0 8
  let leaf ← kvLeaf s w w.view write rsel (kvPageVa d layer (wfield sel 2 8 8) (t / 64))
  let frame ← kvFrameOf leaf write
  orRaise (kvFormatTrap (kvFmtTag leaf.e) limit)
  .ok { d := d, layer := layer, ch := wfield sel 2 16 9, leaf := leaf, frame := frame, slot := t % 64, beam := beam, aux := read ++ aux }

/-- The repair job whose lock covers an entry (R346). -/
def repairOf (s : State) (part ea : Nat) : Option Job :=
  s.order.locks.findSome? (fun l => if l.dest && l.meets part (memPlace ea) 32 then
    s.eng.jobs.find? (fun j => j.id == l.holder && j.kind == .repair) else none)

/-- A KV access meets a lock, or writes in a declared range: the locks of a repair job on the entry apart (R241, R335 step 8, R337). aux: the
further words that it reads. -/
def kvLocked (s : State) (w : Warp) (ea : Nat) (data : List (Nat × Nat)) (aux : List Place) (write : Bool) : Bool :=
  let hit (a n : Nat) (exempt : Bool) : Bool :=
    s.order.locks.any (fun l => l.meets w.part (memPlace a) n && (l.dest || write)
      && !(exempt && (s.job? l.holder).any (fun j => j.kind == .repair)))
  hit ea 32 true || data.any (fun x => hit x.1 x.2 false) || readLocked s w.part aux || (write && ((ea, 32) :: data).any (fun x => meetsRange s x.1 x.2))

/-! ### KVLD -/

/-- The data a lane reads of its slot: the gathered channels and, where they turn, their partners (R334). -/
def kvData (k : KvSlot) (count : Nat) : List (Nat × Nat) :=
  let fmt := kvFmtTag k.leaf.e
  nub ((List.range count).flatMap (fun i =>
    let c := k.ch + i
    let pr := kvPair k.d c
    ((if kvTurns k.d k.leaf.e c then [pr.1, pr.2.1] else [c]).flatMap (kvReads fmt k.slot)).map (fun r => (k.frame + r.1, r.2))))

/-- VALID of the lane's slot. -/
def KvSlot.vis (k : KvSlot) : Bool := (kvValid k.leaf.e).testBit k.slot

/-- The page's values are not current at the lane's layer (R336). -/
def KvSlot.stale (k : KvSlot) : Bool := decide (kvWmark k.leaf.e < k.layer)

/-- KV_STALE of a strict region, and the registry words read (R347). -/
def kvProvenance (s : State) (w : Warp) (rsel : Nat) (k : KvSlot) : Xl (List Place) :=
  let doc := kvDocid k.leaf.e
  let reg := wpair k.d 8
  if !(k.vis && (wordAt k.d 3).getLsbD 3 && reg != 0 && doc != 0) then .ok [] else
  match readLocal s w.who (w.realmOf rsel) (reg + BitVec.ofNat 64 (8 * (doc % 2 ^ wfield k.d 10 0 5))) 2 with
  | .error t => .error t
  | .ok (ws, ps) =>
    let ver := wfield ws 1 0 16
    if (wordAt ws 0).toNat = doc ∧ kvDver k.leaf.e < ver then
      .error { raise .kvStale with d17 := BitVec.ofNat 32 doc, d18 := BitVec.ofNat 32 (kvDver k.leaf.e * 2 ^ 16 + ver) }
    else .ok ps

/-- A lane waits: its page is under repair, not current, and the effective policy is WAIT (R34, R336; DEDUCED, log 26; DEDUCED, log 68). -/
def kvldWaits (w : Warp) (k : KvSlot) : Bool :=
  k.vis && k.stale && kvRpend k.leaf.e && (w.det || decide (wfield k.d 3 1 2 = 0))

/-- One gathered channel, with the flags of its last rounding and of a flushed frequency (R92, R330, R334). freq: word i of the frequency
table. -/
def kvldElem (s : State) (w : Warp) (f32 : Bool) (k : KvSlot) (freq : Nat → Nat) (i : Nat) : Nat × Flags :=
  let c := k.ch + i
  let at_ (ch : Nat) : FVal := kvElem s w.view k.frame (kvFmtTag k.leaf.e) k.slot ch
  let pr := kvPair k.d c
  let turned := kvTurns k.d k.leaf.e c
  let fr := readF w.denorm specF32 (freq pr.2.2)
  let r := convertVal w.denorm (if f32 then specF32 else specBF16) .rn
    (if turned then kvRotate (kvRdelta k.leaf.e) fr.1 (c == pr.2.1) (at_ pr.1) (at_ pr.2.1) else at_ c)
  (r.1, r.2 ||| (if turned then fr.2 else 0))

/-- What a lane of KVLD gathers: its four words with their flags and poison. -/
def kvldGather (s : State) (w : Warp) (f32 : Bool) (k : KvSlot) (freq : Nat → Nat) : List Word × Flags × Bool :=
  if !k.vis then (List.replicate 4 0, 0, false) else
  let n := if f32 then 4 else 8
  let xs := (List.range n).map (kvldElem s w f32 k freq)
  let fl := xs.foldl (fun m x => m ||| x.2) (0 : Flags)
  let word (m : Nat) : Word :=
    if f32 then BitVec.ofNat 32 (xs.getD m (0, 0)).1
    else BitVec.ofNat 32 ((xs.getD (2 * m) (0, 0)).1 + 2 ^ 16 * (xs.getD (2 * m + 1) (0, 0)).1)
  ((List.range 4).map word, fl, !s.order.poison.isEmpty && (kvData k n).any (fun r => (wordsOf (memPlace r.1) r.2).any (poisonedAt s w)))

/-- The frequencies a lane's rotation reads, and their words (R325, R330). -/
def kvFreqs (s : State) (w : Warp) (rsel : Nat) (k : KvSlot) (count : Nat) : Xl (List (Nat × Nat) × List Place) :=
  let idx := nub (((List.range count).filter (fun i => k.vis && kvTurns k.d k.leaf.e (k.ch + i))).map (fun i => (kvPair k.d (k.ch + i)).2.2))
  idx.foldr (fun i acc => do
    let rest ← acc
    let r ← readLocal s w.who (w.realmOf rsel) (wpair k.d 4 + BitVec.ofNat 64 (4 * i)) 1
    .ok ((i, (wordAt r.1 0).toNat) :: rest.1, r.2 ++ rest.2)) (.ok ([], []))

/-- Look up a frequency. -/
def freqAt (fs : List (Nat × Nat)) (i : Nat) : Nat := ((fs.find? (fun x => x.1 == i)).map (·.2)).getD 0

/-- The register writes of a gathered lane (R334). -/
def kvldWords (d lane : Nat) (r : List Word × Flags × Bool) : List RegWrite := r.1.zipIdx.map (fun x => .v (d + x.2) lane x.1 r.2.2)

/-- What a gathered lane's predicate holds: false for an invisible slot, undecided for stale values (R334, R336; DEDUCED, log 68). -/
def kvldTri (k : KvSlot) : Tri := if !k.vis then .no else if k.stale then .undecided else .yes

/-- The register and predicate writes of a gathered lane. -/
def kvldWrites (d pc lane : Nat) (k : KvSlot) (r : List Word × Flags × Bool) : List RegWrite :=
  kvldWords d lane r ++ [.p pc lane (bitsOfTri (kvldTri k))]

/-- The words a lane reads: its entry, its beam byte, its slot. -/
def kvldPlaces (k : KvSlot) (count : Nat) : List Place :=
  kvPlaces k.leaf.ea ++ k.beam ++ (if k.vis then (kvData k count).flatMap (fun r => wordsOf (memPlace r.1) r.2) else [])

/-- A lane's slot and its frequencies, with the checks of R335. -/
def kvldLane (s : State) (w : Warp) (rsel : Nat) (sel : List Word) (count t : Nat) : Xl (KvSlot × List (Nat × Nat)) := do
  let k ← kvSlotAt s w false true rsel sel count t 9
  let ps ← kvProvenance s w rsel k
  let fs ← kvFreqs s w rsel k count
  orRaise (if kvLocked s w k.leaf.ea (if k.vis then kvData k count else []) (k.aux ++ ps ++ fs.2) false then
    some (raiseIn .rangeLock k.leaf.realm k.leaf.va) else none)
  .ok (k, fs.1)

/-- The address of a counter that lies here; 0 for none. -/
def counterAddr (c : CounterRef) : Nat :=
  match c with
  | .local a => a
  | .none => 0
  | .peer .. => 0
  | .ether .. => 0

/-- The address of the counter of the repair job that holds a page; 0 for none. -/
def repairCounter (s : State) (part ea : Nat) : Nat := ((repairOf s part ea).map (fun j => counterAddr j.counter)).getD 0

/-- KVLD (R334 to R336; DEDUCED, log 26). -/
def execKvld (c : Ctl) (f32 : Bool) (rsel : BitVec 2) (d a b : BitVec 8) (pc : BitVec 3) (s : State) :
    Host.Outcome State Fault Refusal :=
  let count := if f32 then 4 else 8
  issue c { needs [dstField false d 4] [srcField (.v a) 1, uniField b 4] 0 with pdsts := [pc.toNat] } (fun g =>
    let sel := descWords g 1 4
    match eachLane g.lanes (fun l => kvldLane s g.w rsel.toNat sel count (g.rd 0 0 l).toNat) with
    | .error t => { trap := some t }
    | .ok xs =>
      let now := xs.filter (fun x => !kvldWaits g.w x.2.1)
      let later := xs.filter (fun x => kvldWaits g.w x.2.1)
      let got := now.map (fun x => (x.1, x.2.1, kvldGather s g.w f32 x.2.1 (freqAt x.2.2)))
      { writes := got.flatMap (fun x => kvldWords d.toNat x.1 x.2.2) ++ got.map (fun x => .p pc.toNat x.1 (bitsOfTri (kvldTri x.2.1)))
        flags := got.map (fun x => (x.1, x.2.2.2.1))
        reads := now.flatMap (fun x => kvldPlaces x.2.1 count)
        pages := nub (now.map (fun x => (x.2.1.leaf.realm, x.2.1.leaf.va.toNat / 2 ^ 16)))
        awaits := if later.isEmpty then .unit else .kv
        entry := fun e => { e with
          dst := d.toNat, width := 4, lanes := later.map (·.1)
          tiles := later.map (fun x => ((g.rd 0 0 x.1).toNat, repairCounter s g.w.part x.2.1.leaf.ea))
          kv := [if f32 then 1 else 0, BitVec.ofNat 32 rsel.toNat, BitVec.ofNat 32 pc.toNat] ++ sel } }) s

/-! ### KVAPPEND (R337) -/

/-- The format of a page that takes appended values (R329). -/
def kvAppendSpec (fmt : Nat) : FSpec :=
  match fmt with
  | 0 => specBF16 | 1 => specF16 | 2 => specE4M3 | _ => specE5M2

/-- Bytes of an element of a page that takes appended values. -/
def kvWidth (fmt : Nat) : Nat := if fmt < 2 then 2 else 1

/-- The slot's bytes of channels CH to CH + 7. -/
def kvAppendRange (k : KvSlot) : Nat × Nat :=
  let n := kvWidth (kvFmtTag k.leaf.e)
  (k.frame + 512 * n * k.slot + n * k.ch, 8 * n)

/-- The warp belongs to a launch that the repair job holding an entry has issued (R337, R346). -/
def inRepair (s : State) (w : Warp) (ea : Nat) : Bool :=
  match repairOf s w.part ea, s.launchOf w with
  | some j, some l => decide (j.src = l.uid)
  | _, _ => false

/-- The checks of R335 that KVAPPEND makes (R337), and the seal of the bytes it writes (R260). -/
def kvAppendSlot (s : State) (w : Warp) (rsel : Nat) (sel : List Word) (t : Nat) : Xl KvSlot := do
  let k ← kvSlotAt s w true false rsel sel 8 t 4
  let r := kvAppendRange k
  match sealedAt s r.1 with
  | some ed => .error { raiseIn .sealedWrite k.leaf.realm k.leaf.va with d17 := ed }
  | none =>
    if (kvRpend k.leaf.e && !inRepair s w k.leaf.ea) || kvLocked s w k.leaf.ea [r] k.aux true then .error (raiseIn .rangeLock k.leaf.realm k.leaf.va)
    else .ok k

/-- The eight converted values of a lane (R98, R337). -/
def kvAppendValues (g : Go) (fmt l : Nat) : List (Nat × Flags) :=
  (List.range 8).map (fun i =>
    let x := readF g.w.denorm specBF16 ((g.rd 2 (i / 2) l).toNat / 2 ^ (16 * (i % 2)) % 2 ^ 16)
    let r := convertVal g.w.denorm (kvAppendSpec fmt) .rn x.1
    (r.1, x.2 ||| r.2))

/-- The entry after an append to one of its slots: the mask bits, and the path where it found the page empty (R332, R337). -/
def kvAppendEntry (path : Path) (valid spec : Bool) (slot : Nat) (found now : List Word) : List Word :=
  let e1 := if kvValid found = 0 ∧ kvSpec found = 0 then kvSet now 132 16 path.toNat else now
  let e2 := if valid then kvSet e1 0 64 (Nat.lor (kvValid e1) (2 ^ slot)) else e1
  if valid && (spec || path != 0) then kvSet e2 64 64 (Nat.lor (kvSpec e2) (2 ^ slot)) else e2

/-- The words of an entry that an append writes. -/
def kvAppendIdx (path : Path) (valid spec : Bool) (found : List Word) : List Nat :=
  (if valid then [0, 1] else []) ++ (if valid && (spec || path != 0) then [2, 3] else [])
    ++ (if kvValid found = 0 ∧ kvSpec found = 0 then [4] else [])

/-- One lane's stores: its values, then its entry's words over what earlier lanes have left. -/
def kvAppendLane (s : State) (g : Go) (valid spec : Bool) (acc : List (Place × Byte)) (x : Nat × KvSlot) : List (Place × Byte) :=
  let k := x.2
  let r := kvAppendRange k
  let n := kvWidth (kvFmtTag k.leaf.e)
  let data := (kvAppendValues g (kvFmtTag k.leaf.e) x.1).flatMap (fun v => valBytes n v.1)
  let now := kvEntry s ⟨g.w.part, g.w.path, acc.reverse ++ g.w.chunk.bytes⟩ k.leaf.ea
  acc ++ (placesFrom (memPlace r.1) r.2).zip data
    ++ kvStores k.leaf.ea (kvAppendIdx g.w.path valid spec k.leaf.e) (kvAppendEntry g.w.path valid spec k.slot k.leaf.e now)

/-- Poison marks of the words a lane's values go to (R268). -/
def kvAppendMarks (g : Go) (x : Nat × KvSlot) : List (Place × Bool) :=
  let r := kvAppendRange x.2
  let per := 4 / kvWidth (kvFmtTag x.2.leaf.e)
  (wordsOf (memPlace r.1) r.2).zipIdx.map (fun y => (y.1, (List.range per).any (fun j => g.poisoned 2 ((per * y.2 + j) / 2) x.1)))

/-- KVAPPEND (R337). -/
def execKvappend (c : Ctl) (valid spec : Bool) (rsel : BitVec 2) (a b e : BitVec 8) (s : State) : Host.Outcome State Fault Refusal :=
  issue c (storeNeed [srcField (.v a) 1, uniField b 4] (srcField (.v e) 4)) (fun g =>
    let sel := descWords g 1 4
    match eachLane g.lanes (fun l => kvAppendSlot s g.w rsel.toNat sel (g.rd 0 0 l).toNat) with
    | .error t => { trap := some t }
    | .ok xs =>
      let fl := xs.map (fun x => (x.1, (kvAppendValues g (kvFmtTag x.2.leaf.e) x.1).foldl (fun m v => m ||| v.2) (0 : Flags)))
      match raisedTrap c (needs [] [] 0) g { flags := fl } with
      | some t => { trap := some t }
      | none =>
        let entries := xs.flatMap (fun x => kvPlaces x.2.leaf.ea)
        { stores := xs.foldl (kvAppendLane s g valid spec) []
          reads := entries
          kind := fun p => if entries.contains p then .red .or true else .plain
          pages := nub (xs.map (fun x => (x.2.leaf.realm, x.2.leaf.va.toNat / 2 ^ 16)))
          chunk := fun k => { k with
            poisoned := markWords k.poisoned (xs.flatMap (kvAppendMarks g))
            flags := k.flags ||| fl.foldl (fun m x => m ||| x.2) 0 } }) s

/-! ### Page instructions (R325, R338 to R343) -/

/-- A page selector's pages and columns. -/
structure KvRange where
  d : List Word
  first : Nat
  count : Nat
  cols : List (Nat × Nat)

/-- Every column of a region, (0, 0) first. -/
def kvColumns (d : List Word) : List (Nat × Nat) :=
  (List.range (kvLayers d)).flatMap (fun l => (List.range (kvGroups d)).map (fun g => (l, g)))

/-- A page selector, checked. whole: the instruction acts in every column, and word 3 must be 0 (R325). -/
def kvPageRange (s : State) (w : Warp) (rsel : Nat) (sel : List Word) (whole : Bool) : Xl KvRange := do
  let d ← kvDescOf s w rsel (wpair sel 0) (decide (wfield sel 3 17 15 ≠ 0))
  let first := wfield sel 2 0 16
  let count := wfield sel 2 16 16
  let all := wfield sel 3 16 1 == 1
  let layer := wfield sel 3 0 8
  let group := wfield sel 3 8 8
  orRaise (firstBad [(decide (count = 0) || decide (256 < count), 2, 16), (decide (kvPps d < first + count), 2, 0),
    (whole && wordAt sel 3 != 0, 3, 0), (all && decide (layer ≠ 0), 3, 0), (all && decide (group ≠ 0), 3, 8),
    (decide (kvLayers d ≤ layer), 3, 0), (decide (kvGroups d ≤ group), 3, 8)])
  .ok { d := d, first := first, count := count, cols := if all || whole then kvColumns d else [(layer, group)] }

/-- The entries of n pages from a page on, in the columns listed, column by column (DEDUCED, log 31). -/
def kvEntries (s : State) (w : Warp) (write : Bool) (rsel : Nat) (d : List Word) (cols : List (Nat × Nat)) (first n : Nat) : Xl (List KvLeaf) :=
  (cols.flatMap (fun c => (List.range n).map (fun i => kvPageVa d c.1 c.2 (first + i)))).foldr (fun va acc =>
    match kvLeaf s w w.view write rsel va, acc with
    | .error t, _ => .error t
    | .ok _, .error t => .error t
    | .ok l, .ok ls => .ok (l :: ls)) (.ok [])

/-- Entries a page instruction reads: not held by a repair, not under a destination lock (R248, R338; DEDUCED, log 31). -/
def kvUsable (s : State) (w : Warp) (ls : List KvLeaf) : Xl Unit :=
  orRaise (ls.findSome? (fun l => if kvRpend l.e || readLocked s w.part (kvPlaces l.ea) then some (raiseIn .rangeLock l.realm l.va) else none))

/-- Entries a page instruction would rewrite: not held by a repair, not locked or declared, not sealed (R241, R248, R260, R338; DEDUCED, log 31). -/
def kvFree (s : State) (w : Warp) (ls : List KvLeaf) : Xl Unit :=
  orRaise (ls.findSome? (fun l =>
    if kvRpend l.e || meetsLock s w.part l.ea (l.ea + 32) false || meetsDeclared s l.ea (l.ea + 32) then some (raiseIn .rangeLock l.realm l.va)
    else match sealedAt s l.ea with
      | some ed => some { raiseIn .sealedWrite l.realm l.va with d17 := ed }
      | none => none))

/-- A read-only page (R327). -/
def kvNotRo (ls : List KvLeaf) : Xl Unit :=
  orRaise (ls.findSome? (fun l => if kvRo l.e then some (walkTrap .xlateProt l.realm l.va) else none))

/-- SHOOT_LIMIT outside the root shoot (R338). -/
def kvRoot (w : Warp) : Xl Unit := orRaise (if w.path ≠ 0 then some (raiseD .shootLimit (w.path.setWidth 32)) else none)

/-- SHOOT_LIMIT of an entry that a live shoot other than the root holds a version of (R338). -/
def kvUnshared (s : State) (w : Warp) (ls : List KvLeaf) : Xl Unit :=
  orRaise (ls.findSome? (fun l => (s.order.versions.findSome? (fun v =>
    let p := effective s w.part v.tag
    if v.part == w.part && v.station.isNone && p != 0 && (List.range 8).any (fun i => (v.word (l.ea / 4 + i)).isSome)
        && (s.part? w.part).any (fun q => q.shoots.any (fun y => y.live && y.path == p)) then some p else none)).map
      (fun p => raiseD .shootLimit (p.setWidth 32))))

/-- A limit of an operand that is not met. -/
def kvArg (bad : Bool) (word low : Nat) : Xl Unit := orRaise (if bad then some (argRange word low) else none)

/-- The page of an offset. -/
def KvLeaf.page (l : KvLeaf) : Nat := l.va.toNat / 2 ^ 16

/-- A page instruction: its checks give the entries it reads and the new words of those it changes; turns: they change PFRAME, FMT,
RDELTA or RO (R352); kind: what they are for the race rule (DEDUCED, log 31; DEDUCED, log 103). -/
def kvPageInstr (c : Ctl) (srcs : List Field) (rsel : BitVec 2) (turns : Bool) (kind : AccKind)
    (f : Go → Xl (List KvLeaf × List (KvLeaf × List Nat × List Word))) (s : State) : Host.Outcome State Fault Refusal :=
  issueWith c (needs [] srcs 0) (fun _ => { ends := true }) (fun g =>
    match f g with
    | .error t => { trap := some t }
    | .ok (seen, new) =>
      { ends := true
        reads := seen.flatMap (fun l => kvPlaces l.ea)
        stores := new.flatMap (fun x => kvStores x.1.ea x.2.1 x.2.2)
        kind := fun _ => kind
        after := [.kvChange (g.w.realmOf rsel.toNat) (if turns then new.map (fun x => x.1.page) else [])] }) s

/-- KVMASK on an entry's masks (R339). -/
def kvMasked (op : KvMaskOp) (m : Nat) (e : List Word) : List Word :=
  let keep := 2 ^ 64 - 1 - m
  match op with
  | .set => kvSet e 0 64 (Nat.lor (kvValid e) m)
  | .clr => kvSet (kvSet e 0 64 (Nat.land (kvValid e) keep)) 64 64 (Nat.land (kvSpec e) keep)
  | .accept => kvSet e 64 64 (Nat.land (kvSpec e) keep)
  | .reject =>
    kvSet (kvSet e 0 64 (Nat.land (kvValid e) (2 ^ 64 - 1 - Nat.land m (kvSpec e)))) 64 64 (Nat.land (kvSpec e) keep)

/-- The words KVMASK writes. -/
def kvMaskIdx (op : KvMaskOp) : List Nat :=
  match op with
  | .set => [0, 1] | .clr => [0, 1, 2, 3] | .accept => [2, 3] | .reject => [0, 1, 2, 3]

/-- KVMASK (R339). -/
def execKvmask (c : Ctl) (op : KvMaskOp) (rsel : BitVec 2) (a b : BitVec 8) (s : State) : Host.Outcome State Fault Refusal :=
  kvPageInstr c [uniField a 4, uniField b 2] rsel false .mask (fun g => do
    let r ← kvPageRange s g.w rsel.toNat (descWords g 0 4) false
    let ls ← kvEntries s g.w true rsel.toNat r.d r.cols r.first r.count
    kvFree s g.w ls
    kvNotRo ls
    .ok (ls, ls.map (fun l => (l, kvMaskIdx op, kvMasked op (g.rd2 1 0 0).toNat l.e)))) s

/-- KVFMT (R340). -/
def execKvfmt (c : Ctl) (rsel : BitVec 2) (a b : BitVec 8) (s : State) : Host.Outcome State Fault Refusal :=
  kvPageInstr c [uniField a 4, uniField b 1] rsel true .plain (fun g => do
    let sel := descWords g 0 4
    let x := (g.rd 1 0 0).toNat
    let pf := x % 2 ^ 26
    let tag := x / 2 ^ 26 % 16
    let r ← kvPageRange s g.w rsel.toNat sel false
    kvArg (decide (r.count ≠ 1)) 2 16
    kvArg (wfield sel 3 16 1 == 1) 3 16
    kvArg (decide (x / 2 ^ 30 ≠ 0)) 0 30
    kvArg (decide (pf = 0)) 0 0
    orRaise (kvFormatTrap tag 9)
    let ls ← kvEntries s g.w true rsel.toNat r.d r.cols r.first r.count
    kvFree s g.w ls
    kvNotRo ls
    orRaise (ls.findSome? (fun l => if kvPoolFrames l.part ≤ pf then some (walkTrap .xlateProt l.realm l.va) else none))
    kvArg (ls.any (fun l => decide (kvSpec l.e ≠ 0))) 0 0
    .ok (ls, ls.map (fun l => (l, [4, 7], kvSet (kvSet l.e 228 26 pf) 128 4 tag)))) s

/-- KVPROV (R341). -/
def execKvprov (c : Ctl) (rsel : BitVec 2) (a b : BitVec 8) (s : State) : Host.Outcome State Fault Refusal :=
  kvPageInstr c [uniField a 4, uniField b 2] rsel false .plain (fun g => do
    kvArg (decide (2 ^ 16 ≤ (g.rd 1 1 0).toNat)) 1 16
    let r ← kvPageRange s g.w rsel.toNat (descWords g 0 4) false
    let ls ← kvEntries s g.w true rsel.toNat r.d r.cols r.first r.count
    kvFree s g.w ls
    .ok (ls, ls.map (fun l => (l, [5, 6, 7], kvSet (kvSet l.e 180 32 (g.rd 1 0 0).toNat) 212 16 (g.rd 1 1 0).toNat)))) s

/-- LAYERS, GROUPS and KIND of two regions agree (R342, R343). -/
def kvSameShape (d e : List Word) : Bool := kvLayers d == kvLayers e && kvGroups d == kvGroups e && wfield d 3 0 1 == wfield e 3 0 1

/-- The source selector of KVSHARE and GRAFT: its descriptor and its first page (R342, R343). -/
def kvSource (s : State) (w : Warp) (rsel : Nat) (sel d : List Word) (n : Nat) : Xl (List Word × Nat) := do
  let sd ← kvDescOf s w rsel (wpair sel 0) (decide (wfield sel 3 17 15 ≠ 0))
  let first := wfield sel 2 0 16
  kvArg (wordAt sel 3 != 0) 3 0
  kvArg (!kvSameShape d sd) 2 0
  kvArg (decide (kvPps sd < first + n)) 2 0
  .ok (sd, first)

/-- An entry with nothing in it: PFRAME, VALID and SPEC 0. -/
def kvBlank (e : List Word) : Bool := kvPframe e == 0 && kvValid e == 0 && kvSpec e == 0

/-- A source entry that can be taken: mapped, nothing speculative. -/
def kvTakable (e : List Word) : Bool := kvPframe e != 0 && kvSpec e == 0

/-- KVSHARE (R342). -/
def execKvshare (c : Ctl) (rsel : BitVec 2) (a b : BitVec 8) (s : State) : Host.Outcome State Fault Refusal :=
  kvPageInstr c [uniField a 4, uniField b 4] rsel true .plain (fun g => do
    kvRoot g.w
    let ssel := descWords g 1 4
    let r ← kvPageRange s g.w rsel.toNat (descWords g 0 4) true
    let (sd, sfirst) ← kvSource s g.w rsel.toNat ssel r.d r.count
    kvArg (decide (wfield ssel 2 16 16 ≠ 0)) 2 16
    let dst ← kvEntries s g.w true rsel.toNat r.d r.cols r.first r.count
    let src ← kvEntries s g.w false rsel.toNat sd r.cols sfirst r.count
    kvFree s g.w dst
    kvUsable s g.w src
    kvArg (!dst.all (fun l => kvBlank l.e)) 2 0
    kvArg (!src.all (fun l => kvTakable l.e)) 2 0
    kvUnshared s g.w dst
    .ok (dst ++ src, (dst.zip src).map (fun x => (x.1, List.range 8, kvSet (kvSet x.2.e 255 1 1) 254 1 0)))) s

/-- RDELTA moved by some positions; none outside its range (R343). -/
def kvShifted (e : List Word) (n : Int) : Option (List Word) :=
  let r := kvRdelta e + n
  if r < -(2 ^ 23) ∨ 2 ^ 23 - 1 < r then none else some (kvSet e 148 24 (intCode 24 r))

/-- One column of GRAFT: the new words of destination pages P to PPS - 1 (R343). dst: those pages; src: the n source pages. -/
def graftColumn (ro : Bool) (p sfirst n : Nat) (dst src : List KvLeaf) : Option (List (KvLeaf × List Nat × List Word)) :=
  let whole := List.range 8
  let opened := (dst.zip src).map (fun x => (kvShifted x.2.e (64 * ((p : Int) - sfirst))).map (fun e =>
    (x.1, whole, kvSet (kvSet e 255 1 (if kvRo e || ro then 1 else 0)) 254 1 0)))
  let moved := ((dst.drop n).zip dst).map (fun x => (kvShifted x.2.e (64 * n)).map (fun e => (x.1, whole, e)))
  (opened ++ moved).foldr (fun x acc => match x, acc with
    | some y, some ys => some (y :: ys)
    | _, _ => none) (some [])

/-- Cut a list into runs of n. -/
def chunksOf {α : Type} (n k : Nat) (l : List α) : List (List α) := (List.range k).map (fun i => (l.drop (n * i)).take n)

/-- GRAFT (R343). -/
def execGraft (c : Ctl) (ro : Bool) (rsel : BitVec 2) (a b : BitVec 8) (s : State) : Host.Outcome State Fault Refusal :=
  kvPageInstr c [uniField a 4, uniField b 4] rsel true .plain (fun g => do
    kvRoot g.w
    let sel := descWords g 0 4
    let ssel := descWords g 1 4
    let r ← kvPageRange s g.w rsel.toNat sel true
    let (sd, sfirst) ← kvSource s g.w rsel.toNat ssel r.d r.count
    kvArg (wpair sel 0 == wpair ssel 0) 0 0
    let n := r.count
    let run := kvPps r.d - r.first
    let dst ← kvEntries s g.w true rsel.toNat r.d r.cols r.first run
    let src ← kvEntries s g.w false rsel.toNat sd r.cols sfirst n
    kvFree s g.w dst
    kvUsable s g.w src
    let ds := chunksOf run r.cols.length dst
    let ss := chunksOf n r.cols.length src
    kvArg (!ds.all (fun col => (col.drop (run - n)).all (fun l => kvBlank l.e))) 2 0
    kvArg (!src.all (fun l => kvTakable l.e)) 2 0
    kvUnshared s g.w dst
    match (ds.zip ss).foldr (fun x acc => match graftColumn ro r.first sfirst n x.1 x.2, acc with
        | some y, some ys => some (y ++ ys)
        | _, _ => none) (some []) with
    | none => .error (argRange 2 0)
    | some new => .ok (dst ++ src, new)) s

/-! ### KVCOMPACT (R344) -/

/-- Slots that hold a token, in token order: page index in the range and slot. -/
def kvValidSlots (es : List (List Word)) : List (Nat × Nat) :=
  es.zipIdx.flatMap (fun x => ((List.range 64).filter (fun sl => (kvValid x.1).testBit sl)).map (fun sl => (x.2, sl)))

/-- Bytes of a slot of a page of format 0 to 3. -/
def kvSlotBytes (e : List Word) : Nat := 512 * kvWidth (kvFmtTag e)

/-- The granules of one column's moves in token order, four numbers each: the page and the byte in its frame it is read from, those it is
written to (R344). pages: the column's 64 KiB pages. -/
def compactMoves (pages : List Nat) (es : List (List Word)) : List Nat :=
  ((kvValidSlots es).zipIdx.filter (fun x => x.1 != (x.2 / 64, x.2 % 64))).flatMap (fun x =>
    let sb := kvSlotBytes (es.getD x.1.1 [])
    let db := kvSlotBytes (es.getD (x.2 / 64) [])
    (List.range (min sb db / 128)).flatMap (fun i =>
      [pages.getD x.1.1 0, sb * x.1.2 + 128 * i, pages.getD (x.2 / 64) 0, db * (x.2 % 64) + 128 * i]))

/-- VALID of page i of the range with m tokens packed (R344). -/
def packedValid (m i : Nat) : Nat := 2 ^ min 64 (m - 64 * i) - 1

/-- The pages of a range may be packed together (R344). -/
def compactable (cols : List (List KvLeaf)) : Bool :=
  let es := cols.flatMap (fun c => c.map (·.e))
  let same (f : List Word → Nat) : Bool := es.all (fun e => f e == f (es.headD []))
  es.all (fun e => kvPframe e != 0 && decide (kvFmtTag e < 4) && kvSpec e == 0)
    && same (fun e => kvGet e 148 24) && same kvDocid && same kvDver && same kvWmark
    && cols.all (fun c => c.map (fun l => kvValid l.e) == (cols.headD []).map (fun l => kvValid l.e))

/-- The frames of pages. -/
def kvFrames (ls : List KvLeaf) : Xl (List Nat) :=
  ls.foldr (fun l acc => match kvFrameOf l true, acc with
    | .error t, _ => .error t
    | .ok _, .error t => .error t
    | .ok a, .ok as => .ok (a :: as)) (.ok [])

/-- Frames that a command moves bytes of: none lies in a sealed page or a declared range (R241, R248, R260). -/
def framesFree (s : State) (ls : List KvLeaf) (fs : List Nat) : Xl Unit :=
  orRaise ((ls.zip fs).findSome? (fun x =>
    let n := kvFootprint (kvFmtTag x.1.e)
    ((sealedRange s x.2 n).map (fun ed => { raiseIn .sealedWrite x.1.realm x.1.va with d17 := ed })).or
      (if meetsDeclared s x.2 (x.2 + n) then some (raiseIn .rangeLock x.1.realm x.1.va) else none)))

/-- What KVCOMPACT has found: its range, its entries column by column, their frames. -/
def compactPlan (s : State) (w : Warp) (rsel : Nat) (sel : List Word) : Xl (KvRange × List (List KvLeaf) × List (List Nat)) := do
  kvRoot w
  let r ← kvPageRange s w rsel sel true
  let ls ← kvEntries s w true rsel r.d r.cols r.first r.count
  kvFree s w ls
  kvNotRo ls
  let cols := chunksOf r.count r.cols.length ls
  kvArg (!compactable cols) 2 0
  kvUnshared s w ls
  let fs ← kvFrames ls
  framesFree s ls fs
  .ok (r, cols, chunksOf r.count r.cols.length fs)

/-- KVCOMPACT: the masks change at its position; a runner then moves the slots (R344). The job keeps: dst, the realm; data, the moves. -/
def execKvcompact (c : Ctl) (rsel : BitVec 2) (a : BitVec 8) (s : State) : Host.Outcome State Fault Refusal :=
  issueWith c (needs [] [uniField a 4] 0) (fun _ => { ends := true }) (fun g =>
    match compactPlan s g.w rsel.toNat (descWords g 0 4) with
    | .error t => { trap := some t }
    | .ok (_, cols, frames) =>
      let leaves := cols.flatten
      if !lockRoom s (dieOf g.w.core) leaves.length then { wait := true, ask := some .table } else
      let num := s.model.nextId
      let m := (kvValidSlots ((cols.headD []).map (·.e))).length
      let moves := cols.flatMap (fun ls => compactMoves (ls.map KvLeaf.page) (ls.map (·.e)))
      let job : Job := { newJob s g.w g.f .kvcompact with dst := g.w.realmOf rsel.toNat, total := moves.length / 4, data := moves }
      let ranges := (leaves.zip frames.flatten).map (fun x => (x.2, x.2 + kvFootprint (kvFmtTag x.1.e)))
      let locks := eachLocks s g.w ranges true num (num + 1)
      { ends := true
        reads := leaves.flatMap (fun l => kvPlaces l.ea)
        stores := cols.flatMap (fun col => col.zipIdx.flatMap (fun x => kvStores x.1.ea [0, 1] (kvSet x.1.e 0 64 (packedValid m x.2))))
        after := [.kvChange (g.w.realmOf rsel.toNat) [], .job num]
        upds := inOrder [addJob job, addLocks locks, useIds (1 + locks.length)] }) s

/-! ### REPAIR (R346) -/

/-- What REPAIR has found: its entries and its counter. -/
def repairPlan (s : State) (w : Warp) (rsel : Nat) (sel j : List Word) : Xl (KvRange × List KvLeaf × CounterRef) := do
  kvRoot w
  let r ← kvPageRange s w rsel sel true
  kvArg (decide (kvLayers r.d < 2)) 2 0
  orRaise (if (wpair j 4).toNat % 128 ≠ 0 then some (raiseIn .misaligned (w.realmOf rsel) (wpair j 4)) else none)
  let ls ← kvEntries s w true rsel r.d r.cols r.first r.count
  kvFree s w ls
  kvNotRo ls
  kvArg (!ls.all (fun l => kvTakable l.e)) 2 0
  let _ ← engineRange s w { write := true, local_ := true } (w.realmOf rsel) (wpair j 4) (4 * (1 + 128 * r.count))
  let _ ← translate s w.who { write := true, local_ := true } (w.realmOf rsel) (wpair j 6) 8
  let ctr ← engineCounter s w false 6 rsel (wpair j 6)
  .ok (r, ls, ctr)

/-- REPAIR: the entries are armed at its position and its job goes on from there (R346). The job keeps: desc, the descriptor's words;
the LAYERS of its KV region and DETCTL.DENORM; dst, the realm; data, the entries, column (0, 0) first; total, the slots; src, the identity
of the launch it has issued. -/
def execRepair (c : Ctl) (rsel : BitVec 2) (a b : BitVec 8) (s : State) : Host.Outcome State Fault Refusal :=
  issueWith c (needs [] [uniField a 4, uniField b 8] 0) (fun _ => { ends := true }) (fun g =>
    let j := descWords g 1 8
    match repairPlan s g.w rsel.toNat (descWords g 0 4) j with
    | .error t => { trap := some t }
    | .ok (r, ls, ctr) =>
      if !lockRoom s (dieOf g.w.core) ls.length then { wait := true, ask := some .table } else
      let id := s.model.nextId
      let job : Job := { newJob s g.w g.f .repair with
        desc := j ++ [BitVec.ofNat 32 (kvLayers r.d), if g.w.denorm then 1 else 0], dst := g.w.realmOf rsel.toNat, total := 64 * r.count, amount := 1, counter := ctr,
        data := ls.map (·.ea) }
      let locks := eachLocks s g.w (ls.map (fun l => (l.ea, l.ea + 32))) true id (id + 1)
      { ends := true
        reads := ls.flatMap (fun l => kvPlaces l.ea)
        stores := ls.flatMap (fun l => kvStores l.ea [5, 7] (kvSet (kvSet l.e 172 8 0) 254 1 1))
        after := [.kvChange (g.w.realmOf rsel.toNat) [], .job id]
        upds := inOrder [addJob job, addLocks locks, useIds (1 + locks.length)] }) s

/-! ### BEAMMAP (R349) -/

/-- What BEAMMAP has found: the table's offset, its first word, the permutation, and the ranges of the bank it reads and the bank it
writes. -/
def beamPlan (s : State) (w : Warp) (rsel : Nat) (sel : List Word) (perm : DWord) (t : Nat) :
    Xl (DWord × Word × List Nat × List Piece × List Piece) := do
  kvRoot w
  let realm := w.realmOf rsel
  let d ← kvDescOf s w rsel (wpair sel 0) false
  kvArg (wordAt sel 2 != 0) 2 0
  kvArg (wordAt sel 3 != 0) 3 0
  let table := wpair d 6
  kvArg (table == 0) 6 0
  let h ← kvTableWords s w rsel table 0 1
  readFree s w.part realm table h.2
  let head := wordAt h.1 0
  let (nb, tcap) := kvBeamHead head
  orRaise (kvBeamTrap head)
  kvArg (decide (tcap < t)) 0 0
  let ps ← routes s w.who { local_ := true } realm perm nb
  readFree s w.part realm perm ((localRanges ps).flatMap (fun r => wordsOf (memPlace r.1) (r.2 - r.1)))
  let pi := (localRanges ps).flatMap (fun r => (viewBytes s w.view (memPlace r.1) (r.2 - r.1)).map (·.toNat))
  kvArg (pi.any (fun x => decide (nb ≤ x))) 0 0
  let c := wfield [head] 0 0 1
  let src ← engineRange s w { local_ := true } realm (table + BitVec.ofNat 64 (kvBankByte tcap c 0 0)) (nb * tcap)
  let dst ← engineRange s w { write := true, local_ := true } realm (table + BitVec.ofNat 64 (kvBankByte tcap (1 - c) 0 0)) (nb * tcap)
  let _ ← translate s w.who { write := true, local_ := true } realm table 4
  .ok (table, head, pi, src, dst)

/-- BEAMMAP: its bank writes run on a runner, then CUR flips (R349). The job keeps: src, the table's offset; dst, the realm;
desc, the table's first word and T; data, the permutation; total, the granules. -/
def execBeammap (c : Ctl) (rsel : BitVec 2) (a b e : BitVec 8) (s : State) : Host.Outcome State Fault Refusal :=
  issueWith c (needs [] [uniField a 4, uniField b 2, uniField e 1] 0) (fun _ => { ends := true }) (fun g =>
    match beamPlan s g.w rsel.toNat (descWords g 0 4) (g.rd2 1 0 0) (g.rd 2 0 0).toNat with
    | .error t => { trap := some t }
    | .ok (table, head, pi, src, dst) =>
      if !lockRoom s (dieOf g.w.core) 2 then { wait := true, ask := some .table } else
      let id := s.model.nextId
      let (nb, tcap) := kvBeamHead head
      let job : Job := { newJob s g.w g.f .beammap with
        desc := [head, g.rd 2 0 0], src := table.toNat, dst := g.w.realmOf rsel.toNat, total := nb * tcap / 128, data := pi }
      let sl := rangeLocks s g.w (localRanges src) false id 0 (id + 1)
      let dl := rangeLocks s g.w (localRanges dst) true id 1 (id + 1 + sl.length)
      { ends := true
        after := [.kvChange (g.w.realmOf rsel.toNat) [], .job id]
        upds := inOrder [addJob job, addLocks (sl ++ dl), useIds (1 + sl.length + dl.length)] }) s

/-! ### TOPK (R350, R351) -/

/-- Bytes of a score. -/
def topkSize (d : List Word) : Nat := if (wordAt d 3).getLsbD 9 then 2 else 4

/-- The limits of TOPK's descriptor. -/
def topkLimits (d : List Word) : Option TrapReq :=
  (reservedDesc (decide (wfield d 2 23 9 ≠ 0))).or <| firstBad [(decide (wfield d 2 0 23 = 0) || decide (2 ^ 22 < wfield d 2 0 23), 2, 0),
    (decide (wfield d 3 21 11 = 0), 3, 21), (badScope ((wordAt d 3).getLsbD 20) (wfield d 3 16 4), 3, 16),
    (decide (wfield d 3 0 9 = 0) || decide (256 < wfield d 3 0 9), 3, 0)]

/-- The alignment of TOPK's offsets. -/
def topkAligned (w : Warp) (d : List Word) : Option TrapReq :=
  if (wpair d 0).toNat % topkSize d ≠ 0 then some (raiseIn .misaligned (w.realmOf (wfield d 3 10 2)) (wpair d 0))
  else if (wpair d 4).toNat % 8 ≠ 0 then some (raiseIn .misaligned (w.realmOf (wfield d 3 12 2)) (wpair d 4))
  else counterAligned w ((wordAt d 3).getLsbD 20) (wfield d 3 14 2) (wpair d 6)

/-- TOPK (R350). The job's phase keeps DETCTL.DENORM. -/
def execTopk (c : Ctl) (a : BitVec 8) (s : State) : Host.Outcome State Fault Refusal :=
  issue c (needs [] [uniField a 8] 0) (fun g =>
    let d := descWords g 0 8
    let rows := wfield d 3 21 11
    match (topkLimits d).or (topkAligned g.w d) with
    | some t => { trap := some t }
    | none =>
      match commandRanges s g.w false true (g.w.realmOf (wfield d 3 10 2)) (wpair d 0) (rows * wfield d 2 0 23 * topkSize d)
          (g.w.realmOf (wfield d 3 12 2)) (wpair d 4) (rows * 8 * wfield d 3 0 9)
          (engineCounter s g.w ((wordAt d 3).getLsbD 20) (wfield d 3 16 4) (wfield d 3 14 2) (wpair d 6)) with
      | .error t => { trap := some t }
      | .ok (src, dst, ctr) =>
        if !lockRoom s (dieOf g.w.core) (rangeCount src + rangeCount dst) then { wait := true, ask := some .table } else
        let id := s.model.nextId
        let job : Job := { newJob s g.w g.f .topk with
          desc := d, src := (wpair d 0).toNat, dst := (wpair d 4).toNat, total := rows * 8 * wfield d 3 0 9, amount := 1, counter := ctr,
          scope := if (wordAt d 3).getLsbD 20 then 6 else wfield d 3 16 4, phase := if g.w.denorm then 1 else 0 }
        let sl := rangeLocks s g.w (localRanges src) false id 0 (id + 1)
        let dl := rangeLocks s g.w (localRanges dst) true id 1 (id + 1 + sl.length)
        { after := [.job id]
          upds := inOrder [addJob job, addLocks (sl ++ dl), useIds (1 + sl.length + dl.length)] }) s

/-! ### What TOPK writes (R351) -/

/-- A score: its code as FP32 after flushing, its value, and the flags of reading it. -/
structure Score where
  idx : Nat
  code : Nat
  val : FVal
  flags : Flags

/-- A score as read (R90, R92, R351). -/
def topkScore (denorm bf16 : Bool) (idx bits : Nat) : Score :=
  let f := if bf16 then specBF16 else specF32
  let (v, fl) := readF denorm f bits
  { idx := idx, code := if isNaNVal v then canonNaN specF32 else encodeVal specF32 v, val := v, flags := fl ||| (if isSNaN v then flagNV else 0) }

/-- a ranks before b: by value, NaNs last, equal ones by index (R351). -/
def Score.before (a b : Score) : Bool :=
  match isNaNVal a.val, isNaNVal b.val with
  | true, true => decide (a.idx < b.idx)
  | true, false => false
  | false, true => true
  | false, false =>
    match cmpVals a.val b.val with
    | .gt => true
    | .lt => false
    | .eq => decide (a.idx < b.idx)

/-- Insert a score into a ranking. -/
def rankIn (x : Score) (l : List Score) : List Score :=
  match l with
  | [] => [x]
  | y :: rest => if x.before y then x :: y :: rest else y :: rankIn x rest

/-- The K best scores of a row, best first. -/
def topkBest (k : Nat) (l : List Score) : List Score := l.foldl (fun acc x => (rankIn x acc).take k) []

/-- The bytes TOPK writes for a row: K pairs of value and index. -/
def topkRow (k : Nat) (l : List Score) : List Byte :=
  let best := topkBest k l
  best.flatMap (fun x => valBytes 4 x.code ++ valBytes 4 x.idx)
    ++ (List.range (k - best.length)).flatMap (fun _ => valBytes 4 0x7FC00000 ++ valBytes 4 0xFFFFFFFF)

end Sys2Proof.Machine
end

