-- ==== Sys2Proof/Machine/Launch.lean ====
section
/-! DEFINITION. Launches (R354 to R367): what LAUNCH reads and checks, groups and components, capacity, the espalier assignment, room on
a core, and the warps a task starts with. -/

namespace Sys2Proof.Machine

/-! ### Descriptors (R354) -/

/-- TASKSM1 + 1. -/
def launchTasks (d : List Word) : Nat := (wordAt d 2).toNat + 1
/-- WPT, REGS8, UNI8, SCRK, TILEK. -/
def launchWpt (d : List Word) : Nat := wfield d 3 0 5
def launchRegs8 (d : List Word) : Nat := wfield d 4 26 6
def launchUni8 (d : List Word) : Nat := wfield d 4 23 3
def launchScrk (d : List Word) : Nat := wfield d 4 10 10
def launchTilek (d : List Word) : Nat := wfield d 4 0 10
/-- SEED (R109). -/
def launchSeedOf (d : List Word) : DWord := wpair d 8
/-- STATEFUL. -/
def launchStateful (d : List Word) : Bool := (wordAt d 3).getLsbD 11
/-- SROLE and SSTREAM. -/
def launchSrole (d : List Word) : Nat := wfield d 15 14 2
def launchStream (d : List Word) : Nat := wfield d 15 16 16

/-- A QBIND value with a reserved KIND or bits that its KIND does not use (R412). -/
def qbindBad (x : Word) : Bool :=
  let kind := wfield [x] 0 28 4
  decide (4 < kind) || decide (wfield [x] 0 26 2 ≠ 0)
    || (kind == 0 && decide (wfield [x] 0 0 26 ≠ 0)) || ((kind == 2 || kind == 3) && decide (wfield [x] 0 6 20 ≠ 0))
    || (kind == 4 && decide (wfield [x] 0 4 22 ≠ 0))

/-- A reserved field of a descriptor is not 0 (R355; DEDUCED, log 73). -/
def launchReserved (d : List Word) : Bool :=
  decide (wfield d 3 5 3 ≠ 0) || decide (wfield d 4 20 3 ≠ 0) || decide (wfield d 5 12 20 ≠ 0) || decide (wfield d 5 2 2 ≠ 0)
    || decide (wfield d 12 0 17 ≠ 0) || decide (wfield d 15 12 2 ≠ 0) || decide (wfield d 15 3 4 ≠ 0)
    || (d.drop 36).any (fun x => x != 0) || ((List.range 8).any (fun k => qbindBad (wordAt d (20 + k))))

/-- The conditions of R356 that the descriptor alone decides (DEDUCED, log 73). -/
def launchBad (d : List Word) : Bool :=
  decide (launchWpt d = 0) || decide (16 < launchWpt d) || decide (launchRegs8 d = 0) || decide (32 < launchRegs8 d)
    || decide (launchUni8 d = 0) || decide (256 < launchScrk d) || decide (256 < launchTilek d)
    || decide (8 * launchUni8 d < wfield d 12 17 6) || decide (256 < wfield d 12 23 9) || decide (4 < wfield d 15 0 3)
    || (!(wordAt d 15).getLsbD 7 && (decide (wfield d 15 8 4 < 2) || decide (8 < wfield d 15 8 4)))
    || decide (launchSrole d = 3) || (decide (launchSrole d ≠ 0) && decide (launchStream d = 0))
    || (launchStateful d && (wpair d 32 == 0 || wpair d 34 == 0))

/-! ### Groups (R361, R362) -/

/-- Two groups share a task. -/
def Group.meets (a b : Group) : Bool :=
  a.ranges.any (fun x => b.ranges.any (fun y => decide (x.1 ≤ y.2) && decide (y.1 ≤ x.2)))

/-- Groups linked with those given, closed under sharing a task. -/
def linkGroups (fuel : Nat) (all got : List Group) : List Group :=
  match fuel with
  | 0 => got
  | n + 1 =>
    match all.find? (fun g => !got.contains g && got.any (Group.meets g)) with
    | none => got
    | some g => linkGroups n all (got ++ [g])

/-- A component: its tasks ascending, its span code (R362). -/
structure Comp where
  tasks : List Nat
  span : Nat

/-- The members of groups, ascending. -/
def membersOf (gs : List Group) : List Nat :=
  nub (sortBy (fun x => x) (gs.flatMap (fun g => g.ranges.flatMap (fun r => (List.range (r.2 + 1 - r.1)).map (fun i => r.1 + i)))))

/-- The component of a task (R362). -/
def compOf (groups : List Group) (task : Nat) : Comp :=
  let gs := groups.filter (fun g => !g.ranges.isEmpty)
  match gs.filter (fun g => g.has task) with
  | [] => ⟨[task], 0⟩
  | g :: rest =>
    let linked := linkGroups gs.length gs (g :: rest)
    ⟨membersOf linked, linked.foldl (fun m x => max m x.span) 0⟩

/-- The lowest task of a component. -/
def Comp.low (c : Comp) : Nat := c.tasks.headD 0

/-! ### Cores (R19, R364) -/

/-- A partition owns a cluster (R431). -/
def ownsCluster (p : Part) (c : Nat) : Bool := (wpair p.desc 0).getLsbD c

/-- The partition's lowest-numbered core, which holds its handler quadrant (R19). -/
def handlerCore (p : Part) : Nat := 4 * ((List.range 64).find? (ownsCluster p)).getD 0

/-- The handler quadrant of that core (DESIGN CHOICE, log 9). -/
def handlerQuadrant : Nat := 3

/-- The quadrants of a core that ordinary tasks use (DESIGN CHOICE, log 9). -/
def quadrantsOf (p : Part) (core : Nat) : List Nat := if core = handlerCore p then [0, 1, 2] else [0, 1, 2, 3]

/-- Cores eligible for a launch: of the partition, in CLMASK, not closed to it (R365, R384). -/
def eligibleCores (p : Part) (d : List Word) (uid : Nat) : List Nat :=
  (List.range 256).filter (fun c => ownsCluster p (c / 4) && (wpair d 18).getLsbD (c / 4) && !p.vacated.contains (c, uid))

/-- Warps of an allocation that one quadrant holds (R21). -/
def quadrantHolds (regs8 : Nat) : Nat := min 16 (131072 / (8 * regs8 * 128))

/-- k_c (R364). -/
def coreCapacity (p : Part) (d : List Word) (core : Nat) : Nat :=
  let q := (quadrantsOf p core).length
  let w := launchWpt d
  let wq := quadrantHolds (launchRegs8 d)
  if wq < (w + q - 1) / q then 0 else
  let k := q * wq / w
  let k := if launchScrk d = 0 then k else min k (256 / launchScrk d)
  if launchTilek d = 0 then k else min k (256 / launchTilek d)

/-- The unit of a span a core lies in (R363). -/
def unitOf (span core : Nat) : Nat :=
  match span with
  | 1 => core / 128
  | 2 => core / 4
  | 3 => core
  | _ => 0

/-- A component fits on empty cores (R363). -/
def compFits (p : Part) (d : List Word) (cores : List Nat) (c : Comp) : Bool :=
  cores.any (fun x => decide (c.tasks.length ≤
    (cores.filter (fun y => unitOf c.span y == unitOf c.span x)).foldl (fun n y => n + coreCapacity p d y) 0))

/-- What the group table and its lists break (R356, R361, R363). -/
def groupsBad (p : Part) (d : List Word) (uid : Nat) (groups : List Group) : Bool :=
  let cores := eligibleCores p d uid
  groups.any (fun g => g.ranges.any (fun r => decide (r.2 < r.1) || decide (launchTasks d ≤ r.2)))
    || (nub (groups.flatMap (fun g => g.ranges.flatMap (fun r => [r.1, r.2])))).any (fun t => decide (4 < groups.countP (fun g => g.has t)))
    || groups.any (fun g => (g.ranges.head?).any (fun r => !compFits p d cores (compOf groups r.1)))

/-! ### The espalier assignment (R365) -/

/-- Room left on a core. -/
def capAt (cap : List (Nat × Nat)) (c : Nat) : Nat := ((cap.find? (fun x => x.1 == c)).map (·.2)).getD 0

/-- Take n places on cores in an order. -/
def takeCores (n : Nat) (order : List Nat) (cap : List (Nat × Nat)) : List Nat × List (Nat × Nat) :=
  match n with
  | 0 => ([], cap)
  | k + 1 =>
    match order.find? (fun c => decide (0 < capAt cap c)) with
    | none => ([], cap)
    | some c =>
      let r := takeCores k order (cap.map (fun x => if x.1 = c then (c, x.2 - 1) else x))
      (c :: r.1, r.2)

/-- The cores in the order of a probe from position j. -/
def probeOrder (cores : List Nat) (j : Nat) : List Nat := cores.drop j ++ cores.take j

/-- Put one component on cores: the first unit in probe order with room for all of it; a new wave where there is none. -/
def assignComp (cores : List Nat) (k : Nat → Nat) (j0 : Nat) (c : Comp) (cap : List (Nat × Nat)) : List Nat × List (Nat × Nat) :=
  let order := probeOrder cores j0
  let fits (cap : List (Nat × Nat)) (x : Nat) : Bool :=
    decide (c.tasks.length ≤ (cores.filter (fun y => unitOf c.span y == unitOf c.span x)).foldl (fun n y => n + capAt cap y) 0)
  let cap := if order.any (fits cap) then cap else cap.map (fun x => (x.1, x.2 + k x.1))
  match order.zipIdx.find? (fun x => fits cap x.1) with
  | none => ([], cap)
  | some (x, i) => takeCores c.tasks.length ((probeOrder order i).filter (fun y => unitOf c.span y == unitOf c.span x)) cap

/-- The start of a probe (R365, R373). -/
def probeStart (seed : DWord) (a b c : Word) (n : Nat) : Nat :=
  ((gkc (cat2 seed 0x45535041_4C494552) (cat4 a b c 0)).setWidth 32).toNat % max 1 n

/-- The draw of a launch: its eligible cores, its components, the tasks that take no part in it (R365, R385). -/
structure Draw where
  cores : List Nat
  k : Nat → Nat
  seed : DWord
  groups : List Group
  past : List Nat

/-- The assignments up to task g and the room they leave: earlier ones first. -/
def drawFrom (n : Nat) (dr : Draw) : List (Nat × Nat) × List (Nat × Nat) :=
  match n with
  | 0 => ([], dr.cores.map (fun c => (c, 0)))
  | g + 1 =>
    let r := drawFrom g dr
    let comp := compOf dr.groups g
    if comp.low ≠ g ∨ comp.tasks.any (fun t => dr.past.contains t) then r else
    let a := assignComp dr.cores dr.k (probeStart dr.seed (BitVec.ofNat 32 g) 0 0 dr.cores.length) comp r.2
    (r.1 ++ comp.tasks.zip a.1, a.2)

/-- The draw of a launch in use. -/
def drawOf (p : Part) (l : Launch) : Draw :=
  { cores := eligibleCores p l.desc l.uid, k := coreCapacity p l.desc, seed := launchSeedOf l.desc, groups := l.groups, past := l.drawn }

/-- The cores of the component of a task, and every assignment made before it. -/
def assigned (p : Part) (l : Launch) (task : Nat) : List (Nat × Nat) × List (Nat × Nat) :=
  let comp := compOf l.groups task
  let all := (drawFrom (comp.low + 1) (drawOf p l)).1
  (all.filter (fun x => comp.tasks.contains x.1), all.filter (fun x => !comp.tasks.contains x.1))

/-! ### Room on a core (R364) -/

/-- Warps in a quadrant. -/
def quadrantWarps (s : State) (core q : Nat) : List Warp := s.warps.filter (fun w => w.core == core && w.quadrant == q)

/-- One more warp goes to the quadrant with the fewest occupied places, among those that hold fewer than the bound of this task and
have room for it. taken: the quadrants that the task's earlier warps went to. -/
def nextQuadrant (s : State) (qs : List Nat) (core regs8 bound : Nat) (taken : List (Nat × Nat)) : Option Nat :=
  let mine (q : Nat) : Nat := taken.countP (fun x => x == (core, q))
  let full (q : Nat) : Bool :=
    let ws := quadrantWarps s core q
    decide (16 ≤ ws.length + mine q) || decide (131072 < ws.foldl (fun n w => n + 1024 * w.regs8) 0 + 1024 * regs8 * (mine q + 1))
  let open_ := qs.filter (fun q => !full q && decide (mine q < bound))
  let load (q : Nat) : Nat := (quadrantWarps s core q).length + mine q
  match open_ with
  | [] => none
  | q :: rest => some (rest.foldl (fun a b => if load b < load a then b else a) q)

/-- Quadrants for the n warps of a task on a core, after places already taken; none where there is no room. -/
def quadrantsFor (n : Nat) (s : State) (p : Part) (core regs8 bound : Nat) (taken : List (Nat × Nat)) : Option (List Nat) :=
  match n with
  | 0 => some []
  | k + 1 =>
    match nextQuadrant s (quadrantsOf p core) core regs8 bound taken with
    | none => none
    | some q => (quadrantsFor k s p core regs8 bound ((core, q) :: taken)).map (fun qs => q :: qs)

/-- Scratchpad and tile-store KiB in use on a core. -/
def coreUse (s : State) (core : Nat) : Nat × Nat :=
  (s.tasks.filter (fun t => t.core == core)).foldl (fun n t => (n.1 + t.scrk, n.2 + t.tilek)) (0, 0)

/-- The quadrants of a task of n warps on a core that has room for it; the launch's WPT bounds how many warps a quadrant takes (R364). -/
def taskRoom (s : State) (p : Part) (d : List Word) (core n : Nat) : Option (List Nat) :=
  let u := coreUse s core
  let q := (quadrantsOf p core).length
  if 256 < u.1 + launchScrk d ∨ 256 < u.2 + launchTilek d then none
  else quadrantsFor n s p core (launchRegs8 d) ((launchWpt d + q - 1) / q) []

/-- Free places of a quadrant, lowest first: WSLOT 16 q + i (DESIGN CHOICE, log 57). -/
def freePlace (s : State) (core q : Nat) : Nat :=
  16 * q + (lowestFree 16 ((quadrantWarps s core q).map (fun w => w.place % 16))).getD 0

/-! ### What LAUNCH reads (R355) -/

/-- Who issues a launch: whose access, in which realm; the tree it joins; the priority it may not exceed. -/
structure Issuer where
  who : Who
  realm : Nat
  tree : Option Nat
  cap : Option Nat
  warp : Nat
  task : Nat
  ident : Ident
  pc : DWord
  clock : Clock

/-- What LAUNCH found. -/
structure Asked where
  desc : List Word
  off : DWord
  args : List Word
  groups : List Group
  lists : List (Nat × Nat × Nat)
  deps : List Dependence
  counter : CounterRef
  prec : Option Nat
  reads : List Place

/-- Raise LAUNCH_INVALID. -/
def launchInvalid (i : Issuer) (off : DWord) (bad : Bool) : Xl Unit :=
  orRaise (if bad then some (raiseIn .launchInvalid i.realm off) else none)

/-- Raise MISALIGNED. -/
def launchAligned (i : Issuer) (off : DWord) (n : Nat) : Xl Unit :=
  orRaise (if off.toNat % n ≠ 0 then some (raiseIn .misaligned i.realm off) else none)

/-- Words that LAUNCH loads; no destination lock covers them (R248). -/
def launchWords (s : State) (i : Issuer) (off : DWord) (n : Nat) : Xl (List Word × List Place) := do
  let r ← readLocalPieces (n / 4 + 3) s i.who i.realm off n
  readFree s i.who.part i.realm off r.2
  .ok r

/-- Bytes of the list of a group table entry (R361). -/
def listBytes (e : List Word) : Nat := if (wordAt e 0).getLsbD 1 then ((wordAt e 1).toNat + 7) / 8 else 8 * (wordAt e 1).toNat

/-- A group table entry that breaks R361 without its list. -/
def groupEntryBad (e : List Word) : Bool :=
  !(wordAt e 0).getLsbD 1 && (decide (4096 < (wordAt e 1).toNat) || wordAt e 2 != 0)

/-- A reserved field of a group table entry. -/
def groupReserved (e : List Word) : Bool :=
  decide (wfield e 0 4 28 ≠ 0) || (wordAt e 0).getLsbD 0 || wordAt e 3 != 0 || wordAt e 6 != 0 || wordAt e 7 != 0

/-- The lists of a group table, translated as the source of a command: group, physical address, bytes (R241, R355). -/
def launchLists (s : State) (i : Issuer) (es : List (List Word)) : Xl (List (Nat × Nat × Nat)) :=
  es.zipIdx.foldr (fun x acc => do
    let rest ← acc
    if listBytes x.1 = 0 then .ok rest else do
      launchAligned i (wpair x.1 4) 8
      let ps ← routes s i.who { local_ := true } i.realm (wpair x.1 4) (listBytes x.1)
      orRaise (declaredPieces s i.realm (wpair x.1 4) ps)
      .ok ((localRanges ps).map (fun r => (x.2, r.1, r.2 - r.1)) ++ rest)) (.ok [])

/-- The dependences of a list (R359). -/
def launchDeps (s : State) (i : Issuer) (ws : List Word) (n : Nat) : Xl (List Dependence) :=
  (List.range n).foldr (fun k acc => do
    let rest ← acc
    match ← counterAt s i.who false 6 i.realm (wpair ws (4 * k)) with
    | .home a => .ok ({ addr := a, target := wpair ws (4 * k + 2) } :: rest)
    | .peer .. => .error (realmFault 4 i.realm (wpair ws (4 * k)))
    | .ether .. => .error (realmFault 4 i.realm (wpair ws (4 * k)))) (.ok [])

/-- The placement record as the destination of a store (R367). -/
def launchPrec (s : State) (i : Issuer) (off : DWord) : Xl (Option Nat) := do
  if off = 0 then .ok none else do
    launchAligned i off 64
    match ← translate s i.who { write := true, local_ := true } i.realm off 48 with
    | .mem a _ =>
      match sealedAt s a with
      | some ed => .error { raiseIn .sealedWrite i.realm off with d17 := ed }
      | none =>
        if meetsLock s i.who.part a (a + 48) false || meetsDeclared s a (a + 48) then .error (raiseIn .rangeLock i.realm off) else .ok (some a)
    | .peer .. => .error (realmFault 4 i.realm off)
    | .ether .. => .error (realmFault 4 i.realm off)

/-- The completion counter (R356). -/
def launchCounter (s : State) (i : Issuer) (off : DWord) (d : List Word) : Xl CounterRef :=
  if (wordAt d 15).getLsbD 7 then .ok .none else
  let code := wfield d 15 8 4
  match counterAt s i.who true 8 i.realm (wpair d 16) with
  | .error t => .error t
  | .ok (.peer st ap o) => if code < 7 then .error (raiseIn .launchInvalid i.realm off) else .ok (.peer st ap o)
  | .ok (.home a) => .ok (.local a)
  | .ok (.ether p st wn o) => if code < 8 then .error (realmFault 6 i.realm (wpair d 16)) else .ok (.ether p st wn o)

/-- The lists that take source locks: those with some bytes (R247, R355). -/
def Asked.listCount (a : Asked) : Nat := (nub (a.lists.map (·.1))).length

/-- The source locks of a launch's group lists, each list a range of its own (R247, R355). -/
def listLocks (s : State) (w : Warp) (a : Asked) (holder first : Nat) : List Lock :=
  a.lists.zipIdx.map (fun x => memLock s w x.1.2.1 (x.1.2.1 + x.1.2.2) false holder x.1.1 (first + x.2))

/-- Read and check a launch descriptor and what it points to, the group lists apart (R355, R356). uid: the identity it will have
(DEDUCED, log 73). -/
def launchRead (s : State) (i : Issuer) (off : DWord) (uid : Nat) : Xl Asked := do
  launchAligned i off 64
  let (d, r0) ← launchWords s i off 48
  orRaise (if launchReserved d then some (raiseIn .reservedField i.realm off) else none)
  launchInvalid i off (launchBad d)
  let nargs := wfield d 12 17 6
  let ngroups := wfield d 12 23 9
  let ndep := wfield d 15 0 3
  launchAligned i (wpair d 10) 4
  launchAligned i (wpair d 13) 32
  launchAligned i (wpair d 28) 16
  let (args, r1) ← launchWords s i (wpair d 10) nargs
  let (gs, r2) ← launchWords s i (wpair d 13) (8 * ngroups)
  let (ds, r3) ← launchWords s i (wpair d 28) (4 * ndep)
  let es := (List.range ngroups).map (fun k => (gs.drop (8 * k)).take 8)
  orRaise (if es.any groupReserved then some (raiseIn .reservedField i.realm off) else none)
  launchInvalid i off (es.any groupEntryBad || decide (2 ^ 20 < es.foldl (fun n e => n + listBytes e) 0))
  let lists ← launchLists s i es
  let deps ← launchDeps s i ds ndep
  let ctr ← launchCounter s i off d
  let prec ← launchPrec s i (wpair d 30)
  match s.part? i.who.part with
  | none => .error (raiseIn .launchInvalid i.realm off)
  | some p =>
    launchInvalid i off ((eligibleCores p d uid).all (fun c => coreCapacity p d c == 0))
    .ok { desc := d, off := off, args := args,
          groups := es.map (fun e => { span := wfield e 0 2 2, ranges := if (wordAt e 0).getLsbD 1 then [((wordAt e 2).toNat, (wordAt e 1).toNat)] else [] }),
          lists := lists, deps := deps, counter := ctr, prec := prec, reads := r0 ++ r1 ++ r2 ++ r3 }

/-- The lowest free launch record of a partition (R358). -/
def freeRecord? (s : State) (part : Nat) : Option Nat := lowestFree 512 ((s.launches.filter (fun l => l.part == part)).map (·.num))

/-- A launch as it is issued (R31, R32, R360). -/
def newLaunch (i : Issuer) (a : Asked) (num uid : Nat) (grid : Option Word) (locks : List Nat) : Launch where
  num := num
  uid := uid
  part := i.who.part
  phase := .issued
  control := false
  desc := a.desc
  descOff := a.off
  realm := i.realm
  args := a.args
  groups := a.groups
  lists := a.lists
  deps := a.deps
  counter := a.counter
  scope := if (wordAt a.desc 15).getLsbD 7 then 6 else wfield a.desc 15 8 4
  prio := match i.cap with
    | none => wfield a.desc 3 13 3
    | some p => min p (wfield a.desc 3 13 3)
  det := (wordAt a.desc 3).getLsbD 12 || i.tree.isSome
  inherit := i.tree.isSome && !(wordAt a.desc 3).getLsbD 12
  tree := if (wordAt a.desc 3).getLsbD 12 || i.tree.isSome then i.tree.getD uid else 0
  path := i.who.path
  grid := grid
  issuer := i.warp
  issuerTask := i.task
  who := i.ident
  issuerPc := i.pc
  readyAt := 0
  order := 0
  started := []
  drawn := []
  saved := []
  barriers := []
  prec := a.prec
  precStarted := false
  waiting := []
  precOwed := []
  redraws := 0
  clock := i.clock
  endClock := []
  locks := locks

/-- A warp as the issuer of a launch (R31, R32, R360). -/
def warpIssuer (s : State) (w : Warp) (f : Frag) (rsel : Nat) : Issuer where
  who := w.who
  realm := w.realmOf rsel
  tree := if w.det then some (treeOf s w) else none
  cap := if w.level = 0 then some (((s.launchOf w).map (·.prio)).getD 7) else none
  warp := w.id
  task := w.task
  ident := w.ident
  pc := f.pc
  clock := f.clock

/-! ### Reading group lists (R355, R361) -/

/-- The ranges of a bitmap: bit b stands for task first + b. -/
def bitmapRanges (first bits : Nat) (bs : List Byte) : List (Nat × Nat) :=
  ((List.range bits).filter (fun b => (bs.getD (b / 8) 0).getLsbD (b % 8))).map (fun b => (first + b, first + b))

/-- The ranges of a list of ranges. -/
def listRanges (bs : List Byte) : List (Nat × Nat) :=
  (List.range (bs.length / 8)).map (fun k => (bytesVal ((bs.drop (8 * k)).take 4), bytesVal ((bs.drop (8 * k + 4)).take 4)))

/-- The groups of a launch with their lists read; before, a bitmap's first task and bits stand in its place. -/
def readGroups (s : State) (l : Launch) : List Group :=
  l.groups.zipIdx.map (fun x =>
    let bs := (l.lists.filter (fun y => y.1 == x.2)).flatMap (fun y => viewBytes s ⟨l.part, l.path, []⟩ (memPlace y.2.1) y.2.2)
    match x.1.ranges with
    | [] => { x.1 with ranges := listRanges bs }
    | r :: _ => { x.1 with ranges := bitmapRanges r.1 r.2 bs })

/-- A launch with its groups, where its table names no list (R361). -/
def withGroups (s : State) (l : Launch) : Launch := if l.lists.isEmpty then { l with groups := readGroups s l } else l

/-- The groups of a launch whose table names no list are refused (R356). -/
def groupsRefused (s : State) (l : Launch) : Bool :=
  l.lists.isEmpty && !(s.part? l.part).any (fun p => !groupsBad p l.desc l.uid l.groups)

/-! ### Warps at their start (R20, R357, R374) -/

/-- What a starting warp takes from outside its launch. -/
structure Start where
  task : Nat
  warpid : Nat
  core : Nat
  quadrant : Nat
  place : Nat
  pc : DWord
  mask : LaneMask
  taskid : Word
  spawnix : Word
  uregs : Sparse 32
  vregs : Sparse 32
  path : Path
  clock : Clock

/-- Registers at warp start. -/
def startRegs (d : List Word) (f : Frag) (u v : Sparse 32) : Regs where
  v := v
  u := u
  p := []
  mm := List.replicate 8 (BitVec.allOnes 64)
  realm := [(wordAt d 6).setWidth 16, (wordAt d 6 >>> 16).setWidth 16, (wordAt d 7).setWidth 16, (wordAt d 7 >>> 16).setWidth 16]
  fpstat := 0
  fpctl := BitVec.ofNat 32 (wfield d 5 0 11)
  role := 0
  stream := []
  draw := []
  biscnt := []
  spcnt := 0
  qbind := (List.range 8).map (fun k => wordAt d (20 + k))
  frags := [f]
  splits := []
  tags := []
  poisonV := []
  poisonU := []
  sib := []

/-- The single fragment of a starting warp. -/
def startFrag (id : Nat) (now cycle : Nat) (x : Start) : Frag where
  id := 0
  mask := x.mask
  pc := x.pc
  pid := 0
  part := 4
  last := cycle
  held := false
  park := .run
  since := now
  yields := false
  ask := none
  clock := clockRaise x.clock (threadOf id 0) 1

/-- A warp of a launch at its start (R357, R374). -/
def startWarp (s : State) (l : Launch) (level id : Nat) (x : Start) : Warp where
  id := id
  task := x.task
  warpid := x.warpid
  place := x.place
  quadrant := x.quadrant
  core := x.core
  part := l.part
  level := level
  hnd := false
  launch := l.num
  taskid := x.taskid
  spawnix := x.spawnix
  path := x.path
  detctl := BitVec.ofNat 32 ((if l.det then 1 else 0) + 2 * wfield l.desc 5 11 1 + (if l.inherit then 4 else 0))
  crealm := BitVec.ofNat 16 (wfield l.desc 3 16 16)
  regs8 := launchRegs8 l.desc
  uni8 := launchUni8 l.desc
  regs := startRegs l.desc (startFrag id s.dev.wall.toNat s.model.cycle x) x.uregs x.vregs
  chunk := Chunk.fresh
  inflight := []
  holds := []
  endPc := none
  mode := .run
  pending := []
  drainFlags := []
  passFlags := []
  clock := 0
  timer := 0
  squashes := 0
  squashPc := 0
  prio := false
  firstSquash := 0
  stepping := false
  eclass := wfield l.desc 3 8 3
  ecounted := wfield l.desc 3 8 3
  stallUntil := 0
  nextSeq := 0
  nextFrag := 1
  clean := none
  dirty := []
  wave := 0
  waveDone := 0
  waveAsk := none
  tileBusy := []

/-- The uniform registers of a launch's warps: the argument words; a grid's s0 holds the predicted value (R357). -/
def startUregs (l : Launch) : Sparse 32 :=
  let args := l.args.zipIdx.foldl (fun m x => cellSet m x.2 x.1) ([] : Sparse 32)
  match l.grid with
  | none => args
  | some b => cellSet args 0 b

/-- A task at its start (R26). -/
def startTask (l : Launch) (id index : Nat) (spawnix : Word) (spawned : Bool) (n core : Nat) (path : Path) : Task where
  id := id
  launch := l.num
  handler := none
  part := l.part
  index := BitVec.ofNat 32 index
  spawnix := spawnix
  spawned := spawned
  record := none
  warps := n
  core := core
  path := path
  scrk := launchScrk l.desc
  tilek := launchTilek l.desc
  scratch := []
  tile := []
  carve := []
  windows := []
  cbars := List.replicate 16 { e := 0, roles := 0, count := 0, gen := 0, clock := [], next := [] }
  barrier := { group := none, gen := 0, arrived := [], clock := [], next := [] }
  exited := []
  waveClock := []
  phase := 0
  phaseAt := 0

end Sys2Proof.Machine
end

