-- ==== Sys2Proof/Machine/Context.lean ====
section
/-! DEFINITION. Context slots (R476 to R482, R522): where the trap and context areas lie, how a warp's state is laid out in a slot, and
how a restore reads it back. -/

namespace Sys2Proof.Machine

/-! ### The areas (R469, R476) -/

/-- The physical address of a byte of an area, and how many bytes follow it in its piece. -/
def areaAt (area : List (Nat × Nat × Nat)) (off : Nat) : Option (Nat × Nat) :=
  (area.find? (fun x => decide (x.1 ≤ off) && decide (off < x.1 + x.2.1))).map (fun x => (x.2.2 + (off - x.1), x.1 + x.2.1 - off))

/-- Bytes for an area as cells of memory; bytes outside it have no place. -/
def areaCells (area : List (Nat × Nat × Nat)) (off : Nat) (bs : List Byte) : List (Place × Byte) :=
  bs.zipIdx.filterMap (fun x => (areaAt area (off + x.2)).map (fun a => (memPlace a.1, x.1)))

/-- A word of an area, as the root version holds it. -/
def areaWord (s : State) (area : List (Nat × Nat × Nat)) (off : Nat) : Word :=
  match areaAt area off with
  | none => 0
  | some a => rootWord s (a.1 / 4)

/-- A word of an area holds poison. -/
def areaPoison (s : State) (area : List (Nat × Nat × Nat)) (off : Nat) : Bool :=
  !s.order.poison.isEmpty && (areaAt area off).any (fun a => s.order.poison.contains (memPlace (a.1 / 4 * 4)))

/-- Bytes of words. -/
def wordsBytes (ws : List Word) : List Byte := ws.flatMap (fun w => valBytes 4 w.toNat)

/-- Write words to an area in the root version, at a position of their own, with their poison. -/
def areaWrite (part : Nat) (area : List (Nat × Nat × Nat)) (off : Nat) (ws : List (Word × Bool)) : State → List Upd :=
  applyCells ⟨part, 0, false, 0, none⟩ (areaCells area off (wordsBytes (ws.map (·.1))))
    (ws.zipIdx.filterMap (fun x => (areaAt area (off + 4 * x.2)).map (fun a => (memPlace a.1, x.1.2))))

/-- A partition's cores, ascending. -/
def partCores (p : Part) : List Nat := (List.range 256).filter (fun c => ownsCluster p (c / 4))

/-- Bytes of a slot, of a core region. -/
def slotBytes : Nat := 36864
def coreRegion : Nat := 3145728

/-- The slot of a warp's place, as an offset in the context area (R476). -/
def placeSlot (p : Part) (core place : Nat) : Nat := coreRegion * (partCores p).idxOf core + slotBytes * place

/-- Slot k of the pre-emption pool. -/
def poolSlot (p : Part) (k : Nat) : Nat := coreRegion * (partCores p).length + slotBytes * k

/-- Slots of the pool (R476). -/
def poolSize (p : Part) : Nat := 64 * wfield [p.ctxctl] 0 8 8

/-- Bytes of the context area. -/
def ctxBytes (p : Part) (ctl : Word) : Nat := coreRegion * (partCores p).length + slotBytes * 64 * wfield [ctl] 0 8 8

/-- TRAPCTL.DREALM and TRAPCTL.CREALM (R470). -/
def trapDrealm (p : Part) : Nat := wfield [p.trapctl] 0 16 16
def trapCrealm (p : Part) : Nat := wfield [p.trapctl] 0 0 16

/-- Pieces of an area as translated for the supervisor; none where a page does not translate (R476). -/
def translateArea (s : State) (p : Part) (off : DWord) (len : Nat) : Option (List (Nat × Nat × Nat)) :=
  match routes s { part := p.num, user := false, path := 0, own := [] } { write := true, local_ := true } (trapDrealm p) off len with
  | .error _ => none
  | .ok ps => some (ps.filterMap (fun x => match x.route with
      | .mem a _ => some (x.at_, x.len, a)
      | .peer .. => none
      | .ether .. => none))

/-- Both areas as a write of VALID = 1 with this CTXCTL translates them. -/
def areasFor (s : State) (p : Part) (ctl : Word) : Option (List (Nat × Nat × Nat) × List (Nat × Nat × Nat)) :=
  match translateArea s p p.trapbase 262144, translateArea s p p.ctxbase (ctxBytes p ctl) with
  | some a, some b => some (a, b)
  | _, _ => none

/-! ### A fragment's entry (R478, R522) -/

/-- Wait kind, wait form and wait record: object, target, continuation (DEDUCED, log 32). -/
def parkFields (k : Park) : Nat × Nat × Nat × Nat × Nat :=
  match k with
  | .run => (0, 0, 0, 0, 0)
  | .join => (0, 0, 0, 0, 0)
  | .bar (.group _ g) gen _ => (2, 0, g, gen, 0)
  | .bar (.task _) gen _ => (2, 4, 0, gen, 0)
  | .barq .. => (0, 0, 0, 0, 0)
  | .barWait (.group _ g) gen => (2, 1, g, gen, 0)
  | .barWait (.task _) gen => (2, 5, 0, gen, 0)
  | .cbWait cb gen => (2, 2 + 8 * cb, 0, gen, 0)
  | .counter rsel off target cont _ _ => (1, rsel + (if cont.isSome then 4 else 0), off.toNat, target.toNat, (cont.getD 0).toNat)
  | .sleep wake => (3, 0, 0, wake, 0)

/-- The four words of a fragment entry (R478; DEDUCED, log 32). -/
def fragWords (f : Frag) : List Word :=
  let k := parkFields f.park
  let flags := 1 + (if f.held then 2 else 0) + (if f.park = .join then 4 else 0) + 8 * k.1
  [f.mask, lowWord f.pc, highWord f.pc, BitVec.ofNat 32 (f.pid + 2 ^ 8 * f.part.toNat + 2 ^ 16 * flags + 2 ^ 24 * k.2.1)]

/-- The six words of a wait record (R522). -/
def waitWords (f : Frag) : List Word :=
  let k := parkFields f.park
  [k.2.2.1, k.2.2.2.1, k.2.2.2.2].flatMap (fun x => [BitVec.ofNat 32 x, BitVec.ofNat 32 (x / 2 ^ 32)])

/-- The two words of a split record. -/
def splitWords (r : SplitRec) : List Word := [r.lanes, BitVec.ofNat 32 (r.outer + 2 ^ 8)]

/-! ### Saving (R478, R479) -/

/-- Pad a list of words with zeros to n. -/
def padWords (n : Nat) (ws : List Word) : List Word := ws ++ List.replicate (n - ws.length) 0

/-- Words 0x000 to 0x03F: the header. -/
def slotHeader (w : Warp) (t : Task) (kind : Nat) (gen : Word) (pc : DWord) (poison : Bool) : List Word :=
  let n (k : Nat) : Word := BitVec.ofNat 32 k
  padWords 16
    [0x43545843,
     n (2 ^ 24 + 0x20 * 2 ^ 16 + w.regs8 * 2 ^ 10 + w.uni8 * 2 ^ 7 + (if w.hnd then 32 else 0) + (if w.stepping then 16 else 0)
        + (if poison then 4 else 0) + kind),
     n (t.scrk * 2 ^ 10 + t.tilek), gen, lowWord pc, highWord pc, lowWord w.clock, highWord w.clock, lowWord w.timer, highWord w.timer,
     w.taskid, n ((if w.hnd then 0 else w.launch * 2 ^ 23) + w.warpid * 2 ^ 19 + w.place * 2 ^ 8 + w.core), w.spawnix]

/-- Words 0x040 to 0x0FF. -/
def slotSettings (w : Warp) : List Word :=
  let r := w.regs
  let q (k : Nat) : Word := r.qbind.getD k 0
  let rl (k : Nat) : Nat := (r.realm.getD k 0).toNat
  padWords 48
    ([r.fpstat, r.fpctl, r.role, w.detctl, w.path.setWidth 32, r.spcnt, BitVec.ofNat 32 w.level, 0] ++ (List.range 8).map q
      ++ [BitVec.ofNat 32 (rl 0 + 2 ^ 16 * rl 1), BitVec.ofNat 32 (rl 2 + 2 ^ 16 * rl 3)]
      ++ (List.range 8).flatMap (fun k => [lowWord (r.mm.getD k 0), highWord (r.mm.getD k 0)]))

/-- Words 0x100 to 0x2FF: STREAM, DRAW, BISCNT by lane. -/
def slotStreams (r : Regs) : List Word :=
  (List.range 32).flatMap (fun l => [lowWord (cellGet r.stream l), highWord (cellGet r.stream l), cellGet r.draw l, cellGet r.biscnt l])

/-- Words 0x300 to 0x3FF: the split table. -/
def slotSplits (r : Regs) : List Word :=
  padWords 64 (padWords 36 (r.frags.flatMap fragWords)
    ++ (List.range 8).flatMap (fun k => match r.splits.find? (fun x => x.id == k + 1) with
      | none => [0, 0]
      | some x => splitWords x))

/-- Words 0x400 to 0x43F: predicates. -/
def slotPreds (r : Regs) : List Word :=
  padWords 16 ((List.range 7).flatMap (fun p =>
    let v := (List.range 32).foldl (fun n l => n + (cellGet r.p (32 * p + l)).toNat * 4 ^ l) 0
    [BitVec.ofNat 32 v, BitVec.ofNat 32 (v / 2 ^ 32)]))

/-- Words 0x440 to 0x51F with their poison: uniform registers. -/
def slotUniforms (r : Regs) : List (Word × Bool) := (List.range 56).map (fun k => (cellGet r.u k, r.poisonU.contains k))

/-- Words 0x520 to 0x5FF: wait records. -/
def slotWaits (r : Regs) : List Word := padWords 56 (r.frags.flatMap waitWords)

/-- The words of a vector bank with their poison (R478). -/
def slotBank (r : Regs) (b : Nat) : List (Word × Bool) :=
  (List.range 256).map (fun i => (cellGet r.v (256 * b + i), r.poisonV.contains (256 * b + i)))

/-- The fixed part of a slot: words 0x000 to 0x5FF. -/
def slotFixed (w : Warp) (t : Task) (kind : Nat) (gen : Word) (pc : DWord) : List (Word × Bool) :=
  let clean (ws : List Word) : List (Word × Bool) := ws.map (fun x => (x, false))
  clean (slotHeader w t kind gen pc (!w.regs.poisonV.isEmpty || !w.regs.poisonU.isEmpty)) ++ clean (slotSettings w) ++ clean (slotStreams w.regs)
    ++ clean (slotSplits w.regs) ++ clean (slotPreds w.regs) ++ slotUniforms w.regs ++ clean (slotWaits w.regs)

/-- The PC of the fragment that holds the lowest lane (R472). -/
def lowestPc (r : Regs) : DWord :=
  match sortBy (fun f => lowLane f.mask) r.frags with
  | [] => 0
  | f :: _ => f.pc

/-- The banks a save writes (R479): the dirty ones where the warp is clean for the slot, else every one. -/
def savedBanks (w : Warp) (slot : Nat) : List Nat :=
  if w.clean = some slot then (List.range w.regs8).filter (fun b => w.dirty.contains b) else List.range w.regs8

/-- Save a warp's state as of its last chunk end into a slot (R479). header: the PC the header holds (DEDUCED, log 32). -/
def saveSlot (wid slot kind : Nat) (header : Option DWord) (s : State) : List Upd :=
  match s.warp? wid with
  | none => []
  | some w =>
    match s.part? w.part, s.task? w.task with
    | some p, some t =>
      let gen := areaWord s p.ctxArea (slot + 12) + 1
      inOrder ([areaWrite p.num p.ctxArea slot (slotFixed w t kind gen (header.getD (lowestPc w.regs)))]
        ++ [areaWrite p.num p.ctxArea (slot + 0x8600) (List.replicate 640 (0, false))]
        ++ (savedBanks w slot).map (fun b => areaWrite p.num p.ctxArea (slot + 1536 + 1024 * b) (slotBank w.regs b))
        ++ [onWarp wid (fun v => { v with clean := some slot, dirty := [] })]) s
    | _, _ => []

/-- Copy one dirty bank of a warp into the slot it is clean for, and mark the slot PARTIAL (R480). -/
def saveBank (wid bank : Nat) (s : State) : List Upd :=
  match s.warp? wid with
  | none => []
  | some w =>
    match w.clean, s.part? w.part with
    | some slot, some p =>
      inOrder [areaWrite p.num p.ctxArea (slot + 1536 + 1024 * bank) (slotBank w.regs bank),
        areaWrite p.num p.ctxArea (slot + 4) [(areaWord s p.ctxArea (slot + 4) ||| 8, false)],
        onWarp wid (fun v => { v with dirty := v.dirty.filter (fun b => b != bank) })] s
    | _, _ => []

/-! ### Core state (R476, R483, DEDUCED, log 54) -/

/-- An offset in the context area lies in the core state of a core region. -/
def inCoreState (p : Part) (off : Nat) : Bool :=
  decide (off < coreRegion * (partCores p).length) && decide (64 * slotBytes ≤ off % coreRegion)

/-- What the core-state areas of a partition hold: the cells of memory there (DEDUCED, log 54). -/
def coreCells (s : State) (p : Part) : List (Nat × Byte) :=
  if p.ctxArea.isEmpty then [] else
  s.mem.filter (fun c => p.ctxArea.any (fun x => decide (x.2.2 ≤ c.1) && decide (c.1 < x.2.2 + x.2.1) && inCoreState p (x.1 + (c.1 - x.2.2))))

/-- The cores' state goes to their core-state areas: bytes whose layout the manual does not give. Its CRC covers what stands there then
(DEDUCED, log 54). -/
def saveCores (part : Nat) (s : State) : List Upd :=
  match s.part? part with
  | none => []
  | some p =>
    let cells := (Config.coreState s.model.free).filterMap (fun x =>
      if inCoreState p x.1 then (areaAt p.ctxArea x.1).map (fun a => (memPlace a.1, x.2)) else none)
    inOrder [applyCells ⟨part, 0, false, 0, none⟩ cells [], fun s => [.model { s.model with free := s.model.free + 1 }],
      fun s => onPart part (fun q => { q with cores := coreCells s p }) s] s

/-- The CRC of the core state holds: what was saved still stands there (DEDUCED, log 54). -/
def coresOk (s : State) (p : Part) : Bool := decide (coreCells s p = p.cores)

/-! ### Restoring (R479, R482, R522) -/

/-- A slot as a function from its byte offset to words. -/
def slotReader (s : State) (p : Part) (slot : Nat) (off : Nat) : Word := areaWord s p.ctxArea (slot + off)

/-- The header's checks against a warp (R480, R482). -/
def slotFits (w : Warp) (rd : Nat → Word) : Bool :=
  let h := [rd 0, rd 4, rd 8]
  rd 0 == 0x43545843 && wfield h 1 24 8 == 1 && wfield h 1 16 8 == 0x20 && wfield h 1 10 6 == w.regs8 && wfield h 1 7 3 == w.uni8
    && decide (wfield h 1 10 6 ≤ 32) && decide (wfield h 1 7 3 ≤ 7) && decide (wfield h 2 10 10 ≤ 256) && decide (wfield h 2 0 10 ≤ 256)
    && !(rd 4).getLsbD 3

/-- The pair of words at an offset. -/
def rdPair (rd : Nat → Word) (off : Nat) : DWord := pairOf (rd off) (rd (off + 4))

/-- A fragment entry's wait is well formed, whether the entry is valid or not (R522): no reserved kind, form or bit. -/
def waitOk (rd : Nat → Word) (i : Nat) : Bool :=
  let e := [rd (0x300 + 16 * i + 12)]
  let flags := wfield e 0 16 8
  let kind := flags / 8 % 8
  let form := wfield e 0 24 8
  let obj := rdPair rd (0x520 + 24 * i)
  let cont := rdPair rd (0x520 + 24 * i + 16)
  decide (flags < 64) && (match kind with
    | 0 => form == 0
    | 1 => decide (form < 8) && (form / 4 == 1 || cont == 0)
    | 2 =>
      decide (form < 128) && form % 4 != 3 && cont == 0
        && (if form % 4 = 2 then obj == 0
            else form / 8 == 0 && decide (obj.toNat < 256) && (form / 4 % 2 == 0 || obj == 0))
    | 3 => form == 0 && obj == 0 && cont == 0
    | _ => false)

/-- The barrier a restored fragment waits at. -/
def restoredBar (s : State) (w : Warp) (task : Bool) (g : Nat) : BarId :=
  if task then .task w.task else .group (((s.launchOf w).map (·.uid)).getD 0) g

/-- The record of a barrier: of a task, or of a launch's group; one that nothing has used yet stands at generation 0 (R416). -/
def barrierOf (s : State) (b : BarId) : Barrier :=
  let fresh : Barrier := { group := none, gen := 0, arrived := [], clock := [], next := [] }
  match b with
  | .task t => ((s.task? t).map (·.barrier)).getD fresh
  | .group uid g =>
    (((s.launches.find? (fun l => l.uid == uid)).bind (fun l => l.barriers.find? (fun x => x.group == some g)))).getD
      { fresh with group := some g }

/-- The wait that a slot gives a fragment (R522). -/
def restoredPark (s : State) (w : Warp) (rd : Nat → Word) (i : Nat) : Park :=
  let e := [rd (0x300 + 16 * i + 12)]
  let flags := wfield e 0 16 8
  let form := wfield e 0 24 8
  let obj := rdPair rd (0x520 + 24 * i)
  let target := rdPair rd (0x520 + 24 * i + 8)
  let b := restoredBar s w (form / 4 % 2 == 1) obj.toNat
  match flags / 8 % 8 with
  | 0 => if flags / 4 % 2 = 1 then .join else .run
  | 1 => .counter (form % 4) obj target (if form / 4 = 1 then some (rdPair rd (0x520 + 24 * i + 16)) else none) false s.dev.wall.toNat
  | 2 =>
    match form % 4 with
    | 0 => .bar b target.toNat (decide (target.toNat < (barrierOf s b).gen) || (barrierOf s b).arrived.contains w.id)
    | 1 => .barWait b target.toNat
    | _ => .cbWait (form / 8) target.toNat
  | _ => .sleep target.toNat

/-- The fragments that a slot gives a warp. -/
def restoredFrags (s : State) (w : Warp) (rd : Nat → Word) : List Frag :=
  ((List.range 9).filter (fun i => wfield [rd (0x300 + 16 * i + 12)] 0 16 1 == 1)).map (fun i =>
    let o := 0x300 + 16 * i
    let e := [rd (o + 12)]
    { id := w.nextFrag + i, mask := rd o, pc := rdPair rd (o + 4), pid := wfield e 0 0 8, part := BitVec.ofNat 3 (wfield e 0 8 3),
      last := s.model.cycle, held := wfield e 0 17 1 == 1, park := restoredPark s w rd i, since := s.dev.wall.toNat, yields := false, ask := none,
      clock := clockRaise (w.regs.frags.foldl (fun c f => clockJoin c f.clock) []) (threadOf w.id (w.nextFrag + i)) 1 })

/-- The split records that a slot gives a warp. -/
def restoredSplits (rd : Nat → Word) : List SplitRec :=
  ((List.range 8).filter (fun k => wfield [rd (0x390 + 8 * k + 4)] 0 8 1 == 1)).map (fun k =>
    { id := k + 1, lanes := rd (0x390 + 8 * k), outer := wfield [rd (0x390 + 8 * k + 4)] 0 0 8 })

/-- A store by key from the values of keys 0 to n - 1. -/
def denseCells {w : Nat} (n : Nat) (f : Nat → BitVec w) : Sparse w :=
  (List.range n).filterMap (fun k => if f k = 0 then none else some (k, f k))

/-- The registers that a slot gives a warp (R522). -/
def restoredRegs (s : State) (p : Part) (w : Warp) (slot : Nat) : Regs :=
  let rd := slotReader s p slot
  let poisoned (off : Nat) : Bool := areaPoison s p.ctxArea (slot + off)
  { v := denseCells (256 * w.regs8) (fun k => rd (0x600 + 4 * k))
    u := denseCells (8 * w.uni8) (fun k => rd (0x440 + 4 * k))
    p := denseCells 224 (fun k => BitVec.ofNat 2 ((rdPair rd (0x400 + 8 * (k / 32))).toNat / 4 ^ (k % 32)))
    mm := (List.range 8).map (fun k => rdPair rd (0x88 + 8 * k))
    realm := [(rd 0x80).setWidth 16, (rd 0x80 >>> 16).setWidth 16, (rd 0x84).setWidth 16, (rd 0x84 >>> 16).setWidth 16]
    fpstat := rd 0x40 &&& fpstatMask
    fpctl := rd 0x44 &&& fpctlMask
    role := rd 0x48 &&& 3
    stream := denseCells 32 (fun l => rdPair rd (0x100 + 16 * l))
    draw := denseCells 32 (fun l => rd (0x108 + 16 * l))
    biscnt := denseCells 32 (fun l => rd (0x10C + 16 * l))
    spcnt := rd 0x54
    qbind := (List.range 8).map (fun k => rd (0x60 + 4 * k) &&& 0xF3FFFFFF)
    frags := restoredFrags s w rd
    splits := restoredSplits rd
    tags := []
    poisonV := (List.range (256 * w.regs8)).filter (fun k => poisoned (0x600 + 4 * k))
    poisonU := (List.range (8 * w.uni8)).filter (fun k => poisoned (0x440 + 4 * k))
    sib := w.regs.sib }

/-- A restore's checks all pass (R480, R482, R522). -/
def slotOk (s : State) (p : Part) (w : Warp) (slot : Nat) : Bool :=
  let rd := slotReader s p slot
  slotFits w rd && (List.range 9).all (waitOk rd)

/-- Load a warp from a slot and let it run: THE RETURN from a trap (R494, R479). -/
def loadSlot (wid slot : Nat) (s : State) : List Upd :=
  match s.warp? wid with
  | none => []
  | some w =>
    match s.part? w.part with
    | none => []
    | some p =>
      let rd := slotReader s p slot
      andThen (leaveTrap wid (restoredRegs s p w slot))
        (onWarp wid (fun v => { v with
          clock := rdPair rd 0x18
          timer := rdPair rd 0x20
          stepping := (rd 4).getLsbD 4
          clean := some slot
          dirty := []
          nextFrag := v.nextFrag + 9 })) s

end Sys2Proof.Machine
end

