-- ==== Sys2Proof/Decode.lean ====
section
/-! DEFINITION. The decoder and the encoder of instruction slots (R36, R46 to R54, R70, R77) and of the line word (R37). A slot decodes to an
instruction exactly where it is that instruction's word; every other slot of an assigned opcode is refused as a reserved field. -/

namespace Sys2Proof

/-! ### The fields of a slot -/

/-- The fields of a slot (R46). -/
structure RawSlot where
  op : BitVec 10
  d : BitVec 8
  a : BitVec 8
  b : BitVec 8
  c : BitVec 8
  m : BitVec 18
  g : BitVec 3
  gs : BitVec 2
  stall : BitVec 3
  alloc : BitVec 3
  wait : BitVec 6
  u : BitVec 1
  y : BitVec 1
  sw : BitVec 1
  deriving DecidableEq, Repr

/-- Takes a slot apart (R46). -/
def rawOfSlot (w : Slot) : RawSlot where
  op := w.extractLsb' 70 10
  d := w.extractLsb' 62 8
  a := w.extractLsb' 54 8
  b := w.extractLsb' 46 8
  c := w.extractLsb' 38 8
  m := w.extractLsb' 20 18
  g := w.extractLsb' 17 3
  gs := w.extractLsb' 15 2
  stall := w.extractLsb' 12 3
  alloc := w.extractLsb' 9 3
  wait := w.extractLsb' 3 6
  u := w.extractLsb' 2 1
  y := w.extractLsb' 1 1
  sw := w.extractLsb' 0 1

/-- Puts a slot together (R46). -/
def slotOfRaw (r : RawSlot) : Slot :=
  r.op ++ r.d ++ r.a ++ r.b ++ r.c ++ r.m ++ r.g ++ r.gs ++ r.stall ++ r.alloc ++ r.wait ++ r.u ++ r.y ++ r.sw

/-- The bits of M whose lowest is word bit lo, w of them. -/
def mBits (r : RawSlot) (lo w : Nat) : BitVec w := r.m.extractLsb' (lo - 20) w

/-- Word bit k of M. -/
def mBit (r : RawSlot) (k : Nat) : Bool := r.m.getLsbD (k - 20)

/-- A value standing in M with its lowest bit at word bit lo. -/
def at_ (w : Nat) (v : BitVec w) (lo : Nat) : BitVec 18 := v.setWidth 18 <<< (lo - 20)

/-- A bit of M at word bit k. -/
def bitAt (b : Bool) (k : Nat) : BitVec 18 := at_ 1 (BitVec.ofBool b) k

/-! ### Code tables -/

/-- The one of a list whose code is v. -/
def byCode {α : Type} {w : Nat} (code : α → BitVec w) (xs : List α) (v : BitVec w) : Option α :=
  xs.find? (fun x => code x == v)

def codeGs (x : GuardSense) : BitVec 2 :=
  match x with
  | .always => 0 | .ifTrue => 1 | .ifFalse => 2 | .ifUndecided => 3
def gsOf (v : BitVec 2) : Option GuardSense := byCode codeGs [.always, .ifTrue, .ifFalse, .ifUndecided] v

def codeRnd (x : Rnd) : BitVec 3 :=
  match x with
  | .dyn => 0 | .rn => 1 | .rz => 2 | .rm => 3 | .rp => 4 | .ra => 5
def rndOf (v : BitVec 3) : Option Rnd := byCode codeRnd [.dyn, .rn, .rz, .rm, .rp, .ra] v

def codeFfmt (x : FFmt) : BitVec 4 :=
  match x with
  | .f32 => 0 | .f64 => 1 | .f16 => 2 | .bf16 => 3 | .f16x2 => 4 | .bf16x2 => 5
  | .e5m2 => 6 | .e4m3 => 7 | .e3m2 => 8 | .e2m3 => 9 | .e2m1 => 10
def ffmtOf (v : BitVec 4) : Option FFmt :=
  byCode codeFfmt [.f32, .f64, .f16, .bf16, .f16x2, .bf16x2, .e5m2, .e4m3, .e3m2, .e2m3, .e2m1] v

def codeIfmt (x : IFmt) : BitVec 4 :=
  match x with
  | .s32 => 0 | .u32 => 1 | .s16 => 2 | .u16 => 3 | .s8 => 4 | .u8 => 5 | .s4 => 6 | .u4 => 7
def ifmtOf (v : BitVec 4) : Option IFmt := byCode codeIfmt [.s32, .u32, .s16, .u16, .s8, .u8, .s4, .u4] v

def codePfmt (x : PFmt) : BitVec 4 :=
  match x with
  | .f32 => 0 | .f64 => 1 | .f16 => 2 | .bf16 => 3
def pfmtOf (v : BitVec 4) : Option PFmt := byCode codePfmt [.f32, .f64, .f16, .bf16] v

def codeIvfmt (x : IvFmt) : BitVec 4 :=
  match x with
  | .if32 => 0 | .if64 => 1 | .if16 => 2 | .ibf16 => 3
def ivfmtOf (v : BitVec 4) : Option IvFmt := byCode codeIvfmt [.if32, .if64, .if16, .ibf16] v

def codeCc (x : CmpCode) : BitVec 3 :=
  match x with
  | .eq => 0 | .ne => 1 | .lt => 2 | .le => 3 | .gt => 4 | .ge => 5
def ccOf (v : BitVec 3) : Option CmpCode := byCode codeCc [.eq, .ne, .lt, .le, .gt, .ge] v

def codeRel (x : Rel) : BitVec 4 :=
  match x with
  | .lt => 0 | .le => 1 | .gt => 2 | .ge => 3 | .eq => 4 | .ne => 5 | .sub => 6 | .disj => 7 | .intr => 8
def relOf (v : BitVec 4) : Option Rel := byCode codeRel [.lt, .le, .gt, .ge, .eq, .ne, .sub, .disj, .intr] v

def codePlop (x : PlopOp) : BitVec 3 :=
  match x with
  | .and => 0 | .or => 1 | .xor => 2 | .not => 3 | .isu => 4 | .utot => 5 | .utof => 6
def plopOf (v : BitVec 3) : Option PlopOp := byCode codePlop [.and, .or, .xor, .not, .isu, .utot, .utof] v

def codeMovi (x : MoviMode) : BitVec 2 :=
  match x with
  | .plain => 0 | .sx => 1 | .hi => 2
def moviOf (v : BitVec 2) : Option MoviMode := byCode codeMovi [.plain, .sx, .hi] v

def codeEf (x : EFmt) : BitVec 3 :=
  match x with
  | .e4m3 => 0 | .e5m2 => 1 | .e2m3 => 2 | .e3m2 => 3 | .e2m1 => 4 | .s8 => 5
def efOf (v : BitVec 3) : Option EFmt := byCode codeEf [.e4m3, .e5m2, .e2m3, .e3m2, .e2m1, .s8] v

def codeShfl (x : ShflMode) : BitVec 2 :=
  match x with
  | .idx => 0 | .up => 1 | .down => 2 | .xor => 3
def shflOf (v : BitVec 2) : Option ShflMode := byCode codeShfl [.idx, .up, .down, .xor] v

def codeVote (x : VoteMode) : BitVec 3 :=
  match x with
  | .all => 0 | .any => 1 | .eq => 2 | .ballot => 3 | .ballotF => 4 | .ballotU => 5
def voteOf (v : BitVec 3) : Option VoteMode := byCode codeVote [.all, .any, .eq, .ballot, .ballotF, .ballotU] v

def codeRed (x : RedOp) : BitVec 4 :=
  match x with
  | .add => 0 | .min => 1 | .max => 2 | .minu => 3 | .maxu => 4 | .and => 5 | .or => 6 | .xor => 7
  | .fadd => 8 | .fmin => 9 | .fmax => 10
def redOf (v : BitVec 4) : Option RedOp :=
  byCode codeRed [.add, .min, .max, .minu, .maxu, .and, .or, .xor, .fadd, .fmin, .fmax] v

def codeRng (x : RngOut) : BitVec 2 :=
  match x with
  | .u32 => 0 | .f32 => 1 | .x4 => 2
def rngOf (v : BitVec 2) : Option RngOut := byCode codeRng [.u32, .f32, .x4] v

def codeMat (x : MatFmt) : BitVec 4 :=
  match x with
  | .bf16 => 0 | .f16 => 1 | .e4m3 => 2 | .e5m2 => 3 | .mxe4m3 => 4 | .mxe5m2 => 5 | .mxfp4 => 6 | .gb4 => 7
  | .s8 => 8 | .u8 => 9
def matOf (v : BitVec 4) : Option MatFmt :=
  byCode codeMat [.bf16, .f16, .e4m3, .e5m2, .mxe4m3, .mxe5m2, .mxfp4, .gb4, .s8, .u8] v

def codeAcc (x : AccMode) : BitVec 2 :=
  match x with
  | .f32 => 0 | .s32 => 1 | .s32s => 2 | .bf16sr => 3
def accOf (v : BitVec 2) : Option AccMode := byCode codeAcc [.f32, .s32, .s32s, .bf16sr] v

def codeAc (x : AcFmt) : BitVec 2 :=
  match x with
  | .f32 => 0 | .s32 => 1 | .bf16 => 2
def acOf (v : BitVec 2) : Option AcFmt := byCode codeAc [.f32, .s32, .bf16] v

def codeTsz (x : TileSz) : BitVec 2 :=
  match x with
  | .b4 => 0 | .b8 => 1 | .b16 => 2
def tszOf (v : BitVec 2) : Option TileSz := byCode codeTsz [.b4, .b8, .b16] v

def codeSz (x : Sz) : BitVec 3 :=
  match x with
  | .b32 => 0 | .u8 => 1 | .s8 => 2 | .u16 => 3 | .s16 => 4 | .b64 => 5 | .b128 => 6 | .b256 => 7
def szOf (v : BitVec 3) : Option Sz := byCode codeSz [.b32, .u8, .s8, .u16, .s16, .b64, .b128, .b256] v

def codeScope (x : Scope) : BitVec 4 :=
  match x with
  | .lane => 0 | .warp => 1 | .task => 2 | .core => 3 | .cluster => 4 | .die => 5 | .device => 6 | .fabric => 7
  | .system => 8
def scopeOf (v : BitVec 4) : Option Scope :=
  byCode codeScope [.lane, .warp, .task, .core, .cluster, .die, .device, .fabric, .system] v

def codeAtom (x : AtomOp) : BitVec 5 :=
  match x with
  | .add => 0 | .adds => 1 | .and => 2 | .or => 3 | .xor => 4 | .min => 5 | .max => 6 | .minu => 7 | .maxu => 8
  | .exch => 9 | .fadd => 10 | .fmin => 11 | .fmax => 12
def atomOf (v : BitVec 5) : Option AtomOp :=
  byCode codeAtom [.add, .adds, .and, .or, .xor, .min, .max, .minu, .maxu, .exch, .fadd, .fmin, .fmax] v

def codeCrOp (x : CrOp) : BitVec 3 :=
  match x with
  | .add => 0 | .min => 1 | .max => 2 | .and => 3 | .or => 4 | .xor => 5
def crOpOf (v : BitVec 3) : Option CrOp := byCode codeCrOp [.add, .min, .max, .and, .or, .xor] v

def codeCrFmt (x : CrFmt) : BitVec 2 :=
  match x with
  | .f32 => 0 | .f64 => 1 | .s32 => 2 | .s64 => 3
def crFmtOf (v : BitVec 2) : Option CrFmt := byCode codeCrFmt [.f32, .f64, .s32, .s64] v

def codeKvMask (x : KvMaskOp) : BitVec 3 :=
  match x with
  | .set => 0 | .clr => 1 | .accept => 2 | .reject => 3
def kvMaskOf (v : BitVec 3) : Option KvMaskOp := byCode codeKvMask [.set, .clr, .accept, .reject] v

def codeBarc (x : BarcOp) : BitVec 2 :=
  match x with
  | .init => 0 | .arrive => 1 | .wait => 2 | .gen => 3
def barcOf (v : BitVec 2) : Option BarcOp := byCode codeBarc [.init, .arrive, .wait, .gen] v

def codeBarq (x : BarqOp) : BitVec 1 :=
  match x with
  | .arrive => 0 | .wait => 1
def barqOf (v : BitVec 1) : Option BarqOp := byCode codeBarq [.arrive, .wait] v

def codeResume (x : ResumeMode) : BitVec 2 :=
  match x with
  | .self => 0 | .warp => 1 | .kill => 2
def resumeOf (v : BitVec 2) : Option ResumeMode := byCode codeResume [.self, .warp, .kill] v

/-! ### Encoding -/

/-- A register or other operand field with its kind bit. -/
structure Fld where
  n : BitVec 8
  k : Bool
  deriving DecidableEq, Repr

/-- The field of a source register (R51). -/
def fldS (s : Src) : Fld :=
  match s with
  | .v n => ⟨n, false⟩
  | .u n => ⟨n, true⟩

/-- An unused field (R48). -/
def fld0 : Fld := ⟨0, false⟩
/-- A uniform register's field. -/
def fldU (n : BitVec 8) : Fld := ⟨n, true⟩
/-- A vector register's field, or a field of another class with its kind bit 0. -/
def fldV (n : BitVec 8) : Fld := ⟨n, false⟩
/-- A predicate's field (R48). -/
def fldP (p : BitVec 3) : Fld := ⟨p.setWidth 8, false⟩

/-- The slot with the control fields of c and the rest given. -/
def withCtl (op : Nat) (c : Ctl) (d a b e : BitVec 8) (m : BitVec 18) : RawSlot where
  op := BitVec.ofNat 10 op
  d := d
  a := a
  b := b
  c := e
  m := m
  g := c.g
  gs := codeGs c.gs
  stall := c.stall
  alloc := c.alloc
  wait := c.wait
  u := BitVec.ofBool c.u
  y := BitVec.ofBool c.y
  sw := BitVec.ofBool c.sw

/-- Form R (R51). -/
def formR (op : Nat) (c : Ctl) (d : BitVec 8) (a b e : Fld) (m : BitVec 18) : RawSlot :=
  withCtl op c d a.n b.n e.n (bitAt a.k 37 ||| bitAt b.k 36 ||| bitAt e.k 35 ||| m)

/-- Form I (R52). -/
def formI (op : Nat) (c : Ctl) (d a : BitVec 8) (imm : Word) (m : BitVec 18) : RawSlot :=
  withCtl op c d a (imm.extractLsb' 24 8) (imm.extractLsb' 16 8) (at_ 16 (imm.extractLsb' 0 16) 22 ||| m)

/-- Form B (R53). -/
def formB (op : Nat) (c : Ctl) (d a b : BitVec 8) (off : BitVec 26) : RawSlot :=
  withCtl op c d a b (off.extractLsb' 18 8) (off.extractLsb' 0 18)

/-- Form Mem (R54). -/
def formM (op : Nat) (c : Ctl) (d : BitVec 8) (a : Fld) (r : MemRef) (e : Fld) (mod : BitVec 4) : RawSlot :=
  withCtl op c d a.n (fldS r.base).n e.n
    (bitAt a.k 37 ||| bitAt (fldS r.base).k 36 ||| bitAt e.k 35 ||| at_ 2 r.rsel 33 ||| at_ 4 mod 29 ||| at_ 9 r.disp 20)

/-- Form Mem of a scratchpad operand: RSEL is 0 (R54). -/
def formS (op : Nat) (c : Ctl) (d : BitVec 8) (r : ScrRef) (e : Fld) (mod : BitVec 4) : RawSlot :=
  formM op c d fld0 ⟨r.base, 0, r.disp⟩ e mod

/-- SZ with bit 29 (R270, R271). -/
def szMod (s : Sz) (x : Bool) : BitVec 4 := codeSz s ++ BitVec.ofBool x

/-- Format, rounding, condition and option of opcodes 0x100 to 0x123 (R132). -/
def fpMod (f : FFmt) (r : Rnd) : BitVec 18 := at_ 4 (codeFfmt f) 31 ||| at_ 3 (codeRnd r) 28

/-- Modifiers of a conversion (R142). -/
def cvMod (df sf : BitVec 4) (r : Rnd) (i : BitVec 3) : BitVec 18 :=
  at_ 4 df 31 ||| at_ 4 sf 27 ||| at_ 3 (codeRnd r) 24 ||| at_ 3 i 21

/-- IFMT (R155). -/
def ivMod (f : IvFmt) : BitVec 18 := at_ 4 (codeIvfmt f) 31

/-- IFMT and PFMT (R155). -/
def ivpMod (f : IvFmt) (p : PFmt) : BitVec 18 := at_ 4 (codeIvfmt f) 31 ||| at_ 4 (codePfmt p) 27

/-- The operation byte of an atomic (R279). -/
def atomByte (op : AtomOp) (w64 : Bool) : BitVec 8 := (0 : BitVec 2) ++ BitVec.ofBool w64 ++ codeAtom op

/-- The fields of an instruction's slot (R77 and the encoding tables); none for a row that is no slot. The kind bits of CRREL, 1xx, are
100 (R51, R285; DEDUCED, log 114). -/
def encodeRaw (i : Instr) : Option RawSlot :=
  match i with
  | .nop c => some (formR 0x001 c 0 fld0 fld0 fld0 0)
  | .bra c off => some (formB 0x002 c 0 0 0 off)
  | .br3 c p off off2 => some (formB 0x003 c (off2.extractLsb' 8 8) (off2.extractLsb' 0 8) (p.setWidth 8) off)
  | .brx c a => some (formR 0x004 c 0 (fldS a) fld0 fld0 0)
  | .call c d off => some (formB 0x005 c d 0 0 off)
  | .ret c a => some (formR 0x006 c 0 (fldS a) fld0 fld0 0)
  | .join c => some (formR 0x007 c 0 fld0 fld0 fld0 0)
  | .exit c => some (formR 0x008 c 0 fld0 fld0 fld0 0)
  | .yield c => some (formR 0x009 c 0 fld0 fld0 fld0 0)
  | .drain c => some (formR 0x00A c 0 fld0 fld0 fld0 0)
  | .sleep c ns => some (formI 0x00B c 0 0 ns 0)
  | .iadd c sgn sat d a b => some (formR 0x040 c d (fldS a) (fldS b) fld0 (bitAt sgn 34 ||| bitAt sat 33))
  | .isub c sgn sat d a b => some (formR 0x041 c d (fldS a) (fldS b) fld0 (bitAt sgn 34 ||| bitAt sat 33))
  | .iaddc c d a b pc => some (formR 0x042 c d (fldS a) (fldS b) (fldP pc) 0)
  | .isubb c d a b pc => some (formR 0x043 c d (fldS a) (fldS b) (fldP pc) 0)
  | .imul c d a b => some (formR 0x044 c d (fldS a) (fldS b) fld0 0)
  | .imulh c sgn d a b => some (formR 0x045 c d (fldS a) (fldS b) fld0 (bitAt sgn 34))
  | .imad c sgn sat d a b e => some (formR 0x046 c d (fldS a) (fldS b) (fldS e) (bitAt sgn 34 ||| bitAt sat 33))
  | .imadw c sgn d a b e => some (formR 0x047 c d (fldS a) (fldS b) (fldS e) (bitAt sgn 34))
  | .idiv c sgn d a b => some (formR 0x048 c d (fldS a) (fldS b) fld0 (bitAt sgn 34))
  | .irem c sgn d a b => some (formR 0x049 c d (fldS a) (fldS b) fld0 (bitAt sgn 34))
  | .imin c sgn d a b => some (formR 0x04A c d (fldS a) (fldS b) fld0 (bitAt sgn 34))
  | .imax c sgn d a b => some (formR 0x04B c d (fldS a) (fldS b) fld0 (bitAt sgn 34))
  | .iabs c sat d a => some (formR 0x04C c d (fldS a) fld0 fld0 (bitAt sat 33))
  | .ineg c sat d a => some (formR 0x04D c d (fldS a) fld0 fld0 (bitAt sat 33))
  | .isad c sgn d a b e => some (formR 0x04E c d (fldS a) (fldS b) (fldS e) (bitAt sgn 34))
  | .iaddImm c sgn sat d a imm => some (formI 0x080 c d a imm (bitAt sgn 21 ||| bitAt sat 20))
  | .isubImm c sgn sat d a imm => some (formI 0x081 c d a imm (bitAt sgn 21 ||| bitAt sat 20))
  | .imulImm c d a imm => some (formI 0x084 c d a imm 0)
  | .iminImm c sgn d a imm => some (formI 0x08A c d a imm (bitAt sgn 21))
  | .imaxImm c sgn d a imm => some (formI 0x08B c d a imm (bitAt sgn 21))
  | .popc c d a => some (formR 0x050 c d (fldS a) fld0 fld0 0)
  | .clz c d a => some (formR 0x051 c d (fldS a) fld0 fld0 0)
  | .ctz c d a => some (formR 0x052 c d (fldS a) fld0 fld0 0)
  | .brev c d a => some (formR 0x053 c d (fldS a) fld0 fld0 0)
  | .bfe c sx d a b => some (formR 0x054 c d (fldS a) (fldS b) fld0 (bitAt sx 34))
  | .bfi c d a b e => some (formR 0x055 c d (fldS a) (fldS b) (fldS e) 0)
  | .and c d a b => some (formR 0x056 c d (fldS a) (fldS b) fld0 0)
  | .or c d a b => some (formR 0x057 c d (fldS a) (fldS b) fld0 0)
  | .xor c d a b => some (formR 0x058 c d (fldS a) (fldS b) fld0 0)
  | .andn c d a b => some (formR 0x059 c d (fldS a) (fldS b) fld0 0)
  | .shl c d a b => some (formR 0x05A c d (fldS a) (fldS b) fld0 0)
  | .shr c d a b => some (formR 0x05B c d (fldS a) (fldS b) fld0 0)
  | .sar c d a b => some (formR 0x05C c d (fldS a) (fldS b) fld0 0)
  | .rol c d a b => some (formR 0x05D c d (fldS a) (fldS b) fld0 0)
  | .shf c right d a b e => some (formR 0x05E c d (fldS a) (fldS b) (fldS e) (bitAt right 34))
  | .andImm c d a imm => some (formI 0x096 c d a imm 0)
  | .orImm c d a imm => some (formI 0x097 c d a imm 0)
  | .xorImm c d a imm => some (formI 0x098 c d a imm 0)
  | .andnImm c d a imm => some (formI 0x099 c d a imm 0)
  | .shlImm c d a imm => some (formI 0x09A c d a imm 0)
  | .shrImm c d a imm => some (formI 0x09B c d a imm 0)
  | .sarImm c d a imm => some (formI 0x09C c d a imm 0)
  | .rolImm c d a imm => some (formI 0x09D c d a imm 0)
  | .lea c sh zx d a b => some (formR 0x060 c d (fldS a) (fldS b) fld0 (at_ 3 sh 32 ||| bitAt zx 31))
  | .mov c x2 d a => some (formR 0x061 c d (fldS a) fld0 fld0 (bitAt x2 34))
  | .movi c mode d imm => some (formI 0x062 c d 0 imm (at_ 2 (codeMovi mode) 20))
  | .sel c ua d a b pc => some (formR 0x063 c d (fldS a) (fldS b) (fldP pc) (bitAt ua 34))
  | .cmpi c cc sgn pd a b =>
    some (formR 0x064 c (pd.setWidth 8) (fldS a) (fldS b) fld0 (at_ 3 (codeCc cc) 32 ||| bitAt sgn 31))
  | .plop c op pd pa pb => some (formR 0x065 c (pd.setWidth 8) (fldP pa) (fldP pb) fld0 (at_ 3 (codePlop op) 32))
  | .ptov c d pa => some (formR 0x066 c d (fldP pa) fld0 fld0 0)
  | .vtop c nz pd a => some (formR 0x067 c (pd.setWidth 8) (fldS a) fld0 fld0 (bitAt nz 34))
  | .fadd c f r d a b => some (formR 0x100 c d (fldS a) (fldS b) fld0 (fpMod f r))
  | .fsub c f r d a b => some (formR 0x101 c d (fldS a) (fldS b) fld0 (fpMod f r))
  | .fmul c f r d a b => some (formR 0x102 c d (fldS a) (fldS b) fld0 (fpMod f r))
  | .ffma c f r d a b e => some (formR 0x103 c d (fldS a) (fldS b) (fldS e) (fpMod f r))
  | .fmin c f nan d a b => some (formR 0x104 c d (fldS a) (fldS b) fld0 (fpMod f .dyn ||| bitAt nan 24))
  | .fmax c f nan d a b => some (formR 0x105 c d (fldS a) (fldS b) fld0 (fpMod f .dyn ||| bitAt nan 24))
  | .fcmp c f cc pd a b =>
    some (formR 0x106 c (pd.setWidth 8) (fldS a) (fldS b) fld0 (fpMod f .dyn ||| at_ 3 (codeCc cc) 25))
  | .frcp c f d a => some (formR 0x110 c d (fldS a) fld0 fld0 (fpMod f .dyn))
  | .frsq c f d a => some (formR 0x111 c d (fldS a) fld0 fld0 (fpMod f .dyn))
  | .fsqrt c f r d a => some (formR 0x112 c d (fldS a) fld0 fld0 (fpMod f r))
  | .fdiv c f r d a b => some (formR 0x113 c d (fldS a) (fldS b) fld0 (fpMod f r))
  | .fex2 c f d a => some (formR 0x114 c d (fldS a) fld0 fld0 (fpMod f .dyn))
  | .flg2 c f d a => some (formR 0x115 c d (fldS a) fld0 fld0 (fpMod f .dyn))
  | .fsin c f d a => some (formR 0x116 c d (fldS a) fld0 fld0 (fpMod f .dyn))
  | .fcos c f d a => some (formR 0x117 c d (fldS a) fld0 fld0 (fpMod f .dyn))
  | .ftanh c f d a => some (formR 0x118 c d (fldS a) fld0 fld0 (fpMod f .dyn))
  | .fclass c f d a => some (formR 0x120 c d (fldS a) fld0 fld0 (fpMod f .dyn))
  | .frnd c f r x d a => some (formR 0x121 c d (fldS a) fld0 fld0 (fpMod f r ||| bitAt x 24))
  | .fscale c f r d a b => some (formR 0x122 c d (fldS a) (fldS b) fld0 (fpMod f r))
  | .fgetexp c f d a => some (formR 0x123 c d (fldS a) fld0 fld0 (fpMod f .dyn))
  | .fcvt c df sf r i d a => some (formR 0x130 c d (fldS a) fld0 fld0 (cvMod (codeFfmt df) (codeFfmt sf) r i))
  | .ftoi c df sf r i d a => some (formR 0x131 c d (fldS a) fld0 fld0 (cvMod (codeIfmt df) (codeFfmt sf) r i))
  | .itof c df sf r i d a => some (formR 0x132 c d (fldS a) fld0 fld0 (cvMod (codeFfmt df) (codeIfmt sf) r i))
  | .cvtsr c df sf i d a b =>
    some (formR 0x133 c d (fldS a) (fldS b) fld0 (cvMod (codeFfmt df) (codeFfmt sf) .dyn i))
  | .qmx c ef bf d a => some (formR 0x138 c d (fldS a) fld0 fld0 (at_ 3 (codeEf ef) 32 ||| bitAt bf 31))
  | .dqmx c ef bf r d a b =>
    some (formR 0x139 c d (fldS a) (fldS b) fld0 (at_ 3 (codeEf ef) 32 ||| bitAt bf 31 ||| at_ 3 (codeRnd r) 28))
  | .qgb c bands bf d a b => some (formR 0x13A c d (fldS a) (fldS b) fld0 (bitAt bands 34 ||| bitAt bf 31))
  | .dqgb c bf r d a b e =>
    some (formR 0x13B c d (fldS a) (fldS b) (fldS e) (bitAt bf 31 ||| at_ 3 (codeRnd r) 28))
  | .ivset c f p d a => some (formR 0x180 c d (fldS a) fld0 fld0 (ivpMod f p))
  | .ivmk c f p d a b => some (formR 0x181 c d (fldS a) (fldS b) fld0 (ivpMod f p))
  | .ivadd c f d a b => some (formR 0x182 c d (fldS a) (fldS b) fld0 (ivMod f))
  | .ivsub c f d a b => some (formR 0x183 c d (fldS a) (fldS b) fld0 (ivMod f))
  | .ivmul c f d a b => some (formR 0x184 c d (fldS a) (fldS b) fld0 (ivMod f))
  | .ivdiv c f d a b => some (formR 0x185 c d (fldS a) (fldS b) fld0 (ivMod f))
  | .ivfma c f d a b e => some (formR 0x186 c d (fldS a) (fldS b) (fldS e) (ivMod f))
  | .ivsqr c f d a => some (formR 0x187 c d (fldS a) fld0 fld0 (ivMod f))
  | .ivsqrt c f d a => some (formR 0x188 c d (fldS a) fld0 fld0 (ivMod f))
  | .ivrcp c f d a => some (formR 0x189 c d (fldS a) fld0 fld0 (ivMod f))
  | .ivexp c f d a => some (formR 0x18A c d (fldS a) fld0 fld0 (ivMod f))
  | .ivlog c f d a => some (formR 0x18B c d (fldS a) fld0 fld0 (ivMod f))
  | .ivabs c f d a => some (formR 0x18C c d (fldS a) fld0 fld0 (ivMod f))
  | .ivmin c f d a b => some (formR 0x18D c d (fldS a) (fldS b) fld0 (ivMod f))
  | .ivmax c f d a b => some (formR 0x18E c d (fldS a) (fldS b) fld0 (ivMod f))
  | .ivisect c f d a b => some (formR 0x18F c d (fldS a) (fldS b) fld0 (ivMod f))
  | .ivhull c f d a b => some (formR 0x190 c d (fldS a) (fldS b) fld0 (ivMod f))
  | .ivlo c f p d a => some (formR 0x191 c d (fldS a) fld0 fld0 (ivpMod f p))
  | .ivhi c f p d a => some (formR 0x192 c d (fldS a) fld0 fld0 (ivpMod f p))
  | .ivmid c f p d a => some (formR 0x193 c d (fldS a) fld0 fld0 (ivpMod f p))
  | .ivwid c f p d a => some (formR 0x194 c d (fldS a) fld0 fld0 (ivpMod f p))
  | .ivcmp c f rel pd a b =>
    some (formR 0x195 c (pd.setWidth 8) (fldS a) (fldS b) fld0 (ivMod f ||| at_ 4 (codeRel rel) 23))
  | .ivin c f p pd a b => some (formR 0x196 c (pd.setWidth 8) (fldS a) (fldS b) fld0 (ivpMod f p))
  | .ivsplit c f hi d a b => some (formR 0x197 c d (fldS a) (fldS b) fld0 (ivMod f ||| bitAt hi 22))
  | .ivbis c f qn d pb a => some (formR 0x198 c d (fldS a) (fldP pb) fld0 (ivMod f ||| at_ 3 qn 23))
  | .ivld c f d r => some (formM 0x199 c d fld0 r fld0 ((codeIvfmt f).setWidth 2 ++ (0 : BitVec 2)))
  | .ivst c f r e => some (formM 0x19A c 0 fld0 r (fldS e) ((codeIvfmt f).setWidth 2 ++ (0 : BitVec 2)))
  | .shfl c mode ud d a b pc =>
    some (formR 0x1C0 c d (fldS a) (fldS b) (fldP pc) (at_ 2 (codeShfl mode) 33 ||| bitAt ud 32))
  | .lpush c d a b pc => some (formR 0x1C1 c d (fldS a) (fldS b) (fldP pc) 0)
  | .vote c mode ud d pa => some (formR 0x1C2 c d (fldP pa) fld0 fld0 (at_ 3 (codeVote mode) 32 ||| bitAt ud 31))
  | .redux c op ud d a => some (formR 0x1C3 c d (fldS a) fld0 fld0 (at_ 4 (codeRed op) 31 ||| bitAt ud 30))
  | .scan c op excl d a => some (formR 0x1C4 c d (fldS a) fld0 fld0 (at_ 4 (codeRed op) 31 ||| bitAt excl 30))
  | .matchLanes c d a pc => some (formR 0x1C5 c d (fldS a) fld0 (fldP pc) 0)
  | .partset c w => some (formR 0x1C6 c 0 fld0 fld0 fld0 (at_ 3 w 32))
  | .rng c out d b => some (formR 0x1E0 c d fld0 (fldS b) fld0 (at_ 2 (codeRng out) 33))
  | .rngkey c a => some (formR 0x1E1 c 0 (fldS a) fld0 fld0 0)
  | .rngskip c d a => some (formR 0x1E2 c d (fldS a) fld0 fld0 0)
  | .talloc c d a => some (formR 0x200 c d (fldU a) fld0 fld0 0)
  | .tfree c a b => some (formR 0x201 c 0 (fldU a) (fldU b) fld0 0)
  | .tld c sz a r => some (formM 0x202 c 0 (fldS a) r fld0 (codeTsz sz ++ (0 : BitVec 2)))
  | .tst c sz a r => some (formM 0x203 c 0 (fldS a) r fld0 (codeTsz sz ++ (0 : BitVec 2)))
  | .mbq c f set1 a b => some (formR 0x204 c 0 (fldU a) (fldU b) fld0 (at_ 4 (codeMat f) 31 ||| bitAt set1 30))
  | .mma c af bf acc row col d a b e =>
    some (formR 0x208 c d (fldU a) (fldU b) (fldU e)
      (at_ 4 (codeMat af) 31 ||| at_ 4 (codeMat bf) 27 ||| at_ 2 (codeAcc acc) 25 ||| at_ 2 row 23 ||| at_ 2 col 21))
  | .mzero c ac a => some (formR 0x209 c 0 (fldU a) fld0 fld0 (at_ 2 (codeAc ac) 33))
  | .mmask c len d a => some (formR 0x20A c (d.setWidth 8) (fldU a) fld0 fld0 (bitAt len 34))
  | .maccr c ac d a b => some (formR 0x20B c d (fldU a) (fldU b) fld0 (at_ 2 (codeAc ac) 33))
  | .maccw c ac a b e => some (formR 0x20C c 0 (fldU a) (fldU b) (fldV e) (at_ 2 (codeAc ac) 33))
  | .mcvt c df s32 r k1 col a b =>
    some (formR 0x20D c 0 (fldU a) (fldU b) fld0
      (at_ 4 (codeMat df) 31 ||| bitAt s32 30 ||| at_ 3 (codeRnd r) 27 ||| bitAt k1 26 ||| at_ 2 col 24))
  | .mrowmax c col d a e => some (formR 0x210 c d (fldU a) fld0 (fldV e) (at_ 2 col 33))
  | .mrowexp c mul row col d a b e =>
    some (formR 0x211 c d (fldU a) (fldU b) ⟨e, !mul⟩ (bitAt mul 34 ||| at_ 2 row 32 ||| at_ 2 col 30))
  | .mstat c sel d => some (formR 0x218 c d fld0 fld0 fld0 (at_ 4 ((0 : BitVec 1) ++ sel) 31))
  | .ld c sz ed d e r => some (formM 0x280 c d ⟨e, ed⟩ r fld0 (szMod sz ed))
  | .st c sz r e => some (formM 0x281 c 0 fld0 r (fldS e) (szMod sz false))
  | .ldu c sz ed d e r => some (formM 0x282 c d ⟨e, ed⟩ r fld0 (szMod sz ed))
  | .lds c sz d r => some (formS 0x283 c d r fld0 (szMod sz false))
  | .sts c sz r e => some (formS 0x284 c 0 r (fldS e) (szMod sz false))
  | .gather c sz zx d a r => some (formM 0x285 c d (fldV a) r fld0 (szMod sz zx))
  | .scatter c sz zx a e r => some (formM 0x286 c 0 (fldV a) r (fldV e) (szMod sz zx))
  | .pref c l2 r => some (formM 0x287 c 0 fld0 r fld0 ((0 : BitVec 1) ++ BitVec.ofBool l2 ++ (0 : BitVec 2)))
  | .atom c op w64 sc d r e => some (formM 0x290 c d (fldV (atomByte op w64)) r (fldS e) (codeScope sc))
  | .acas c w64 sc d r e => some (formM 0x291 c d (fldV (atomByte .add w64)) r (fldS e) (codeScope sc))
  | .red c op w64 sc r e => some (formM 0x292 c 0 (fldV (atomByte op w64)) r (fldS e) (codeScope sc))
  | .crdecl c op f rsel a b e =>
    some (formR 0x293 c 0 (fldU a) (fldU b) (fldU e) (at_ 2 rsel 33 ||| at_ 3 (codeCrOp op) 30 ||| at_ 2 (codeCrFmt f) 28))
  | .crrel c rsel a => some (formR 0x294 c 0 (fldU a) fld0 fld0 (at_ 2 rsel 33))
  | .fence c sc => some (formR 0x2A0 c 0 fld0 fld0 fld0 (at_ 4 (codeScope sc) 31))
  | .chend c => some (formR 0x2A1 c 0 fld0 fld0 fld0 0)
  | .cinv c sc r len => some (formM 0x2B0 c 0 fld0 r (fldU len) (codeScope sc))
  | .cwb c r len => some (formM 0x2B1 c 0 fld0 r (fldU len) 0)
  | .wbind c m a e => some (formR 0x340 c 0 (fldU a) fld0 ⟨e, m⟩ (bitAt m 34))
  | .wkick c a => some (formR 0x341 c 0 (fldU a) fld0 fld0 0)
  | .wdrop c a => some (formR 0x342 c 0 (fldU a) fld0 fld0 0)
  | .wstat c d a => some (formR 0x343 c d (fldU a) fld0 fld0 0)
  | .rcopy c a b => some (formR 0x348 c 0 (fldU a) (fldU b) fld0 0)
  | .cntinc c sc rsel a b => some (formR 0x349 c 0 (fldU a) (fldU b) fld0 (at_ 2 rsel 33 ||| at_ 4 (codeScope sc) 29))
  | .cntrd c rsel d a => some (formR 0x34A c d (fldU a) fld0 fld0 (at_ 2 rsel 33))
  | .seal c rsel a b e => some (formR 0x350 c 0 (fldU a) (fldU b) (fldU e) (at_ 2 rsel 33))
  | .unseal c rsel a b => some (formR 0x351 c 0 (fldU a) (fldU b) fld0 (at_ 2 rsel 33))
  | .coll c a => some (formR 0x358 c 0 (fldU a) fld0 fld0 0)
  | .kvld c f32 rsel d a b pc => some (formR 0x380 c d (fldV a) (fldU b) (fldP pc) (at_ 2 rsel 33 ||| bitAt f32 32))
  | .kvappend c v spec rsel a b e =>
    some (formR 0x381 c 0 (fldV a) (fldU b) (fldV e) (at_ 2 rsel 33 ||| bitAt v 32 ||| bitAt spec 31))
  | .kvmask c op rsel a b => some (formR 0x382 c 0 (fldU a) (fldU b) fld0 (at_ 2 rsel 33 ||| at_ 3 (codeKvMask op) 30))
  | .kvcompact c rsel a => some (formR 0x383 c 0 (fldU a) fld0 fld0 (at_ 2 rsel 33))
  | .kvfmt c rsel a b => some (formR 0x384 c 0 (fldU a) (fldU b) fld0 (at_ 2 rsel 33))
  | .kvprov c rsel a b => some (formR 0x385 c 0 (fldU a) (fldU b) fld0 (at_ 2 rsel 33))
  | .kvshare c rsel a b => some (formR 0x386 c 0 (fldU a) (fldU b) fld0 (at_ 2 rsel 33))
  | .graft c ro rsel a b => some (formR 0x388 c 0 (fldU a) (fldU b) fld0 (at_ 2 rsel 33 ||| bitAt ro 32))
  | .repair c rsel a b => some (formR 0x389 c 0 (fldU a) (fldU b) fld0 (at_ 2 rsel 33))
  | .beammap c rsel a b e => some (formR 0x38A c 0 (fldU a) (fldU b) (fldU e) (at_ 2 rsel 33))
  | .topk c a => some (formR 0x390 c 0 (fldU a) fld0 fld0 0)
  | .bar c task g => some (formR 0x3C0 c 0 fld0 fld0 fld0 (at_ 8 g 27 ||| bitAt task 26))
  | .barc c op cb r =>
    some (match op with
      | .gen => formR 0x3C1 c r fld0 fld0 fld0 (at_ 2 (codeBarc op) 33 ||| at_ 4 cb 29)
      | .wait => formR 0x3C1 c 0 (fldU r) fld0 fld0 (at_ 2 (codeBarc op) 33 ||| at_ 4 cb 29)
      | .init => formR 0x3C1 c 0 (fldU r) fld0 fld0 (at_ 2 (codeBarc op) 33 ||| at_ 4 cb 29)
      | .arrive => formR 0x3C1 c 0 (fldU r) fld0 fld0 (at_ 2 (codeBarc op) 33 ||| at_ 4 cb 29))
  | .barq c op task g r =>
    some (match op with
      | .arrive => formR 0x3C2 c r fld0 fld0 fld0 (at_ 1 (codeBarq op) 34 ||| at_ 8 g 26 ||| bitAt task 25)
      | .wait => formR 0x3C2 c 0 (fldU r) fld0 fld0 (at_ 1 (codeBarq op) 34 ||| at_ 8 g 26 ||| bitAt task 25))
  | .cwait c rsel cont a b off => some (formB 0x3C3 c ((0 : BitVec 5) ++ BitVec.ofBool cont ++ rsel) a b off)
  | .spawn c qn wm1 b => some (formR 0x3D0 c 0 fld0 (fldU b) fld0 (at_ 3 qn 32 ||| at_ 4 wm1 28))
  | .launch c rsel a => some (formR 0x3D1 c 0 (fldU a) fld0 fld0 (at_ 2 rsel 33))
  | .shoot c rsel d a b => some (formR 0x3D8 c d (fldU a) (fldU b) fld0 (at_ 2 rsel 33))
  | .resolve c d a b => some (formR 0x3D9 c d (fldU a) (fldU b) fld0 0)
  | .role c r => some (formR 0x3DA c 0 fld0 fld0 fld0 (at_ 2 r 33))
  | .trap c imm => some (formI 0x3F0 c 0 0 imm 0)
  | .resume c mode a =>
    some (formR 0x3F1 c 0 ⟨a, !decide (mode = .self)⟩ fld0 fld0 (at_ 2 (codeResume mode) 33))
  | .sread c x2 d num => some (formI 0x3F2 c d 0 (num.setWidth 32) (bitAt x2 20))
  | .swrite c x2 num a => some (formI 0x3F3 c 0 a (num.setWidth 32) (bitAt x2 20))
  | .tlbinv c other al rsel a b =>
    some (formR 0x3F4 c 0 ⟨a, !al⟩ ⟨b, !al⟩ fld0 (at_ 2 rsel 33 ||| bitAt al 32 ||| bitAt other 31))
  | .brk c imm => some (formI 0x3F5 c 0 0 imm 0)
  | .ckpt c other a => some (formR 0x3F6 c 0 (fldU a) fld0 fld0 (bitAt other 34))
  | .pwrhint c cls => some (formI 0x3F7 c 0 0 (cls.setWidth 32) 0)
  | .illegalOpcode w => some (rawOfSlot w)
  | _ => none

/-- The word of an instruction; none for a row that is no slot. -/
def encode (i : Instr) : Option Slot := (encodeRaw i).map slotOfRaw

/-! ### Decoding -/

/-- The control fields of a slot (R46). -/
def ctlOf (r : RawSlot) : Option Ctl :=
  (gsOf r.gs).map (fun gs =>
    { g := r.g, gs := gs, stall := r.stall, alloc := r.alloc, wait := r.wait, u := r.u == 1, y := r.y == 1, sw := r.sw == 1 })

/-- A register source from a field and its kind bit (R51). -/
def srcOf (n : BitVec 8) (k : Bool) : Src := if k then .u n else .v n

def srcA (r : RawSlot) : Src := srcOf r.a (mBit r 37)
def srcB (r : RawSlot) : Src := srcOf r.b (mBit r 36)
def srcC (r : RawSlot) : Src := srcOf r.c (mBit r 35)
/-- A predicate number (R48). -/
def predOf (n : BitVec 8) : BitVec 3 := n.extractLsb' 0 3
/-- The immediate of form I (R52). -/
def immOf (r : RawSlot) : Word := r.b ++ r.c ++ mBits r 22 16
/-- The offset of form B (R53). -/
def offOf (r : RawSlot) : BitVec 26 := r.c ++ r.m
/-- The memory operand of form Mem (R54). -/
def memOf (r : RawSlot) : MemRef := ⟨srcB r, mBits r 33 2, mBits r 20 9⟩
/-- The scratchpad operand of form Mem (R54). -/
def scrOf (r : RawSlot) : ScrRef := ⟨srcB r, mBits r 20 9⟩

def fmtOf (r : RawSlot) : Option FFmt := ffmtOf (mBits r 31 4)
def rndAt (r : RawSlot) (lo : Nat) : Option Rnd := rndOf (mBits r lo 3)
def ivOf (r : RawSlot) : Option IvFmt := ivfmtOf (mBits r 31 4)
def pfOf (r : RawSlot) : Option PFmt := pfmtOf (mBits r 27 4)
def ivMemOf (r : RawSlot) : Option IvFmt := ivfmtOf ((mBits r 31 2).setWidth 4)
def szField (r : RawSlot) : Option Sz := szOf (mBits r 30 3)
def scopeField (r : RawSlot) : Option Scope := scopeOf (mBits r 29 4)
def atomField (r : RawSlot) : Option AtomOp := atomOf (r.a.extractLsb' 0 5)

/-- Control instructions, 0x001 to 0x00B. -/
def decodeControl (r : RawSlot) (c : Ctl) : Option Instr :=
  match r.op.toNat with
  | 0x001 => some (.nop c)
  | 0x002 => some (.bra c (offOf r))
  | 0x003 => some (.br3 c (predOf r.b) (offOf r) (r.d ++ r.a))
  | 0x004 => some (.brx c (srcA r))
  | 0x005 => some (.call c r.d (offOf r))
  | 0x006 => some (.ret c (srcA r))
  | 0x007 => some (.join c)
  | 0x008 => some (.exit c)
  | 0x009 => some (.yield c)
  | 0x00A => some (.drain c)
  | 0x00B => some (.sleep c (immOf r))
  | _ => none

/-- Integer instructions, 0x040 to 0x05E. -/
def decodeInt (r : RawSlot) (c : Ctl) : Option Instr :=
  let sgn := mBit r 34
  let sat := mBit r 33
  match r.op.toNat with
  | 0x040 => some (.iadd c sgn sat r.d (srcA r) (srcB r))
  | 0x041 => some (.isub c sgn sat r.d (srcA r) (srcB r))
  | 0x042 => some (.iaddc c r.d (srcA r) (srcB r) (predOf r.c))
  | 0x043 => some (.isubb c r.d (srcA r) (srcB r) (predOf r.c))
  | 0x044 => some (.imul c r.d (srcA r) (srcB r))
  | 0x045 => some (.imulh c sgn r.d (srcA r) (srcB r))
  | 0x046 => some (.imad c sgn sat r.d (srcA r) (srcB r) (srcC r))
  | 0x047 => some (.imadw c sgn r.d (srcA r) (srcB r) (srcC r))
  | 0x048 => some (.idiv c sgn r.d (srcA r) (srcB r))
  | 0x049 => some (.irem c sgn r.d (srcA r) (srcB r))
  | 0x04A => some (.imin c sgn r.d (srcA r) (srcB r))
  | 0x04B => some (.imax c sgn r.d (srcA r) (srcB r))
  | 0x04C => some (.iabs c sat r.d (srcA r))
  | 0x04D => some (.ineg c sat r.d (srcA r))
  | 0x04E => some (.isad c sgn r.d (srcA r) (srcB r) (srcC r))
  | 0x050 => some (.popc c r.d (srcA r))
  | 0x051 => some (.clz c r.d (srcA r))
  | 0x052 => some (.ctz c r.d (srcA r))
  | 0x053 => some (.brev c r.d (srcA r))
  | 0x054 => some (.bfe c sgn r.d (srcA r) (srcB r))
  | 0x055 => some (.bfi c r.d (srcA r) (srcB r) (srcC r))
  | 0x056 => some (.and c r.d (srcA r) (srcB r))
  | 0x057 => some (.or c r.d (srcA r) (srcB r))
  | 0x058 => some (.xor c r.d (srcA r) (srcB r))
  | 0x059 => some (.andn c r.d (srcA r) (srcB r))
  | 0x05A => some (.shl c r.d (srcA r) (srcB r))
  | 0x05B => some (.shr c r.d (srcA r) (srcB r))
  | 0x05C => some (.sar c r.d (srcA r) (srcB r))
  | 0x05D => some (.rol c r.d (srcA r) (srcB r))
  | 0x05E => some (.shf c sgn r.d (srcA r) (srcB r) (srcC r))
  | _ => none

/-- Immediate forms, 0x080 to 0x09D. -/
def decodeImm (r : RawSlot) (c : Ctl) : Option Instr :=
  let sgn := mBit r 21
  let sat := mBit r 20
  match r.op.toNat with
  | 0x080 => some (.iaddImm c sgn sat r.d r.a (immOf r))
  | 0x081 => some (.isubImm c sgn sat r.d r.a (immOf r))
  | 0x084 => some (.imulImm c r.d r.a (immOf r))
  | 0x08A => some (.iminImm c sgn r.d r.a (immOf r))
  | 0x08B => some (.imaxImm c sgn r.d r.a (immOf r))
  | 0x096 => some (.andImm c r.d r.a (immOf r))
  | 0x097 => some (.orImm c r.d r.a (immOf r))
  | 0x098 => some (.xorImm c r.d r.a (immOf r))
  | 0x099 => some (.andnImm c r.d r.a (immOf r))
  | 0x09A => some (.shlImm c r.d r.a (immOf r))
  | 0x09B => some (.shrImm c r.d r.a (immOf r))
  | 0x09C => some (.sarImm c r.d r.a (immOf r))
  | 0x09D => some (.rolImm c r.d r.a (immOf r))
  | _ => none

/-- Address, move and predicate instructions, 0x060 to 0x067. -/
def decodeMove (r : RawSlot) (c : Ctl) : Option Instr :=
  match r.op.toNat with
  | 0x060 => some (.lea c (mBits r 32 3) (mBit r 31) r.d (srcA r) (srcB r))
  | 0x061 => some (.mov c (mBit r 34) r.d (srcA r))
  | 0x062 => (moviOf (mBits r 20 2)).map (fun m => .movi c m r.d (immOf r))
  | 0x063 => some (.sel c (mBit r 34) r.d (srcA r) (srcB r) (predOf r.c))
  | 0x064 => (ccOf (mBits r 32 3)).map (fun cc => .cmpi c cc (mBit r 31) (predOf r.d) (srcA r) (srcB r))
  | 0x065 => (plopOf (mBits r 32 3)).map (fun op => .plop c op (predOf r.d) (predOf r.a) (predOf r.b))
  | 0x066 => some (.ptov c r.d (predOf r.a))
  | 0x067 => some (.vtop c (mBit r 34) (predOf r.d) (srcA r))
  | _ => none

/-- Floating-point instructions, 0x100 to 0x123. -/
def decodeFloat (r : RawSlot) (c : Ctl) : Option Instr :=
  (fmtOf r).bind (fun f =>
    (rndAt r 28).bind (fun rd =>
      match r.op.toNat with
      | 0x100 => some (.fadd c f rd r.d (srcA r) (srcB r))
      | 0x101 => some (.fsub c f rd r.d (srcA r) (srcB r))
      | 0x102 => some (.fmul c f rd r.d (srcA r) (srcB r))
      | 0x103 => some (.ffma c f rd r.d (srcA r) (srcB r) (srcC r))
      | 0x104 => some (.fmin c f (mBit r 24) r.d (srcA r) (srcB r))
      | 0x105 => some (.fmax c f (mBit r 24) r.d (srcA r) (srcB r))
      | 0x106 => (ccOf (mBits r 25 3)).map (fun cc => .fcmp c f cc (predOf r.d) (srcA r) (srcB r))
      | 0x110 => some (.frcp c f r.d (srcA r))
      | 0x111 => some (.frsq c f r.d (srcA r))
      | 0x112 => some (.fsqrt c f rd r.d (srcA r))
      | 0x113 => some (.fdiv c f rd r.d (srcA r) (srcB r))
      | 0x114 => some (.fex2 c f r.d (srcA r))
      | 0x115 => some (.flg2 c f r.d (srcA r))
      | 0x116 => some (.fsin c f r.d (srcA r))
      | 0x117 => some (.fcos c f r.d (srcA r))
      | 0x118 => some (.ftanh c f r.d (srcA r))
      | 0x120 => some (.fclass c f r.d (srcA r))
      | 0x121 => some (.frnd c f rd (mBit r 24) r.d (srcA r))
      | 0x122 => some (.fscale c f rd r.d (srcA r) (srcB r))
      | 0x123 => some (.fgetexp c f r.d (srcA r))
      | _ => none))

/-- Conversions and block quantisation, 0x130 to 0x13B. -/
def decodeConv (r : RawSlot) (c : Ctl) : Option Instr :=
  match r.op.toNat with
  | 0x130 => (fmtOf r).bind (fun df => (ffmtOf (mBits r 27 4)).bind (fun sf => (rndAt r 24).map (fun rd =>
      .fcvt c df sf rd (mBits r 21 3) r.d (srcA r))))
  | 0x131 => (ifmtOf (mBits r 31 4)).bind (fun df => (ffmtOf (mBits r 27 4)).bind (fun sf => (rndAt r 24).map (fun rd =>
      .ftoi c df sf rd (mBits r 21 3) r.d (srcA r))))
  | 0x132 => (fmtOf r).bind (fun df => (ifmtOf (mBits r 27 4)).bind (fun sf => (rndAt r 24).map (fun rd =>
      .itof c df sf rd (mBits r 21 3) r.d (srcA r))))
  | 0x133 => (fmtOf r).bind (fun df => (ffmtOf (mBits r 27 4)).map (fun sf =>
      .cvtsr c df sf (mBits r 21 3) r.d (srcA r) (srcB r)))
  | 0x138 => (efOf (mBits r 32 3)).map (fun ef => .qmx c ef (mBit r 31) r.d (srcA r))
  | 0x139 => (efOf (mBits r 32 3)).bind (fun ef => (rndAt r 28).map (fun rd =>
      .dqmx c ef (mBit r 31) rd r.d (srcA r) (srcB r)))
  | 0x13A => some (.qgb c (mBit r 34) (mBit r 31) r.d (srcA r) (srcB r))
  | 0x13B => (rndAt r 28).map (fun rd => .dqgb c (mBit r 31) rd r.d (srcA r) (srcB r) (srcC r))
  | _ => none

/-- Interval instructions, 0x180 to 0x198. -/
def decodeInterval (r : RawSlot) (c : Ctl) : Option Instr :=
  (ivOf r).bind (fun f =>
    match r.op.toNat with
    | 0x180 => (pfOf r).map (fun p => .ivset c f p r.d (srcA r))
    | 0x181 => (pfOf r).map (fun p => .ivmk c f p r.d (srcA r) (srcB r))
    | 0x182 => some (.ivadd c f r.d (srcA r) (srcB r))
    | 0x183 => some (.ivsub c f r.d (srcA r) (srcB r))
    | 0x184 => some (.ivmul c f r.d (srcA r) (srcB r))
    | 0x185 => some (.ivdiv c f r.d (srcA r) (srcB r))
    | 0x186 => some (.ivfma c f r.d (srcA r) (srcB r) (srcC r))
    | 0x187 => some (.ivsqr c f r.d (srcA r))
    | 0x188 => some (.ivsqrt c f r.d (srcA r))
    | 0x189 => some (.ivrcp c f r.d (srcA r))
    | 0x18A => some (.ivexp c f r.d (srcA r))
    | 0x18B => some (.ivlog c f r.d (srcA r))
    | 0x18C => some (.ivabs c f r.d (srcA r))
    | 0x18D => some (.ivmin c f r.d (srcA r) (srcB r))
    | 0x18E => some (.ivmax c f r.d (srcA r) (srcB r))
    | 0x18F => some (.ivisect c f r.d (srcA r) (srcB r))
    | 0x190 => some (.ivhull c f r.d (srcA r) (srcB r))
    | 0x191 => (pfOf r).map (fun p => .ivlo c f p r.d (srcA r))
    | 0x192 => (pfOf r).map (fun p => .ivhi c f p r.d (srcA r))
    | 0x193 => (pfOf r).map (fun p => .ivmid c f p r.d (srcA r))
    | 0x194 => (pfOf r).map (fun p => .ivwid c f p r.d (srcA r))
    | 0x195 => (relOf (mBits r 23 4)).map (fun rel => .ivcmp c f rel (predOf r.d) (srcA r) (srcB r))
    | 0x196 => (pfOf r).map (fun p => .ivin c f p (predOf r.d) (srcA r) (srcB r))
    | 0x197 => some (.ivsplit c f (mBit r 22) r.d (srcA r) (srcB r))
    | 0x198 => some (.ivbis c f (mBits r 23 3) r.d (predOf r.b) (srcA r))
    | _ => none)

/-- Interval loads and stores, lanes and random streams, 0x199 to 0x1E2. -/
def decodeLanes (r : RawSlot) (c : Ctl) : Option Instr :=
  match r.op.toNat with
  | 0x199 => (ivMemOf r).map (fun f => .ivld c f r.d (memOf r))
  | 0x19A => (ivMemOf r).map (fun f => .ivst c f (memOf r) (srcC r))
  | 0x1C0 => (shflOf (mBits r 33 2)).map (fun m => .shfl c m (mBit r 32) r.d (srcA r) (srcB r) (predOf r.c))
  | 0x1C1 => some (.lpush c r.d (srcA r) (srcB r) (predOf r.c))
  | 0x1C2 => (voteOf (mBits r 32 3)).map (fun m => .vote c m (mBit r 31) r.d (predOf r.a))
  | 0x1C3 => (redOf (mBits r 31 4)).map (fun op => .redux c op (mBit r 30) r.d (srcA r))
  | 0x1C4 => (redOf (mBits r 31 4)).map (fun op => .scan c op (mBit r 30) r.d (srcA r))
  | 0x1C5 => some (.matchLanes c r.d (srcA r) (predOf r.c))
  | 0x1C6 => some (.partset c (mBits r 32 3))
  | 0x1E0 => (rngOf (mBits r 33 2)).map (fun o => .rng c o r.d (srcB r))
  | 0x1E1 => some (.rngkey c (srcA r))
  | 0x1E2 => some (.rngskip c r.d (srcA r))
  | _ => none

/-- Matrix instructions, 0x200 to 0x218. -/
def decodeMatrix (r : RawSlot) (c : Ctl) : Option Instr :=
  match r.op.toNat with
  | 0x200 => some (.talloc c r.d r.a)
  | 0x201 => some (.tfree c r.a r.b)
  | 0x202 => (tszOf (mBits r 31 2)).map (fun sz => .tld c sz (srcA r) (memOf r))
  | 0x203 => (tszOf (mBits r 31 2)).map (fun sz => .tst c sz (srcA r) (memOf r))
  | 0x204 => (matOf (mBits r 31 4)).map (fun f => .mbq c f (mBit r 30) r.a r.b)
  | 0x208 => (matOf (mBits r 31 4)).bind (fun af => (matOf (mBits r 27 4)).bind (fun bf => (accOf (mBits r 25 2)).map (fun ac =>
      .mma c af bf ac (mBits r 23 2) (mBits r 21 2) r.d r.a r.b r.c)))
  | 0x209 => (acOf (mBits r 33 2)).map (fun ac => .mzero c ac r.a)
  | 0x20A => some (.mmask c (mBit r 34) (predOf r.d) r.a)
  | 0x20B => (acOf (mBits r 33 2)).map (fun ac => .maccr c ac r.d r.a r.b)
  | 0x20C => (acOf (mBits r 33 2)).map (fun ac => .maccw c ac r.a r.b r.c)
  | 0x20D => (matOf (mBits r 31 4)).bind (fun df => (rndAt r 27).map (fun rd =>
      .mcvt c df (mBit r 30) rd (mBit r 26) (mBits r 24 2) r.a r.b))
  | 0x210 => some (.mrowmax c (mBits r 33 2) r.d r.a r.c)
  | 0x211 => some (.mrowexp c (mBit r 34) (mBits r 32 2) (mBits r 30 2) r.d r.a r.b r.c)
  | 0x218 => some (.mstat c (mBits r 31 3) r.d)
  | _ => none

/-- Memory, atomics, fences and cache maintenance, 0x280 to 0x2B1. -/
def decodeMem (r : RawSlot) (c : Ctl) : Option Instr :=
  match r.op.toNat with
  | 0x280 => (szField r).map (fun sz => .ld c sz (mBit r 29) r.d r.a (memOf r))
  | 0x281 => (szField r).map (fun sz => .st c sz (memOf r) (srcC r))
  | 0x282 => (szField r).map (fun sz => .ldu c sz (mBit r 29) r.d r.a (memOf r))
  | 0x283 => (szField r).map (fun sz => .lds c sz r.d (scrOf r))
  | 0x284 => (szField r).map (fun sz => .sts c sz (scrOf r) (srcC r))
  | 0x285 => (szField r).map (fun sz => .gather c sz (mBit r 29) r.d r.a (memOf r))
  | 0x286 => (szField r).map (fun sz => .scatter c sz (mBit r 29) r.a r.c (memOf r))
  | 0x287 => some (.pref c (mBit r 31) (memOf r))
  | 0x290 => (atomField r).bind (fun op => (scopeField r).map (fun sc =>
      .atom c op (r.a.getLsbD 5) sc r.d (memOf r) (srcC r)))
  | 0x291 => (scopeField r).map (fun sc => .acas c (r.a.getLsbD 5) sc r.d (memOf r) (srcC r))
  | 0x292 => (atomField r).bind (fun op => (scopeField r).map (fun sc => .red c op (r.a.getLsbD 5) sc (memOf r) (srcC r)))
  | 0x293 => (crOpOf (mBits r 30 3)).bind (fun op => (crFmtOf (mBits r 28 2)).map (fun f =>
      .crdecl c op f (mBits r 33 2) r.a r.b r.c))
  | 0x294 => some (.crrel c (mBits r 33 2) r.a)
  | 0x2A0 => (scopeOf (mBits r 31 4)).map (fun sc => .fence c sc)
  | 0x2A1 => some (.chend c)
  | 0x2B0 => (scopeField r).map (fun sc => .cinv c sc (memOf r) r.c)
  | 0x2B1 => some (.cwb c (memOf r) r.c)
  | _ => none

/-- Engines, counters, editions and the KV cache, 0x340 to 0x390. -/
def decodeEngine (r : RawSlot) (c : Ctl) : Option Instr :=
  let rsel := mBits r 33 2
  match r.op.toNat with
  | 0x340 => some (.wbind c (mBit r 34) r.a r.c)
  | 0x341 => some (.wkick c r.a)
  | 0x342 => some (.wdrop c r.a)
  | 0x343 => some (.wstat c r.d r.a)
  | 0x348 => some (.rcopy c r.a r.b)
  | 0x349 => (scopeField r).map (fun sc => .cntinc c sc rsel r.a r.b)
  | 0x34A => some (.cntrd c rsel r.d r.a)
  | 0x350 => some (.seal c rsel r.a r.b r.c)
  | 0x351 => some (.unseal c rsel r.a r.b)
  | 0x358 => some (.coll c r.a)
  | 0x380 => some (.kvld c (mBit r 32) rsel r.d r.a r.b (predOf r.c))
  | 0x381 => some (.kvappend c (mBit r 32) (mBit r 31) rsel r.a r.b r.c)
  | 0x382 => (kvMaskOf (mBits r 30 3)).map (fun op => .kvmask c op rsel r.a r.b)
  | 0x383 => some (.kvcompact c rsel r.a)
  | 0x384 => some (.kvfmt c rsel r.a r.b)
  | 0x385 => some (.kvprov c rsel r.a r.b)
  | 0x386 => some (.kvshare c rsel r.a r.b)
  | 0x388 => some (.graft c (mBit r 32) rsel r.a r.b)
  | 0x389 => some (.repair c rsel r.a r.b)
  | 0x38A => some (.beammap c rsel r.a r.b r.c)
  | 0x390 => some (.topk c r.a)
  | _ => none

/-- Synchronisation, work creation, speculation and system instructions, 0x3C0 to 0x3F7. -/
def decodeSystem (r : RawSlot) (c : Ctl) : Option Instr :=
  let rsel := mBits r 33 2
  match r.op.toNat with
  | 0x3C0 => some (.bar c (mBit r 26) (mBits r 27 8))
  | 0x3C1 => (barcOf (mBits r 33 2)).map (fun op => .barc c op (mBits r 29 4) (if op = .gen then r.d else r.a))
  | 0x3C2 => (barqOf (mBits r 34 1)).map (fun op =>
      .barq c op (mBit r 25) (mBits r 26 8) (if op = .arrive then r.d else r.a))
  | 0x3C3 => some (.cwait c (r.d.extractLsb' 0 2) (r.d.getLsbD 2) r.a r.b (offOf r))
  | 0x3D0 => some (.spawn c (mBits r 32 3) (mBits r 28 4) r.b)
  | 0x3D1 => some (.launch c rsel r.a)
  | 0x3D8 => some (.shoot c rsel r.d r.a r.b)
  | 0x3D9 => some (.resolve c r.d r.a r.b)
  | 0x3DA => some (.role c rsel)
  | 0x3F0 => some (.trap c (immOf r))
  | 0x3F1 => (resumeOf (mBits r 33 2)).map (fun m => .resume c m r.a)
  | 0x3F2 => some (.sread c (mBit r 20) r.d ((immOf r).extractLsb' 0 12))
  | 0x3F3 => some (.swrite c (mBit r 20) ((immOf r).extractLsb' 0 12) r.a)
  | 0x3F4 => some (.tlbinv c (mBit r 31) (mBit r 32) rsel r.a r.b)
  | 0x3F5 => some (.brk c (immOf r))
  | 0x3F6 => some (.ckpt c (mBit r 34) r.a)
  | 0x3F7 => some (.pwrhint c ((immOf r).extractLsb' 0 3))
  | _ => none

/-- The instruction a slot's fields would name if every reserved bit were 0. -/
def candidate (r : RawSlot) (c : Ctl) : Option Instr :=
  let o := r.op.toNat
  if o < 0x040 then decodeControl r c
  else if o < 0x060 then decodeInt r c
  else if o < 0x080 then decodeMove r c
  else if o < 0x100 then decodeImm r c
  else if o < 0x130 then decodeFloat r c
  else if o < 0x180 then decodeConv r c
  else if o < 0x199 then decodeInterval r c
  else if o < 0x200 then decodeLanes r c
  else if o < 0x280 then decodeMatrix r c
  else if o < 0x340 then decodeMem r c
  else if o < 0x3C0 then decodeEngine r c
  else decodeSystem r c

/-- Why a slot is refused (R70, step 4). -/
inductive DecErr where
  | reservedField
  deriving DecidableEq, Repr

/-- Decodes a slot (R70, steps 3 and 4): an unassigned opcode is the row ILLEGAL_OPCODE, a slot that is not exactly the word of a
well-formed instruction a reserved field. -/
def decode (w : Slot) : Except DecErr Instr :=
  if opAssigned (w.extractLsb' 70 10).toNat then
    match (ctlOf (rawOfSlot w)).bind (candidate (rawOfSlot w)) with
    | some i => if i.wf && decide (encode i = some w) then .ok i else .error .reservedField
    | none => .error .reservedField
  else .ok (.illegalOpcode w)

/-! ### Fetch lines -/

/-- A little-endian number from bytes (R5). -/
def leNat (bs : List Byte) : Nat :=
  match bs with
  | [] => 0
  | b :: rest => b.toNat + 256 * leNat rest

/-- n bytes of a number, lowest first (R5). -/
def leBytes (n v : Nat) : List Byte :=
  match n with
  | 0 => []
  | k + 1 => BitVec.ofNat 8 v :: leBytes k (v / 256)

/-- The line word of a fetch line (R36). -/
def lineWord (line : List Byte) : Word := BitVec.ofNat 32 (leNat (line.take 4))

/-- Slot k of a fetch line (R36). -/
def lineSlot (line : List Byte) (k : Nat) : Slot := BitVec.ofNat 80 (leNat ((line.drop (4 + 10 * k)).take 10))

/-- Number of ones among the low n bits. -/
def onesIn (n v : Nat) : Nat :=
  match n with
  | 0 => 0
  | k + 1 => v % 2 + onesIn k (v / 2)

/-- LPAR is right: bits 31:14 hold an even number of ones (R38). -/
def lparOk (lw : Word) : Bool := decide (onesIn 18 (lw.toNat / 2 ^ 14) % 2 = 0)

/-- SPAR of slot k is right (R38). -/
def sparOk (lw : Word) (k : Nat) (w : Slot) : Bool :=
  decide ((onesIn 80 w.toNat + (if lw.getLsbD (15 + k) then 1 else 0)) % 2 = 0)

/-- The reserved bits and PAIR of a line word are right (R39). -/
def lineWordOk (lw : Word) : Bool :=
  decide (lw.extractLsb' 0 14 = 0) && decide (lw.extractLsb' 21 5 &&& (lw.extractLsb' 22 4).setWidth 5 = 0)

/-- TARGETS of slot k (R37). -/
def lineTarget (lw : Word) (k : Nat) : Bool := lw.getLsbD (26 + k)

/-- PAIR of slots j and j + 1 (R37). -/
def linePair (lw : Word) (j : Nat) : Bool := decide (j < 5) && lw.getLsbD (21 + j)

/-- The line word of six slots with the given TARGETS and no PAIR (R37, R38). -/
def mkLineWord (targets : BitVec 6) (slots : List Slot) : Word :=
  let spar := (slots.take 6).foldr (fun w acc => 2 * acc + onesIn 80 w.toNat % 2) 0
  let v := targets.toNat * 2 ^ 26 + spar * 2 ^ 15
  BitVec.ofNat 32 (v + onesIn 32 v % 2 * 2 ^ 14)

/-- A fetch line from a line word and its slots (R36). -/
def mkLine (lw : Word) (slots : List Slot) : List Byte :=
  leBytes 4 lw.toNat ++ (slots.map (fun w => leBytes 10 w.toNat)).flatten

/-- The instruction the decoder reads from a slot whose bits are w; the table gives every row a whole slot at most, and bits
above nbits are 0. -/
def decodeTableWord (nbits w : Nat) : Option Instr :=
  match decode (BitVec.ofNat 80 (w % 2 ^ nbits)) with
  | .ok i => some i
  | .error _ => none

end Sys2Proof
end

