-- ==== Sys2Proof/Machine/Control.lean ====
section
/-! DEFINITION. Control flow: checked transfers, the split table, branches, calls, JOIN, EXIT, SLEEP (R43 to R45, R393 to R408). -/

namespace Sys2Proof.Machine

/-! ### Checked transfers (R45) -/

/-- What a checked transfer to a PC raises: LINE_TARGET, or the cause for which its line cannot be fetched. -/
def targetTrap (s : State) (w : Warp) (pc : DWord) : Option TrapReq :=
  if !wellPlaced pc then some (raiseAt .lineTarget pc) else
  match fetchLine s w pc with
  | .error t => some { t with addr := pc }
  | .ok (_, line) => if lineTarget (lineWord line) (pc.toNat % 8) then none else some (raiseAt .lineTarget pc)

/-- The first failure among several targets. -/
def targetsTrap (s : State) (w : Warp) (pcs : List DWord) : Option TrapReq := pcs.findSome? (targetTrap s w)

/-- A target by slot offset (R44); one out of range raises LINE_TARGET, whose ADDR is then T itself, a linear slot number, since no PC exists
(R45; DESIGN CHOICE, log 89). -/
def offsetTarget (pc : DWord) (d : Int) : Xl DWord :=
  match ofLinear ((linear pc : Int) + d) with
  | none => .error (raiseAt .lineTarget (BitVec.ofInt 64 ((linear pc : Int) + d)))
  | some t => .ok t

/-! ### The split table (R393 to R398) -/

/-- Whether PID p is, or leads through outer PIDs to, record k (R395). -/
def underRecord (fuel : Nat) (recs : List SplitRec) (p k : Nat) : Bool :=
  match fuel with
  | 0 => false
  | n + 1 =>
    if p = 0 then false
    else if p = k then true
    else match recs.find? (fun r => r.id == p) with
      | none => false
      | some r => underRecord n recs r.outer k

/-- Fragments that descend from a record (R395). -/
def descendants (r : Regs) (k : Nat) : List Frag := r.frags.filter (fun f => underRecord 10 r.splits f.pid k)

/-- Free a record with a single descendant: its outer stands in its place; a fragment of it parked at a JOIN goes on (R395, R396); what its
fragments have used, those that have exited too, counts as that descendant's own use (R399). -/
def freeRecord (r : Regs) (k : SplitRec) : Regs :=
  { r with
    sib := r.sib.map (fun u => if !u.recs.contains k.id then u else
      { u with lanes := (descendants r k.id).foldl (fun m f => m ||| f.mask) u.lanes, recs := u.recs.filter (fun x => x != k.id) })
    splits := (r.splits.filter (fun x => x.id != k.id)).map (fun x => if x.outer = k.id then { x with outer := k.outer } else x)
    frags := r.frags.map (fun f =>
      if f.pid = k.id then
        { f with pid := k.outer, park := if f.park = .join then .run else f.park, pc := if f.park = .join then nextPc f.pc else f.pc }
      else f) }

/-- Free records until every one has two descendants (R395). -/
def freeRecords (fuel : Nat) (r : Regs) : Regs :=
  match fuel with
  | 0 => r
  | n + 1 =>
    match r.splits.find? (fun k => decide ((descendants r k.id).length < 2)) with
    | none => r
    | some k => freeRecords n (freeRecord r k)

/-- Let the held fragment go when there is room for it (R370). -/
def releaseHeld (r : Regs) : Regs :=
  if (r.frags.filter (fun f => !f.held)).length < 8 then { r with frags := r.frags.map (fun f => { f with held := false }) } else r

/-- The split table after a fusion or an exit (R370, R395). -/
def Regs.settle (r : Regs) : Regs := releaseHeld (freeRecords 9 r)

/-- Two fragments parked at one JOIN fuse (R396). -/
def fusePair (a b : Frag) : Frag :=
  { a with mask := a.mask ||| b.mask, part := if b.part.toNat < a.part.toNat then b.part else a.part, last := min a.last b.last,
           since := min a.since b.since, clock := clockJoin a.clock b.clock }

/-- Fuse every fragment parked like f into it (R396); what one of them has used counts as the fused fragment's own use (R399). -/
def fuseAt (r : Regs) (f : Frag) : Regs :=
  let same (x : Frag) : Bool := x.id != f.id && x.park == .join && x.pid == f.pid && x.pc == f.pc
  let fused := (r.frags.filter same).foldl fusePair f
  { r with
    frags := (r.frags.filter (fun x => !same x)).map (fun x => if x.id = f.id then fused else x)
    sib := r.sib.map (fun u => if u.lanes &&& fused.mask = 0 then u else { u with lanes := u.lanes ||| fused.mask }) }

/-- Groups of lanes by next PC, by lowest lane (R394). -/
def groupsOf (ls : List Nat) (next : Nat → DWord) : List (DWord × List Nat) :=
  (nub (ls.map next)).map (fun pc => (pc, ls.filter (fun l => next l == pc)))

/-- What a split does: the new fragments and records, and the lanes that leave. none: the slot does not issue (DEDUCED, log 36). -/
def splitFrag (s : State) (w : Warp) (f : Frag) (next : Nat → DWord) : Option (Warp × List Nat) :=
  let gs := groupsOf (lanesOf f.mask) next
  match gs with
  | [] => some (w, [])
  | [g] => some ({ w with regs := w.regs.mapFrag f.id (fun x => { x with pc := g.1 }) }, lanesOf f.mask)
  | g1 :: others =>
    let plain := (w.regs.frags.filter (fun x => !x.held)).length
    let holdFree := !w.regs.frags.any (·.held)
    let free := (8 - plain) + (if holdFree then 1 else 0)
    if free = 0 then none else
    let k := (lowestFree 9 (0 :: w.regs.splits.map (·.id))).getD 8
    let record : SplitRec := { id := k, lanes := f.mask, outer := f.pid }
    let whole := decide (others.length ≤ free)
    let news := if whole then others else gs.take free
    let stamp := clockGet f.clock (threadOf w.id f.id)
    let mk (x : (DWord × List Nat) × Nat) : Frag :=
      { f with id := w.nextFrag + x.2, mask := maskOf x.1.2, pc := x.1.1, pid := k, held := decide (8 < plain + x.2 + 1), park := .run,
               since := s.dev.wall.toNat, yields := false, ask := none, clock := clockRaise f.clock (threadOf w.id (w.nextFrag + x.2)) 1 }
    let stay := if whole then g1.2 else (gs.drop free).flatMap (·.2)
    some
      ({ w with
         nextFrag := w.nextFrag + news.length
         regs := { w.regs with
           splits := w.regs.splits ++ [record]
           frags := w.regs.frags.map (fun x => if x.id = f.id then
               { x with mask := maskOf stay, pc := if whole then g1.1 else f.pc, pid := k,
                        clock := clockRaise x.clock (threadOf w.id f.id) (stamp + 1) }
             else x) ++ news.zipIdx.map mk } },
       if whole then lanesOf f.mask else news.flatMap (·.2))

/-- A transfer: the executing lanes go where go gives, the others to the next slot; with U = 1 the whole fragment goes where its
lowest lane goes. Every taken path is checked, and no lane moves if one fails (R394, R401, R405). out gives the register results of the
lanes that go and leave. -/
def transfer (c : Ctl) (s : State) (g : Go) (go : Nat → Option (Xl DWord)) (out : List Nat → List RegWrite) : Act :=
  let takers := g.lanes.filter (fun l => (go l).isSome)
  match takers.findSome? (fun l => match go l with
    | some (.error t) => some t
    | some (.ok _) => none
    | none => none) with
  | some t => { trap := some t }
  | none =>
    let dest (l : Nat) : DWord := match go l with
      | some (.ok t) => t
      | some (.error _) => nextPc g.f.pc
      | none => nextPc g.f.pc
    match targetsTrap s g.w (nub (takers.map dest)) with
    | some t => { trap := some t }
    | none =>
      let next (l : Nat) : DWord :=
        if c.u then (if takers.isEmpty then nextPc g.f.pc else dest (takers.headD 0))
        else if takers.contains l then dest l else nextPc g.f.pc
      match splitFrag s g.w g.f next with
      | none => { wait := true, ask := some .table }
      | some (_, left) =>
        { writes := out (takers.filter (fun l => left.contains l))
          stays := true
          warp := fun w => match splitFrag s w g.f next with
            | none => w
            | some (w', _) => w' }

/-! ### The instructions -/

/-- NOP (R407). -/
def execNop (c : Ctl) (s : State) : Host.Outcome State Fault Refusal := issue c (needs [] [] 0) (fun _ => { }) s

/-- BRA (R401). -/
def execBra (c : Ctl) (off : BitVec 26) (s : State) : Host.Outcome State Fault Refusal :=
  issue c (needs [] [] 0) (fun g => transfer c s g (fun _ => some (offsetTarget g.f.pc off.toInt)) (fun _ => [])) s

/-- BR3 (R402). -/
def execBr3 (c : Ctl) (p : BitVec 3) (off : BitVec 26) (off2 : BitVec 16) (s : State) : Host.Outcome State Fault Refusal :=
  issue c { needs [] [] 0 with preds := [p.toNat] } (fun g =>
    transfer c s g (fun l => match g.tri p.toNat l with
      | .yes => some (offsetTarget g.f.pc off.toInt)
      | .undecided => some (offsetTarget g.f.pc off2.toInt)
      | .no => none) (fun _ => [])) s

/-- BRX (R403). -/
def execBrx (c : Ctl) (a : Src) (s : State) : Host.Outcome State Fault Refusal :=
  issue c (needs [] [srcField a 1] 0) (fun g =>
    transfer c s g (fun l => some (offsetTarget g.f.pc (g.rd 0 0 l).toInt)) (fun _ => [])) s

/-- CALL: the link of the lanes that go is the PC after it (R404). -/
def execCall (c : Ctl) (d : BitVec 8) (off : BitVec 26) (s : State) : Host.Outcome State Fault Refusal :=
  issue c (needs [dstField c.u d 2] [] 0) (fun g =>
    transfer c s g (fun _ => some (offsetTarget g.f.pc off.toInt)) (fun ls => putPair c.u d.toNat ls (fun _ => nextPc g.f.pc))) s

/-- RET (R404). -/
def execRet (c : Ctl) (a : Src) (s : State) : Host.Outcome State Fault Refusal :=
  issue c (needs [] [srcField a 2] 0) (fun g => transfer c s g (fun l => some (.ok (g.rd2 0 0 l))) (fun _ => [])) s

/-- JOIN (R396). -/
def execJoin (c : Ctl) (s : State) : Host.Outcome State Fault Refusal :=
  issue c (needs [] [] 0) (fun g =>
    if g.f.pid = 0 then { }
    else
      { stays := true
        warp := fun w =>
          let r := w.regs.mapFrag g.f.id (fun f => { f with park := .join })
          match r.frags.find? (fun f => f.id == g.f.id) with
          | none => w
          | some f => { w with regs := (fuseAt r f).settle } }) s

/-- EXIT: its lanes leave when its chunk commits (R406). -/
def execExit (c : Ctl) (s : State) : Host.Outcome State Fault Refusal :=
  issueWith c (needs [] [] 0) (fun _ => { ends := true })
    (fun g => { ends := true, after := [.exit g.f.id (maskOf g.lanes)] }) s

/-- YIELD: NOP with Y = 1 (R69, R407). -/
def execYield (c : Ctl) (s : State) : Host.Outcome State Fault Refusal :=
  issue c (needs [] [] 0) (fun g =>
    { warp := fun w => { w with regs := w.regs.mapFrag g.f.id (fun f => { f with yields := !c.sw }) } }) s

/-- DRAIN: waits for every pending tag, pass and copy, then writes all held results (R66, R210, R407). -/
def execDrain (c : Ctl) (s : State) : Host.Outcome State Fault Refusal :=
  issue c (needs [] [] 0) (fun g =>
    if drainWaits s g.w false then { wait := true } else
    match drainTrap g.w with
    | some (t, f) => { trap := some t, atTrap := f }
    | none => { warp := Warp.drain }) s

/-- SLEEP (R408). -/
def execSleep (c : Ctl) (ns : Word) (s : State) : Host.Outcome State Fault Refusal :=
  issueWith c (needs [] [] 0) (fun _ => { ends := true }) (fun g => { ends := true, after := [.sleep g.f.id ns.toNat] }) s

end Sys2Proof.Machine
end

