-- ==== Sys2Proof/Machine/Sync.lean ====
section
/-! DEFINITION. Barriers, counted waits, work creation and speculation as they issue (R411, R416 to R425): BAR, BARC, BARQ, CWAIT, SPAWN,
LAUNCH, SHOOT, RESOLVE, ROLE. What they do at their chunk's position stands in Commit.lean. -/

namespace Sys2Proof.Machine

/-! ### Barriers (R416 to R418) -/

/-- The barrier that BAR and BARQ name; GROUP_ABSENT where the group is not there or does not hold the task (R373, R416). -/
def barrierNamed (s : State) (w : Warp) (task : Bool) (group : Nat) : Xl BarId :=
  if task then .ok (.task w.task) else
  match s.task? w.task, s.launchOf w with
  | some t, some l =>
    if t.spawned || !(l.groups[group]?).any (fun g => g.has w.taskid.toNat) then .error (raiseD .groupAbsent (BitVec.ofNat 32 group))
    else .ok (.group l.uid group)
  | _, _ => .error (raiseD .groupAbsent (BitVec.ofNat 32 group))

/-- A drain that an instruction makes: the tags that stood before it are written and freed; one it allocates itself stays. -/
def drainBefore (old w : Warp) : Warp :=
  (w.consume (fun e => drains old e && old.regs.tags.any (fun x => x.seq == e.seq))).deliverFlags false

/-- Drain before a barrier instruction arrives (R66, R417): its wait, what it raises, else its effect on the drained warp. -/
def drained (s : State) (g : Go) (k : Act) : Act :=
  if drainWaits s g.w false then { wait := true } else
  match drainTrap g.w with
  | some (t, f) => { trap := some t, atTrap := f }
  | none => { k with warp := fun w => k.warp (drainBefore g.w w) }

/-- BAR (R417). -/
def execBar (c : Ctl) (task : Bool) (group : BitVec 8) (s : State) : Host.Outcome State Fault Refusal :=
  issueWith c (needs [] [] 0) (fun _ => { ends := true }) (fun g =>
    match barrierNamed s g.w task group.toNat with
    | .error t => { trap := some t }
    | .ok b => drained s g { ends := true, after := [.bar g.f.id b] }) s

/-- BARQ (R417). -/
def execBarq (c : Ctl) (op : BarqOp) (task : Bool) (group r : BitVec 8) (s : State) : Host.Outcome State Fault Refusal :=
  issueWith c (needs (if op = .arrive then [dstField true r 2] else []) (if op = .arrive then [] else [uniField r 2]) 0)
    (fun _ => { ends := true }) (fun g =>
    match barrierNamed s g.w task group.toNat with
    | .error t => { trap := some t }
    | .ok b =>
      drained s g (match op with
        | .arrive =>
          { ends := true, awaits := .commit, own := true, entry := fun e => { e with dst := r.toNat, duni := true, width := 2 }
            after := [.barqArrive g.f.id b c.alloc.toNat r.toNat] }
        | .wait => { ends := true, after := [.barqWait g.f.id b (g.rd2 0 0 0).toNat] })) s

/-- The limits of BARC that its operands alone decide (R418). -/
def barcArgs (g : Go) (op : BarcOp) : Option TrapReq :=
  let a := g.rd 0 0 0
  match op with
  | .init => firstBad [(decide (wfield [a] 0 0 16 = 0), 0, 0), (decide (wfield [a] 0 19 13 ≠ 0), 0, 19)]
  | .arrive => firstBad [(decide (a = 0) || decide (65535 < a.toNat), 0, 0)]
  | .wait => none
  | .gen => none

/-- BARC (R418). -/
def execBarc (c : Ctl) (op : BarcOp) (cb : BitVec 4) (r : BitVec 8) (s : State) : Host.Outcome State Fault Refusal :=
  issueWith c (needs (if op = .gen then [dstField true r 2] else [])
      (match op with
        | .gen => []
        | .wait => [uniField r 2]
        | .init => [uniField r 1]
        | .arrive => [uniField r 1]) 0)
    (fun _ => { ends := true }) (fun g =>
    match barcArgs g op with
    | some t => { trap := some t }
    | none =>
      let a := g.rd 0 0 0
      match op with
      | .init => { ends := true, after := [.barcInit cb.toNat (wfield [a] 0 0 16) (wfield [a] 0 16 3)] }
      | .arrive => { ends := true, after := [.barcArrive cb.toNat a.toNat g.f.clock] }
      | .wait => { ends := true, after := [.barcWait g.f.id cb.toNat (g.rd2 0 0 0).toNat] }
      | .gen =>
        { ends := true, awaits := .commit, own := true, entry := fun e => { e with dst := r.toNat, duni := true, width := 2 }
          after := [.barcGen cb.toNat c.alloc.toNat r.toNat] }) s

/-! ### CWAIT (R420, R421) -/

/-- CWAIT (R421). -/
def execCwait (c : Ctl) (rsel : BitVec 2) (cont : Bool) (a b : BitVec 8) (off : BitVec 26) (s : State) :
    Host.Outcome State Fault Refusal :=
  issueWith c (needs [] [uniField a 2, uniField b 2] 0) (fun _ => { ends := true }) (fun g =>
    let goTo : Xl (Option DWord) :=
      if !cont then .ok none else
      match offsetTarget g.f.pc off.toInt with
      | .error t => .error t
      | .ok pc => match targetTrap s g.w pc with
        | some t => .error t
        | none => .ok (some pc)
    match counterSpot s g.w false 6 rsel.toNat (g.rd2 0 0 0), goTo with
    | .error t, _ => { trap := some t }
    | .ok _, .error t => { trap := some t }
    | .ok _, .ok k => { ends := true, after := [.cwait g.f.id rsel.toNat (g.rd2 0 0 0) (g.rd2 1 0 0) k] }) s

/-! ### SPAWN (R422, R372) -/

/-- SPAWN. -/
def execSpawn (c : Ctl) (qn : BitVec 3) (wm1 : BitVec 4) (b : BitVec 8) (s : State) : Host.Outcome State Fault Refusal :=
  issue c { needs [] [uniField b 1] 0 with ports := [56 + qn.toNat] } (fun g =>
    if !bindsSpawn g.w qn.toNat then { trap := some (raiseD .spawnBind (BitVec.ofNat 32 qn.toNat)) }
    else if !(s.launchOf g.w).any (fun l => decide (wm1.toNat < launchWpt l.desc)) then { trap := some (argRange 0 0) }
    else
    spawnGate s g qn.toNat
      { chunk := fun k => { k with spawns := k.spawns ++ [
          { launch := g.w.launch, entryOff := entryD g.w qn.toNat, warps := wm1.toNat + 1, mask := BitVec.allOnes 32, taskid := g.w.taskid,
            spawnix := childIndex (launchSeed s g.w) 0x5350415700000000 g.w.taskid g.w.spawnix (BitVec.ofNat 32 g.w.warpid) g.w.regs.spcnt,
            uregs := g.w.regs.u, s0 := some (g.rd 0 0 0), vregs := [], path := g.w.path, warp := g.w.id, clock := g.f.clock }] }
        warp := fun w => { w with regs := { w.regs with spcnt := w.regs.spcnt + 1 } } }) s

/-! ### LAUNCH and SHOOT (R355, R423, R424) -/

/-- A launch read and checked: the record it takes, or why not. grid: the predicted value of a SHOOT. -/
def launchAct (s : State) (g : Go) (rsel : Nat) (off : DWord) (grid : Option Word) (k : Nat → Act) : Act :=
  match freeRecord? s g.w.part with
  | none => { wait := true, ask := some .table }
  | some num =>
    let uid := s.model.nextId
    match launchRead s (warpIssuer s g.w g.f rsel) off uid with
    | .error t => { trap := some t }
    | .ok a =>
      if !lockRoom s (dieOf g.w.core) a.listCount then { wait := true, ask := some .table } else
      let locks := listLocks s g.w a uid (uid + 1)
      let l := withGroups s (newLaunch (warpIssuer s g.w g.f rsel) a num uid grid (locks.map (·.id)))
      if groupsRefused s l then
        { trap := some (raiseIn .launchInvalid (g.w.realmOf rsel) off) }
      else
        let a1 := k uid
        { a1 with
          ends := true
          reads := a.reads
          after := .launch uid :: a1.after
          upds := inOrder [fun _ => [.launch l], addLocks locks, useIds (1 + locks.length)] }

/-- LAUNCH (R423). -/
def execLaunch (c : Ctl) (rsel : BitVec 2) (a : BitVec 8) (s : State) : Host.Outcome State Fault Refusal :=
  issueWith c (needs [] [uniField a 2] 0) (fun _ => { ends := true }) (fun g => launchAct s g rsel.toNat (g.rd2 0 0 0) none (fun _ => { })) s

/-- SHOOT: the child's path is chosen at its position (R424). -/
def execShoot (c : Ctl) (rsel : BitVec 2) (d a b : BitVec 8) (s : State) : Host.Outcome State Fault Refusal :=
  issueWith c (needs [dstField true d 1] [uniField a 2, uniField b 1] 0) (fun _ => { ends := true }) (fun g =>
    launchAct s g rsel.toNat (g.rd2 0 0 0) (some (g.rd 1 0 0)) (fun uid =>
      { awaits := .commit, own := true, entry := fun e => { e with dst := d.toNat, duni := true, width := 1 }
        after := [.shoot uid c.alloc.toNat d.toNat] })) s

/-- RESOLVE (R425). -/
def execResolve (c : Ctl) (d a b : BitVec 8) (s : State) : Host.Outcome State Fault Refusal :=
  issueWith c (needs [dstField true d 1] [uniField a 1, uniField b 1] 0) (fun _ => { ends := true }) (fun g =>
    let x := (g.rd 0 0 0).toNat
    let n := (g.rd 1 0 0).toNat
    let path : Path := BitVec.ofNat 16 x
    if 2 ^ 16 ≤ x then { trap := some (argRange 0 16) }
    else if 2 ^ 8 ≤ n then { trap := some (argRange 1 8) }
    else if !wellFormedPath path then { trap := some (raiseD .shootLimit (path.setWidth 32)) }
    else
      { ends := true, awaits := .commit, own := true, entry := fun e => { e with dst := d.toNat, duni := true, width := 1 }
        after := [.resolve path n c.alloc.toNat d.toNat] }) s

/-- ROLE (R411). -/
def execRole (c : Ctl) (r : BitVec 2) (s : State) : Host.Outcome State Fault Refusal :=
  issue c (needs [] [] 0) (fun _ => { warp := fun w => { w with regs := { w.regs with role := r.setWidth 32 } } }) s

end Sys2Proof.Machine
end

