-- ==== Sys2Proof/Machine/System.lean ====
section
/-! DEFINITION. System registers (R23, R409, R429, R490, R493) and the system instructions as they issue: TRAP, BRK, RESUME, SREAD, SWRITE,
TLBINV, CKPT, PWRHINT (R491 to R497), and the slot of no assigned opcode (R78). -/

namespace Sys2Proof.Machine

/-! ### Access (R429, R490) -/

/-- The access a level has to a register. -/
inductive SysAccess where
  | none
  | read
  | both
  deriving DecidableEq, Repr

/-- Access of a level (0 user, 1 supervisor, 2 manager) to a system register; a register that is written only reads 0 (R12). -/
def sysAccess (num level : Nat) : SysAccess :=
  let by_ (u v m : SysAccess) : SysAccess := match level with
    | 0 => u
    | 1 => v
    | _ => m
  if num ≤ 0x008 then .read
  else if num ≤ 0x013 then .both
  else if num ≤ 0x01F then by_ .read .both .both
  else if num ≤ 0x021 then .read
  else if num = 0x022 then .both
  else if num ≤ 0x042 then by_ .read .both .both
  else if num = 0x043 then by_ .none .both .both
  else if num = 0x044 then by_ .read .both .both
  else if num ≤ 0x055 then by_ .none .both .both
  else if num = 0x056 then by_ .none .read .read
  else if num = 0x080 then by_ .none .read .both
  else if num = 0x081 then by_ .none .read .read
  else if num ≤ 0x0DF then by_ .none .none .both
  else if num ≤ 0x0EF then by_ .none .both .both
  else if num ≤ 0x0F7 then by_ .none .none .both
  else by_ .none .none .read

/-- A register of which each partition has its own copy (R429). -/
def sysPerPart (num : Nat) : Bool :=
  decide (0x040 ≤ num) && decide (num ≤ 0x056) && num != 0x055

/-- A register that follows PARTCTL.PART at manager level whatever REDIR holds (R429, R477). -/
def sysFollows (num : Nat) : Bool :=
  num == 0x055 || (decide (0x0D0 ≤ num) && decide (num ≤ 0x0DF)) || decide (0x100 ≤ num)

/-- PARTCTL.PART and PARTCTL.REDIR (R433). -/
def partSelected (s : State) : Nat := wfield [s.dev.partctl] 0 8 3
def partRedir (s : State) : Bool := s.dev.partctl.getLsbD 11

/-- The partition whose copy a warp reaches (R429). -/
def sysPart (s : State) (w : Warp) (num : Nat) : Nat :=
  if w.level = 2 && (sysFollows num || (sysPerPart num && partRedir s)) then partSelected s else w.part

/-- The window that MBWSEL selects, and its words (R447). MBWSEL and APSEL have no field map: the model keeps all 32 bits, none of them
reserved, and selects modulo 64 and 32 (DESIGN CHOICE, log 88). -/
def windowSelected (s : State) : Nat := s.net.mbwsel.toNat % 64
def windowWords (s : State) : List Word := s.net.windows.getD (windowSelected s) []

/-- The aperture that APSEL selects (R451; DESIGN CHOICE, log 88). -/
def aperSelected (s : State) : Nat := s.net.apsel.toNat % 32

/-- PRIV, with the register's number or 0x1000 for an instruction (R467). -/
def privTrap (n : Nat) : TrapReq := raiseD .priv (BitVec.ofNat 32 n)

/-- What an access raises before anything is read or written (R429, R447). -/
def sysRefused (s : State) (w : Warp) (num : Nat) : Option TrapReq :=
  if sysAccess num w.level = .none then some (privTrap num)
  else if decide (0x0E8 ≤ num) && decide (num ≤ 0x0EF) && decide (w.level = 1) && decide (wfield (windowWords s) 0 28 3 ≠ w.part) then some (privTrap num)
  else if w.level = 2 && (sysFollows num || (sysPerPart num && partRedir s)) && (s.part? (sysPart s w num)).any (fun p => p.state == .absent) then
    some (argRange 0 0)
  else none

/-! ### Reading (R493) -/

/-- VACATE as it reads (R384). -/
def vacateWord (p : Part) : Word := p.vacate

/-- The value of a register of a partition. -/
def partRegister (p : Part) (num : Nat) : DWord :=
  let w32 (x : Word) : DWord := x.setWidth 64
  match num with
  | 0x040 => w32 p.wdog
  | 0x041 => w32 p.collto
  | 0x042 => w32 p.spawncap
  | 0x043 => w32 p.vacate
  | 0x044 => w32 p.repthr
  | 0x045 => w32 p.kvpool
  | 0x046 => p.vspill
  | 0x050 => w32 p.trapctl
  | 0x051 => p.trapbase
  | 0x052 => p.hvec
  | 0x053 => p.ctxbase
  | 0x054 => w32 p.ctxctl
  | 0x055 => w32 p.dbgctl
  | 0x056 => w32 p.eccnt
  | n => if 0x100 ≤ n then w32 (wordAt p.haltRec (n - 0x100)) else 0

/-- The value of a register as a warp's fragment reads it in a lane (R493). -/
def sysValue (s : State) (w : Warp) (f : Frag) (num lane : Nat) : DWord :=
  let n (k : Nat) : DWord := BitVec.ofNat 64 k
  let w32 (x : Word) : DWord := x.setWidth 64
  match num with
  | 0x000 => n lane
  | 0x001 => n w.warpid
  | 0x002 => w32 w.taskid
  | 0x003 => n w.core
  | 0x004 => w.path.setWidth 64
  | 0x005 => w32 w.spawnix
  | 0x006 => n w.level
  | 0x007 => n w.part
  | 0x008 => w32 w.detctl
  | 0x010 => f.part.setWidth 64
  | 0x011 => w32 w.regs.role
  | 0x012 => w32 w.regs.fpctl
  | 0x013 => w32 w.regs.fpstat
  | 0x020 => w.clock
  | 0x021 => s.dev.wall
  | 0x022 => w.timer
  | 0x080 => w32 s.net.ualto
  | 0x081 => w32 s.dev.bootstat
  | 0x0C0 => w32 (s.dev.partctl &&& 0x800F0F00)
  | 0x0C1 => w32 s.dev.pdesclo
  | 0x0C2 => w32 s.dev.pdeschi
  | 0x0E0 => w32 s.net.mbwsel
  | 0x0F0 => w32 s.net.apsel
  | k =>
    if 0x018 ≤ k ∧ k ≤ 0x01F then w32 (w.regs.qbind.getD (k - 0x018) 0)
    else if 0x0E8 ≤ k ∧ k ≤ 0x0EF then w32 (wordAt (windowWords s) (k - 0x0E8))
    else if 0x0F4 ≤ k ∧ k ≤ 0x0F7 then w32 (wordAt (s.net.apertures.getD (aperSelected s) []) (k - 0x0F4))
    else ((s.part? (sysPart s w k)).map (fun p => partRegister p k)).getD 0

/-- Reading ECCCNT clears it (R489). -/
def clearEcc (part : Nat) : State → List Upd := onPart part (fun p => { p with eccnt := 0 })

/-- SREAD (R493; DEDUCED, log 67). -/
def execSread (c : Ctl) (x2 : Bool) (d : BitVec 8) (num : BitVec 12) (s : State) : Host.Outcome State Fault Refusal :=
  issue c (needs [dstField c.u d (if x2 then 2 else 1)] [] 0) (fun g =>
    match sysRefused s g.w num.toNat with
    | some t => { trap := some t }
    | none =>
      let v (l : Nat) : DWord := sysValue s g.w g.f num.toNat l
      { writes := if x2 then putPair c.u d.toNat g.lanes v else putWord c.u d.toNat g.lanes (fun l => lowWord (v l))
        upds := if num = 0x056 then clearEcc (sysPart s g.w num.toNat) else fun _ => [] }) s

/-! ### Writing (R13, R429, R493) -/

/-- The bits of a register that are reserved (R13). -/
def sysReserved (num : Nat) : DWord :=
  match num with
  | 0x010 => 0xFFFFFFF8
  | 0x011 => 0xFFFFFFFC
  | 0x012 => 0xFFFFF80C
  | 0x013 => 0xFFFFFE40
  | 0x042 => 0xFFFF0000
  | 0x043 => 0x3E00FE00
  | 0x045 => 0xF0000000
  | 0x046 => 0xFFFF
  | 0x051 => 0xFFFF
  | 0x053 => 0xFFFFF
  | 0x054 => 0xFFFF00FC
  | 0x055 => 0x7FFFFFFC
  | 0x080 => 0xFFFF0000
  | 0x0C0 => 0x7FF0F0F8
  | 0x0C1 => 0x7F
  | 0x0C2 => 0xFFF00000
  | 0x0E8 => 0x03F00000
  | 0x0EF => 0xFF000000
  | 0x0F4 => 0x03FF0000
  | 0x0F7 => 0xFFF00000
  | _ => 0

/-- A value no field of the register takes (R175, R327, R412, R433, R447). A reserved value of a defined field for which no rule names a
cause, PARTCTL.OP 5 to 7 and window KIND 3, raises RESERVED_FIELD too (DESIGN CHOICE, log 87). -/
def sysBadValue (num : Nat) (v : DWord) : Bool :=
  let x := lowWord v
  (v &&& sysReserved num) != 0
    || (num == 0x010 && decide (4 < x.toNat))
    || (num == 0x045 && decide (64 < wfield [x] 0 20 8))
    || (decide (0x018 ≤ num) && decide (num ≤ 0x01F) && qbindBad x)
    || (num == 0x0C0 && decide (4 < wfield [x] 0 0 3))
    || (num == 0x0E8 && decide (wfield [x] 0 26 2 = 3))

/-- The area of VSPILL: base and bytes (R255). -/
def vspillBase (v : DWord) : Nat := v.toNat / 2 ^ 16 % 2 ^ 36 * 2 ^ 16
def vspillSize (v : DWord) : Nat := v.toNat / 2 ^ 52 * 2 ^ 26

/-- A write of VSPILL that R255 refuses. -/
def vspillBad (s : State) (p : Part) (v : DWord) : Bool :=
  let a := vspillBase v
  let n := vspillSize v
  let units := (List.range (n / 2 ^ 34 + 2)).map (fun k => a + k * 2 ^ 34)
  (decide (0 < n) && !(units.all (fun x => decide (a + n ≤ x) || ownsAddr p x) && ownsAddr p (a + (n - 1))))
    || (s.order.versions.any (fun x => x.part == p.num && x.spilled) && (decide (vspillBase p.vspill ≠ a) || decide (n < vspillSize p.vspill)))

/-- What a write raises, the register keeping its value: reserved bits (R13), the limits of VSPILL (R255), CTXCTL.VALID (R476) and the key
slots (R446). -/
def sysWriteTrap (s : State) (w : Warp) (num : Nat) (v : DWord) : Option TrapReq :=
  if sysBadValue num v then some (raise .reservedField) else
  match s.part? (sysPart s w num) with
  | none => none
  | some p =>
    if (num == 0x046 && vspillBad s p v) || (num == 0x054 && v.getLsbD 0 && (areasFor s p (lowWord v)).isNone)
        || (decide (0x0D0 ≤ num) && decide (num ≤ 0x0DF) && p.state == .running) then some (argRange 0 0)
    else none

/-- A write waits: the window is in use and messages through it are in flight (R447). -/
def sysWriteWaits (s : State) (num : Nat) : Bool :=
  let ws := windowWords s
  decide (0x0E8 ≤ num) && decide (num ≤ 0x0EF) && wfield ws 0 31 1 == 1
    && ((wfield ws 0 26 2 == 2 && s.net.rings.any (fun r => r.part == wfield ws 0 28 3 && r.num == wfield ws 0 16 4 && !r.sends.isEmpty))
      || s.net.arrivals.any (fun a => a.part == wfield ws 0 28 3 && a.qpn == wfield ws 7 0 24))

/-- A write of VACATE.COUNT: ignored while BUSY; else SHORT clears, and above HELD the scheduler sets to vacate cores (R384). -/
def vacateWrite (x : Word) (p : Part) : Part :=
  if p.vacate.getLsbD 31 then p else
  let n := wfield [x] 0 0 9
  let held := wfield [p.vacate] 0 16 9
  { p with vacate := BitVec.ofNat 32 ((if held < n then 2 ^ 31 else 0) + held * 2 ^ 16 + n) }

/-- A write of DBGCTL (R486). -/
def dbgctlWrite (level : Nat) (x : Word) (p : Part) : Part :=
  { p with dbgctl := (p.dbgctl &&& 0x80000000) ||| (x &&& 2), haltLine := p.haltLine || (decide (level = 2) && x.getLsbD 0 && p.state == .running) }

/-- A write of CTXCTL: the areas are translated anew, or let go (R476). -/
def ctxctlWrite (s : State) (x : Word) (p : Part) : Part :=
  let p1 := { p with ctxctl := x, trapOff := p.trapbase, ctxOff := p.ctxbase }
  match (if x.getLsbD 0 then areasFor s p x else none) with
  | none => { p1 with trapArea := [], ctxArea := [] }
  | some a => { p1 with trapArea := a.1, ctxArea := a.2 }

/-- A write of a register of a partition. -/
def partRegisterWrite (s : State) (level num : Nat) (v : DWord) (p : Part) : Part :=
  let x := lowWord v
  match num with
  | 0x040 => { p with wdog := x }
  | 0x041 => { p with collto := x }
  | 0x042 => { p with spawncap := x }
  | 0x043 => vacateWrite x p
  | 0x044 => { p with repthr := x }
  | 0x045 => { p with kvpool := x }
  | 0x046 => { p with vspill := v }
  | 0x050 => { p with trapctl := x }
  | 0x051 => { p with trapbase := v }
  | 0x052 => { p with hvec := v }
  | 0x053 => { p with ctxbase := v }
  | 0x054 => ctxctlWrite s x p
  | 0x055 => dbgctlWrite level x p
  | n => if 0x0D0 ≤ n ∧ n ≤ 0x0DF then { p with enckey := p.enckey.set (n - 0x0D0) x } else p

/-- A write of PARTCTL: ignored while BUSY; an operation sets BUSY and keeps OP until it is done (R433). -/
def partctlWrite (x : Word) (d : Device) : Device :=
  if d.partctl.getLsbD 31 then d else
  { d with partctl := (d.partctl &&& 0x000F0000) ||| (x &&& 0xF00) ||| (if wfield [x] 0 0 3 = 0 then 0 else (x &&& 7) ||| 0x80000000) }

/-- A window word as a level may write it: PART is read-only at supervisor level (R447). -/
def windowWrite (level k : Nat) (x : Word) (ws : List Word) : List Word :=
  ws.set k (if k = 0 ∧ level ≠ 2 then (x &&& 0x8FFFFFFF) ||| (wordAt ws 0 &&& 0x70000000) else x)

/-- The effect of a write at its chunk's position, or at once for the registers of the warp itself (R493; DEDUCED, log 35). -/
def sysWrite (wid num : Nat) (v : DWord) (s : State) : List Upd :=
  match s.warp? wid with
  | none => []
  | some w =>
    let x := lowWord v
    if num = 0x022 then onWarp wid (fun y => { y with timer := v }) s
    else if 0x018 ≤ num ∧ num ≤ 0x01F then
      onWarp wid (fun y => { y with regs := { y.regs with qbind := y.regs.qbind.set (num - 0x018) x } }) s
    else if num = 0x080 then onNet (fun n => { n with ualto := x }) s
    else if num = 0x0C0 then onDev (partctlWrite x) s
    else if num = 0x0C1 then onDev (fun d => { d with pdesclo := x }) s
    else if num = 0x0C2 then onDev (fun d => { d with pdeschi := x }) s
    else if num = 0x0E0 then onNet (fun n => { n with mbwsel := x }) s
    else if num = 0x0F0 then onNet (fun n => { n with apsel := x }) s
    else if 0x0E8 ≤ num ∧ num ≤ 0x0EF then
      onNet (fun n => { n with windows := n.windows.set (windowSelected s) (windowWrite w.level (num - 0x0E8) x (windowWords s)) }) s
    else if 0x0F4 ≤ num ∧ num ≤ 0x0F7 then
      onNet (fun n => { n with apertures := n.apertures.set (aperSelected s) ((n.apertures.getD (aperSelected s) []).set (num - 0x0F4) x) }) s
    else if 0x0D0 ≤ num ∧ num ≤ 0x0DF then withKeys (onPart (sysPart s w num) (partRegisterWrite s w.level num v)) s
    else onPart (sysPart s w num) (partRegisterWrite s w.level num v) s

/-- A register that SWRITE writes at once, without ending the chunk (R226; DEDUCED, log 35). -/
def sysLocal (num : Nat) : Bool := decide (0x010 ≤ num) && decide (num ≤ 0x013)

/-- A write of PART, ROLE, FPCTL or FPSTAT by a fragment (R93, R94, R175, R411; DEDUCED, log 35). -/
def localWrite (num fid : Nat) (x : Word) (w : Warp) : Warp :=
  match num with
  | 0x010 => { w with regs := w.regs.mapFrag fid (fun f => { f with part := x.setWidth 3 }) }
  | 0x011 => { w with regs := { w.regs with role := x } }
  | 0x012 => { w with regs := { w.regs with fpctl := x } }
  | _ => { w with regs := { w.regs with fpstat := w.regs.fpstat &&& ~~~x } }

/-- What a SWRITE does once its register and value are known. A write of a register that is read-only at the level is ignored whatever its
value, reserved bits among it (R12, R13, R429; DESIGN CHOICE, log 86). -/
def swriteAct (s : State) (w : Warp) (fid num : Nat) (v : DWord) : Act :=
  match sysRefused s w num with
  | some t => { trap := some t }
  | none =>
    if sysAccess num w.level = .read then { ends := !sysLocal num } else
    match sysWriteTrap s w num v with
    | some t => { trap := some t }
    | none =>
      if sysLocal num then { warp := localWrite num fid (lowWord v) }
      else if sysWriteWaits s num then { wait := true }
      else { ends := true, after := [.swrite num v] }

/-- SWRITE (R493). -/
def execSwrite (c : Ctl) (x2 : Bool) (num : BitVec 12) (a : BitVec 8) (s : State) : Host.Outcome State Fault Refusal :=
  issueWith c (needs [] [uniField a (if x2 then 2 else 1)] 0) (fun _ => { ends := !sysLocal num.toNat }) (fun g =>
    swriteAct s g.w g.f.id num.toNat (if x2 then g.rd2 0 0 0 else (g.rd 0 0 0).setWidth 64)) s

/-! ### TRAP, BRK, RESUME (R492, R494) -/

/-- TRAP (R492). -/
def execTrap (c : Ctl) (imm : Word) (s : State) : Host.Outcome State Fault Refusal :=
  issueWith c (needs [] [] 0) (fun _ => { ends := true }) (fun _ => { ends := true, after := [.trap imm] }) s

/-- BRK traps where DBGCTL.BE is 1 and the warp is no handler's; else it only ends its chunk (R471, R492; DEDUCED, log 38). -/
def execBrk (c : Ctl) (imm : Word) (s : State) : Host.Outcome State Fault Refusal :=
  issueWith c (needs [] [] 0) (fun _ => { ends := true }) (fun g =>
    { ends := true
      after := if (s.part? g.w.part).any (fun p => p.dbgctl.getLsbD 1) && !g.w.hnd then [.brk imm] else [] }) s

/-- A warp holds a pre-emption context of its own (R387). -/
def ownContext (s : State) (w : Warp) : Option Nat :=
  match s.task? w.task, s.launchOf w with
  | some t, some l => if t.phase = 3 then none else
    (l.saved.find? (fun x => x.ids.contains w.id)).bind (fun x => (x.slots[w.warpid]?).bind id)
  | _, _ => none

/-- RESUME (R494; DEDUCED, log 67). -/
def execResume (c : Ctl) (mode : ResumeMode) (a : BitVec 8) (s : State) : Host.Outcome State Fault Refusal :=
  issueWith c (needs [] (if mode = .self then [] else [uniField a 1]) 0) (fun _ => { ends := true }) (fun g =>
    if mode = .self then
      (match ownContext s g.w with
      | none => { trap := some (argRange 0 0) }
      | some slot => { ends := true, after := [.resume .self slot] })
    else if g.w.level = 0 then { trap := some (privTrap 0x1000) }
    else if 255 < (g.rd 0 0 0).toNat then { trap := some (argRange 0 0) }
    else { ends := true, after := [.resume mode (g.rd 0 0 0).toNat] }) s

/-! ### TLBINV (R495) -/

/-- TLBINV: the range, then the invalidation at its position (DEDUCED, log 67). -/
def execTlbinv (c : Ctl) (other all : Bool) (rsel : BitVec 2) (a b : BitVec 8) (s : State) : Host.Outcome State Fault Refusal :=
  issueWith c (needs [] (if all then [] else [uniField a 2, uniField b 2]) 0) (fun _ => { ends := true }) (fun g =>
    let part := if other then partSelected s else g.w.part
    let lo := (g.rd2 0 0 0).toNat
    let len := (g.rd2 1 0 0).toNat
    let realm := g.w.realmOf rsel.toNat
    if g.w.level = 0 || (other && g.w.level != 2) then { trap := some (privTrap 0x1000) }
    else if all then { ends := true, after := [.tlbinv part none 0 (2 ^ 64)] }
    else if lo % 65536 ≠ 0 ∨ len % 65536 ≠ 0 then { trap := some (raiseIn .misaligned realm (g.rd2 0 0 0)) }
    else if len = 0 ∨ 2 ^ 64 < lo + len then { trap := some (argRange 0 0) }
    else { ends := true, after := [.tlbinv part (some realm) lo (lo + len)] }) s

/-! ### CKPT (R496) -/

/-- The units a checkpoint selects, ascending. -/
def ckptUnits (d : List Word) : List Nat :=
  (List.range 48).filter (fun u => if u < 32 then (wordAt d 0).getLsbD u else (wordAt d 1).getLsbD (u - 32))

/-- A reserved field of CKPT's descriptor is not 0. -/
def ckptReserved (d : List Word) : Bool :=
  decide (wfield d 1 16 16 ≠ 0) || decide (wfield d 2 8 8 ≠ 0) || (wordAt d 2).getLsbD 2 || (d.drop 5).any (fun x => x != 0)

/-- The target realms: KIND 2 with WR = 1 in the issuing partition's table. -/
def ckptTargets (s : State) (w : Warp) (first n : Nat) : Option TrapReq :=
  (List.range ((n + 3) / 4)).findSome? (fun i =>
    match s.part? w.part with
    | none => some (realmFault 1 (first + i) 0)
    | some p =>
      let e := realmEntry s p (first + i)
      if realmCount p ≤ first + i || realmReserved e then some (realmFault 1 (first + i) 0)
      else if !(wordAt e 0).getLsbD 26 then some (realmFault 3 (first + i) 0)
      else if realmKind e ≠ 2 then some (realmFault 4 (first + i) 0)
      else none)

/-- What CKPT checks of its units and partition. -/
def ckptLimits (s : State) (w : Warp) (other : Bool) (d : List Word) : Option TrapReq :=
  firstBad [((ckptUnits d).isEmpty, 0, 0),
    (decide (w.level = 1) && !(s.part? w.part).any (fun p => (ckptUnits d).all (fun u => ownsAddr p (u * 2 ^ 34))), 0, 0),
    (other && !(s.part? (partSelected s)).any (fun p => p.state == .stopped), 0, 0), (badScope ((wordAt d 2).getLsbD 3) (wfield d 2 4 4), 2, 4)]

/-- CKPT: an engine command that streams memory units to the safe tier. The job keeps: data, the units; total, its granules (DEDUCED, log 51). -/
def execCkpt (c : Ctl) (other : Bool) (a : BitVec 8) (s : State) : Host.Outcome State Fault Refusal :=
  issueWith c (needs [] [uniField a 8] 0) (fun _ => { ends := true }) (fun g =>
    let d := descWords g 0 8
    let us := ckptUnits d
    if g.w.level = 0 || (other && g.w.level != 2) then { trap := some (privTrap 0x1000) }
    else if g.w.path ≠ 0 then { trap := some (raiseD .shootLimit (g.w.path.setWidth 32)) }
    else if ckptReserved d then { trap := some (raise .reservedField) } else
    match (ckptLimits s g.w other d).or (ckptTargets s g.w (wfield d 2 16 16) us.length) with
    | some t => { trap := some t }
    | none =>
      match engineCounter s g.w ((wordAt d 2).getLsbD 3) (wfield d 2 4 4) (wfield d 2 0 2) (wpair d 3) with
      | .error t => { trap := some t }
      | .ok ctr =>
        let job : Job := { newJob s g.w g.f .ckpt with
          desc := d, data := us, total := us.length * 2 ^ 27, amount := 1, counter := ctr,
          scope := if (wordAt d 2).getLsbD 3 then 6 else wfield d 2 4 4 }
        { ends := true, after := [.job job.id], upds := inOrder [addJob job, useIds 1] }) s

/-! ### PWRHINT, ILLEGAL_OPCODE -/

/-- PWRHINT: the class takes effect at the chunk's commit (R497). -/
def execPwrhint (c : Ctl) (cls : BitVec 3) (s : State) : Host.Outcome State Fault Refusal :=
  issue c (needs [] [] 0) (fun _ => { after := [.pwrhint cls.toNat] }) s

/-- ILLEGAL_OPCODE: a slot of no assigned opcode raises it once its parity has passed (R70, R78). -/
def execIllegalOpcode (_word : Slot) (s : State) : Host.Outcome State Fault Refusal :=
  match s.current with
  | none => .fault .noCurrentWarp
  | some (w, f) => .next (s.run (if mayIssue w f then takeTrap w.id f.id [] (raise .illegalOpcode) s else []))

end Sys2Proof.Machine
end

