-- ==== Sys2Proof/Machine/Shoot.lean ====
section
/-! DEFINITION. Faults raised after their instruction (R297), pruned shoots (R375 to R378, R389), RESOLVE's relabelling (R256, R377),
stream averages (R380), counter waits (R421) and invalidations (R443). -/

namespace Sys2Proof.Machine

/-! ### Faults of engines (R265, R297) -/

/-- A record for a command whose warp has exited: PC, RPC and FPC are the command's (R297, DEDUCED, log 30). -/
def bareWords (s : State) (who : Ident) (pc : DWord) (t : TrapReq) (cls : Nat) : List Word :=
  let n (k : Nat) : Word := BitVec.ofNat 32 k
  let ppc := t.ppc.getD 0
  [ n (t.cause.code * 2 ^ 26 + cls * 2 ^ 24 + (if t.ppc.isSome then 2 ^ 23 else 0) + (if t.eng then 2 ^ 22 else 0)
       + who.level * 2 ^ 20 + (if who.hnd then 2 ^ 19 else 0) + t.sub),
    n (who.path.toNat * 2 ^ 16 + who.part),
    lowWord pc, highWord pc, lowWord pc, highWord pc, lowWord ppc, highWord ppc, 0, 0, 0, who.taskid,
    n ((if who.hnd then 0 else who.launch * 2 ^ 20) + who.warpid * 2 ^ 16 + who.place * 2 ^ 8 + who.core),
    who.spawnix, lowWord t.addr, highWord t.addr, n (t.realm * 2 ^ 16), t.d17, t.d18, t.d19,
    lowWord s.dev.wall, highWord s.dev.wall, 0, 0 ] ++ List.replicate 8 0

/-- A record that names no resident warp waits to be written; one of the halting class raises the halt line (R297, R473; DEDUCED, log 30). -/
def raiseBare (who : Ident) (pc : DWord) (t0 : TrapReq) (s : State) : List Upd :=
  let t := asDelivered who.hnd t0
  let cls := if ctxValid s who.part then t.cls else 1
  let l := if who.hnd then none else s.launch? who.part who.launch
  let task := if who.hnd then none else
    s.tasks.find? (fun k => k.part == who.part && k.launch == who.launch && k.handler.isNone && k.index == who.taskid && k.spawnix == who.spawnix)
  onPart who.part (fun p => { p with bare := p.bare ++ [⟨bareWords s who pc t cls, task.elim 0 (·.id), l.elim 0 (·.uid)⟩], trapQueue := p.trapQueue ++ [0], haltLine := p.haltLine || cls == 1 }) s

/-- A fault found after its instruction: raised in the warp at its next drain point, or as a trap of its task where the warp has
exited (R297; DEDUCED, log 30). -/
def raiseLater (wid : Nat) (who : Ident) (pc : DWord) (t : TrapReq) (s : State) : List Upd :=
  match s.warp? wid with
  | some _ => onWarp wid (fun w => { w with pending := w.pending ++ [{ t with ppc := some (t.ppc.getD pc) }] }) s
  | none => raiseBare who pc t s

/-- RACE for an engine's access: the record has ENG = 1 and FPC holds the command's PC (R265). -/
def engineRace (x : Access × Access) (pc : DWord) : TrapReq := { raceTrap x with eng := true, fpc := some pc }

/-! ### Shoots (R375 to R378) -/

/-- A shoot of a partition. -/
def shootOf (s : State) (part : Nat) (path : Path) : Option Shoot := (s.part? part).bind (fun p => p.shoots.find? (fun x => x.path == path))

/-- A shoot is live; the root always is. -/
def shootLive (s : State) (part : Nat) (path : Path) : Bool := path == 0 || (shootOf s part path).any (·.live)

/-- What belongs to a path belongs to a pruned shoot (R378). -/
def pruned (s : State) (part : Nat) (path : Path) : Bool := !shootLive s part (effective s part path)

/-- The paths a new child of a shoot may take, lowest first: 1 to 15 at the next level, neither live nor retiring (R375). -/
def freeChildren (s : State) (part : Nat) (path : Path) : List Path :=
  ((List.range 15).map (fun v => childPath path (v + 1))).filter (fun c => (shootOf s part c).isNone)

/-- Some value at the next level is retiring. -/
def childRetiring (s : State) (part : Nat) (path : Path) : Bool :=
  ((List.range 15).map (fun v => childPath path (v + 1))).any (fun c => (shootOf s part c).any (fun x => !x.live))

/-- The causes for which SHOOT gets no position (R375). -/
def shootTrap (s : State) (part : Nat) (path : Path) : Option TrapReq :=
  let live := ((s.part? part).elim [] (·.shoots)).countP (·.live)
  if depth path = 4 || decide (64 ≤ live) || ((freeChildren s part path).isEmpty && !childRetiring s part path) then
    some (raiseD .shootLimit (path.setWidth 32))
  else none

/-- SHOOT waits for a value to retire (R375). -/
def shootWaits (s : State) (part : Nat) (path : Path) : Bool := (freeChildren s part path).isEmpty && childRetiring s part path

/-- A path that RESOLVE may name: a live child of the issuing warp's shoot (R377). -/
def resolvable (s : State) (part : Nat) (own child : Path) : Bool :=
  child != 0 && parentPath child == own && (shootOf s part child).any (·.live)

/-- Free the engine work of a path: runner, TOPK and copy commands, ungranted entries, with their locks and windows (R378, R307). -/
def cancelWork (part : Nat) (gone : Path → Bool) (s : State) : List Upd :=
  let jobs := s.eng.jobs.filter (fun j => j.part == part && gone j.path && j.sent)
  let entries := s.mat.entries.filter (fun e => e.part == part && gone e.path && e.committed && !e.granted)
  let held := jobs.map (·.id) ++ entries.map (fun e => matrixHolder + e.id)
  if held.isEmpty then [] else
  inOrder [fun s => [.eng { s.eng with jobs := s.eng.jobs.filter (fun j => !(j.part == part && gone j.path && j.sent)) }],
    onMat (fun m => { m with entries := m.entries.filter (fun e => !(e.part == part && gone e.path && e.committed && !e.granted)) }),
    onOrder (fun o => { o with locks := o.locks.filter (fun l => !held.contains l.holder) }),
    forEach (nub (jobs.map (·.task))) (fun t => onTask t (fun k => { k with windows := k.windows.filter (fun x => !held.contains x.job) }))] s

/-- A warp whose task ends leaves the machine: its open chunk is dropped, its place is free. Its record stays in use until a RESUME names it,
and one that waits to be written is written yet (R469, R494). -/
def leaveMachine (wid : Nat) (s : State) : List Upd :=
  match s.warp? wid with
  | none => []
  | some w =>
    let owed (p : Part) : Part := match w.mode with
      | .trapping ws =>
        let n := (p.trapQueue.takeWhile (fun x => x != wid)).countP (fun x => x == 0)
        if p.trapQueue.contains wid then { p with bare := p.bare.take n ++ [⟨ws, w.task, 0⟩] ++ p.bare.drop n
                                                  trapQueue := p.trapQueue.map (fun x => if x = wid then 0 else x) } else p
      | .run => p
      | .parked _ => p
      | .lost => p
      | .halted => p
      | .saved => p
    inOrder [dropChunk wid, fun _ => [.dropWarp wid], onPart w.part owed] s

/-- Remove a warp from the machine: its open chunk is dropped, its place is free, its record is released (R378). -/
def removeWarp (wid : Nat) (s : State) : List Upd :=
  match s.warp? wid with
  | none => []
  | some w =>
    inOrder [dropChunk wid,
      fun _ => [.dropWarp wid],
      onPart w.part (fun p => { p with
        trapQueue := p.trapQueue.filter (fun x => x != wid)
        records := p.records.map (fun r => if r.warp = wid then { r with released := true } else r) })] s

/-- Drop the records of paths from the spawn queues of a partition's cores (R378). -/
def pruneSpawns (part : Nat) (gone : Path → Bool) (s : State) : List Upd :=
  let mine (core : Nat) : Bool := (s.part? part).any (fun p => ownsCluster p (core / 4))
  [.queues { s.queues with spawns := s.queues.spawns.map (fun q => if mine q.1 then (q.1, q.2.filter (fun r => !gone r.path)) else q) }]

/-- A warp that stops at once when its shoot is pruned: parked, or trapped (R378). -/
def stopsAtOnce (w : Warp) : Bool := w.mode != .run || w.regs.frags.all (fun f => f.park != .run)

/-- Prune shoots: from this position they are not live, and their unstarted launches, queued records, engine work and parked warps are
gone. Running warps stop when PRUNE_WARP_STOP finds them (R378, R389). -/
def pruneShoots (part : Nat) (roots : List Path) (s : State) : List Upd :=
  if roots.isEmpty then [] else
  let gone (p : Path) : Bool := roots.any (fun r => pathPrefix r (effective s part p))
  let stop := (s.warps.filter (fun w => w.part == part && gone w.path && stopsAtOnce w)).map (·.id)
  let idle := s.launches.filter (fun l => l.part == part && gone l.path && !s.tasks.any (fun t => t.handler.isNone && t.part == part && t.launch == l.num))
  let slots := (s.launches.filter (fun l => l.part == part && gone l.path)).flatMap (fun l => l.saved.flatMap (fun x => x.slots.filterMap id))
  inOrder [onPart part (fun p => { p with
      shoots := p.shoots.map (fun x => if gone x.path then { x with live := false } else x),
      spawnArea := p.spawnArea.filter (fun r => !gone r.path),
      pool := p.pool.filter (fun k => !slots.contains k) }),
    pruneSpawns part gone,
    cancelWork part gone,
    forEach idle (fun l s => [.dropLaunch l.part l.num] ++ onOrder (fun o => { o with locks := o.locks.filter (fun k => !l.locks.contains k.id) }) s),
    forEach stop removeWarp] s

/-! ### RESOLVE (R256, R377, R380) -/

/-- The words a shoot's versions hold. -/
def shootWords (s : State) (part : Nat) (path : Path) : List (Nat × Word) :=
  (s.order.versions.filter (fun v => v.part == part && v.station.isNone && v.tag == path)).flatMap (fun v => v.words.map (fun x => (x.1, x.2.1)))

/-- Words become those of a shoot: of the root, or of a version under its tag (R256, R453). -/
def giveWords (part : Nat) (station : Option Nat) (tag : Path) (words : List (Nat × Word)) (s : State) : List Upd :=
  if tag = 0 then putBytes (words.flatMap (fun x => cellsAt (4 * x.1) (valBytes 4 x.2.toNat))) s else
  let put (o : Ordering_) : List Version := words.foldl (fun vs x => putVersion part station tag o.pos vs x.1 x.2) o.versions
  onOrder (fun o => { o with versions := (nub (words.map (fun x => x.1 / 32))).foldl (fun vs l => respill l vs) (put o) }) s

/-- The poison marks of an owner's words in memory become another's, in place of what it had there. -/
def movePoison (words : List Nat) (owner dest : Nat) (poison : List Place) : List Place :=
  let at_ (y wi : Nat) : Place := { memPlace (4 * wi) with owner := y }
  words.foldl (fun m wi =>
    if m.contains (at_ owner wi) then markWords (m.filter (fun q => q != at_ owner wi)) [(at_ dest wi, true)]
    else m.filter (fun q => q != at_ dest wi)) poison

/-- The warps whose open chunks read words that a RESOLVE gives to the parent (R256). -/
def relabelStale (s : State) (part : Nat) (child parent : Path) : List Warp :=
  let dest := effective s part parent
  let words := shootWords s part child
  s.warps.filter (fun v => v.part == part && v.chunk.start.isSome && pathPrefix dest v.path && !pathPrefix child v.path
    && v.chunk.reads.any (fun p => p.space == .mem && words.any (fun x => x.1 == p.addr / 4)))

/-- The child's words become its parent's at this position (R256): its versions are relabelled, and its path maps to the parent's. -/
def relabel (part : Nat) (child parent : Path) (s : State) : List Upd :=
  let dest := effective s part parent
  let words := shootWords s part child
  let stale := relabelStale s part child parent
  inOrder ([onOrder (fun o => { o with
      versions := o.versions.filter (fun v => !(v.part == part && v.station.isNone && v.tag == child))
      remaps := o.remaps ++ [⟨part, none, child, parent, 0⟩]
      poison := if o.poison.isEmpty then [] else movePoison (words.map (·.1)) child.toNat dest.toNat o.poison }),
    giveWords part none dest words] ++ stale.map (fun v => squash v.id)) s

/-- The average of a stream after an accepted count (R380; DEDUCED, log 48). -/
def streamStep (avg : Int) (accepted : Nat) : Int := avg + Int.tdiv (256 * (accepted : Int) - avg) 8

/-- A partition's streams after an accepted count: at most 256, the least recently used replaced, a new one at 1.0 (R380; DEDUCED, log 48). -/
def streamUpdate (now tag accepted : Nat) (l : List StreamAvg) : List StreamAvg :=
  let old := ((l.find? (fun x => x.tag == tag)).map (·.avg)).getD 256
  let rest := l.filter (fun x => x.tag != tag)
  let kept := if rest.length < 256 then rest else (sortBy (·.used) rest).drop 1
  kept ++ [⟨tag, streamStep old accepted, now⟩]

/-- The live children of a shoot. -/
def liveChildren (s : State) (part : Nat) (path : Path) : List Path :=
  ((s.part? part).elim [] (·.shoots)).filterMap (fun x => if x.live && x.path != 0 && parentPath x.path == path then some x.path else none)

/-- The paths a RESOLVE prunes: every live child where the named one is tainted, else the others (R377). -/
def resolvePrunes (s : State) (part : Nat) (own child : Path) : List Path :=
  let kids := liveChildren s part own
  if (shootOf s part child).any (·.tainted) then kids else kids.filter (fun k => k != child)

/-- The paths that the remap table leads through from a path on (R254; DEDUCED, log 14). -/
def remapChain (fuel : Nat) (s : State) (part : Nat) (p : Path) : List Path :=
  match fuel with
  | 0 => []
  | n + 1 =>
    match s.order.remaps.find? (fun r => r.part == part && r.station.isNone && r.path == p) with
    | none => []
    | some r => p :: remapChain n s part r.parent

/-- The messages a RESOLVE sends to the peers its shoots stored to (R259): commits of the child, and of the paths that its parent's now maps
through, prunes of what is pruned (DEDUCED, log 14). -/
def resolveMessages (s : State) (part : Nat) (own child : Path) : List OutMsg :=
  let gone := resolvePrunes s part own child
  let peersOf (p : Path) : List Nat := (shootOf s part p).elim [] (·.peers)
  (if gone.contains child then [] else (peersOf child).flatMap (fun st => (child :: remapChain 5 s part own).map (OutMsg.peerCommit st)))
  ++ (((s.part? part).elim [] (·.shoots)).filter (fun x => gone.any (fun g => pathPrefix g x.path))).flatMap
      (fun x => x.peers.map (fun st => OutMsg.peerPrune st x.path))

/-! ### Counter waits (R252, R421) -/

/-- A fragment goes on after a wait, with the clock of what it waited for (R263). -/
def goOn (fid : Nat) (pc : Option DWord) (clk : Clock) (s : State) (w : Warp) : Warp :=
  { w with regs := w.regs.mapFrag fid (fun f => { f with park := .run, pc := pc.getD f.pc, clock := clockJoin f.clock clk,
                                                         since := s.dev.wall.toNat }) }

/-- The counter a parked fragment waits on. -/
def waitSpot (s : State) (w : Warp) (k : Park) : Option (AtomTarget × DWord × Option DWord × Bool) :=
  match k with
  | .counter rsel off target cont first _ =>
    match counterSpot s w false 6 rsel off with
    | .error _ => none
    | .ok t => some (t, target, cont, first)
  | .run => none
  | .join => none
  | .bar .. => none
  | .barq .. => none
  | .barWait .. => none
  | .cbWait .. => none
  | .sleep _ => none

/-- A fragment has asked a peer for its counter. -/
def noteAsked (wid fid : Nat) (s : State) : List Upd :=
  onWarp wid (fun w => { w with regs := w.regs.mapFrag fid (fun g => { g with park := match g.park with
    | .counter r o t c f _ => .counter r o t c f s.dev.wall.toNat
    | k => k }) }) s

/-- Ask a peer for its counter. -/
def askCounter (w : Warp) (fid : Nat) (t : AtomTarget) : State → List Upd :=
  match t with
  | .home _ => fun _ => []
  | .peer st ap o => andThen (sendOut (.peerRead st ap w.path o 8 none)) (noteAsked w.id fid)
  | .ether p st wn o => andThen (sendOut (.rdmaRead p st wn o 8)) (noteAsked w.id fid)

/-- A parked fragment looks at its counter: here, or as a peer's answer gives it. At the target it goes on, at its continuation where it
had parked with one; below it stays parked, and a peer is asked again (R421). -/
def lookAtCounter (wid fid : Nat) (peer : Option DWord) (s : State) : List Upd :=
  match s.warp? wid with
  | none => []
  | some w =>
    match w.frag? fid with
    | none => []
    | some f =>
      match waitSpot s w f.park with
      | none => []
      | some (.home a, target, cont, first) =>
        if target.toNat ≤ counterValue s a then [.warp (goOn fid (if first then none else cont) (counterClock s (.home a) (counterValue s a)) s w)]
        else [.warp { w with regs := w.regs.mapFrag fid (fun g => { g with park := match g.park with
          | .counter r o t c _ a => .counter r o t c false a
          | k => k }) }]
      | some (t, target, cont, first) =>
        match peer with
        | none => []
        | some v =>
          if target.toNat ≤ v.toNat then [.warp (goOn fid (if first then none else cont) (counterClock s t v.toNat) s w)]
          else andThen (onWarp wid (fun w => { w with regs := w.regs.mapFrag fid (fun g => { g with park := match g.park with
            | .counter r o t c _ a => .counter r o t c false a
            | k => k }) })) (askCounter w fid t) s

/-! ### Invalidations (R443) -/

/-- A page of a realm, n bytes from a, meets an invalidation's range. -/
def inRange (realm : Option Nat) (lo hi : Nat) (r a n : Nat) : Bool := realm.all (fun x => x == r) && decide (lo < a + n) && decide (a < hi)

/-- Steps 1 and 2 of an invalidation: translations drop, and open chunks that hold one are squashed; it is under way until it is
acknowledged. -/
def beginInval (id part : Nat) (realm : Option Nat) (lo hi : Nat) (warp : Option Nat) (s : State) : List Upd :=
  let hit := s.warps.filter (fun v => v.part == part && v.chunk.start.isSome && v.chunk.pages.any (fun g => realm.all (fun x => x == g.1)
    && (let sp := pageSpan s part g.1 g.2; inRange realm lo hi g.1 sp.1 sp.2)))
  inOrder ([fun s => [.xl { s.xl with
      cached := s.xl.cached.filter (fun c => !(c.part == part && inRange realm lo hi c.realm (c.page * c.size) c.size))
      kvs := s.xl.kvs.filter (fun c => !(c.part == part && inRange realm lo hi c.realm (c.page * 2 ^ 16) (2 ^ 16)))
      walks := s.xl.walks.filter (fun c => !(c.part == part && realm.all (fun r => r == c.realm)))
      invals := s.xl.invals ++ [⟨id, part, realm, lo, hi, warp⟩] }]] ++ hit.map (fun v => squash v.id)) s

end Sys2Proof.Machine
end

