-- ==== Sys2Proof/Machine/Commit.lean ====
section
/-! DEFINITION. A chunk's position in the device order and its commit's completion (R230 to R235): what may stop it, its words and home
atomics, contributions, its deferred effects, what returns and leaves once every home has acknowledged, and the traps that follow. -/

namespace Sys2Proof.Machine

/-! ### What a chunk waits for -/

/-- The chunk end is one that a deferred matrix command causes: it does not wait for passes (R204, R210). -/
def deferredEnd (s : State) (w : Warp) : Bool :=
  match w.chunk.after.getLast? with
  | some (.copy _) => true
  | some (.entry id) => (s.entry? id).any (fun e => e.window.isNone)
  | _ => false

/-- A commit that holds a position has applied a word that the chunk reads (R231). -/
def observesOpen (s : State) (w : Warp) : Bool :=
  !s.order.commits.isEmpty && s.order.commits.any (fun c => c.words.any (fun p => w.chunk.reads.contains p))

/-- A RESOLVE waits until the stores to peers of its shoot's committed chunks have left: its messages follow them (R259; DEDUCED, log 14). -/
def resolveWaits (s : State) (part : Nat) : Bool := s.order.commits.any (fun c => c.part == part && c.after.any (fun a => a.station.isSome))

/-- What one deferred effect waits for before its chunk takes a position. -/
def deferredWaits (s : State) (w : Warp) (d : Deferred) : Bool :=
  match d with
  | .shoot .. => shootWaits s w.part w.path
  | .resolve .. => resolveWaits s w.part
  | .windowKick task word => (s.task? task).any (fun t => refreshWaits s w t word)
  | .swrite num _ => sysWriteWaits s num
  | _ => false

/-- A commit with priority waits for another, which keeps one that was squashed later from its position (R235; DEDUCED, log 12). -/
def priorityHolds (w v : Warp) : Bool := v.prio && !(w.prio && squashedFirst w v)

/-- The warps whose open chunks hold contributions to a range that another chunk releases: the word is in no declared range at their own
positions, so they replay (R245, R286). Within a deterministic tree they race with the release instead (R246). -/
def contributors (s : State) (w : Warp) (range : Nat) : List Warp :=
  s.warps.filter (fun v => v.id != w.id && v.part == w.part && v.chunk.start.isSome && v.chunk.contribs.any (fun c => c.range == range)
    && !(v.det && w.det && treeOf s v == treeOf s w))

/-- The words that a deferred effect writes at the chunk's position besides the chunk's own meet the read signature of a chunk with commit
priority: the elements of a CRREL, a counter, the words that a RESOLVE gives its parent (R235). -/
def deferredHeld (s : State) (w : Warp) (d : Deferred) : Bool :=
  match d with
  | .crrel id => (contributors s w id).any (priorityHolds w) || (s.order.ranges.filter (fun r => r.id == id)).any (fun r =>
      heldByPriority s (warpWriter s w) (r.elems.flatMap (fun e => wordsOf (memPlace e.addr) (crWidth r.fmt))))
  | .cntinc t _ code _ => decide (code ≤ 5) && counterHeld s w.part t
  | .resolve child .. => !(resolvePrunes s w.part w.path child).contains child && (relabelStale s w.part child w.path).any (priorityHolds w)
  | _ => false

/-- The arbiter may give a warp's chunk its position now (R230, R231, R235, R256). -/
def positionReady (s : State) (w : Warp) : Bool :=
  w.mode == .run && partWorks s w.part && w.chunk.start.isSome && w.chunk.phase == .ended && w.inflight.isEmpty && !pruned s w.part w.path
    && !drainWaits s w (deferredEnd s w) && !observesOpen s w && !w.chunk.after.any (deferredWaits s w)
    && !heldByPriority s (warpWriter s w) w.chunk.writes && !w.chunk.after.any (deferredHeld s w)

/-! ### What stops a chunk at its position -/

/-- The counted barrier of a task. -/
def cbarOf (s : State) (task cb : Nat) : CBar :=
  ((s.task? task).bind (fun t => t.cbars[cb]?)).getD { e := 0, roles := 0, count := 0, gen := 0, clock := [], next := [] }

/-- The limits of BARC that its barrier decides (R418). -/
def barcTrap (s : State) (w : Warp) (d : Deferred) : Option TrapReq :=
  match d with
  | .barcInit cb _ _ => if (cbarOf s w.task cb).count ≠ 0 then some (argRange 0 0) else none
  | .barcArrive cb _ _ =>
    let b := cbarOf s w.task cb
    let role := w.regs.role.toNat % 4
    if b.e = 0 || (b.roles != 0 && (role == 0 || !b.roles.testBit (role - 1))) then some (argRange 0 0) else none
  | _ => none

/-- SHOOT_LIMIT of a RESOLVE that would take its shoot's list past 64 peer devices with those that the child stored to (R259, R379;
DESIGN CHOICE, log 101). -/
def resolvePeers (s : State) (part : Nat) (own child : Path) : Option TrapReq :=
  let path := effective s part own
  if path = 0 || (resolvePrunes s part own child).contains child
    || decide ((nub (shootPeers s part path ++ shootPeers s part child)).length ≤ 64) then none
  else some (raiseD .shootLimit (path.setWidth 32))

/-- What SEAL meets at its position (R260, R314). -/
def sealTrap (s : State) (w : Warp) (pages : List Nat) (edition : Word) : Option TrapReq :=
  match pages.find? (sealRefused s edition) with
  | some p => some { raiseAt .sealedWrite (BitVec.ofNat 64 (p * 2 ^ 16)) with d17 := ((editionOf s p).map (·.last)).getD 0 }
  | none => (pages.find? (fun p => meetsLock s w.part (p * 2 ^ 16) ((p + 1) * 2 ^ 16) true)).map
      (fun p => raiseAt .rangeLock (BitVec.ofNat 64 (p * 2 ^ 16)))

/-- A declaration with its base as the chunk sees it at its position (R242, R285). -/
def declaredBase (s : State) (w : Warp) (r : CRange) : Option (List CElem) := baseElems s w.view r (r.elems.map (·.addr))

/-- The cause for which one deferred effect gives its chunk no position: others may have acted since the instruction issued. -/
def deferredTrap (s : State) (w : Warp) (d : Deferred) : Option TrapReq :=
  match d with
  | .barcInit .. => barcTrap s w d
  | .barcArrive .. => barcTrap s w d
  | .shoot .. => shootTrap s w.part w.path
  | .resolve child .. => if resolvable s w.part w.path child then resolvePeers s w.part w.path child else some (argRange 0 0)
  | .seal pages edition => sealTrap s w pages edition
  | .crdecl id =>
    match s.order.ranges.find? (fun r => r.id == id) with
    | none => none
    | some r =>
      if r.elems.any (fun e => meetsDeclared s e.addr (e.addr + crWidth r.fmt)) then some (raiseIn .rangeLock r.realm r.offset)
      else if (declaredBase s w r).isNone then some (raiseIn .crOverflow r.realm r.offset) else none
  | .crrel id => if s.order.ranges.any (fun r => r.id == id && r.live) then none else some (argRange 0 0)
  | .swrite num v => (sysRefused s w num).or (sysWriteTrap s w num v)
  | _ => none

/-- Declared ranges with a chunk's contributions added (R242, R286). -/
def withContribs (core : Nat) (denorm : Bool) (cs : List Contribution) (rs : List CRange) : List CRange :=
  cs.foldl (fun rs c => rs.map (fun r =>
    if r.id = c.range then
      match crPartial r core denorm c.value.toNat with
      | none => r
      | some (p, _) => { r with elems := r.elems.map (fun e => if e.addr = c.elem then { e with partials := addPartial r p e.partials } else e) }
    else r)) rs

/-- CR_OVERFLOW of a chunk's contributions: its element's address (R242). -/
def contribTrap (s : State) (w : Warp) : Option TrapReq :=
  if w.chunk.contribs.isEmpty then none else
  let rs := withContribs w.core w.denorm w.chunk.contribs s.order.ranges
  (w.chunk.contribs.find? (fun c => rs.any (fun r => r.id == c.range && r.elems.any (fun e => e.addr == c.elem && crOverflows r e.partials)))).map
    (fun c => raiseAt .crOverflow (BitVec.ofNat 64 c.elem))

/-- The clock of the fragment that ended the chunk. -/
def lastClock (w : Warp) : Clock := ((w.frag? w.chunk.lastFrag).map (·.clock)).getD []

/-- The accesses of a CRREL's write and of a SEAL (R265; DEDUCED, log 16). -/
def deferredAccesses (s : State) (w : Warp) : List Access :=
  let one (write : Bool) (p : Place) : Access :=
    { tree := treeOf s w, warp := w.id, key := warpKey s w, thread := threadOf w.id w.chunk.lastFrag,
      stamp := clockGet (lastClock w) (threadOf w.id w.chunk.lastFrag), place := p, path := w.path, write := write, kind := .plain,
      pc := w.chunk.lastPc, clock := lastClock w }
  w.chunk.after.flatMap (fun d => match d with
    | .crrel id => (s.order.ranges.filter (fun r => r.id == id)).flatMap (fun r =>
        r.elems.flatMap (fun e => (wordsOf (memPlace e.addr) (crWidth r.fmt)).map (one true)))
    | .seal pages _ => (s.order.accesses.filter (fun a => a.write && a.place.space == .mem && pages.contains (a.place.addr / 2 ^ 16))).map
        (fun a => one false a.place)
    | _ => [])

/-- RACE of a chunk in the device order (R264, R265; DEDUCED, log 16). -/
def chunkRace (s : State) (w : Warp) : Option TrapReq :=
  if !w.det then none else (firstRace (effective s w.part) s.order.accesses (w.chunk.accesses ++ deferredAccesses s w)).map raceTrap

/-- Where the chunk's atomics at scope codes 6 to 8 act here: address and bytes (R281). -/
def homeWrites (w : Warp) : List (Nat × Nat) :=
  w.chunk.atoms.filterMap (fun a => match a.target with
    | .home x => some (x, if a.w64 then 8 else 4)
    | .peer .. => none
    | .ether .. => none)

/-- The lines of memory a chunk writes, in order: its stores', then those of its atomics at their homes. -/
def linesWritten (w : Warp) : List Nat :=
  nub ((((w.chunk.bytes.reverse.map (·.1)).filter (fun p => p.space == .mem)).map (·.addr) ++ (homeWrites w).map (·.1)).map (· / 128))

/-- VERSION_SPILL: the spill area cannot hold a version the chunk needs (R255; DEDUCED, log 15). -/
def spillTrap (s : State) (w : Warp) : Option TrapReq :=
  (spillFails s w.part none (effective s w.part w.path) (linesWritten w)).map (fun l => raiseAt .versionSpill (BitVec.ofNat 64 (128 * l)))

/-- The words of memory that a chunk's plain stores and atomics write, contributions apart: bytes from an address (DESIGN CHOICE, log 91). -/
def plainWrites (w : Warp) : List (Nat × Nat) :=
  (w.chunk.bytes.filter (fun c => c.1.space == .mem)).map (fun c => (c.1.addr, 1)) ++ homeWrites w

/-- A page that a chunk writes has been sealed, or a range that it writes been declared, since the write was buffered: the write takes no
effect (R241, R260, R314; DESIGN CHOICE, log 91). A contribution is a write of its word (R246). -/
def writesTrap (s : State) (w : Warp) : Option TrapReq :=
  let sealedTrap (a : Nat) : Option TrapReq :=
    (sealedAt s a).map (fun ed => { raiseAt .sealedWrite (BitVec.ofNat 64 a) with d17 := ed })
  ((plainWrites w).findSome? (fun x =>
    (sealedTrap x.1).or (if meetsDeclared s x.1 (x.1 + x.2) then some (raiseAt .rangeLock (BitVec.ofNat 64 x.1)) else none))).or
    (w.chunk.contribs.findSome? (fun c => sealedTrap c.elem))

/-- What keeps a drained chunk from its position: its deferred effects' causes, what its writes meet, its contributions, a race, the spill
area (DESIGN CHOICE, log 91). -/
def positionTrap (s : State) (w : Warp) : Option TrapReq :=
  (((((w.chunk.after.findSome? (deferredTrap s w)).or (writesTrap s w)).or (contribTrap s w)).or (chunkRace s w)).or (spillTrap s w)).map
    (fun t => { t with fpc := some (t.fpc.getD w.chunk.lastPc) })

/-! ### Words and home atomics (R230, R233, R281) -/

/-- What the atomics of a chunk leave at their homes: bytes, the latest first, results by tag, flags of results and of REDs. -/
structure HomeRun where
  bytes : List (Place × Byte)
  results : List (Nat × List RegWrite × Flags)
  redFlags : Flags

/-- One atomic at its home, after those before it. -/
def homeStep (s : State) (w : Warp) (r : HomeRun) (a : HomeAtomic) : HomeRun :=
  match a.target with
  | .home x =>
    let n := if a.w64 then 8 else 4
    let p := memPlace x
    let old := viewVal s ⟨w.part, w.path, r.bytes⟩ p n
    let res := atomResult w.denorm a.op a.w64 old a.operand.toNat a.compare.toNat
    let poison := (wordsOf p n).any (poisonedAt s w)
    let bytes := ((placesFrom p n).zip (valBytes n res.1)).reverse ++ r.bytes
    match a.dst with
    | none => { r with bytes := bytes, redFlags := r.redFlags ||| res.2 }
    | some (d, uni) => { r with
        bytes := bytes
        results := r.results ++ [(a.tag, (wordsOfVal (n / 4) old).zipIdx.map (fun y => regWrite uni (d + y.2) a.lane y.1 poison), res.2)] }
  | .peer .. => r
  | .ether .. => r

/-- The words a CRREL writes: the combined value of each element (R245). -/
def releaseBytes (s : State) (w : Warp) : List (Place × Byte) :=
  w.chunk.after.flatMap (fun d => match d with
    | .crrel id => (s.order.ranges.filter (fun r => r.id == id)).flatMap (fun r =>
        r.elems.flatMap (fun e => (placesFrom (memPlace e.addr) (crWidth r.fmt)).zip (valBytes (crWidth r.fmt) (combineElem r e))))
    | _ => [])

/-- The flags of a CRREL's final combining reads, for its warp's next drain point (R92, R245; DESIGN CHOICE, log 90). -/
def releaseFlags (s : State) (w : Warp) : Flags :=
  w.chunk.after.foldl (fun m d => match d with
    | .crrel id => (s.order.ranges.filter (fun r => r.id == id)).foldl (fun m r => r.elems.foldl (fun m e => m ||| (combineResult r e).2) m) m
    | _ => m) 0

/-- The poison marks of a chunk's written words (R268). -/
def chunkMarks (s : State) (w : Warp) (cells : List (Place × Byte)) : List (Place × Bool) :=
  if s.order.poison.isEmpty && w.chunk.poisoned.isEmpty then [] else
  (nub (cells.map (fun c => c.1.word))).map (fun p => (p, poisonedAt s w p))

/-! ### Effects at the position -/

/-- Add to what follows a commit. -/
def addAfter (pos : Nat) (xs : List AfterCommit) (s : State) : List Upd :=
  if xs.isEmpty then [] else
  onOrder (fun o => { o with commits := o.commits.map (fun c => if c.pos = pos then { c with after := c.after ++ xs } else c) }) s

/-- A uniform result of a chunk-ending instruction, returned with its tag after the commit (R233). -/
def tagResult (tag d : Nat) (ws : List Word) : AfterCommit := .tag tag (ws.zipIdx.map (fun x => .u (d + x.2) x.1 false)) 0

/-- Park a fragment. -/
def parkFrag (wid fid : Nat) (k : Park) (s : State) : List Upd :=
  onWarp wid (fun w => { w with regs := w.regs.mapFrag fid (fun f => { f with park := k, since := s.dev.wall.toNat }) }) s

/-- Lanes leave their fragment, and every record (R395, R399, R406). -/
def leaveLanes (wid fid : Nat) (lanes : LaneMask) (s : State) : List Upd :=
  onWarp wid (fun w =>
    let fs := w.regs.frags.map (fun f => if f.id = fid then { f with mask := f.mask &&& ~~~lanes } else f)
    let r := Regs.settle { w.regs with frags := fs.filter (fun f => f.mask != 0) }
    { w with regs := { r with splits := r.splits.map (fun k => { k with lanes := k.lanes &&& ~~~lanes }) } }) s

/-- An arrival at a counted barrier: each E arrivals release one generation (R418, R419). -/
def cbarArrive (n : Nat) (clk : Clock) (b : CBar) : CBar :=
  let total := b.count + n
  let next := clockJoin b.next clk
  if total < b.e then { b with count := total, next := next }
  else { b with count := total % b.e, gen := b.gen + total / b.e, clock := clockJoin b.clock next
                next := if total % b.e = 0 then [] else clk }

/-- Change a counted barrier of a warp's task. -/
def onCbar (task cb : Nat) (g : CBar → CBar) : State → List Upd :=
  onTask task (fun t => { t with cbars := t.cbars.zipIdx.map (fun x => if x.2 = cb then g x.1 else x.1) })

/-- What FENCE holds its warp for (R238, R293). -/
def fenceHolds (pos code : Nat) : List Hold :=
  if code < 6 then [] else
  [.commit pos, .lineWrites] ++ (if 7 ≤ code then [.peerAcks] else []) ++ (if 8 ≤ code then [.mailboxAcks] else [])

/-- Hold a warp. -/
def addHolds (wid : Nat) (hs : List Hold) (s : State) : List Upd := onWarp wid (fun w => { w with holds := w.holds ++ hs }) s

/-- Cores within a scope of a core (R29). -/
def inScope (code core other : Nat) : Bool :=
  if code ≤ 3 then other == core else if code = 4 then other / 4 == core / 4 else if code = 5 then other / 128 == core / 128 else true

/-- CINV: fetched copies of lines in a range are discarded in every core of the scope (R292). -/
def discardLines (core lo hi code : Nat) (s : State) : List Upd :=
  [.xl { s.xl with lines := s.xl.lines.filter (fun l => !(inScope code core l.core && decide (lo < l.addr + 64) && decide (l.addr < hi))) }]

/-- Editions of pages after SEAL and UNSEAL (R314). -/
def sealPagesAt (pages : List Nat) (edition : Word) (es : List Edition) : List Edition :=
  pages.foldl (fun es p => upsert (fun e => e.page == p) ⟨p, edition, true⟩ es) es
def unsealPages (pages : List Nat) (es : List Edition) : List Edition :=
  es.map (fun e => if pages.contains e.page then { e with sealed_ := false } else e)

/-- A launch has its position: it waits for its group lists, else for its dependences (R355, R359). -/
def launchAt (uid pos : Nat) (path : Path) (clk : Clock) (s : State) : List Upd :=
  (s.launches.filter (fun l => l.uid == uid)).map (fun l => .launch { l with
    phase := if l.lists.isEmpty then .waiting else .lists
    order := pos
    path := path
    clock := clockJoin l.clock clk
    readyAt := s.dev.wall.toNat })

/-- SHOOT at its position: the child's path is chosen and live, its grid is a launch in it, the path returns (R375, R376, R424). -/
def shootAt (w : Warp) (uid pos tag d : Nat) (clk : Clock) (s : State) : List Upd :=
  match (freeChildren s w.part w.path).head? with
  | none => []
  | some child =>
    inOrder [onPart w.part (fun p => { p with shoots := p.shoots ++ [⟨child, true, false, [], []⟩] }),
      launchAt uid pos child clk, addAfter pos [tagResult tag d [child.setWidth 32]]] s

/-- RESOLVE at its position (R256, R377, R380, R425; DEDUCED, log 100) (DESIGN CHOICE, log 101). -/
def resolveAt (w : Warp) (child : Path) (accepted pos tag d : Nat) (s : State) : List Upd :=
  let gone := resolvePrunes s w.part w.path child
  let fails := gone.contains child
  let stream := (s.launchOf w).elim 0 (fun l => launchStream l.desc)
  inOrder ([fun s => (resolveMessages s w.part w.path child).flatMap (fun m => [m]) |> fun ms =>
      [.net { s.net with outbox := s.net.outbox ++ ms }],
    (if fails then fun _ => [] else relabel w.part child w.path),
    onPart w.part (fun p => { p with
      shoots := p.shoots.map (fun x => if x.path = child then { x with live := false }
        else if x.path = effective s w.part w.path && !fails then
          { x with peers := nub (x.peers ++ (shootOf s w.part child).elim [] (·.peers))
                   reads := nub (x.reads ++ (shootOf s w.part child).elim [] (·.reads)) } else x),
      streams := if stream = 0 then p.streams else streamUpdate s.model.cycle stream accepted p.streams }),
    pruneShoots w.part gone,
    addAfter pos [tagResult tag d [if fails then 0 else 1]]]) s

/-- A command leaves its core (R233): a window is bound, a change of KVCOMPACT and BEAMMAP holds its warp until it is acknowledged
(R338), CWB starts once the commit completes (R293). -/
def sendJob (wid id pos : Nat) (s : State) : List Upd :=
  match s.job? id with
  | none => []
  | some j =>
    onJob id (fun j => { j with placed := true, sent := j.kind != .cwb, seq := pos }) s
    ++ (match j.kind with
      | .window => onTask j.task (fun t => { t with windows := t.windows.map (fun x => if x.job = id then { x with state := 1 } else x) }) s
      | .cwb => addAfter pos [.cwb id] s
      | .kvcompact => .xl { s.xl with changes := s.xl.changes ++ [⟨id, j.part, none, 0, 0, some wid⟩] } :: addHolds wid [.entryChange id] s
      | .beammap => .xl { s.xl with changes := s.xl.changes ++ [⟨id, j.part, none, 0, 0, some wid⟩] } :: addHolds wid [.entryChange id] s
      | .rcopy => []
      | .topk => []
      | .coll => []
      | .repair => []
      | .ckpt => []
      | .placement => [])

/-- A page instruction's changes are under way until they are acknowledged; its warp issues nothing until then (R338, R352). -/
def changeEntries (wid part realm pos : Nat) (pages : List Nat) (s : State) : List Upd :=
  if pages.isEmpty then addHolds wid [.commit pos] s else
  let id := s.model.nextId
  inOrder [fun s => [.xl { s.xl with changes := s.xl.changes ++
      [⟨id, part, some realm, pages.foldl min (pages.headD 0) * 2 ^ 16, (pages.foldl max 0 + 1) * 2 ^ 16, some wid⟩] }],
    addHolds wid [.commit pos, .entryChange id], useIds 1] s

/-- WKICK at its position: a bound window's copy starts, a landed one is refreshed (R305): the refresh begins once a runner takes it (R298). -/
def kickWindow (wid task word : Nat) (s : State) : List Upd :=
  match (s.task? task).bind (fun t => t.window? word), s.warp? wid with
  | some x, some w =>
    if x.state = 1 then requestWindow task word s
    else if x.state = 3 then
      let id := s.model.nextId
      let d := x.desc
      let job : Job := { newJob s w ⟨0, 0, x.pc, 0, 0, 0, false, .run, 0, false, none, lastClock w⟩ .window with
        placed := true, sent := true, desc := d, src := (wpair d 0).toNat, dst := word, total := x.len, phase := 2, path := x.path, realms := x.realms
        tag := wfield d 2 10 8, seq := s.order.pos, counter := x.counter, amount := 1, scope := if (wordAt d 2).getLsbD 8 then 6 else wfield d 2 4 4 }
      let lock := { taskLock s w (windowSpace word) ⟨windowOffset word, x.len, true⟩ id 0 (id + 1) (some word) with chunkOf := none }
      let source := haloLocks s job (id + 2)
      inOrder [addJob job, addLocks (lock :: source), useIds (2 + source.length),
        onTask task (fun t => { t with windows := t.windows.map (fun y => if y.word = word ∧ y.job = x.job then
          { y with state := 2, job := id, landed := 0, fault := false } else y) })] s
    else []
  | _, _ => []

/-- Stop a window's copy and free it: its command, its locks, its follow-on entry; a granted pass completes (R305). -/
def dropWindow (task word : Nat) (s : State) : List Upd :=
  match (s.task? task).bind (fun t => t.window? word) with
  | none => []
  | some x =>
    inOrder [fun s => [.eng { s.eng with jobs := s.eng.jobs.filter (fun j => j.id != x.job) }],
      freeFollowOn x.first, releaseLocks x.job,
      onTask task (fun t => { t with windows := t.windows.filter (fun y => y.job != x.job) })] s

/-- The record a RESUME names, if it is in use and not released (R469, R494). -/
def liveRecord (s : State) (part idx : Nat) : Option RecSlot :=
  (s.part? part).bind (fun p => p.records.find? (fun r => r.idx == idx && !r.released))

/-- Release a record (R469, R494). -/
def releaseRecord (part idx : Nat) : State → List Upd :=
  onPart part (fun p => { p with records := p.records.map (fun r => if r.idx = idx then { r with released := true } else r) })

/-- CTX_SHAPE: the first header word that fails, or 0 (R467, R482). -/
def ctxShape (w : Warp) (rd : Nat → Word) : TrapReq :=
  let h := [rd 0, rd 4, rd 8]
  raiseD .ctxShape (BitVec.ofNat 32
    (if rd 0 != 0x43545843 then 0
     else if !(wfield h 1 24 8 == 1 && wfield h 1 16 8 == 0x20 && wfield h 1 10 6 == w.regs8 && wfield h 1 7 3 == w.uni8 && !(rd 4).getLsbD 3) then 1
     else if decide (256 < wfield h 2 10 10) || decide (256 < wfield h 2 0 10) then 2 else 0))

/-- End a task as if each of its warps had exited at its last chunk end (R494): unsent commands go with their chunks (DEDUCED, log 45)
(DEDUCED, log 61). -/
def killTask (task : Nat) (s : State) : List Upd :=
  inOrder ((taskWarps s task).map (fun v => leaveMachine v.id)
    ++ [onTask task (fun t => { t with exited := nub (t.exited ++ List.range t.warps) })]) s

/-- RESUME .SELF: the whole warp from its pre-emption context; the slot is free then, and the task's context once every warp has it
(R240, R387, R494). -/
def resumeSelf (w : Warp) (k : Nat) (s : State) : List Upd :=
  match s.part? w.part, s.launchOf w with
  | some p, some l =>
    let slot := poolSlot p k
    if !slotOk s p w slot then onWarp w.id (fun v => { v with pending := v.pending ++ [ctxShape w (slotReader s p slot)] }) s else
    let freed (x : Saved) : Saved := if x.ids.contains w.id then { x with slots := x.slots.map (fun y => if y = some k then none else y) } else x
    let saved := (l.saved.map freed).filter (fun x => x.slots.any (·.isSome))
    let wave := ((l.saved.find? (fun x => x.ids.contains w.id)).map (fun x => x.waves.getD w.warpid 0)).getD 0
    inOrder [loadSlot w.id slot, onWarp w.id (fun v => { v with wave := wave, waveDone := wave }), onPart w.part (fun q => { q with pool := q.pool.filter (fun j => j != k) }),
      fun _ => [.launch { l with saved := saved }],
      onTask w.task (fun t => if saved.any (fun x => x.ids.contains w.id) then t else { t with phase := 0 })] s
  | _, _ => []

/-- The watchdog of a task's save handler starts afresh (R389, R392). -/
def freshSave (task : Nat) (s : State) : List Upd := onTask task (fun t => if t.phase = 1 then { t with phaseAt := s.dev.wall.toNat } else t) s

/-- RESUME .WARP: the warp of a record from the record's slot (R494). -/
def resumeWarp (w : Warp) (idx : Nat) (s : State) : List Upd :=
  match liveRecord s w.part idx, s.part? w.part with
  | some r, some p =>
    match s.warp? r.warp with
    | none => releaseRecord w.part idx s
    | some v =>
      let slot := r.slot.toNat
      if !slotOk s p v slot then onWarp w.id (fun x => { x with pending := x.pending ++ [ctxShape v (slotReader s p slot)] }) s
      else inOrder [loadSlot v.id slot, freshSave v.task, releaseRecord w.part idx] s
  | _, _ => []

/-- RESUME .KILL: the task of a record's warp ends, the warp gone or not (R297, R494). -/
def resumeKill (w : Warp) (idx : Nat) (s : State) : List Upd :=
  match liveRecord s w.part idx with
  | none => []
  | some r =>
    andThen (releaseRecord w.part idx) (if r.task = 0 then fun _ => [] else killTask r.task) s

/-- A SWRITE's effect. A change to an aperture in use is an invalidation of its realm, which its warp waits for (R443, R452). -/
def sysWriteAt (wid num : Nat) (v : DWord) (s : State) : List Upd :=
  let old := s.net.apertures.getD (aperSelected s) []
  if decide (0x0F4 ≤ num) && decide (num ≤ 0x0F7) && (wordAt old 0).getLsbD 31 then
    let id := s.model.nextId
    inOrder [sysWrite wid num v, useIds 1, addHolds wid [.inval id], beginInval id (wfield old 0 28 3) (some (wfield old 0 0 16)) 0 (2 ^ 64) (some wid)] s
  else sysWrite wid num v s

/-- One deferred effect at the chunk's position (R233). w: the warp as its chunk ended. -/
def runDeferred (w : Warp) (pos : Nat) (d : Deferred) (s : State) : List Upd :=
  let clk := lastClock w
  match d with
  | .exit f lanes =>
    leaveLanes w.id f lanes s ++ (if w.hnd then [] else onLaunch w.part w.launch (fun l => { l with endClock := clockJoin l.endClock clk }) s)
  | .bar f b => parkFrag w.id f (.bar b (barrierOf s b).gen false) s
  | .barqArrive f b tag _ => parkFrag w.id f (.barq b tag) s
  | .barqWait f b gen =>
    if gen < (barrierOf s b).gen then onWarp w.id (goOn f none (barrierOf s b).clock s) s else parkFrag w.id f (.barWait b gen) s
  | .barcInit cb e roles => onCbar w.task cb (fun b => { b with e := e, roles := roles }) s
  | .barcArrive cb n k => onCbar w.task cb (cbarArrive n (clockJoin k clk)) s
  | .barcWait f cb gen =>
    if gen ≤ (cbarOf s w.task cb).gen then onWarp w.id (goOn f none (cbarOf s w.task cb).clock s) s else parkFrag w.id f (.cbWait cb gen) s
  | .barcGen cb tag d =>
    let g : DWord := BitVec.ofNat 64 (cbarOf s w.task cb).gen
    addAfter pos [tagResult tag d [lowWord g, highWord g]] s
  | .cwait f rsel off target cont =>
    inOrder [parkFrag w.id f (.counter rsel off target cont true 0), lookAtCounter w.id f none,
      fun s => match (s.warp? w.id).bind (fun v => (v.frag? f).bind (fun g => waitSpot s v g.park)) with
        | some (t, _, _, true) => askCounter w f t s
        | _ => []] s
  | .sleep f ns => if ns = 0 then [] else parkFrag w.id f (.sleep (s.dev.wall.toNat + ns)) s
  | .fence code => addHolds w.id (fenceHolds pos code) s
  | .cntinc t amount code k =>
    if code ≤ 5 then counterAddAt w.part w.path t amount.toNat k s else addAfter pos [.count t amount k (decide (7 ≤ code))] s
  | .crdecl id => onOrder (fun o => { o with ranges := o.ranges.map (fun r =>
      if r.id = id then { r with live := true, elems := (declaredBase s w r).getD r.elems } else r) }) s
  | .crrel id => inOrder ([onOrder (fun o => { o with ranges := o.ranges.filter (fun r => r.id != id) })]
      ++ (contributors s w id).map (fun v => squash v.id)) s
  | .seal pages edition => onOrder (fun o => { o with editions := sealPagesAt pages edition o.editions }) s
  | .unseal pages => onOrder (fun o => { o with editions := unsealPages pages o.editions }) s
  | .launch uid => if w.chunk.after.any (fun x => match x with
      | .shoot u _ _ => u == uid
      | _ => false) then [] else launchAt uid pos w.path clk s
  | .shoot uid tag d => shootAt w uid pos tag d clk s
  | .resolve child n tag d => resolveAt w child n pos tag d s
  | .job id => sendJob w.id id pos s
  | .entry id => onMat (fun m => { m with entries := m.entries.map (fun e => if e.id = id then { e with committed := true, pos := pos } else e) }) s
  | .copy id => onMat (fun m => { m with copies := m.copies.map (fun e => if e.id = id then { e with committed := true, pos := pos } else e) }) s
  | .windowKick task word => kickWindow w.id task word s
  | .windowDrop task word => dropWindow task word s
  | .kvChange realm pages => changeEntries w.id w.part realm pos pages s
  | .trap imm => andThen (addAfter pos [.trap w.chunk.lastFrag { raiseD .userTrap imm with fpc := some w.chunk.lastPc }]) (addHolds w.id [.commit pos]) s
  | .brk imm => andThen (addAfter pos [.trap w.chunk.lastFrag { raiseD .breakpoint imm with fpc := some w.chunk.lastPc }]) (addHolds w.id [.commit pos]) s
  | .resume .self k => resumeSelf w k s
  | .resume .warp idx => resumeWarp w idx s
  | .resume .kill idx => resumeKill w idx s
  | .tlbinv part realm lo hi =>
    let id := s.model.nextId
    inOrder [useIds 1, addHolds w.id [.inval id], beginInval id part realm lo hi (some w.id)] s
  | .cinv lo hi code => discardLines w.core lo hi code s
  | .swrite num v => sysWriteAt w.id num v s
  | .pwrhint cls => onWarp w.id (fun v => { v with eclass := cls }) s

/-! ### The position (R230, R233) -/

/-- The words of memory of which a chunk reads what had committed: those it has not covered itself, and those its home atomics read at its
position (R255, R258, R281). -/
def wordsSeen (w : Warp) : List Place :=
  nub (w.chunk.seen ++ (w.chunk.atoms.flatMap (fun a => match a.target with
    | .home x => wordsOf (memPlace x) (if a.w64 then 8 else 4)
    | .peer .. => []
    | .ether .. => [])).filter (fun p => !coveredBy w.chunk.bytes p))

/-- The words a shoot's chunk has read, each with the path of the version it saw (R258). -/
def noteReads (s : State) (w : Warp) : State → List Upd :=
  if w.path = 0 then fun _ => [] else
  let rs := (wordsSeen w).map (fun p => (p.addr / 4, seenPath s w.part w.path (p.addr / 4)))
  onPart w.part (fun p => { p with shoots := p.shoots.map (fun x =>
    if x.path = w.path then { x with reads := nub (x.reads ++ rs.filter (fun r => r.2 != w.path)) } else x) })

/-- Readers of elements that a chunk contributes to: a combining read that is open is squashed (R246). -/
def squashCombiners (w : Warp) (s : State) : List Upd :=
  if w.chunk.contribs.isEmpty then [] else
  let words := (w.chunk.contribs.flatMap (fun c => (s.order.ranges.filter (fun r => r.id == c.range)).flatMap (fun r =>
    wordsOf (memPlace c.elem) (crWidth r.fmt))))
  let own (v : Warp) (p : Place) : Bool := (v.chunk.accesses.filter (fun a => a.place == p)).all (fun a => a.kind == .contribution)
  let det (v : Warp) : Bool := v.det && w.det && treeOf s v == treeOf s w
  forEach (s.warps.filter (fun v => v.id != w.id && v.chunk.start.isSome && v.part == w.part && !det v
    && v.chunk.reads.any (fun p => words.contains p && !(v.det && own v p)))) (fun v => squash v.id) s

/-- What the commit's completion brings of the chunk itself: atomics' results, peer atomics, stores to peers. -/
def chunkAfter (w : Warp) (r : HomeRun) : List AfterCommit :=
  r.results.map (fun x => .tag x.1 x.2.1 x.2.2)
  ++ w.chunk.peer.map (fun p => .peerStore p)
  ++ (w.chunk.atoms.filter (fun a => match a.target with
      | .home _ => false
      | .peer .. => true
      | .ether .. => true)).map (fun a => .peerAtomic a)

/-- A warp whose chunk has its position: a new chunk may start, its fragments begin a new epoch (R263), its atomics of waves are done
(R240), it has its place again after its squashes (R235). redFlags: of REDs performed at their homes with the chunk, for the next drain
point (R284; DEDUCED, log 28). -/
def Warp.positioned (redFlags : Flags) (w : Warp) : Warp :=
  { w with
    drainFlags := if redFlags = 0 then w.drainFlags else w.drainFlags ++ [(redFlags, w.chunk.lastPc)]
    chunk := Chunk.fresh
    endPc := some w.chunk.lastPc
    waveDone := w.wave
    prio := false
    squashes := 0
    regs := { w.regs with
      frags := w.regs.frags.map (fun f => if f.held then f else Frag.nextEpoch w.id f)
      fpstat := fpstatOr w.regs.fpstat w.chunk.flags } }

/-- An access of a wave atomic (R240). -/
def AccKind.isWave (k : AccKind) : Bool :=
  match k with
  | .wave _ => true
  | .plain => false
  | .red .. => false
  | .contribution => false
  | .mask => false

/-- The clock that the wave atomics of a chunk release (R240, R263). -/
def waveRelease (w : Warp) : Clock :=
  (w.chunk.accesses.filter (fun a => a.kind.isWave)).foldl (fun c a => clockJoin c (clockRaise a.clock a.thread a.stamp)) []

/-- Queue owners of a launch tree after a chunk's pushes and pops (R415). -/
def noteOwners (s : State) (w : Warp) (o : Ordering_) : Ordering_ :=
  if !w.det then o else
  let uses := nub (w.chunk.pushes.map (fun x => (x.1, true)) ++ w.chunk.pops.map (fun x => (x.1, false)))
  let news := uses.filter (fun u => !o.queueOwners.any (fun q => q.1 == treeOf s w && q.2.1 == u.1 && q.2.2.1 == u.2))
  { o with queueOwners := o.queueOwners ++ news.map (fun u => (treeOf s w, u.1, u.2, warpKey s w)) }

/-- Ring words that a chunk popped are consumed (R227, R449). -/
def consumeRings (w : Warp) (n : Net) : Net :=
  mapInbound (freeHeld w.id) { n with rings := n.rings.map (fun r =>
      { r with consumer := r.consumer + w.chunk.pops.countP (fun x => x.1 == .ring r.part r.num) }) }

/-- The extended entry that a handler task was started for: of the page whose XLATE_MISS its record holds, with the faulting warp's shoot
(R332). -/
def missedEntry (s : State) (w : Warp) : Option (Nat × Path) :=
  if !w.hnd then none else
  match (s.task? w.task).bind (·.handler), s.part? w.part with
  | some idx, some p =>
    (p.records.find? (fun r => r.idx == idx)).bind (fun r => r.miss.bind (fun m =>
      match walk s p (dieOf w.core) m.1 (realmRoot (realmEntry s p m.1)) m.2.1 with
      | .ok (.kv ea ..) => some (ea, m.2.2)
      | .ok (.page ..) => none
      | .error _ => none))
  | _, _ => none

/-- A chunk's bytes at their homes: those that a handler writes to the entry it was started for belong to the faulting warp's shoot (R332). -/
def applyChunk (s : State) (w : Warp) (cells : List (Place × Byte)) (marks : List (Place × Bool)) : State → List Upd :=
  match missedEntry s w with
  | none => applyCells (warpWriter s w) cells marks
  | some (ea, path) =>
    let inEntry (p : Place) : Bool := p.space == .mem && decide (ea ≤ p.addr) && decide (p.addr < ea + 32)
    inOrder [applyCells (warpWriter s w) (cells.filter (fun c => !inEntry c.1)) (marks.filter (fun m => !inEntry m.1)),
      applyCells { warpWriter s w with path := path } (cells.filter (fun c => inEntry c.1)) (marks.filter (fun m => inEntry m.1))]

/-- Spawn records enter the core's queue at the commit; a warp whose records find no room issues nothing until they have (R371). -/
def enterSpawns (w : Warp) (s : State) : List Upd :=
  if w.chunk.spawns.isEmpty then [] else
  let q := spawnQueue s w.core ++ w.chunk.spawns
  .queues { s.queues with spawns := upsert (fun x => x.1 == w.core) (w.core, q) s.queues.spawns }
  :: (if 64 < q.length then addHolds w.id [.spawnRoom] s else [])

/-- The chunk ended with a RESUME.SELF that has replaced its warp's state: a failed one leaves CTX_SHAPE to be raised (R494). -/
def selfResumed (s : State) (w : Warp) : Bool :=
  w.chunk.after.any (fun d => match d with
    | .resume .self _ => true
    | _ => false)
  && !(s.warp? w.id).any (fun v => v.pending.any (fun t => t.cause == .ctxShape))

/-- A warp takes STEP or TIMER after a commit: it steps, or WALL has reached its deadline (R485, R487). STEP stays in force until a slot that
the warp restores has STEP = 0; a deadline of a restored context fires at its first issue. A handler task takes neither (R471). -/
def committedTrap (s : State) (w : Warp) : Option TrapReq :=
  if w.hnd || w.chunk.after.any (fun d => match d with
    | .trap _ => true
    | .brk _ => true
    | _ => false) then none
  else if w.stepping && (s.warp? w.id).any (·.stepping) then some (raise .step)
  else if !selfResumed s w && w.timer != 0 && decide (w.timer.toNat ≤ s.dev.wall.toNat) then
    some { raise .timer with d18 := lowWord w.timer, d19 := highWord w.timer }
  else none

/-- The words that a chunk writes at its position: those of its bytes, of its contributions (R246), of the counters it adds to at scope codes
0 to 5 (R231). -/
def positionWords (s : State) (w : Warp) (cells : List (Place × Byte)) : List Place :=
  nub (cells.map (fun c => c.1.word)
    ++ w.chunk.contribs.flatMap (fun c => (s.order.ranges.filter (fun r => r.id == c.range)).flatMap (fun r => wordsOf (memPlace c.elem) (crWidth r.fmt)))
    ++ w.chunk.after.flatMap (fun d => match d with
      | .cntinc (.home a) _ code _ => if code ≤ 5 then wordsOf (memPlace a) 8 else []
      | _ => []))

/-- What the words of memory that a chunk's cells write are before its position, as its shoot sees them (R515; DESIGN CHOICE, log 104). -/
def wordsBefore (s : State) (w : Warp) (cells : List (Place × Byte)) : List (Nat × Word) :=
  (nub (((memCells cells).map (fun c => c.1 / 4)))).map (fun wi => (wi, wordAt (viewWords s ⟨w.part, w.path, []⟩ (4 * wi) 1) 0))

/-- A commit with nothing to apply or send is complete (R230). -/
def closeEmpty (pos : Nat) (s : State) : List Upd :=
  onOrder (fun o => { o with commits := o.commits.filter (fun c => !(c.pos == pos && c.words.isEmpty && c.pushes.isEmpty && c.after.isEmpty)) }) s

/-- The effects of a drained chunk's position, in order. -/
def commitChunk (wid : Nat) (s : State) : List Upd :=
  match s.warp? wid with
  | none => []
  | some w =>
    let pos := s.order.pos + 1
    let s1 := { s with order := { s.order with ranges := withContribs w.core w.denorm w.chunk.contribs s.order.ranges } }
    let run := w.chunk.atoms.foldl (homeStep s w) ⟨w.chunk.bytes, [], 0⟩
    let cells := run.bytes.reverse ++ releaseBytes s1 w
    let marks := chunkMarks s w cells
    let after := chunkAfter w run
    inOrder [noteReads s w,
      onOrder (fun o => { o with ranges := withContribs w.core w.denorm w.chunk.contribs o.ranges }),
      squashCombiners w,
      fun _ => [.warp (w.positioned (run.redFlags ||| w.chunk.lateFlags ||| releaseFlags s1 w))],
      onOrder (fun o => { o with versions := touchVersions s w.part (effective s w.part w.path) pos (wordsSeen w) o.versions }),
      applyChunk s w cells marks,
      settleLocks wid,
      onOrder (fun o => noteOwners s w { o with
        commits := o.commits ++ [⟨pos, wid, w.part, ((s.launchOf w).map (·.uid)).getD 0, w.task, w.ident, w.chunk.lastPc,
            positionWords s1 w cells, w.chunk.pushes, after, wordsBefore s w cells⟩] }),
      fun s => [.queues (mapChans (freeHeld wid) s.queues)],
      onNet (consumeRings w),
      onTask w.task (fun t => { t with waveClock := clockJoin t.waveClock (waveRelease w) }),
      enterSpawns w,
      logAccesses (w.chunk.accesses ++ deferredAccesses s w),
      forEach w.chunk.after (runDeferred w pos),
      fun s2 => match committedTrap s2 w with
        | none => []
        | some t => andThen (addAfter pos [.trap w.chunk.lastFrag { t with fpc := some w.chunk.lastPc }]) (addHolds wid [.commit pos]) s2,
      closeEmpty pos, passPriority] s

/-- CHUNK_POSITION's script: the chunk end drains; what stops it is raised; else the chunk takes the next position. -/
def positionScript (wid : Nat) (s : State) : List Upd :=
  match s.warp? wid with
  | none => []
  | some w =>
    if !positionReady s w then [] else
    match drainTrapOf (deferredEnd s w) w with
    | some (t, f) => andThen (onWarp wid f) (takeTrap wid w.chunk.lastFrag [] { t with fpc := some (t.fpc.getD w.chunk.lastPc) }) s
    | none =>
      match positionTrap s (w.drainOf (deferredEnd s w)) with
      | some t => takeTrap wid w.chunk.lastFrag [] t s
      | none => andThen (fun _ => [.warp (w.drainOf (deferredEnd s w))]) (commitChunk wid) s

/-- CHUNK_POSITION (R230, R233; DESIGN CHOICE, log 4). -/
def execChunkPosition (warp : Nat) (s : State) : Host.Outcome State Fault Refusal := .next (s.run (positionScript warp s))

/-! ### Completion (R230, R233, R239, R251, R414, R449) -/

/-- The words of each ring that pushes go to, in order. -/
def ringPushes (ps : List (QueueId × QItem)) : List (Nat × Nat × List Word) :=
  (nub (ps.filterMap (fun x => match x.1 with
    | .ring p n => some (p, n)
    | .core .. => none
    | .cluster .. => none))).map (fun r => (r.1, r.2, (ps.filter (fun x => x.1 == .ring r.1 r.2)).map (fun x => x.2.1)))

/-- Cut a list into pieces of at most n. -/
def piecesOf {α : Type} (fuel n : Nat) (l : List α) : List (List α) :=
  match fuel with
  | 0 => []
  | k + 1 => if l.isEmpty then [] else l.take n :: piecesOf k n (l.drop n)

/-- A commit's warp as the writer of the words it pushed (R253). -/
def commitWriter (s : State) (c : Commit) : Writer :=
  let l := s.launches.find? (fun l => l.uid == c.launch)
  ⟨c.part, c.who.path, l.elim false (·.det), l.elim 0 (·.tree), none⟩

/-- Pushed words as cells of their ring's window. -/
def pushedCells (s : State) (p n at_ : Nat) (ws : List Word) : List (Place × Byte) :=
  match ringWindow s true p n with
  | none => []
  | some (_, w) =>
    match windowPieces s w true (wpair w 2) (4 * ringWords w) with
    | none => []
    | some ps => if ps.any (fun x => (sealedAt s x.1).isSome) then [] else ringCells ps (ringWords w) at_ ws

/-- Pushed words stand in the memory of their ring's window until the host has acknowledged them (R449, DEDUCED, log 17). -/
def storePushed (c : Commit) (p n at_ : Nat) (ws : List Word) (s : State) : List Upd := landCells (commitWriter s c) (pushedCells s p n at_ ws) s

/-- The pushed words of one ring leave as SENDs of at most one path MTU (R449, R456). -/
def sendRing (c : Commit) (p n : Nat) (ws : List Word) (s : State) : List Upd :=
  let qpn := (ringWindow s true p n).elim 0 (fun x => wfield x.2 7 0 24)
  let parts := piecesOf ws.length (256 * 2 ^ (Config.pathMtu qpn % 3)) ws
  let fresh : Ring := { part := p, num := n, inbound := [], consumer := 0, outbound := [], pushed := 0, sends := [] }
  let old := (s.net.rings.find? (fun r => r.part == p && r.num == n)).getD fresh
  let ring := { old with outbound := old.outbound ++ ws, pushed := old.pushed + ws.length
                         sends := old.sends ++ parts.map (fun x => (x.length, c.warp, c.launch)) }
  andThen (storePushed c p n old.pushed ws) (fun s => [.net { s.net with
    rings := upsert (fun r => r.part == p && r.num == n) ring s.net.rings
    outbox := s.net.outbox ++ parts.map (fun x => .hostSend qpn x) }]) s

/-- Pushed elements become poppable; ring words leave (R414, R449). -/
def deliverPushes (c : Commit) (s : State) : List Upd :=
  if c.pushes.isEmpty then [] else
  let chans := c.pushes.foldl (fun cs x => if x.1.isRing then cs else
    match cs.find? (fun y => y.queue == x.1) with
    | none => cs ++ [⟨x.1, [⟨x.2, none⟩]⟩]
    | some _ => cs.map (fun y => if y.queue = x.1 then { y with items := y.items ++ [⟨x.2, none⟩] } else y)) s.queues.chans
  andThen (fun s => [.queues { s.queues with chans := chans }]) (forEach (ringPushes c.pushes) (fun r => sendRing c r.1 r.2.1 r.2.2)) s

/-- Put results into a tag's entry and return it, unless lanes wait for a peer. -/
def returnTag (wid tag : Nat) (ws : List RegWrite) (fl : Flags) (s : State) : List Upd :=
  onWarp wid (fun w => w.mapTags (fun e =>
    if e.tag = tag ∧ e.own then { e.gain w.regs.fpctl ws fl with returned := e.lanes.isEmpty } else e)) s

/-- A lane of a tag waits for a peer's answer. -/
def awaitPeer (wid tag lane station : Nat) (s : State) : List Upd :=
  onWarp wid (fun w => w.mapTags (fun e => if e.tag = tag then { e with awaits := .peer, lanes := e.lanes ++ [lane], stations := e.stations ++ [station] } else e)) s

/-- An atomic as it goes to a peer (R281, R452). -/
def peerAtomicOf (a : HomeAtomic) : PeerAtomic where
  op := a.op.getD .exch
  w64 := a.w64
  cas := a.op.isNone
  operand := a.operand
  compare := a.compare
  denorm := a.denorm

/-- A store leaves for a peer; its acknowledgment is awaited, and its shoot remembers the peer (R239, R259, R379). -/
def sendStore (c : Commit) (p : PeerStore) (s : State) : List Upd :=
  let path := effective s c.part c.who.path
  inOrder [onNet (fun n => { n with
      outbox := n.outbox ++ [.peerWrite p.station p.aper path p.offset p.bytes]
      peerPending := n.peerPending ++ [⟨s.model.nextId, 0, p.station, c.warp, c.launch, c.task, c.who, p.pc, s.dev.wall.toNat⟩] }), useIds 1,
    onPart c.part (fun q => { q with shoots := q.shoots.map (fun x => if x.path = path ∧ path ≠ 0 then { x with peers := nub (x.peers ++ [p.station]) } else x) })] s

/-- One thing that follows a commit's completion. -/
def runAfter (c : Commit) (a : AfterCommit) (s : State) : List Upd :=
  match a with
  | .tag t ws fl => returnTag c.warp t ws fl s
  | .peerStore p => sendStore c p s
  | .peerAtomic x =>
    (match x.target with
    | .home _ => []
    | .ether .. => []
    | .peer st ap o =>
      andThen (sendOut (.peerAtomic st ap (effective s c.part c.who.path) o (peerAtomicOf x)))
        (if x.dst.isSome then awaitPeer c.warp x.tag x.lane st else fun s => onNet (fun n => { n with
          peerPending := n.peerPending ++ [⟨s.model.nextId, 0, st, c.warp, c.launch, c.task, c.who, c.pc, s.dev.wall.toNat⟩] }) s ++ useIds 1 s) s)
  | .count t amount clk wait =>
    if wait && s.net.peerPending.any (fun p => p.warp == c.warp) then
      onOrder (fun o => { o with counts := o.counts ++ [⟨c.warp, c.part, c.launch, c.who.path, t, amount, clk⟩] }) s
    else counterAddAt c.part c.who.path t amount.toNat clk s
  | .trap fid t => (match s.warp? c.warp with
      | none => []
      | some w =>
        match (w.frag? fid).or w.regs.frags.head? with
        | none => []
        | some f =>
          let late : DWord := s.dev.wall - pairOf t.d18 t.d19
          if t.cause = .timer then
            andThen (onWarp c.warp (fun w => { w with timer := 0 }))
              (takeCommitted c.warp f.id f.pc { t with d18 := lowWord late, d19 := highWord late }) s
          else takeCommitted c.warp f.id f.pc t s)
  | .cwb id => onJob id (fun j => { j with sent := true }) s

/-- Something that leaves the device after its commit: a store, an atomic, an increment of a counter there. -/
def AfterCommit.leaves (a : AfterCommit) : Bool :=
  match a with
  | .peerStore _ => true
  | .peerAtomic _ => true
  | .count (.home _) .. => false
  | .count .. => true
  | .tag .. => false
  | .trap .. => false
  | .cwb _ => false

/-- A commit sends: to a peer, or words of an outbound ring. -/
def Commit.sends (c : Commit) : Bool := c.after.any AfterCommit.leaves || c.pushes.any (fun x => x.1.isRing)

/-- A commit counts. -/
def Commit.counts (c : Commit) : Bool := c.after.any (fun a => match a with
  | .count .. => true
  | _ => false)

/-- The bytes that a commit's completion writes here meet the read signature of a chunk with commit priority: words of outbound rings, a
counter (R235). -/
def completionHeld (s : State) (c : Commit) : Bool :=
  (ringPushes c.pushes).any (fun r =>
    heldByPriority s (commitWriter s c) ((pushedCells s r.1 r.2.1 ((s.net.rings.find? (fun x => x.part == r.1 && x.num == r.2.1)).elim 0 (·.pushed)) r.2.2).map
      (fun x => x.1.word)))
  || c.after.any (fun a => match a with
    | .count t .. => counterHeld s c.part t
    | _ => false)

/-- A commit may complete: what the device sends leaves in commit order (R239, R283, R449), an increment follows the writes of its warp's
earlier chunks (R251), and no chunk with commit priority holds what it writes. -/
def completeReady (s : State) (c : Commit) : Bool :=
  !s.order.commits.any (fun x => decide (x.pos < c.pos) && ((c.sends && x.sends) || (c.counts && x.warp == c.warp))) && !completionHeld s c

/-- COMMIT_COMPLETE's script: every home has acknowledged. A chunk's atomics follow its stores to peers (R281); the tags of results return
once the atomics' answers are awaited. -/
def completeScript (pos : Nat) (s : State) : List Upd :=
  match s.order.commits.find? (fun c => c.pos == pos) with
  | none => []
  | some c =>
    if !completeReady s c then [] else
    let rank (a : AfterCommit) : Nat := match a with
      | .peerStore _ => 0
      | .peerAtomic _ => 1
      | _ => 2
    inOrder [onOrder (fun o => { o with commits := o.commits.filter (fun x => x.pos != pos) }),
      deliverPushes c, forEach (sortBy rank c.after) (runAfter c)] s

/-- COMMIT_COMPLETE (R230). -/
def execCommitComplete (pos : Nat) (s : State) : Host.Outcome State Fault Refusal := .next (s.run (completeScript pos s))

end Sys2Proof.Machine
end

