-- ==== Sys2Proof/Machine/Settle.lean ====
section
/-! DEFINITION. What follows by itself once its conditions hold: holds that end, barriers that release (R416 to R419), warps and tasks that end
(R307, R364, R383), increments that waited for peers (R251). A step begins with it. -/

namespace Sys2Proof.Machine

/-! ### Holds -/

/-- What a warp was held for is over (R68, R230, R238, R293, R371, R443, R352). -/
def holdDone (s : State) (w : Warp) (h : Hold) : Bool :=
  match h with
  | .commit pos => !commitOpen s pos
  | .inval id => !s.xl.invals.any (fun i => i.id == id)
  | .entryChange id => !s.xl.changes.any (fun i => i.id == id)
  | .peerAcks => !s.net.peerPending.any (fun p => p.warp == w.id) && !s.order.commits.any (fun c => c.warp == w.id)
  | .mailboxAcks => !s.net.rings.any (fun r => r.sends.any (fun x => x.2.1 == w.id)) && !s.order.commits.any (fun c => c.warp == w.id)
  | .lineWrites => !s.eng.jobs.any (fun j => j.kind == .cwb && j.warp == w.id)
  | .switch => false
  | .spawnRoom => !((spawnQueue s w.core).drop 64).any (fun r => r.warp == w.id)

/-- Holds that are over end. -/
def clearHolds (s : State) : List Upd :=
  s.warps.filterMap (fun w => if w.holds.any (holdDone s w) then some (.warp { w with holds := w.holds.filter (fun h => !holdDone s w h) }) else none)

/-! ### Barriers (R416 to R419) -/

/-- The barrier a parked fragment has yet to arrive at. -/
def Park.arriving (k : Park) : Option BarId :=
  match k with
  | .bar b _ false => some b
  | .bar _ _ true => none
  | .barq b _ => some b
  | .run => none
  | .join => none
  | .barWait .. => none
  | .cbWait .. => none
  | .counter .. => none
  | .sleep _ => none

/-- The barrier a warp arrives at: every fragment has issued its barrier instruction there (R417). -/
def arrivesAt (w : Warp) : Option BarId :=
  match w.regs.frags with
  | [] => none
  | f :: rest =>
    match f.park.arriving with
    | none => none
    | some b => if rest.all (fun g => g.park.arriving == some b) then some b else none

/-- Keep a barrier's record. -/
def setBarrier (b : BarId) (x : Barrier) (s : State) : List Upd :=
  match b with
  | .task t => onTask t (fun k => { k with barrier := x }) s
  | .group uid _ => (s.launches.filter (fun l => l.uid == uid)).map (fun l =>
      .launch { l with barriers := upsert (fun y => y.group == x.group) x l.barriers })

/-- The clocks of a warp's fragments. -/
def warpClock (w : Warp) : Clock := w.regs.frags.foldl (fun c f => clockJoin c f.clock) []

/-- A fragment at its warp's arrival: BAR stays parked, BARQ.ARRIVE goes on (R417). -/
def arriveFrag (wid gen : Nat) (f : Frag) : Frag :=
  match f.park with
  | .bar b _ false => Frag.nextEpoch wid { f with park := .bar b gen true }
  | .barq _ _ => Frag.nextEpoch wid { f with park := .run }
  | .bar _ _ true => f
  | .run => f
  | .join => f
  | .barWait .. => f
  | .cbWait .. => f
  | .counter .. => f
  | .sleep _ => f

/-- The tags of a warp's BARQ.ARRIVE fragments. -/
def arriveTags (w : Warp) : List Nat :=
  w.regs.frags.filterMap (fun f => match f.park with
    | .barq _ t => some t
    | _ => none)

/-- A halo window of the warp waits for the release of the generation it now arrives at (R303). -/
def arriveHalo (w : Warp) (b : BarId) (gen : Nat) (s : State) : List Upd :=
  match b with
  | .task _ => []
  | .group _ g => [.eng { s.eng with jobs := s.eng.jobs.map (fun j =>
      if j.kind = .window ∧ j.warp = w.id ∧ j.phase = 0 ∧ j.sent ∧ j.tag = g then { j with phase := 1, data := [gen] } else j) }]

/-- A warp arrives, unless it has arrived at this generation already (R417). -/
def arrive (wid : Nat) (s : State) : List Upd :=
  match s.warp? wid with
  | none => []
  | some w =>
    match arrivesAt w with
    | none => []
    | some b =>
      let x := barrierOf s b
      if x.arrived.contains wid || w.mode != .run then [] else
      let g : DWord := BitVec.ofNat 64 x.gen
      let ret (e : TagEntry) : TagEntry :=
        if (arriveTags w).contains e.tag ∧ !e.returned then
          { e with returned := true, writes := [.u e.dst (lowWord g) false, .u (e.dst + 1) (highWord g) false] } else e
      inOrder [setBarrier b { x with arrived := x.arrived ++ [wid], next := clockJoin x.next (warpClock w) },
        onWarp wid (fun w => Warp.mapTags { w with regs := { w.regs with frags := w.regs.frags.map (arriveFrag wid x.gen) } } ret),
        arriveHalo w b x.gen] s

/-- A barrier's participants that are resident, and whether every member task has started and stands in the machine (R416). -/
def participants (s : State) (b : BarId) : List Warp × Bool :=
  match b with
  | .task t => (taskWarps s t, true)
  | .group uid g =>
    match s.launches.find? (fun l => l.uid == uid) with
    | none => ([], false)
    | some l =>
      match l.groups[g]? with
      | none => ([], false)
      | some grp =>
        let tasks := s.tasks.filter (fun t => t.handler.isNone && t.part == l.part && t.launch == l.num && !t.spawned && grp.has t.index.toNat)
        ((tasks.flatMap (fun t => taskWarps s t.id)),
         (membersOf [grp]).all (fun i => l.started.contains i) && !l.saved.any (fun x => x.record.isNone && grp.has x.index))

/-- The barrier, and the clock of its releases, of a fragment whose generation has been released (R417). -/
def Park.released (s : State) (k : Park) : Option Clock :=
  match k with
  | .bar b g true => if g < (barrierOf s b).gen then some (barrierOf s b).clock else none
  | .barWait b g => if g < (barrierOf s b).gen then some (barrierOf s b).clock else none
  | .cbWait .. => none
  | .bar _ _ false => none
  | .barq .. => none
  | .run => none
  | .join => none
  | .counter .. => none
  | .sleep _ => none

/-- A fragment that goes on where its barrier has released (R417). -/
def releaseFrag (s : State) (f : Frag) : Frag :=
  match f.park.released s with
  | none => f
  | some clk => { f with park := .run, clock := clockJoin f.clock clk, since := s.dev.wall.toNat }

/-- BAR and BARQ.WAIT of released generations go on (R417). -/
def releaseFrags (s : State) : List Upd :=
  (s.warps.filter (fun w => w.mode == .run && w.regs.frags.any (fun f => (f.park.released s).isSome))).map (fun w =>
    .warp { w with regs := { w.regs with frags := w.regs.frags.map (releaseFrag s) } })

/-- A halo window's barrier has released: its copy starts (R303). -/
def releaseHalo (part : Nat) (b : BarId) (gen : Nat) (s : State) : List Upd :=
  match b with
  | .task _ => []
  | .group uid g =>
    let num := ((s.launches.find? (fun l => l.uid == uid)).map (·.num)).getD 512
    [.eng { s.eng with jobs := s.eng.jobs.map (fun j =>
      if j.kind = .window ∧ j.part = part ∧ j.launch = num ∧ j.phase = 1 ∧ j.tag = g ∧ j.data = [gen] then { j with phase := 2, started := true } else j) }]

/-- A barrier releases once every participant has arrived (R416); a task's own barrier ends its waves (R240). -/
def release (b : BarId) (s : State) : List Upd :=
  let x := barrierOf s b
  let ps := participants s b
  if x.arrived.isEmpty || !ps.2 || !ps.1.all (fun w => x.arrived.contains w.id) then [] else
  let y : Barrier := { x with gen := x.gen + 1, arrived := [], clock := clockJoin x.clock x.next, next := [] }
  let ends (w : Warp) : Bool := (s.task? w.task).any (fun t => isTaskBar s t b)
  inOrder [setBarrier b y,
    fun _ => (ps.1.filter ends).map (fun w => .warp { w with wave := 0, waveDone := 0 }),
    (match ps.1 with
      | [] => fun _ => []
      | w :: _ => releaseHalo w.part b x.gen)] s

/-- Barriers that fragments wait at, or that have arrivals. -/
def barriersAt (s : State) : List BarId :=
  nub (s.warps.flatMap (fun w => w.regs.frags.filterMap (fun f => match f.park with
    | .bar b _ _ => some b
    | .barq b _ => some b
    | .barWait b _ => some b
    | _ => none))
    ++ (s.tasks.filter (fun t => !t.barrier.arrived.isEmpty)).map (fun t => BarId.task t.id)
    ++ s.launches.flatMap (fun l => (l.barriers.filter (fun x => !x.arrived.isEmpty)).map (fun x => BarId.group l.uid (x.group.getD 0))))

/-- One round of arrivals and releases. -/
def barrierRound (s : State) : List Upd :=
  inOrder [forEach ((s.warps.filter (fun w => (arrivesAt w).isSome)).map (·.id)) arrive, fun s => forEach (barriersAt s) release s, releaseFrags] s

/-- Arrivals and releases until none is left: a warp that waits to arrive again does so once. -/
def settleBarriers (s : State) : List Upd :=
  if s.warps.all (fun w => w.regs.frags.all (fun f => f.park == .run)) && (barriersAt s).isEmpty then []
  else inOrder [barrierRound, barrierRound, barrierRound] s

/-- Waits on counted barriers whose generation has come (R418). -/
def settleCounted (s : State) : List Upd :=
  s.warps.filterMap (fun w =>
    let met (f : Frag) : Bool := match f.park with
      | .cbWait cb g => decide (g ≤ (cbarOf s w.task cb).gen)
      | _ => false
    let go (f : Frag) : Frag := match f.park with
      | .cbWait cb _ => if met f then { f with park := .run, clock := clockJoin f.clock (cbarOf s w.task cb).clock, since := s.dev.wall.toNat } else f
      | _ => f
    if w.mode == .run && w.regs.frags.any met then some (.warp { w with regs := { w.regs with frags := w.regs.frags.map go } }) else none)

/-! ### Ends (R307, R364, R378, R383) -/

/-- A warp with no fragment left has exited. -/
def endWarps (s : State) : List Upd :=
  forEach (s.warps.filter (fun w => w.regs.frags.isEmpty && w.mode == .run && w.chunk.start.isNone)) (fun w =>
    inOrder [onTask w.task (fun t => { t with exited := nub (t.exited ++ [w.warpid]) }), fun _ => [.dropWarp w.id],
      forEach w.pending (fun t => raiseBare w.ident (t.ppc.getD 0) t)]) s

/-- A halo copy of another task reads a task's scratchpad, or, bound, may yet: its binder has a warp left or it is copying (R303). -/
def haloReader (s : State) (t : Task) : Bool :=
  s.eng.jobs.any (fun j => j.kind == .window && j.task != t.id && j.part == t.part && j.launch == t.launch && (wordAt j.desc 2).getLsbD 9
    && !t.spawned && t.handler.isNone && j.sent
    && (s.task? j.task).any (fun k => (!(taskWarps s k.id).isEmpty || k.windows.any (fun x => x.job == j.id && x.state == 2))
      && decide ((k.index.toNat : Int) + (BitVec.ofNat 12 (wfield j.desc 2 18 12)).toInt = (t.index.toNat : Int))))

/-- A task whose warps are gone has ended: its passes, copies and window copies are complete (R307, R364, R378; DEDUCED, log 61). -/
def taskOver (s : State) (t : Task) : Bool :=
  (decide (t.warps ≤ t.exited.length) || t.phase == 4 || pruned s t.part t.path) && (taskWarps s t.id).isEmpty
    && !s.mat.entries.any (fun e => e.task == t.id && (e.granted || windowLandedFor s e))
    && !s.mat.copies.any (fun c => c.task == t.id)
    && !t.windows.any (fun x => x.state == 2) && !haloReader s t

/-- A pre-empted task's component is unstarted again; a spawned task's record waits in the spawn area again (R385 to R388). -/
def rejoin (t : Task) : State → List Upd :=
  match t.record with
  | some r => onPart t.part (fun p => { p with spawnArea := r :: p.spawnArea })
  | none => onLaunch t.part t.launch (fun l => { l with started := l.started.filter (fun i => i != t.index.toNat) })

/-- Free what a task holds: its windows with their commands, locks and follow-on entries, its allocations; a handler task's record may be
used again (R307, R471; DEDUCED, log 61). -/
def endTask (t : Task) (s : State) : List Upd :=
  let entries := (s.mat.entries.filter (fun e => e.task == t.id)).map (fun e => matrixHolder + e.id)
  let held := t.windows.map (·.job) ++ entries
  inOrder [fun s => [.eng { s.eng with jobs := s.eng.jobs.filter (fun j => !held.contains j.id) }],
    onMat (fun m => { m with entries := m.entries.filter (fun e => e.task != t.id) }),
    onOrder (fun o => { o with locks := if held.isEmpty then o.locks else o.locks.filter (fun l => !held.contains l.holder) }),
    fun _ => [.dropTask t.id],
    (match t.handler with
      | some idx => onPart t.part (fun p => { p with records := p.records.map (fun r => if r.idx = idx then { r with handler := 2 } else r) })
      | none => if t.phase = 1 ∨ t.phase = 4 then rejoin t else fun _ => [])] s

/-- A launch of a pruned shoot is gone once none of its tasks is left (R358, R378). -/
def dropPrunedLaunches (s : State) : List Upd :=
  forEach (s.launches.filter (fun l => l.phase != .issued && pruned s l.part l.path
    && !s.tasks.any (fun t => t.handler.isNone && t.part == l.part && t.launch == l.num))) (fun l s =>
      .dropLaunch l.part l.num :: onOrder (fun o => { o with locks := o.locks.filter (fun k => !l.locks.contains k.id) }) s) s

/-- Ended tasks and pruned launches go. -/
def endTasks (s : State) : List Upd := andThen (forEach (s.tasks.filter (taskOver s)) endTask) dropPrunedLaunches s

/-! ### Increments that waited (R251) -/

/-- Increments whose warp has no store to a peer left unacknowledged are performed, unless a chunk with commit priority holds them (R235) or
their partition has halted (R473). -/
def settleCounts (s : State) : List Upd :=
  if s.order.counts.isEmpty then [] else
  let ready (c : PendingCount) : Bool := (s.part? c.part).any (fun p => p.state == .running) && !s.net.peerPending.any (fun p => p.warp == c.warp) && !counterHeld s c.part c.target
  andThen (onOrder (fun o => { o with counts := o.counts.filter (fun c => !ready c) }))
    (forEach (s.order.counts.filter ready) (fun c => counterAddAt c.part c.path c.target c.amount.toNat c.clock)) s

/-- Everything that follows by itself. -/
def settle (s : State) : List Upd := inOrder [settleCounts, clearHolds, endWarps, settleBarriers, settleCounted, endTasks, noteEligible] s

end Sys2Proof.Machine
end

