-- ==== Sys2Proof/Machine/CoreEv.lean ====
section
/-! DEFINITION. The fetch of a slot (R36 to R45, R70) and the steps a core takes by itself: a second fetch of a line, landings, returns under
tags, switch markers, chunk limits, walks, acknowledgments, waits that end, and those of the matrix engines (R38, R60, R62, R68, R202, R206 to
R213, R225, R336, R352, R408, R421, R441, R443). -/

namespace Sys2Proof.Machine

/-! ### Fetching a slot (R38, R39, R42, R70) -/

/-- What a fragment finds at its PC. -/
inductive Fetched where
  | trap (t : TrapReq)
  /-- A copy of a line that fails its parity and has not been fetched twice (R38). -/
  | again (core addr : Nat)
  | instr (i : Instr) (addr : Nat)

/-- A line whose line word or slot k fails its parity (R38). -/
def lineBad (line : List Byte) (k : Nat) : Bool := !lparOk (lineWord line) || !sparOk (lineWord line) k (lineSlot line k)

/-- The copy a core holds of a line for a warp. -/
def copyOf (s : State) (w : Warp) (a : Nat) : Option LineCopy :=
  s.xl.lines.find? (fun c => c.core == w.core && c.addr == a && c.part == w.part && c.path == w.path)

/-- RESERVED_FIELD with the step of R70 at which it is found (R467; DEDUCED, log 29). -/
def reservedAt (step : Nat) : TrapReq := raiseD .reservedField (BitVec.ofNat 32 step)

/-- The slot at a fragment's PC: its place, its line's translation, the parities, the line word, the decoder (R42, R70 steps 1 to 4)
(DEDUCED, log 29). -/
def fetchSlot (s : State) (w : Warp) (f : Frag) : Fetched :=
  if !wellPlaced f.pc then .trap (raiseAt .lineTarget f.pc) else
  match fetchLine s w f.pc with
  | .error t => .trap t
  | .ok (a, line) =>
    let k := f.pc.toNat % 8
    if lineBad line k then
      (if (copyOf s w a).any (·.refetched) then .trap (raiseAt .lineParity (f.pc &&& ~~~(63 : DWord))) else .again w.core a)
    else if !lineWordOk (lineWord line) then .trap (reservedAt 2)
    else match decode (lineSlot line k) with
      | .error .reservedField => .trap (reservedAt 4)
      | .ok i => .instr i a

/-- A core keeps a copy of a line it has fetched (R41; DEDUCED, log 19). -/
def keepLine (w : Warp) (a : Nat) (again : Bool) (s : State) : List Upd :=
  if (copyOf s w a).isSome then [] else
  [.xl { s.xl with lines := s.xl.lines ++ [⟨w.core, a, w.part, w.path, lineAt s w.part w.path a, again⟩] }]

/-- LINE_REFETCH: copies of a line that fail a parity are discarded and fetched again, once (R38; DEDUCED, log 19). -/
def execLineRefetch (core line : Nat) (s : State) : Host.Outcome State Fault Refusal :=
  let bad (c : LineCopy) : Bool := c.core == core && c.addr == line && !c.refetched && (List.range 6).any (lineBad c.bytes)
  .next (s.run [.xl { s.xl with lines := s.xl.lines.map (fun c =>
    if bad c then { c with bytes := lineAt s c.part c.path c.addr, refetched := true } else c) }])

/-! ### Landings and tags -/

/-- FIXED_LATENCY_WRITEBACK: the results of a warp whose latency is over have landed, and their flags are in FPSTAT (R60, R95). -/
def execFixedLatencyWriteback (warp : Nat) (s : State) : Host.Outcome State Fault Refusal :=
  .next (s.run (match s.warp? warp with
    | none => []
    | some w =>
      let due := w.inflight.filter (fun x => decide (x.at_ ≤ s.model.cycle))
      if due.isEmpty then [] else
      [.warp { w with
        inflight := w.inflight.filter (fun x => decide (s.model.cycle < x.at_))
        regs := { w.regs with fpstat := fpstatOr w.regs.fpstat (due.foldl (fun m x => m ||| x.flags) 0) } }]))

/-- What a peer's error response raises, by the step the target failed at (R452). The model numbers two more: 7, a foreign version found
no record (R255); 8, the edition named is not the sealed one (R261; DESIGN CHOICE, log 25). -/
def peerFault (step : Nat) : TrapReq :=
  match step with
  | 5 => { raise .rangeLock with sub := 5 }
  | 6 => { raise .sealedWrite with sub := 6 }
  | 7 => raise .versionSpill
  | 8 => raise .realmFault
  | k => { raise .realmFault with sub := k }

/-- The registers that one lane of a remote load writes, poisoned with the words they come from (R268). -/
def laneWrites (e : TagEntry) (lane : Nat) (ws : List Word) (bad : List Bool) : List RegWrite :=
  let v := bytesVal (wordsBytes ws)
  if e.ext = 16 then []
  else ((extendVal (szOfCode e.ext) (v % 2 ^ (8 * szBytes (szOfCode e.ext)))).zipIdx.map (fun x => regWrite e.duni (e.dst + x.2) lane x.1 (bad.getD x.2 false)))

/-- The tile-store cells that one lane of a remote TLD writes (R200). -/
def laneTiles (e : TagEntry) (lane : Nat) (ws : List Word) : List (Nat × Byte) :=
  match e.tiles.find? (fun x => x.1 == lane) with
  | none => []
  | some x => if e.ext = 16 then tileCells x.2 (wordsBytes (ws.take e.width)) else []

/-- An ill-formed interval that one lane of a remote IVLD has loaded raises INTERVAL_ORDER where its tag is consumed, in the lanes that have
one (R173). -/
def laneRaises (denorm : Bool) (e : TagEntry) (lane : Nat) (ws : List Word) : Option TrapReq :=
  let ok : Bool := match e.ext with
    | 8 => ivWordsOk denorm .if32 ws
    | 9 => ivWordsOk denorm .if64 ws
    | 10 => ivWordsOk denorm .if16 ws
    | 11 => ivWordsOk denorm .ibf16 ws
    | _ => true
  if ok then e.raises else
  let old : LaneMask := (e.raises.bind (·.lanes)).getD 0
  some { raise .intervalOrder with lanes := some (old ||| maskOf [lane]), ppc := some e.pc }

/-- A peer's answer for the first lane that waits under a tag: its data, an atomic's flags after its old value, or the fault it raises
(DESIGN CHOICE, log 57). -/
def peerAnswer (w : Warp) (e : TagEntry) (resp : PeerResp) (s : State) : List Upd :=
  match e.lanes with
  | [] => onWarp w.id (fun v => v.mapTags (fun x => if x.seq = e.seq then { x with returned := true } else x)) s
  | l :: rest =>
    match resp with
    | .none => []
    | .error step =>
      let t := { peerFault step with fpc := some e.pc, lanes := some (maskOf [l]), d17 := if step = 8 then wordAt e.kv 0 else 0 }
      if e.own then onWarp w.id (fun v => v.mapTags (fun x => if x.seq = e.seq then
        { x with raises := some { t with ppc := some e.pc }, returned := true, lanes := [], stations := [] } else x)) s
      else takeTrap w.id ((w.regs.frags.find? (fun f => f.mask &&& e.mask != 0)).elim 0 (·.id)) [] t s
    | .data all bad =>
      let ws := if e.own then all.take e.width else all
      let one (x : TagEntry) : TagEntry :=
        if x.seq = e.seq then
          { (if e.own then x.gain w.regs.fpctl (ws.zipIdx.map (fun y => regWrite e.duni (e.dst + y.2) l y.1 (bad.getD y.2 false))) ((wordAt all e.width).setWidth 9)
              else { x with writes := x.writes ++ laneWrites e l ws bad, raises := laneRaises w.denorm e l ws }) with
            lanes := rest, stations := x.stations.drop 1, returned := rest.isEmpty }
        else x
      andThen (onWarp w.id (fun v => v.mapTags one)) (fun s2 =>
        if e.ext = 16 then putTile w.task (laneTiles e l ws) ((cleanMarks w (((e.tiles.find? (fun x => x.1 == l)).map (·.2)).getD 0) (4 * e.width)).zipIdx.map (fun m => (m.1.1, bad.getD m.2 false))) s2
        else []) s

/-- The translation of a tagged instruction has failed after its issue: its cause is raised before any result is written (R266). -/
def lateTrap (w : Warp) (e : TagEntry) (s : State) : List Upd :=
  match e.raises with
  | none => []
  | some t => takeTrap w.id ((w.regs.frags.find? (fun f => f.mask &&& e.mask != 0)).elim 0 (·.id)) [] { t with ppc := none, fpc := some e.pc } s

/-- TAG_RETURN: the results of a tagged producer return, or one lane's from a peer (R61, R62), or a late translation's cause (R266). Results that wait for a commit, a command or
a repair return with those (DESIGN CHOICE, log 57). -/
def execTagReturn (warp tag : Nat) (resp : PeerResp) (s : State) : Host.Outcome State Fault Refusal :=
  .next (s.run (match s.warp? warp with
    | none => []
    | some w =>
      match w.regs.tags.find? (fun e => e.tag == tag && !e.returned && (e.awaits == .unit || e.awaits == .peer || e.awaits == .late)) with
      | none => []
      | some e =>
        if e.awaits == .unit then [.warp (w.mapTags (fun x => if x.seq = e.seq then { x with returned := true } else x))]
        else if e.awaits == .late then lateTrap w e s
        else peerAnswer w e resp s))

/-- SWITCH_MARKER_RESUME: every pending tag of a warp parked by SW = 1 has returned; it drains and goes on (R66, R68). -/
def execSwitchMarkerResume (warp : Nat) (s : State) : Host.Outcome State Fault Refusal :=
  .next (s.run (match s.warp? warp with
    | none => []
    | some w =>
      if !w.holds.contains .switch || w.regs.tags.any (fun e => !e.returned) || drainWaits s w false then [] else
      match drainTrap w with
      | some (t, f) => andThen (onWarp warp f) (takeTrap warp w.chunk.lastFrag [] { t with fpc := some (t.fpc.getD w.chunk.lastPc) }) s
      | none => [.warp { w.drain with holds := w.holds.filter (fun h => h != .switch) }]))

/-- CHUNK_LIMIT_END: a chunk at a limit of R225 ends. -/
def execChunkLimitEnd (warp : Nat) (s : State) : Host.Outcome State Fault Refusal :=
  .next (s.run (match s.warp? warp with
    | none => []
    | some w =>
      if w.chunk.start.isSome && (decide (512 ≤ w.chunk.count) || decide (64 < w.chunk.undo.length)
          || decide (128 < (linesOf w.chunk.writes).length) || decide (256 < (linesOf w.chunk.reads).length)) then [.warp w.closed]
      else []))

/-! ### Translation -/

/-- A list without its first k elements of some kind. -/
def dropFirst {α : Type} (mine : α → Bool) (l : List α) (k : Nat) : List α :=
  match l with
  | [] => []
  | x :: rest => match k with
    | 0 => l
    | j + 1 => if mine x then dropFirst mine rest j else x :: dropFirst mine rest (j + 1)

/-- A structure of n entries takes further ones; the oldest make room (R441; DESIGN CHOICE, log 18). -/
def takeIn {α : Type} (n : Nat) (mine : α → Bool) (l more : List α) : List α :=
  let all := l ++ more
  dropFirst mine all (all.countP mine - n)

/-- A translation goes into one TLB, of 64 entries in a quadrant and 2,048 in a core (R441). -/
def fillTlb (x : Xlat) (xs : List Xlat) : List Xlat :=
  let mine (c : Xlat) : Bool := c.core == x.core && c.quadrant == x.quadrant
  if xs.any (fun c => mine c && c.part == x.part && c.realm == x.realm && c.page == x.page && c.size == x.size) then xs
  else takeIn (if x.quadrant.isSome then 64 else 2048) mine xs [x]

/-- The translation of a KV page that a walk for a shoot found, unless its extended entry has PFRAME 0 (R440, R441). -/
def kvXlatOf (s : State) (p : Part) (who : Who) (realm : Nat) (off : DWord) : Option KvXlat :=
  let e := realmEntryOf s p who realm off
  match walkFor s p who realm e off with
  | .ok (.kv ea u w demand) =>
    if kvPframe (kvEntry s ⟨who.part, who.path, []⟩ ea) = 0 then none
    else some { core := who.core, entry := e, part := p.num, realm := realm, path := who.path, page := off.toNat / 2 ^ 16, ea := ea, user := u,
                write := w, demand := demand }
  | .ok (.page ..) => none
  | .error _ => none

/-- A translation goes into a core's KV translation cache of 512 entries (R441). -/
def fillKv (x : KvXlat) (xs : List KvXlat) : List KvXlat :=
  if xs.contains x then xs else takeIn 512 (fun c => c.core == x.core) xs [x]

/-- WALK_COMPLETE: a page's walk for a quadrant is done. Its entries of levels 0 to 2 go into the die's walk cache, its translation into the
core's TLB and the quadrant's, or its core's KV translation cache; entries with V = 0 or PFRAME 0 are not cached (R440, R441; DEDUCED,
DEDUCED, log 18). -/
def execWalkComplete (site : WalkSite) (realm : Nat) (offset : DWord) (s : State) : Host.Outcome State Fault Refusal :=
  let core := site.core
  .next (s.run (match s.part? site.part with
    | none => []
    | some p =>
      let e := realmEntry s p realm
      if !ownsCluster p (core / 4) || realmKind e ≠ 1 || realmRoot e % 2 ^ 20 ≠ 0 then [] else
      let who : Who := { part := site.part, user := false, path := site.path, own := [], core := core, quadrant := some site.quadrant }
      let trail := (walkTrail [0, 1, 2] s p (dieOf core) realm offset (realmRoot e)).filter (fun x => !s.xl.walks.contains x)
      let fill (q : Option Nat) (xs : List Xlat) : List Xlat := (xlatOf s p who realm offset q).elim xs (fun x => fillTlb x xs)
      [.xl { s.xl with
        walks := takeIn 4096 (fun x => x.die == dieOf core) s.xl.walks trail
        cached := fill (some site.quadrant) (fill none s.xl.cached)
        kvs := (kvXlatOf s p who realm offset).elim s.xl.kvs (fun x => fillKv x s.xl.kvs) }]))

/-- INVALIDATION_ACK: every access that translated under a dropped entry is complete (R443; DEDUCED, log 56). -/
def execInvalidationAck (id : Nat) (s : State) : Host.Outcome State Fault Refusal :=
  .next (s.run (match s.xl.invals.find? (fun i => i.id == id) with
    | none => []
    | some i =>
      if s.order.commits.any (fun c => c.part == i.part) then [] else
      [.xl { s.xl with invals := s.xl.invals.filter (fun x => x.id != id) }]))

/-- An entry change may be acknowledged: its warp's commits are complete and so is the command it belongs to (R338, R352). -/
def changeDone (s : State) (i : Inval) : Bool :=
  !s.order.commits.any (fun c => i.warp == some c.warp) && !s.eng.jobs.any (fun j => j.id == i.id)

/-- ENTRY_CHANGE_ACK (R352). -/
def execEntryChangeAck (id : Nat) (s : State) : Host.Outcome State Fault Refusal :=
  .next (s.run (match s.xl.changes.find? (fun i => i.id == id) with
    | none => []
    | some i => if changeDone s i then [.xl { s.xl with changes := s.xl.changes.filter (fun x => x.id != id) }] else []))

/-! ### Waits that end -/

/-- CWAIT_WAKE: a parked CWAIT looks at its counter, or a peer's answer arrives (R421). -/
def execCwaitWake (warp frag : Nat) (peer : Option DWord) (s : State) : Host.Outcome State Fault Refusal :=
  .next (s.run (if (s.warp? warp).any (fun w => w.mode == .run) then lookAtCounter warp frag peer s else []))

/-- SLEEP_WAKE: WALL has passed the wake-up time (R408; DEDUCED, log 56). -/
def execSleepWake (warp frag : Nat) (s : State) : Host.Outcome State Fault Refusal :=
  .next (s.run (match s.warp? warp with
    | none => []
    | some w =>
      match ((w.frag? frag).map (fun f => f.park) : Option Park) with
      | some (Park.sleep t) => if w.mode == .run && decide (t ≤ s.dev.wall.toNat) then [.warp (goOn frag none [] s w)] else []
      | _ => []))

/-- The lanes of a waiting KVLD that may be gathered: the page's WMARK has reached the layer (R336; DEDUCED, log 26). -/
def gatherable (s : State) (w : Warp) (e : TagEntry) : Xl (List (Nat × KvSlot × List (Nat × Nat))) :=
  let f32 := wordAt e.kv 0 = 1
  let sel := e.kv.drop 3
  e.lanes.foldr (fun l acc => do
    let rest ← acc
    let tok := ((e.lanes.zip e.tiles).find? (fun x => x.1 == l)).elim 0 (fun x => x.2.1)
    let k ← kvldLane s w (wordAt e.kv 1).toNat sel (if f32 then 4 else 8) tok
    if kvldWaits w k.1 then .ok rest else .ok ((l, k) :: rest)) (.ok [])

/-- What the gathered lanes of a waiting KVLD add to its tag, FP_TRAP of their flags among it (R96, R334). -/
def gatheredEntry (s : State) (w : Warp) (e : TagEntry) (xs : List (Nat × KvSlot × List (Nat × Nat))) : TagEntry :=
  let f32 := decide (wordAt e.kv 0 = 1)
  let got := xs.map (fun x => (x.1, x.2.1, kvldGather s w f32 x.2.1 (freqAt x.2.2)))
  let stay := (e.lanes.zip e.tiles).filter (fun y => !xs.any (fun x => x.1 == y.1))
  { got.foldl (fun e x => e.gain w.regs.fpctl (kvldWrites e.dst (wordAt e.kv 2).toNat x.1 x.2.1 x.2.2) x.2.2.2.1) e with
    lanes := stay.map (·.1), tiles := stay.map (·.2), returned := stay.isEmpty }

/-- KVLD_WAIT_GATHER: the lanes whose pages have been repaired are gathered, as accesses of the open chunk that follow the repair's
counter; a fault met there is raised when the tag is consumed (R263, R336). -/
def execKvldWaitGather (warp tag : Nat) (s : State) : Host.Outcome State Fault Refusal :=
  .next (s.run (match s.warp? warp with
    | none => []
    | some w =>
      match w.regs.tags.find? (fun e => e.tag == tag && e.awaits == .kv && !e.returned) with
      | none => []
      | some e =>
        match gatherable s w e with
        | .error t => [.warp (w.mapTags (fun x => if x.seq = e.seq then { x with raises := some { t with ppc := some e.pc }, returned := true, lanes := [] } else x))]
        | .ok [] => []
        | .ok xs =>
          let count := if wordAt e.kv 0 = 1 then 4 else 8
          let places := xs.flatMap (fun x => kvldPlaces x.2.1 count)
          let clk := (e.lanes.zip e.tiles).foldl (fun c y => if xs.any (fun x => x.1 == y.1) then clockJoin c (counterClock s (.home y.2.2) (counterValue s y.2.2)) else c) []
          let f : Frag := ((w.regs.frags.find? (fun f => f.mask &&& e.mask != 0)).or w.regs.frags.head?).getD ⟨0, 0, e.pc, 0, 0, 0, false, .run, 0, false, none, []⟩
          let g := { f with pc := e.pc, clock := clockJoin f.clock clk }
          let w1 := w.mapTags (fun x => if x.seq = e.seq then gatheredEntry s w e xs else x)
          [.warp { w1 with chunk := { w1.chunk with
              reads := nub (w1.chunk.reads ++ places.map Place.word)
              seen := nub (w1.chunk.seen ++ (places.map Place.word).filter (fun p => p.space == .mem && !coveredBy w1.chunk.bytes p))
              pages := nub (w1.chunk.pages ++ xs.map (fun x => (x.2.1.leaf.realm, x.2.1.leaf.va.toNat / 2 ^ 16)))
              accesses := w1.chunk.accesses ++ accessesOf s w g { reads := places } } }]))

/-! ### Matrix engines (R202, R206, R210, R212, R213, R265) -/

/-- MMA_GRANT: an idle array is granted its best eligible entry; a quarter of another format frees it with MATRIX_SHAPE (R212, R213). -/
def execMmaGrant (core : Nat) (s : State) : Host.Outcome State Fault Refusal :=
  .next (s.run (match nextGrant s core with
    | none => []
    | some e =>
      if (entryQuarters e).any (fun q => (quarterFor s e q.1).any (fun x => x.fmt != e.bf)) then
        andThen (freeEntry e) (raiseLater e.warp e.who e.pc (raise .matrixShape)) s
      else onMat (fun m => { m with entries := m.entries.map (fun x => if x.id = e.id then { x with granted := true } else x) }) s))

/-- What a pass that races with no earlier access does: its accumulator is written, its flags wait for the warp's next drain, its entry is
freed (R206 to R211). -/
def passDone (e : Entry) (as : List Access) (s : State) : List Upd :=
  let rs := passResults s e
  let fl := rs.foldl (fun m r => m ||| r.2.2.1) (0 : Flags)
  inOrder [putTile e.task (rs.flatMap (fun r => tileCells r.1 (valBytes e.accBytes r.2.1)))
      (rs.map (fun r => ((⟨.tile, e.task, r.1⟩ : Place).word, r.2.2.2))),
    freeEntry e,
    onWarp e.warp (fun w => if fl = 0 then w else { w with passFlags := w.passFlags ++ [(fl, e.pc)] }),
    onMat (fun m => { m with done := cellSet m.done e.core (cellGet m.done e.core + 1) }),
    logAccesses as] s

/-- The accesses of a pass. -/
def passAccesses (s : State) (e : Entry) : List Access :=
  let accs : List Place := (passResults s e).map (fun r => ⟨.tile, e.task, r.1⟩)
  tileAccesses s e.launch e.warp e.who e.path e.pc e.thread e.stamp e.clock (passReads e ++ accs) accs

/-- PASS_COMPLETE: the granted pass is done, unless it makes the second access of a race, which it raises in its warp (R206 to R211, R265). -/
def execPassComplete (id : Nat) (s : State) : Host.Outcome State Fault Refusal :=
  .next (s.run (match s.entry? id with
    | none => []
    | some e =>
      if !e.granted then [] else
      let as := passAccesses s e
      match firstRace (effective s e.part) s.order.accesses as with
      | some x => andThen (freeEntry e) (raiseLater e.warp e.who e.pc (engineRace x e.pc)) s
      | none => passDone e as s))

/-- The quarter that a copy leaves (R201, R202, R215). -/
def copiedQuarter (s : State) (c : QCopy) : Quarter :=
  let n := matImage c.fmt 16
  { core := c.core, set := c.set, fmt := c.fmt, gen := c.gen, launch := c.launch,
    bytes := (List.range n).map (fun k => taskTile s c.task (c.tile + k))
    poison := if s.order.poison.isEmpty then [] else (List.range n).filter (fun k => taskTilePoison s c.task (c.tile + k)) }

/-- QUARTER_COPY (R202, R265). -/
def execQuarterCopy (id : Nat) (s : State) : Host.Outcome State Fault Refusal :=
  .next (s.run (match s.mat.copies.find? (fun c => c.id == id) with
    | none => []
    | some c =>
      if !copyReady s c then [] else
      let as := tileAccesses s c.launch c.warp c.who c.path c.pc c.thread c.stamp c.clock
        (wordsOf ⟨.tile, c.task, c.tile⟩ (matImage c.fmt 16)) []
      match firstRace (effective s c.who.part) s.order.accesses as with
      | some x => andThen (endCopy c none) (raiseLater c.warp c.who c.pc (engineRace x c.pc)) s
      | none => andThen (endCopy c (some (copiedQuarter s c))) (logAccesses as) s))

end Sys2Proof.Machine
end

