-- ==== Sys2Proof/Machine/EngineEv.lean ====
section
/-! DEFINITION. What the engines do by themselves: granules (R250), windows (R301 to R307), copies (R312), commands that stop (R297), TOPK (R351),
collectives (R316 to R320), KVCOMPACT and BEAMMAP data (R344, R349), REPAIR (R346), CWB (R293), evicted partials (R244). -/

namespace Sys2Proof.Machine

/-! ### Commands -/

/-- Whose accesses a command makes, with the translations that it holds. -/
def Job.owner (j : Job) : Who := { part := j.part, user := j.level == 0, path := j.path, own := [], core := j.core, held := j.held }

/-- What a command sees: committed words. -/
def Job.view (j : Job) : View := ⟨j.part, j.path, []⟩

/-- Realm number of a selector in a command's descriptor (R294). -/
def Job.realmOf (j : Job) (rsel : Nat) : Nat := (j.realms.getD rsel 0).toNat

/-- The window a command copies into. -/
def jobWindow (s : State) (j : Job) : Option Window := (s.task? j.task).bind (fun t => t.windows.find? (fun x => x.job == j.id))

/-- A command has started: a window is copying. -/
def jobRunning (s : State) (j : Job) : Bool := j.started && (j.kind != .window || (jobWindow s j).any (fun x => x.state == 2))

/-- A window's refresh that waits for a runner (R298, R305). -/
def windowRefreshes (s : State) (j : Job) : Bool := j.kind == .window && !j.started && (jobWindow s j).any (fun x => x.state == 2)

/-- Kinds of commands that runners serve (R298, R344, R349, R496). -/
def JobKind.onRunner (k : JobKind) : Bool := k == .window || k == .rcopy || k == .kvcompact || k == .beammap || k == .ckpt

/-- Runners of a die that a partition owns (R298, R431). -/
def runnersOf (s : State) (part die : Nat) : Nat :=
  (s.part? part).elim 0 (fun p => (List.range 64).countP (fun k => (wpair p.desc (8 + 2 * die)).getLsbD k))

/-- The dies whose runners serve a command: the issuing core's, both for CKPT (R298, R496). -/
def jobDies (s : State) (j : Job) : List Nat :=
  if j.kind = .ckpt then [0, 1].filter (fun d => decide (0 < runnersOf s j.part d)) else [dieOf j.core]

/-- Commands of a partition that a die's runners serve now. -/
def runnersBusy (s : State) (part die : Nat) : Nat :=
  s.eng.jobs.countP (fun k => k.part == part && k.kind.onRunner && jobRunning s k && (jobDies s k).contains die)

/-- A command asks for a runner: it has been sent and waits behind no lock, a window's copy has been asked for. -/
def jobAsks (s : State) (j : Job) : Bool :=
  j.kind.onRunner && j.sent && !jobRunning s j && (j.kind != .window || (j.started && j.phase == 2) || windowRefreshes s j) && !behindLock s j.id

/-- A command takes a runner: its partition has one free, and no command of an earlier position asks for it (R298). -/
def mayStart (s : State) (j : Job) : Bool :=
  !j.kind.onRunner || (jobDies s j).all (fun d => decide (runnersBusy s j.part d < runnersOf s j.part d)
    && !s.eng.jobs.any (fun k => k.part == j.part && (decide (k.seq < j.seq) || (k.seq == j.seq && decide (k.id < j.id)))
      && (jobDies s k).contains d && jobAsks s k))

/-- A command may go on: sent, its partition runs, no earlier lock stands before it, it has started or may (R249, R294, R298). -/
def jobReady (s : State) (j : Job) : Bool :=
  j.sent && !j.done && partWorks s j.part && !behindLock s j.id && (jobRunning s j || ((j.kind != .window || windowRefreshes s j) && mayStart s j))

/-- Remove a command with its locks. -/
def dropJob (id : Nat) (s : State) : List Upd :=
  .eng { s.eng with jobs := s.eng.jobs.filter (fun j => j.id != id) } :: releaseLocks id s

/-- A command ends: the flags of its operands and steps wait for its warp's next drain point (R91, R92, R95; DEDUCED, log 23). -/
def endJob (j : Job) : State → List Upd :=
  andThen (dropJob j.id)
    (onWarp j.warp (fun w => if j.flags = 0 then w else { w with drainFlags := w.drainFlags ++ [(j.flags, j.pc)] }))

/-- Flags that a granule raised (DEDUCED, log 23). -/
def gainFlags (id : Nat) (fl : Flags) : State → List Upd := onJob id (fun j => { j with flags := j.flags ||| fl })

/-- Granules a command has landed (R297, R474). -/
def Job.granules (j : Job) : Nat :=
  match j.kind with
  | .window => granulesOf (windowOffset j.dst) j.landed
  | .rcopy => granulesOf j.dst j.landed
  | .coll => granulesOf 0 j.landed
  | .topk => granulesOf j.dst j.landed
  | .kvcompact => j.landed
  | .beammap => j.landed
  | .ckpt => j.landed
  | .cwb => 0
  | .repair => 0
  | .placement => 0

/-- The fault of a command as its record carries it: raised for an engine, with the granules landed where the cause leaves the word
free (R297, R467). -/
def Job.faultOf (j : Job) (t : TrapReq) : TrapReq :=
  { t with eng := true, d18 := if t.cause = .race || t.cause = .argRange then t.d18 else BitVec.ofNat 32 j.granules }

/-- The entries of a repair job lose RPEND and keep WMARK when it stops (R346), unless that change makes the second access of a race (R265).
cause: what stops it. -/
def disarm (j : Job) (cause : Cause) (s : State) : List Upd :=
  let as := jobAccesses s j (j.data.flatMap kvPlaces) (j.data.map (fun ea => memPlace (ea + 28)))
  match firstRace (effective s j.part) s.order.accesses as with
  | some x => if cause = .race then [] else raiseLater j.warp j.who j.pc (j.faultOf (engineRace x j.pc)) s
  | none => andThen (applyCells (jobWriter s j) (j.data.flatMap (fun ea => kvStores ea [7] (kvSet (kvEntry s j.view ea) 254 1 0))) []) (logAccesses as) s

/-- A fault stops a sent command (R297): a window is bound and absent again, so that another touch or WKICK starts another copy;
its follow-on entry is freed (R214); any other command is gone. Its counter does not advance (DEDUCED, log 22). -/
def stopJob (j : Job) (t : TrapReq) (s : State) : List Upd :=
  inOrder [
    (match j.kind with
      | .window => fun s => onTask j.task (fun k => { k with windows := k.windows.map (fun x =>
          if x.job = j.id then { x with state := 1, fault := true, landed := j.landed } else x) }) s
            ++ onJob j.id (fun j => { j with started := false, asked := false, landed := 0, held := [] }) s ++ freeFollowOn j.id s
      | .repair => andThen (disarm j t.cause) (dropJob j.id)
      | .rcopy => dropJob j.id
      | .cwb => dropJob j.id
      | .kvcompact => dropJob j.id
      | .beammap => dropJob j.id
      | .topk => dropJob j.id
      | .coll => dropJob j.id
      | .ckpt => dropJob j.id
      | .placement => dropJob j.id),
    raiseLater j.warp j.who j.pc (j.faultOf t)] s

/-- A command's counter where the tables put it as it advances (R251, R443). -/
def jobCounter (s : State) (j : Job) : Xl CounterRef :=
  let at_ (code realm : Nat) (off : DWord) : Xl CounterRef := (counterAt s j.owner true code realm off).map counterRef
  if j.counter = .none then .ok .none else
  match j.kind with
  | .window => at_ (wfield j.desc 2 4 4) (j.realmOf (wfield j.desc 2 2 2)) (wpair j.desc 6)
  | .rcopy => at_ (wfield j.desc 5 6 4) (j.realmOf (wfield j.desc 5 4 2)) (wpair j.desc 6)
  | .topk => at_ (wfield j.desc 3 16 4) (j.realmOf (wfield j.desc 3 14 2)) (wpair j.desc 6)
  | .coll => at_ 8 (j.realmOf (wfield j.desc 3 10 2)) (BitVec.ofNat 64 j.dst)
  | .ckpt => at_ (wfield j.desc 2 4 4) (j.realmOf (wfield j.desc 2 0 2)) (wpair j.desc 3)
  | .repair => at_ 6 j.dst (wpair j.desc 6)
  | .kvcompact => .ok j.counter
  | .beammap => .ok j.counter
  | .cwb => .ok j.counter
  | .placement => .ok j.counter

/-- What a command does with its counter: a fault of its place stops the command (R297, R443); it waits where a chunk with commit priority
holds the word (R235). -/
def withCounter (j : Job) (s : State) (go : CounterRef → List Upd) : List Upd :=
  match jobCounter s j with
  | .error t => stopJob j t s
  | .ok c => if advanceHeld s j.part c then [] else go c

/-- A command's counter advances, and the command ends (R251). -/
def finishJob (j : Job) (amount : Nat) (s : State) : List Upd :=
  withCounter j s (fun c => andThen (advance j.part j.path c amount (jobClock j)) (endJob j) s)

/-- A word is poisoned as a shoot sees it (R268). -/
def poisonedFor (s : State) (part : Nat) (path : Path) (p : Place) : Bool :=
  !s.order.poison.isEmpty
    && s.order.poison.contains (poisonMark p (if p.space = .mem then seenPath s part (effective s part path) (p.addr / 4) else 0))

/-- What a command's bytes meet in memory: a page sealed, or a range declared, since the command was checked (R241, R260; DEDUCED, log 91). -/
def landTrap (s : State) (cells : List (Place × Byte)) : Option TrapReq :=
  (nub ((memCells cells).map (fun c => c.1 / 128))).findSome? (fun l =>
    ((sealedAt s (128 * l)).map (fun ed => { raiseAt .sealedWrite (BitVec.ofNat 64 (128 * l)) with d17 := ed })).or
      (if (memCells cells).any (fun c => c.1 / 128 == l && meetsDeclared s c.1 (c.1 + 1)) then some (raiseAt .rangeLock (BitVec.ofNat 64 (128 * l))) else none))

/-- A command's bytes land at one position (R250), unless a commit-priority chunk holds them back (R235), they meet a seal or a declared
range, they race (R265), or their versions find no record (R255). -/
def landWrites (j : Job) (cells : List (Place × Byte)) (marks : List (Place × Bool)) (reads : List Place) (after : State → List Upd) (s : State) :
    List Upd :=
  let wr := jobWriter s j
  let as := jobAccesses s j reads (cells.map (·.1))
  let lines := nub ((memCells cells).map (fun c => c.1 / 128))
  if heldByPriority s wr (nub (cells.map (fun c => c.1.word))) then [] else
  match (landTrap s cells).or ((firstRace (effective s j.part) s.order.accesses as).map (fun x => engineRace x j.pc)) with
  | some t => stopJob j t s
  | none =>
    match spillFails s j.part none (effective s j.part j.path) lines with
    | some l => stopJob j (raiseAt .versionSpill (BitVec.ofNat 64 (128 * l))) s
    | none =>
      inOrder [applyCells wr cells marks, logAccesses as,
        (if as.isEmpty then fun _ => [] else onLaunch j.part j.launch (fun l => { l with endClock := clockJoin l.endClock (jobClock j) })), after] s

/-! ### Sources -/

/-- Offsets that follow each other, made runs. -/
def runsOf (xs : List Nat) : List (Nat × Nat) :=
  xs.foldl (fun rs x => match rs.reverse with
    | [] => [(x, 1)]
    | (a, n) :: rest => if x = a + n then rest.reverse ++ [(a, n + 1)] else rs ++ [(x, 1)]) []

/-- Routes of runs of a realm, in order. -/
def runRoutes (s : State) (who : Who) (acc : Acc) (realm : Nat) (off : DWord) (runs : List (Nat × Nat)) : Xl (List Piece) :=
  runs.foldr (fun r acc' => do
    let rest ← acc'
    let ps ← routes s who acc realm (off + BitVec.ofNat 64 r.1) r.2
    .ok (ps ++ rest)) (.ok [])

/-- What the source of a granule gives. -/
inductive Granule where
  | wait
  | ask (ms : List OutMsg)
  | fault (t : TrapReq)
  | bytes (bs : List (Byte × Bool)) (reads : List Place)

/-- Bytes from a place on, with their poison. -/
def readPlaces (s : State) (v : View) (p : Place) (n : Nat) : List (Byte × Bool) :=
  (placesFrom p n).map (fun q => (viewByte s v q, poisonedFor s v.part v.path q))

/-- The request for a piece on a peer. -/
def Piece.request (path : Path) (p : Piece) : Option OutMsg :=
  match p.route with
  | .mem .. => none
  | .peer st ap o => some (.peerRead st ap path o p.len none)
  | .ether pod st wn o => some (.rdmaRead pod st wn o p.len)

/-- A granule's bytes from routed pieces: from memory, or from a peer's answer once it has been asked (DESIGN CHOICE, log 33). -/
def gatherPieces (s : State) (j : Job) (ps : List Piece) (n : Nat) (resp : PeerResp) : Granule :=
  if ps.any Piece.remote then
    match resp with
    | .none => if j.asked then .wait else .ask (ps.filterMap (Piece.request j.path))
    | .error step => if j.asked then .fault (peerFault step) else .wait
    | .data ws bad => if j.asked then .bytes (((wordsBytes ws).take n).zipIdx.map (fun b => (b.1, bad.getD (b.2 / 4) false))) [] else .wait
  else
    .bytes (ps.flatMap (fun p => match p.route with
        | .mem a _ => readPlaces s j.view (memPlace a) p.len
        | .peer .. => []
        | .ether .. => []))
      ((localRanges ps).flatMap (fun r => wordsOf (memPlace r.1) (r.2 - r.1)))

/-- The source of n bytes of a window or a copy from byte done on (R300, R303, R312; DEDUCED, log 20). -/
def copySource (s : State) (j : Job) (n : Nat) (resp : PeerResp) : Granule :=
  if j.kind = .window then
    let offs := (List.range n).map (fun i => windowSource j.desc (j.landed + i))
    if (wordAt j.desc 2).getLsbD 9 then
      match haloSource s j with
      | none => .fault (raiseD .groupAbsent (BitVec.ofNat 32 j.tag))
      | some k =>
        let ps := offs.map (fun o => (⟨.scratch, k.id, j.src + o⟩ : Place))
        .bytes (ps.map (fun p => (taskByte s p, poisonedFor s j.part j.path p))) (nub (ps.map Place.word))
    else match runRoutes s j.owner { } (j.realmOf (wfield j.desc 2 0 2)) (BitVec.ofNat 64 j.src) (runsOf offs) with
      | .error t => .fault t
      | .ok ps => gatherPieces s j ps n resp
  else match routes s j.owner { engine := true } (j.realmOf (wfield j.desc 5 0 2)) (BitVec.ofNat 64 (j.src + j.landed)) n with
    | .error t => .fault t
    | .ok ps => gatherPieces s j ps n resp

/-! ### Destinations -/

/-- Bytes with poison as cells from a place on. -/
def cellsFor (p : Place) (bs : List (Byte × Bool)) : List (Place × Byte) := (placesFrom p bs.length).zip (bs.map (·.1))

/-- The marks of the words that bytes with poison go to (R268): a word is poisoned where one of its bytes is. -/
def marksFor (p : Place) (bs : List (Byte × Bool)) : List (Place × Bool) :=
  let xs := (placesFrom p bs.length).zip (bs.map (·.2))
  (nub (xs.map (fun x => x.1.word))).map (fun w => (w, xs.any (fun x => x.1.word == w && x.2)))

/-- A command's progress by some units; its source locks end with its last read (R247). -/
def progress (id n total : Nat) (s : State) : List Upd :=
  match s.job? id with
  | none => []
  | some j =>
    onJob id (fun j => { j with landed := j.landed + n, asked := false }) s
    ++ (if total ≤ j.landed + n then onOrder (fun o => { o with locks := o.locks.filter (fun l => l.holder != id || l.dest) }) s else [])

/-- The record of a command's store to a peer, until it is acknowledged; station 1024 for one over Ethernet (R239, R312). -/
def granulePending (s : State) (j : Job) (station : Nat) : PeerPending :=
  ⟨s.model.nextId, j.id, station, 0, 0, j.task, j.who, j.pc, s.dev.wall.toNat⟩

/-- A granule of a copy leaves for a peer as a store; one to a 65th peer of its shoot is SHOOT_LIMIT (R239, R259, R312, R379; DEDUCED, log 52). -/
def sendGranule (j : Job) (p : Piece) (bs : List (Byte × Bool)) (s : State) : List Upd :=
  let data := (bs.drop p.at_).take p.len
  let path := effective s j.part j.path
  match p.route with
  | .mem .. => []
  | .ether pod st wn o =>
    andThen (onNet (fun n => { n with
      outbox := n.outbox ++ [.rdmaWrite pod st wn o (data.map (·.1))], peerPending := n.peerPending ++ [granulePending s j 1024] })) (useIds 1) s
  | .peer st ap o =>
    if path != 0 && (shootOf s j.part path).any (fun x => decide (64 ≤ x.peers.length) && !x.peers.contains st) then
      stopJob j (raiseD .shootLimit (path.setWidth 32)) s else
    inOrder [onNet (fun n => { n with
        outbox := n.outbox ++ [.peerWrite st ap path o data], peerPending := n.peerPending ++ [granulePending s j st] }), useIds 1,
      onPart j.part (fun q => { q with shoots := q.shoots.map (fun x => if x.path = path ∧ path ≠ 0 then { x with peers := nub (x.peers ++ [st]) } else x) })] s

/-- A copy's bytes go to their destination (R250, R300, R312; DEDUCED, log 20). -/
def copyLand (s : State) (j : Job) (bs : List (Byte × Bool)) (reads : List Place) : List Upd :=
  let go := progress j.id bs.length j.total
  if j.kind = .window then
    let at_ : Place := ⟨windowSpace j.dst, j.task, windowOffset j.dst + j.landed⟩
    landWrites j (cellsFor at_ bs) (marksFor at_ bs) reads go s
  else match routes s j.owner { write := true, engine := true } (j.realmOf (wfield j.desc 5 2 2)) (BitVec.ofNat 64 (j.dst + j.landed)) bs.length with
    | .error t => stopJob j t s
    | .ok ps =>
      let here := ps.filterMap (fun p => match p.route with
        | .mem a _ => some (memPlace a, (bs.drop p.at_).take p.len)
        | .peer .. => none
        | .ether .. => none)
      landWrites j (here.flatMap (fun x => cellsFor x.1 x.2)) (here.flatMap (fun x => marksFor x.1 x.2)) reads
        (andThen (forEach (ps.filter Piece.remote) (fun p => sendGranule j p bs)) go) s

/-- The bytes of a window's or a copy's next granule. -/
def copySize (j : Job) : Nat :=
  min (128 - ((if j.kind = .window then windowOffset j.dst else j.dst) + j.landed) % 128) (j.total - j.landed)

/-- One granule of a window or a copy. -/
def copyGranule (s : State) (j : Job) (resp : PeerResp) : List Upd :=
  if j.total ≤ j.landed then [] else
  match copySource s j (copySize j) resp with
  | .wait => []
  | .ask ms => [.net { s.net with outbox := s.net.outbox ++ ms }] ++ onJob j.id (fun j => { j with asked := true, askedAt := s.dev.wall.toNat }) s
  | .fault t => stopJob j t s
  | .bytes bs reads => copyLand s j bs reads

/-! ### TOPK (R351) -/

/-- The scores of a row, with whether one is poisoned. -/
def topkScores (s : State) (j : Job) (r : Nat) : Xl (List Score × Bool) := do
  let n := wfield j.desc 2 0 23
  let size := topkSize j.desc
  let ps ← routes s j.owner { local_ := true } (j.realmOf (wfield j.desc 3 10 2)) (BitVec.ofNat 64 (j.src + r * n * size)) (n * size)
  let bs := ps.flatMap (fun p => match p.route with
    | .mem a _ => readPlaces s j.view (memPlace a) p.len
    | .peer .. => []
    | .ether .. => [])
  let vals := (List.range n).map (fun i => bytesVal (((bs.drop (i * size)).take size).map (·.1)))
  .ok (vals.zipIdx.map (fun x => topkScore (j.phase == 1) (size == 2) x.2 x.1), bs.any (·.2))

/-- Bytes of TOPK's output rows, and the flags of their scores (R90, R92). -/
def topkRows (s : State) (j : Job) (rows : List Nat) : Xl (List (Byte × Bool) × Flags) :=
  rows.foldr (fun r acc => do
    let rest ← acc
    let (scores, poison) ← topkScores s j r
    .ok ((topkRow (wfield j.desc 3 0 9) scores).map (fun b => (b, poison)) ++ rest.1, scores.foldl (fun m x => m ||| x.flags) rest.2)) (.ok ([], 0))

/-- The words a row of scores lies in. -/
def topkReads (s : State) (j : Job) (rows : List Nat) : List Place :=
  let len := wfield j.desc 2 0 23 * topkSize j.desc
  rows.flatMap (fun r => match routes s j.owner { local_ := true } (j.realmOf (wfield j.desc 3 10 2)) (BitVec.ofNat 64 (j.src + r * len)) len with
    | .error _ => []
    | .ok ps => (localRanges ps).flatMap (fun x => wordsOf (memPlace x.1) (x.2 - x.1)))

/-- The rows and the bytes of TOPK's next granule of output. -/
def topkSpan (j : Job) : List Nat × Nat :=
  let row := 8 * wfield j.desc 3 0 9
  let n := min (128 - (j.dst + j.landed) % 128) (j.total - j.landed)
  ((List.range ((j.landed + n - 1) / row + 1 - j.landed / row)).map (fun i => j.landed / row + i), n)

/-- One granule of TOPK's output. -/
def topkGranule (s : State) (j : Job) : List Upd :=
  if j.total ≤ j.landed then [] else
  let (rows, n) := topkSpan j
  match topkRows s j rows, routes s j.owner { write := true, local_ := true } (j.realmOf (wfield j.desc 3 12 2)) (BitVec.ofNat 64 (j.dst + j.landed)) n with
  | .error t, _ => stopJob j t s
  | .ok _, .error t => stopJob j t s
  | .ok (all, fl), .ok ps =>
    let bs := (all.drop (j.landed % (8 * wfield j.desc 3 0 9))).take n
    let here := ps.filterMap (fun p => match p.route with
      | .mem a _ => some (memPlace a, (bs.drop p.at_).take p.len)
      | .peer .. => none
      | .ether .. => none)
    landWrites j (here.flatMap (fun x => cellsFor x.1 x.2)) (here.flatMap (fun x => marksFor x.1 x.2)) (topkReads s j rows)
      (andThen (gainFlags j.id fl) (progress j.id n j.total)) s

/-! ### KVCOMPACT and BEAMMAP (R344, R349) -/

/-- The frame of a page that KVCOMPACT moves slots of: of the translation it holds, else by a walk (R344, R443). -/
def compactFrame (s : State) (j : Job) (page : Nat) : Xl Nat :=
  match j.held.find? (fun x => x.page == page) with
  | some x => .ok (4096 * x.frame)
  | none =>
    match kvLeafOf s { j.owner with held := [] } j.view true j.dst (BitVec.ofNat 64 (page * 2 ^ 16)) with
    | .error t => .error t
    | .ok l => kvFrameOf l true

/-- The pages of KVCOMPACT's next granule: the one it is read from, the one it is written to. -/
def compactPages (j : Job) : Nat × Nat := (j.data.getD (4 * j.landed) 0, j.data.getD (4 * j.landed + 2) 0)

/-- One granule of KVCOMPACT's moves; the command ends with its last. -/
def compactGranule (s : State) (j : Job) : List Upd :=
  if j.total ≤ j.landed then endJob j s else
  match compactFrame s j (compactPages j).1, compactFrame s j (compactPages j).2 with
  | .error t, _ => stopJob j t s
  | .ok _, .error t => stopJob j t s
  | .ok a, .ok b =>
    let from_ := memPlace (a + j.data.getD (4 * j.landed + 1) 0)
    let to_ := memPlace (b + j.data.getD (4 * j.landed + 3) 0)
    let bs := readPlaces s j.view from_ 128
    landWrites j (cellsFor to_ bs) (marksFor to_ bs) (wordsOf from_ 128)
      (fun s => if j.landed + 1 = j.total then endJob j s else progress j.id 1 j.total s) s

/-- Byte i of BEAMMAP's new bank (R349). old: byte (row, token) of the old bank. -/
def beamByte (tcap t : Nat) (pi : List Nat) (old : Nat → Nat → Byte) (i : Nat) : Byte :=
  let row := pi.getD (i / tcap) 0
  if i % tcap < t then (let e := old row (i % tcap); if e.getLsbD 7 then BitVec.ofNat 8 row else e) else 0x80

/-- One granule of BEAMMAP's bank writes: an entry that it copies takes its poison along (R268, R349). -/
def beamGranule (s : State) (j : Job) : List Upd :=
  if j.total ≤ j.landed then [] else
  let head := wordAt j.desc 0
  let tcap := (kvBeamHead head).2
  let c := wfield [head] 0 0 1
  let at_ (bank row t : Nat) : DWord := BitVec.ofNat 64 (j.src + kvBankByte tcap bank row t)
  let old (row t : Nat) : Byte := match translate s j.owner { local_ := true } j.dst (at_ c row t) 1 with
    | .ok (.mem a _) => viewByte s j.view (memPlace a)
    | _ => 0
  let taint (k : Nat) : Bool := !s.order.poison.isEmpty && decide (k % tcap < (wordAt j.desc 1).toNat)
    && (match translate s j.owner { local_ := true } j.dst (at_ c (j.data.getD (k / tcap) 0) (k % tcap)) 1 with
      | .ok (.mem a _) => poisonedFor s j.view.part j.view.path (memPlace a)
      | _ => false)
  let rows := nub ((List.range 128).map (fun k => j.data.getD ((128 * j.landed + k) / tcap) 0))
  let reads := rows.flatMap (fun r => match translate s j.owner { local_ := true } j.dst (at_ c r (128 * j.landed % tcap)) 128 with
    | .ok (.mem a _) => wordsOf (memPlace a) 128
    | _ => [])
  match translate s j.owner { write := true, local_ := true } j.dst (at_ (1 - c) 0 (128 * j.landed)) 128 with
  | .ok (.mem a _) =>
    let bs := (List.range 128).map (fun k => (beamByte tcap (wordAt j.desc 1).toNat j.data old (128 * j.landed + k), taint (128 * j.landed + k)))
    landWrites j (cellsFor (memPlace a) bs) (marksFor (memPlace a) bs) reads (progress j.id 1 j.total) s
  | .ok (.peer ..) => stopJob j (realmFault 4 j.dst (at_ (1 - c) 0 (128 * j.landed))) s
  | .ok (.ether ..) => stopJob j (realmFault 4 j.dst (at_ (1 - c) 0 (128 * j.landed))) s
  | .error t => stopJob j t s

/-! ### Collectives (R315 to R320) -/

/-- A collective's own rank, members, kind, element format, block. -/
def Job.rank (j : Job) : Nat := wfield j.desc 4 0 11
def Job.members (j : Job) : Nat := wfield j.desc 4 16 11
def Job.collKind (j : Job) : Nat := wfield j.desc 3 0 3
def Job.elemBytes (j : Job) : Nat := collBytes (wfield j.desc 3 3 3)
def Job.block (j : Job) : Nat := (wordAt j.desc 2).toNat / j.members

/-- The ranks whose messages a member awaits (R317). -/
def awaitedRanks (j : Job) : List Nat :=
  if j.collKind = 3 then (if j.rank = wfield j.desc 7 0 11 then [] else [wfield j.desc 7 0 11])
  else (List.range j.members).filter (fun r => r != j.rank)

/-- The ranks a member sends its part to. -/
def sentRanks (j : Job) : List Nat :=
  if j.collKind = 3 && j.rank != wfield j.desc 7 0 11 then [] else (List.range j.members).filter (fun r => r != j.rank)

/-- First element and elements of the part that goes to a rank (R317). -/
def partFor (j : Job) (r : Nat) : Nat × Nat :=
  match j.collKind with
  | 1 => (r * j.block, j.block)
  | 2 => (j.rank * j.block, j.block)
  | _ => (0, (wordAt j.desc 2).toNat)

/-- First byte and bytes of the buffer that the round writes. -/
def collRange (j : Job) : Nat × Nat :=
  match j.collKind with
  | 1 => (j.rank * j.block * j.elemBytes, j.block * j.elemBytes)
  | 3 => if j.rank = wfield j.desc 7 0 11 then (0, 0) else (0, j.total)
  | _ => (0, j.total)

/-- Routes of bytes of the buffer. -/
def bufferRoutes (s : State) (j : Job) (write : Bool) (off n : Nat) : Xl (List Piece) :=
  routes s j.owner { write := write, local_ := true } (j.realmOf (wfield j.desc 3 8 2)) (BitVec.ofNat 64 (j.src + off)) n

/-- Bytes of the buffer, with their words. -/
def bufferBytes (s : State) (j : Job) (off n : Nat) : Xl (List (Byte × Bool) × List Place) := do
  let ps ← bufferRoutes s j false off n
  .ok (ps.flatMap (fun p => match p.route with
      | .mem a _ => readPlaces s j.view (memPlace a) p.len
      | .peer .. => []
      | .ether .. => []),
    (localRanges ps).flatMap (fun r => wordsOf (memPlace r.1) (r.2 - r.1)))

/-- Elements of bytes. -/
def elemsOf (size : Nat) (bs : List Byte) : List DWord :=
  (List.range (bs.length / size)).map (fun i => BitVec.ofNat 64 (bytesVal ((bs.drop (i * size)).take size)))

/-- The pod and station that a member's table entry reaches (R316). -/
def memberAt (s : State) (j : Job) (r : Nat) : Xl (Option Nat × Nat) := do
  let realm := j.realmOf (wfield j.desc 3 10 2)
  let (ws, _) ← readLocal s j.owner realm (BitVec.ofNat 64 (j.dst + 8 + 4 * r)) 1
  let n := wfield ws 0 0 16
  match s.part? j.part with
  | none => .error (realmFault 1 n 0)
  | some p =>
    let e := realmEntry s p n
    if wfield ws 0 16 16 ≠ 0 then .error (realmFault 1 n 0)
    else if realmCount p ≤ n || realmReserved e || !(realmKind e == 2 || realmKind e == 3) then .error (realmFault 1 n 0)
    else .ok (if realmKind e = 3 then some (wfield e 3 10 7) else none, wfield e 3 0 10)

/-- The numbers of the elements that hold a poisoned byte (R268; DEDUCED, log 108). -/
def badElems (size : Nat) (bs : List (Byte × Bool)) : List Nat :=
  (List.range (bs.length / size)).filter (fun i => ((bs.drop (i * size)).take size).any (·.2))

/-- The message of a member's part for a rank: its elements with their poison (R268; DEDUCED, log 108). -/
def collMsgFor (j : Job) (all : List DWord) (bad : List Nat) (r : Nat) : CollMsg where
  rank := j.rank
  kind := BitVec.ofNat 3 j.collKind
  efmt := BitVec.ofNat 3 (wfield j.desc 3 3 3)
  rop := BitVec.ofNat 2 (wfield j.desc 3 6 2)
  count := (wordAt j.desc 2).toNat
  nmem := j.members
  root := wfield j.desc 7 0 11
  elems := (all.drop (partFor j r).1).take (partFor j r).2
  bad := (bad.filter (fun i => decide ((partFor j r).1 ≤ i) && decide (i < (partFor j r).1 + (partFor j r).2))).map (fun i => i - (partFor j r).1)

/-- The messages of a round, or the fault its member table has. -/
def collMessages (s : State) (j : Job) (all : List DWord) (bad : List Nat) : Xl (List OutMsg) :=
  (sentRanks j).foldr (fun r acc => do
    let rest ← acc
    let m ← memberAt s j r
    .ok (.coll m.1 m.2 (collMsgFor j all bad r) :: rest)) (.ok [])

/-- A round starts: the member reads its buffer and sends its parts (R316, R317). -/
def collStart (j : Job) (s : State) : List Upd :=
  match bufferBytes s j 0 j.total with
  | .error t => stopJob j t s
  | .ok (bs, reads) =>
    let as := jobAccesses s j reads []
    match firstRace (effective s j.part) s.order.accesses as, collMessages s j (elemsOf j.elemBytes (bs.map (·.1))) (badElems j.elemBytes bs) with
    | some x, _ => stopJob j (engineRace x j.pc) s
    | none, .error t => stopJob j t s
    | none, .ok ms =>
      inOrder [fun s => [.net { s.net with outbox := s.net.outbox ++ ms }], logAccesses as,
        onJob j.id (fun j => { j with phase := 1, startedAt := s.dev.wall.toNat })] s

/-- The format of a collective's elements, INT32 apart. -/
def collSpec (efmt : Nat) : FSpec := if efmt = 1 then specBF16 else if efmt = 3 then specF64 else specF32

/-- One step of a reduction, with its flags (R90 to R92, R318; DEDUCED, log 23). -/
def collComb (denorm : Bool) (efmt rop : Nat) (x v : Nat) : Nat × Flags :=
  if efmt = 2 then
    let a := crInt 32 x
    let b := crInt 32 v
    ((match rop with
      | 0 => intCode 32 (a + b)
      | 1 => intCode 32 (min a b)
      | _ => intCode 32 (max a b)), 0)
  else
    let f := collSpec efmt
    let a := readF denorm f x
    let b := readF denorm f v
    let r := match rop with
      | 0 => addVals denorm f .rn a.1 b.1
      | 1 => minMaxVals f false false a.1 b.1
      | _ => minMaxVals f true false a.1 b.1
    (r.1, a.2 ||| b.2 ||| r.2)

/-- The zero-sign rule of a floating-point sum over all members (R91, R318). -/
def collZero (denorm : Bool) (efmt rop : Nat) (vs : List Nat) (x : Nat) : Nat :=
  let f := collSpec efmt
  if efmt = 2 || rop != 0 || x % 2 ^ (f.width - 1) != 0 then x else
  let fs := vs.map (fun v => (readF denorm f v).1)
  let units (v : FVal) : Option Int := match v with
    | .fin s m e => some (alignTo (-1074) s m e)
    | .inf _ => none
    | .nan _ => none
  match fs.mapM units with
  | none => x
  | some ns => if ns.foldl (· + ·) 0 = 0 then zeroEnc f (fs.all (fun v => isZeroVal v && valNeg v)) else x

/-- The reduction of one element over all ranks, ascending, with the flags of every step (R91, R318; DEDUCED, log 23). -/
def collReduce (denorm : Bool) (efmt rop : Nat) (vs : List Nat) : Nat × Flags :=
  match vs with
  | [] => (0, 0)
  | v :: rest =>
    let r := rest.foldl (fun (x : Nat × Flags) y => let c := collComb denorm efmt rop x.1 y; (c.1, x.2 ||| c.2)) (v, 0)
    (collZero denorm efmt rop vs r.1, r.2)

/-- An element of a rank's message. -/
def msgElem (j : Job) (r i : Nat) : Nat := ((j.msgs.find? (fun m => m.rank == r)).elim 0 (fun m => (m.elems.getD i 0).toNat))

/-- Element i of the buffer after the round, with its flags; own: its value before (R317). -/
def collResult (j : Job) (i own : Nat) : Nat × Flags :=
  let red (k : Nat) : Nat × Flags := collReduce (j.data.headD 0 == 1) (wfield j.desc 3 3 3) (wfield j.desc 3 6 2)
    ((List.range j.members).map (fun r => if r = j.rank then own else msgElem j r k))
  match j.collKind with
  | 0 => red i
  | 1 => red (i - j.rank * j.block)
  | 2 => (if i / j.block = j.rank then own else msgElem j (i / j.block) (i % j.block), 0)
  | _ => (msgElem j (wfield j.desc 7 0 11) i, 0)

/-- An element of a rank's message holds poison (DEDUCED, log 108). -/
def msgBad (j : Job) (r i : Nat) : Bool := (j.msgs.find? (fun m => m.rank == r)).any (fun m => m.bad.contains i)

/-- Element i of the buffer after the round holds poison: what it copies does, or something it is reduced from (R268; DEDUCED, log 108). -/
def collBad (j : Job) (i : Nat) (own : Bool) : Bool :=
  let red (k : Nat) : Bool := own || (awaitedRanks j).any (fun r => msgBad j r k)
  match j.collKind with
  | 0 => red i
  | 1 => red (i - j.rank * j.block)
  | 2 => if i / j.block = j.rank then own else msgBad j (i / j.block) (i % j.block)
  | _ => msgBad j (wfield j.desc 7 0 11) i

/-- Every message that a member awaits has come. -/
def collComplete? (j : Job) : Bool := (awaitedRanks j).all (fun r => j.msgs.any (fun m => m.rank == r))

/-- One granule of a round's results (DEDUCED, log 23). -/
def collGranule (s : State) (j : Job) : List Upd :=
  if j.phase = 0 then collStart j s else
  let (lo, len) := collRange j
  if !collComplete? j || len ≤ j.landed then [] else
  let at_ := lo + j.landed
  let n := min (128 - at_ % 128) (len - j.landed)
  let size := j.elemBytes
  match bufferBytes s j at_ n, bufferRoutes s j true at_ n with
  | .error t, _ => stopJob j t s
  | .ok _, .error t => stopJob j t s
  | .ok (old, reads), .ok ps =>
    let vals := (elemsOf size (old.map (·.1))).zipIdx.map (fun x => collResult j (at_ / size + x.2) x.1.toNat)
    let bad := badElems size old
    let bs := vals.zipIdx.flatMap (fun x => (valBytes size x.1.1).map (fun b => (b, collBad j (at_ / size + x.2) (bad.contains x.2))))
    let here := ps.filterMap (fun p => match p.route with
      | .mem a _ => some (memPlace a, (bs.drop p.at_).take p.len)
      | .peer .. => none
      | .ether .. => none)
    landWrites j (here.flatMap (fun x => cellsFor x.1 x.2)) (here.flatMap (fun x => marksFor x.1 x.2)) reads
      (andThen (gainFlags j.id (vals.foldl (fun m x => m ||| x.2) 0)) (progress j.id n len)) s

/-- A member aborts its round: every member it can reach is told the failed rank, and the fault is raised (R320). -/
def collAbort (j : Job) (c : Cause) (rank : Nat) (s : State) : List Upd :=
  let tell := ((List.range j.members).filter (fun r => r != j.rank)).filterMap (fun r => match memberAt s j r with
    | .error _ => none
    | .ok m => if s.net.down.contains m.2 && m.1.isNone then none else some (OutMsg.collAbort m.1 m.2 rank))
  andThen (fun s => [.net { s.net with outbox := s.net.outbox ++ tell }]) (stopJob j (raiseD c (BitVec.ofNat 32 rank))) s

/-- A message belongs to a member's round (R316; DEDUCED, log 74). -/
def collMatches (j : Job) (m : CollMsg) : Bool :=
  m.kind.toNat == j.collKind && m.efmt.toNat == wfield j.desc 3 3 3 && m.rop.toNat == wfield j.desc 3 6 2
    && m.count == (wordAt j.desc 2).toNat && m.nmem == j.members && m.root == wfield j.desc 7 0 11
    && (awaitedRanks j).contains m.rank && m.elems.length == (if j.collKind = 1 || j.collKind = 2 then j.block else m.count)

/-- COLL_MESSAGE: a member receives a round message; one that does not match stops its round with ARG_RANGE (R316; DEDUCED, log 74). -/
def execCollMessage (job : Nat) (m : CollMsg) (s : State) : Host.Outcome State Fault Refusal :=
  .next (s.run (match s.job? job with
    | none => []
    | some j =>
      if j.kind != .coll || !j.sent then []
      else if !collMatches j m then stopJob j (raise .argRange) s
      else if j.msgs.any (fun x => x.rank == m.rank) then []
      else onJob job (fun j => { j with msgs := j.msgs ++ [m] }) s))

/-- A member awaits a rank's message (R320). -/
def collAwaits (j : Job) (rank : Nat) : Bool :=
  j.kind == .coll && j.phase == 1 && (awaitedRanks j).contains rank && !j.msgs.any (fun m => m.rank == rank)

/-- A member has awaited a message longer than COLLTO (R319, R320). -/
def collLate (s : State) (j : Job) : Bool :=
  let us := (s.part? j.part).elim 0 (fun p => p.collto.toNat)
  us != 0 && decide (us * 1000 < s.dev.wall.toNat - j.startedAt)

/-- COLL_TIMEOUT (R320). -/
def execCollTimeout (job rank : Nat) (s : State) : Host.Outcome State Fault Refusal :=
  .next (s.run (match s.job? job with
    | none => []
    | some j => if partWorks s j.part && collAwaits j rank && collLate s j then collAbort j .collTimeout rank s else []))

/-- COLL_ABORT_MESSAGE: another member names a failed rank (R320; DEDUCED, log 74). -/
def execCollAbortMessage (job rank : Nat) (s : State) : Host.Outcome State Fault Refusal :=
  .next (s.run (match s.job? job with
    | none => []
    | some j => if j.kind == .coll && j.sent then collAbort j .collTimeout rank s else []))

/-- COLL_COMPLETE: the last element has landed; the table's counter advances, and the locks go (R316, R317). -/
def execCollComplete (job : Nat) (s : State) : Host.Outcome State Fault Refusal :=
  .next (s.run (match s.job? job with
    | none => []
    | some j =>
      if j.kind != .coll || j.phase != 1 || !collComplete? j || decide (j.landed < (collRange j).2) || !partWorks s j.part then [] else
      finishJob j 1 s))

/-! ### CKPT (R496) -/

/-- The physical address, the target realm and the offset of a checkpoint's granule (DEDUCED, log 51). -/
def ckptPlace (j : Job) (k : Nat) : Nat × Nat × Nat :=
  let i := k / 2 ^ 27
  let off := k % 2 ^ 27 * 128
  (j.data.getD i 0 * 2 ^ 34 + off, wfield j.desc 2 16 16 + i / 4, i % 4 * 2 ^ 34 + off)

/-- One granule of a checkpoint leaves for the safe tier, ciphered where its unit is, its poison with it; with the last one acknowledged
the counter advances and the command ends (DEDUCED, log 51). -/
def ckptGranule (s : State) (j : Job) : List Upd :=
  if j.total ≤ j.landed then
    (if s.net.peerPending.any (fun p => p.job == j.id) then []
      else finishJob j 1 s)
  else
    let x := ckptPlace j j.landed
    match routes s j.owner { write := true } x.2.1 (BitVec.ofNat 64 x.2.2) 128 with
    | .error t => stopJob j t s
    | .ok ps =>
      if ps.all (fun p => match p.route with
          | .peer .. => true
          | .mem .. => false
          | .ether .. => false) then
        let bs := readPlaces s j.view (memPlace x.1) 128
        let out := (streamLine s (x.1 / 128) (bs.map (·.1))).zip (bs.map (·.2))
        andThen (forEach ps (fun p => sendGranule j p out)) (progress j.id 1 j.total) s
      else stopJob j (realmFault 4 x.2.1 (BitVec.ofNat 64 x.2.2)) s

/-! ### Granules and ends -/

/-- The 64 KiB pages that bytes from an offset lie in. -/
def pagesUnder (off n : Nat) : List Nat :=
  if n = 0 then [] else (List.range ((off + n - 1) / 2 ^ 16 + 1 - off / 2 ^ 16)).map (fun i => off / 2 ^ 16 + i)

/-- The ranges that a command's next granule touches, by realm, offset and bytes (R443). -/
def jobTouches (j : Job) : List (Nat × Nat × Nat) :=
  match j.kind with
  | .window =>
    if (wordAt j.desc 2).getLsbD 9 then [] else
    (runsOf ((List.range (copySize j)).map (fun i => windowSource j.desc (j.landed + i)))).map (fun r =>
      (j.realmOf (wfield j.desc 2 0 2), j.src + r.1, r.2))
  | .rcopy => [(j.realmOf (wfield j.desc 5 0 2), j.src + j.landed, copySize j), (j.realmOf (wfield j.desc 5 2 2), j.dst + j.landed, copySize j)]
  | .topk =>
    let len := wfield j.desc 2 0 23 * topkSize j.desc
    (topkSpan j).1.map (fun r => (j.realmOf (wfield j.desc 3 10 2), j.src + r * len, len))
      ++ [(j.realmOf (wfield j.desc 3 12 2), j.dst + j.landed, (topkSpan j).2)]
  | .coll =>
    let at_ := (collRange j).1 + j.landed
    [(j.realmOf (wfield j.desc 3 8 2), j.src + at_, min (128 - at_ % 128) ((collRange j).2 - j.landed))]
  | .beammap =>
    let tcap := (kvBeamHead (wordAt j.desc 0)).2
    let c := wfield j.desc 0 0 1
    (nub ((List.range 128).map (fun k => j.data.getD ((128 * j.landed + k) / tcap) 0))).map (fun r =>
        (j.dst, j.src + kvBankByte tcap c r (128 * j.landed % tcap), 128))
      ++ [(j.dst, j.src + kvBankByte tcap (1 - c) 0 (128 * j.landed), 128)]
  | .kvcompact => []
  | .ckpt => []
  | .cwb => []
  | .repair => []
  | .placement => []

/-- The translations that a command holds while it is at work on the pages of a granule: those it has, and a walk's of pages it comes to
(R443). -/
def heldXlats (s : State) (j : Job) : List Xlat :=
  match s.part? j.part with
  | none => []
  | some p =>
    if j.kind = .kvcompact then
      (nub [(compactPages j).1, (compactPages j).2]).filterMap (fun page => match compactFrame s j page with
        | .error _ => none
        | .ok a => some { core := j.core, quadrant := none, entry := [], part := j.part, realm := j.dst, page := page, size := 2 ^ 16, frame := a / 4096,
                          user := false, write := true, exec := false })
    else
      (nub ((jobTouches j).flatMap (fun x => (pagesUnder x.2.1 x.2.2).map (fun page => (x.1, page))))).filterMap (fun x =>
        (xlatOf s p j.owner x.1 (BitVec.ofNat 64 (x.2 * 2 ^ 16)) none).map (Xlat.piece (BitVec.ofNat 64 (x.2 * 2 ^ 16))))

/-- One granule of a command. -/
def granuleOf (s : State) (j : Job) (resp : PeerResp) : List Upd :=
  match j.kind with
  | .window => copyGranule s j resp
  | .rcopy => copyGranule s j resp
  | .topk => topkGranule s j
  | .kvcompact => compactGranule s j
  | .beammap => beamGranule s j
  | .coll => collGranule s j
  | .cwb => []
  | .repair => []
  | .ckpt => ckptGranule s j
  | .placement => []

/-- A command that has started, at work on the pages of its next granule (DEDUCED, log 20). -/
def atWork (s : State) (j : Job) : Job := { j with started := true, held := heldXlats s j }

/-- RUNNER_GRANULE: an engine writes one granule at one position (R250); where its source is on a peer it asks first, and resp is the
peer's answer (R312; DESIGN CHOICE, log 33). -/
def execRunnerGranule (job : Nat) (resp : PeerResp) (s : State) : Host.Outcome State Fault Refusal :=
  .next (s.run (match s.job? job with
    | none => []
    | some j => if !jobReady s j then [] else andThen (onJob job (fun _ => atWork s j)) (fun t => granuleOf t (atWork s j) resp) s))

/-- WINDOW_COPY_START: a touch, WKICK or the release of a halo's barrier starts a bound window's copy, once a runner is free; a halo's source
is locked while it runs (R298, R301 to R303, R305). -/
def execWindowCopyStart (job : Nat) (s : State) : Host.Outcome State Fault Refusal :=
  .next (s.run (match s.job? job with
    | none => []
    | some j =>
      if j.kind == .window && j.started && j.phase == 2 && partWorks s j.part && mayStart s j && (jobWindow s j).any (fun x => x.state == 1) then
        let source := haloLocks s j s.model.nextId
        inOrder [onTask j.task (fun t => { t with windows := t.windows.map (fun x => if x.job = job then { x with state := 2, landed := 0, fault := false } else x) }),
          (if source.isEmpty then fun _ => []
            else andThen (onOrder (fun o => { o with locks := o.locks.filter (fun l => l.holder != job || l.dest) ++ source })) (useIds source.length))] s
      else []))

/-- WINDOW_LANDED: the last granule is visible: the window has landed, its lock is released, its counter advances by 1 (R301). -/
def execWindowLanded (job : Nat) (s : State) : Host.Outcome State Fault Refusal :=
  .next (s.run (match s.job? job with
    | none => []
    | some j =>
      if j.kind == .window && decide (j.total ≤ j.landed) && partWorks s j.part && (jobWindow s j).any (fun x => x.state == 2) then
        withCounter j s (fun c =>
          inOrder [onTask j.task (fun t => { t with windows := t.windows.map (fun x => if x.job = job then { x with state := 3, landed := j.landed } else x) }),
            endJob j, advance j.part j.path c 1 (jobClock j)] s)
      else []))

/-- RCOPY_COMPLETE: every granule is visible, those on a peer acknowledged; the runner adds B to the counter (R312). -/
def execRcopyComplete (job : Nat) (s : State) : Host.Outcome State Fault Refusal :=
  .next (s.run (match s.job? job with
    | none => []
    | some j =>
      if j.kind == .rcopy && jobReady s j && decide (j.total ≤ j.landed) && !s.net.peerPending.any (fun p => p.job == job) then
        finishJob j j.amount.toNat s
      else []))

/-- TOPK_COMPLETE: every row is visible; the engine adds 1 to the counter (R351). -/
def execTopkComplete (job : Nat) (s : State) : Host.Outcome State Fault Refusal :=
  .next (s.run (match s.job? job with
    | none => []
    | some j => if j.kind == .topk && jobReady s j && decide (j.total ≤ j.landed) then finishJob j 1 s else []))

/-- The causes that an engine reports for a command that was sent (R297, R316, R320, R452, R454). -/
def engineCause (code : Nat) : Option Cause :=
  match code with
  | 10 => some .realmFault
  | 12 => some .xlateProt
  | 13 => some .sealedWrite
  | 14 => some .rangeLock
  | 34 => some .collTimeout
  | 35 => some .linkDown
  | _ => none

/-- ENGINE_COMMAND_STOP: an engine reports a fault for a sent command (R297). -/
def execEngineCommandStop (job cause detail : Nat) (s : State) : Host.Outcome State Fault Refusal :=
  .next (s.run (match s.job? job, engineCause cause with
    | some j, some c => if j.sent && (s.part? j.part).any (fun p => p.state == .running) then stopJob j (raiseD c (BitVec.ofNat 32 detail)) s else []
    | _, _ => []))

/-- BEAMMAP_FLIP: the bank is written and CUR flips at one position (R349). -/
def execBeammapFlip (job : Nat) (s : State) : Host.Outcome State Fault Refusal :=
  .next (s.run (match s.job? job with
    | none => []
    | some j =>
      if !(j.kind == .beammap && jobReady s j && decide (j.total ≤ j.landed)) then [] else
      match translate s j.owner { write := true, local_ := true } j.dst (BitVec.ofNat 64 j.src) 4 with
      | .ok (.mem a _) => landWrites j ((placesFrom (memPlace a) 4).zip (valBytes 4 (wordAt j.desc 0 ^^^ 1).toNat)) [] [] (endJob j) s
      | .ok (.peer ..) => stopJob j (realmFault 4 j.dst (BitVec.ofNat 64 j.src)) s
      | .ok (.ether ..) => stopJob j (realmFault 4 j.dst (BitVec.ofNat 64 j.src)) s
      | .error t => stopJob j t s))

/-- CWB_COMPLETE: the last dirty line is written; the tag returns, and a FENCE that waits for it goes on (R293). -/
def execCwbComplete (job : Nat) (s : State) : Host.Outcome State Fault Refusal :=
  .next (s.run (match s.job? job with
    | none => []
    | some j => if j.kind == .cwb && j.sent then andThen (returnTag j.warp j.tag [] 0) (dropJob job) s else []))

/-- CR_PARTIAL_EVICT: a core's partial goes to the home, which adds it to the base (R244). -/
def execCrPartialEvict (range core elem : Nat) (s : State) : Host.Outcome State Fault Refusal :=
  let merge (r : CRange) (e : CElem) : CElem :=
    if e.addr != elem || core == baseCore then e else
    match e.partials.find? (fun p => p.core == core) with
    | none => e
    | some p => { e with partials := addPartial r { p with core := baseCore } (e.partials.filter (fun q => q.core != core)) }
  .next (s.run (onOrder (fun o => { o with ranges := o.ranges.map (fun r =>
    if r.id = range ∧ r.live then { r with elems := r.elems.map (merge r) } else r) }) s))

/-! ### REPAIR (R346) -/

/-- The change of a repair's entries at one position; its end where WMARK reaches 0xFF. -/
def markEntries (j : Job) (wmark : Nat) (rpend : Nat) (after : State → List Upd) (s : State) : List Upd :=
  landWrites j (j.data.flatMap (fun ea => kvStores ea [5, 7] (kvSet (kvSet (kvEntry s j.view ea) 172 8 wmark) 254 1 rpend))) []
    (j.data.flatMap kvPlaces) after s

/-- The phase of a repair: 0 the probe is to be issued, 1 it runs, 2 L layer L is to be issued, 2 L + 1 it runs. With nothing selected no
launch is issued. -/
def repairIdle (j : Job) : Bool := j.kind == .repair && j.sent && j.phase % 2 == 0

/-- The issuer of a repair's launches: the root shoot, REPAIR's level and tree, the priority of the descriptor (DEDUCED, log 24). -/
def repairIssuer (s : State) (j : Job) : Issuer where
  who := { j.owner with path := 0 }
  realm := j.dst
  tree := (s.launch? j.part j.launch).bind (fun l => if l.det && !j.who.hnd then some l.tree else none)
  cap := none
  warp := j.warp
  task := j.task
  ident := j.who
  pc := j.pc
  clock := jobClock j

/-- A repair issues its next launch, read and checked as LAUNCH does; s0 and s1 are the arguments it gives. It waits while no record
is free, while what it reads is behind a lock, and while the lock table has no room for the group lists (R247, R249, R346; DEDUCED, log 24). -/
def issueRepair (j : Job) (s : State) : List Upd :=
  if j.phase ≠ 0 && j.tag = 0 then onJob j.id (fun j => { j with phase := j.phase + 1, src := 0 }) s else
  let uid := s.model.nextId
  let off := wpair j.desc (if j.phase = 0 then 0 else 2)
  match freeRecord? s j.part, launchRead { s with order := { s.order with locks := [] } } (repairIssuer s j) off uid, launchRead s (repairIssuer s j) off uid with
  | none, _, _ => []
  | some _, .error t, _ => stopJob j t s
  | some _, .ok _, .error _ => []
  | some num, .ok _, .ok a =>
    if !lockRoom s (dieOf j.core) a.listCount then [] else
    let as := jobAccesses s j a.reads []
    match firstRace (effective s j.part) s.order.accesses as with
    | some x => stopJob j (engineRace x j.pc) s
    | none =>
    let s0 : Word := BitVec.ofNat 32 (if j.phase = 0 then 1 else j.phase / 2)
    let s1 : Word := BitVec.ofNat 32 (if j.phase = 0 then j.total else j.tag)
    let pos := s.order.pos + 1
    let locks := a.lists.zipIdx.map (fun x => jobLock s j x.1.2.1 (x.1.2.1 + x.1.2.2) false uid x.1.1 (uid + 1 + x.2))
    let l := withGroups s (newLaunch (repairIssuer s j) { a with args := [s0, s1] ++ a.args.drop 2 } num uid none (locks.map (·.id)))
    if groupsRefused s l then stopJob j (raiseIn .launchInvalid j.dst off) s else
    inOrder [logAccesses as, fun _ => [.launch l], addLocks locks, useIds (1 + locks.length), onOrder (fun o => { o with pos := pos }), launchAt uid pos 0 (jobClock j),
      onJob j.id (fun j => { j with phase := j.phase + 1, src := uid })] s

/-- A launch that a repair issued is complete. -/
def repairLaunchDone (s : State) (j : Job) : Bool := !s.launches.any (fun l => l.uid == j.src && l.part == j.part)

/-- A slot is selected: its deviation is above the threshold, or either is NaN (R346); with the flags of reading them (R90, R92). -/
def repairPicks (denorm : Bool) (thr d : Word) : Bool × Flags :=
  let a := readF denorm specF32 d.toNat
  let b := readF denorm specF32 thr.toNat
  (isNaNVal a.1 || isNaNVal b.1 || cmpVals a.1 b.1 == .gt, a.2 ||| b.2 ||| flagIf (isSNaN a.1 || isSNaN b.1) flagNV)

/-- Physical addresses of the words of a repair's buffer. -/
def bufferWords (ps : List Piece) : List Nat :=
  ps.flatMap (fun p => match p.route with
    | .mem a _ => (List.range (p.len / 4)).map (fun i => a + 4 * i)
    | .peer .. => []
    | .ether .. => [])

/-- Another command's lock stands before a repair's buffer (R249). -/
def bufferLocked (s : State) (j : Job) (ps : List Piece) : Bool :=
  s.order.locks.any (fun l => l.holder != j.id && (localRanges ps).any (fun r => l.meets j.part (memPlace r.1) (r.2 - r.1)))

/-- What the repair engine selects: each valid slot with its choice and flags, in ascending order (R346 step 3). -/
def repairChoices (s : State) (j : Job) (at_ : List Nat) : List (Nat × Bool × Flags) :=
  let thr := (s.part? j.part).elim 0 (fun p => p.repthr)
  ((List.range j.total).filter (fun r => (kvValid (kvEntry s j.view (j.data.getD (r / 64) 0))).testBit (r % 64))).map (fun r =>
    (r, repairPicks (wordAt j.desc 9 == 1) thr (wordAt (viewWords s j.view (at_.getD (1 + r) 0) 1) 0)))

/-- What a repair writes into its buffer: word and value, the count first (R346 step 3). -/
def repairOut (j : Job) (picked : List Nat) : List (Nat × Nat) :=
  (0, picked.length) :: picked.zipIdx.map (fun x => (1 + j.total + x.2, x.1))

/-- REPAIR_PROBE_DONE: the slots are selected and the buffer is written granule by granule, each at one position; with the last the counter
advances (R250, R346 step 3; DEDUCED, log 24). -/
def execRepairProbeDone (job : Nat) (s : State) : Host.Outcome State Fault Refusal :=
  .next (s.run (match s.job? job with
    | none => []
    | some j =>
      if !(j.kind == .repair && j.phase == 1 && jobReady s j && repairLaunchDone s j) then [] else
      match routes s j.owner { write := true, local_ := true } j.dst (wpair j.desc 4) (4 * (1 + 2 * j.total)) with
      | .error t => stopJob j t s
      | .ok ps =>
        if bufferLocked s j ps then [] else
        let at_ := bufferWords ps
        let all := if j.landed = 0 then repairChoices s j at_ else []
        let picked := if j.landed = 0 then (all.filter (fun x => x.2.1)).map (·.1) else j.picks
        let out := repairOut j picked
        let lines := nub (out.map (fun x => at_.getD x.1 0 / 128))
        let here := out.filter (fun x => at_.getD x.1 0 / 128 == lines.getD j.landed 0)
        let put (after : State → List Upd) : List Upd :=
          landWrites j (here.flatMap (fun x => (placesFrom (memPlace (at_.getD x.1 0)) 4).zip (valBytes 4 x.2))) []
            (if j.landed = 0 then (List.range j.total).map (fun r => memPlace (at_.getD (1 + r) 0)) else [])
            (andThen (gainFlags job (all.foldl (fun m x => m ||| x.2.2) 0)) after) s
        if j.landed + 1 < lines.length then put (onJob job (fun j => { j with landed := j.landed + 1, picks := picked }))
        else withCounter j s (fun c => put (andThen (advance j.part j.path c 1 (jobClock j))
          (onJob job (fun j => { j with phase := 2, tag := picked.length, landed := 0, picks := [] }))))))

/-- REPAIR_LAYER_DONE: WMARK reaches the layer and the counter advances; after the last layer the entries are whole again and the
locks go (R346 steps 4 and 5). -/
def execRepairLayerDone (job : Nat) (s : State) : Host.Outcome State Fault Refusal :=
  .next (s.run (match s.job? job with
    | none => []
    | some j =>
      let layer := j.phase / 2
      if !(j.kind == .repair && decide (3 ≤ j.phase) && j.phase % 2 == 1 && jobReady s j && repairLaunchDone s j) then [] else
      withCounter j s (fun c =>
        let count := advance j.part j.path c 1 (jobClock j)
        if layer + 1 < (wordAt j.desc 8).toNat then
          markEntries j layer 1 (andThen count (onJob job (fun j => { j with phase := j.phase + 1 }))) s
        else markEntries j layer 1 (andThen count (fun s => markEntries j 0xFF 0 (endJob j) s)) s)))

/-- The causes of R467. -/
def allCauses : List Cause :=
  [.illegalOpcode, .reservedField, .regBounds, .lineTarget, .lineParity, .priv, .misaligned, .scratchBounds, .tileBounds, .realmFault,
   .xlateMiss, .xlateProt, .sealedWrite, .rangeLock, .argRange, .matrixShape, .groupAbsent, .launchInvalid, .spawnBind, .queueBind,
   .shootLimit, .versionSpill, .kvFormat, .kvStale, .crOverflow, .fpTrap, .emptyInterval, .intervalOrder, .race, .detAtomic, .detQueue,
   .waitProgress, .queueProgress, .collTimeout, .linkDown, .mboxFault, .poison, .eccFatal, .machineCheck, .bridgeFault, .ctxShape, .timer,
   .breakpoint, .step, .userTrap, .handlerFault, .partHalt]

/-- What a trap record says was raised: its cause, SUB, ADDR, realm and DETAIL (R468). -/
def trapOfWords (ws : List Word) : TrapReq :=
  { raise ((allCauses.find? (fun c => c.code == wfield ws 0 26 6)).getD .userTrap) with
    sub := wfield ws 0 0 8, addr := wpair ws 14, realm := wfield ws 16 16 16, d17 := wordAt ws 17, d18 := wordAt ws 18, d19 := wordAt ws 19 }

/-- The trap that a warp of a repair's launch has taken, or that was raised for a task of it whose warp has exited (R297, R346; DEDUCED,
DEDUCED, log 24). -/
def repairTrapped (s : State) (j : Job) : Option TrapReq :=
  if j.kind != .repair || !j.sent || j.phase % 2 == 0 then none else
  (s.launches.find? (fun l => l.uid == j.src && l.part == j.part)).bind (fun l =>
    (s.warps.findSome? (fun w => if w.part != l.part || w.launch != l.num || w.hnd then none else
      match w.mode with
      | .trapping ws => some (trapOfWords ws)
      | _ => none)).or
    ((s.part? j.part).bind (fun p => (p.bare.find? (fun b => b.launch == l.uid)).map (fun b => trapOfWords b.words))))

/-- A repair whose launch has trapped stops (R346; DEDUCED, log 24). -/
def stopTrappedRepairs (s : State) : List Upd :=
  forEach (s.eng.jobs.filterMap (fun j => (repairTrapped s j).map (fun t => (j, t)))) (fun x => stopJob x.1 x.2) s

/-- Repairs whose launch has trapped stop; the others issue the launches they are to. -/
def settleRepairs (s : State) : List Upd :=
  andThen stopTrappedRepairs (fun s => forEach (s.eng.jobs.filter (fun j => repairIdle j && jobReady s j)) issueRepair s) s

/-- A launch that a repair issued has been refused after its position: its job stops (R346, R355). -/
def refuseRepair (uid : Nat) (t : TrapReq) (s : State) : List Upd :=
  forEach (s.eng.jobs.filter (fun j => j.kind == .repair && j.sent && j.src == uid)) (fun j => stopJob j t) s

end Sys2Proof.Machine
end

