-- ==== Sys2Proof/Machine/IntAlu.lean ====
section
/-! DEFINITION. What the integer, bit, logic, shift, address, move and predicate instructions compute in one lane (R120 to R130). -/

namespace Sys2Proof.Machine

/-- Int(x): unsigned when SGN is 1 (R120). -/
def intOf (sgn : Bool) (x : Word) : Int := if sgn then (x.toNat : Int) else x.toInt

/-- Clamp to lo..hi (R120). -/
def clampInt (lo hi n : Int) : Int := max lo (min hi n)

/-- Fit(x): saturated with SAT, wrapped otherwise (R120). -/
def fitInt (sgn sat : Bool) (n : Int) : Word :=
  BitVec.ofInt 32 (if sat then
    (if sgn then clampInt 0 4294967295 n else clampInt (-2147483648) 2147483647 n) else n)

/-- IADD (R120). -/
def iaddVal (sgn sat : Bool) (a b : Word) : Word := fitInt sgn sat (intOf sgn a + intOf sgn b)
/-- ISUB (R120). -/
def isubVal (sgn sat : Bool) (a b : Word) : Word := fitInt sgn sat (intOf sgn a - intOf sgn b)
/-- IADDC: sum and carry out (R120). -/
def iaddcVal (cin : Bool) (a b : Word) : Word × Bool :=
  let x := a.toNat + b.toNat + (if cin then 1 else 0)
  (BitVec.ofNat 32 x, decide (2 ^ 32 ≤ x))
/-- ISUBB: difference and borrow out (R120). -/
def isubbVal (cin : Bool) (a b : Word) : Word × Bool :=
  let x : Int := (a.toNat : Int) - b.toNat - (if cin then 1 else 0)
  (BitVec.ofInt 32 x, decide (x < 0))
/-- IMUL (R120). -/
def imulVal (a b : Word) : Word := BitVec.ofInt 32 (a.toInt * b.toInt)
/-- IMULH: bits 63:32 of the product (R120). -/
def imulhVal (sgn : Bool) (a b : Word) : Word := BitVec.ofInt 32 (intOf sgn a * intOf sgn b / 2 ^ 32)
/-- IMAD (R120). -/
def imadVal (sgn sat : Bool) (a b c : Word) : Word := fitInt sgn sat (intOf sgn a * intOf sgn b + intOf sgn c)
/-- IMADW (R120). -/
def imadwVal (sgn : Bool) (a b : Word) (c : DWord) : DWord :=
  BitVec.ofInt 64 (intOf sgn a * intOf sgn b + (if sgn then (c.toNat : Int) else c.toInt))
/-- IDIV (R121). -/
def idivVal (sgn : Bool) (a b : Word) : Word :=
  if intOf sgn b = 0 then 0xFFFFFFFF
  else if sgn = false ∧ a = 0x80000000 ∧ b = 0xFFFFFFFF then 0x80000000
  else BitVec.ofInt 32 ((intOf sgn a).tdiv (intOf sgn b))
/-- IREM (R121). -/
def iremVal (sgn : Bool) (a b : Word) : Word :=
  if intOf sgn b = 0 then a
  else if sgn = false ∧ a = 0x80000000 ∧ b = 0xFFFFFFFF then 0
  else BitVec.ofInt 32 ((intOf sgn a).tmod (intOf sgn b))
/-- IMIN (R120). -/
def iminVal (sgn : Bool) (a b : Word) : Word := BitVec.ofInt 32 (min (intOf sgn a) (intOf sgn b))
/-- IMAX (R120). -/
def imaxVal (sgn : Bool) (a b : Word) : Word := BitVec.ofInt 32 (max (intOf sgn a) (intOf sgn b))
/-- IABS: the signed range (R120). -/
def iabsVal (sat : Bool) (a : Word) : Word := fitInt false sat a.toInt.natAbs
/-- INEG (R120). -/
def inegVal (sat : Bool) (a : Word) : Word := fitInt false sat (-a.toInt)
/-- ISAD (R120). -/
def isadVal (sgn : Bool) (a b c : Word) : Word :=
  BitVec.ofNat 32 ((intOf sgn a - intOf sgn b).natAbs + c.toNat)

/-- Number of 1 bits among the low n bits. -/
def countOnes (n : Nat) (x : Nat) : Nat :=
  match n with
  | 0 => 0
  | k + 1 => x % 2 + countOnes k (x / 2)

/-- POPC (R123). -/
def popcVal (a : Word) : Word := BitVec.ofNat 32 (countOnes 32 a.toNat)
/-- CLZ (R123). -/
def clzVal (a : Word) : Word := if a = 0 then 32 else BitVec.ofNat 32 (31 - Nat.log2 a.toNat)

/-- Number of 0 bits below the lowest 1 bit, among n bits. -/
def countTrailing (n : Nat) (x : Nat) : Nat :=
  match n with
  | 0 => 0
  | k + 1 => if x % 2 = 1 then 0 else 1 + countTrailing k (x / 2)

/-- CTZ (R123). -/
def ctzVal (a : Word) : Word := BitVec.ofNat 32 (countTrailing 32 a.toNat)

/-- The low n bits of x in reverse order. -/
def revBits (n : Nat) (x acc : Nat) : Nat :=
  match n with
  | 0 => acc
  | k + 1 => revBits k (x / 2) (2 * acc + x % 2)

/-- BREV (R123). -/
def brevVal (a : Word) : Word := BitVec.ofNat 32 (revBits 32 a.toNat 0)

/-- Position and length of a field spec (R123). -/
def specPos (b : Word) : Nat := (b.extractLsb' 0 8).toNat
def specLen (b : Word) : Nat := min (b.extractLsb' 8 8).toNat 32

/-- BFE (R123). -/
def bfeVal (sx : Bool) (a b : Word) : Word :=
  let len := specLen b
  let f := a.toNat / 2 ^ specPos b % 2 ^ len
  if len = 0 then 0
  else if sx && decide (2 ^ (len - 1) ≤ f) then BitVec.ofInt 32 ((f : Int) - 2 ^ len)
  else BitVec.ofNat 32 f

/-- BFI (R123). -/
def bfiVal (a b c : Word) : Word :=
  let pos := specPos c
  let n := min (c.extractLsb' 8 8).toNat (32 - min pos 32)
  let mask := (2 ^ n - 1) * 2 ^ pos
  BitVec.ofNat 32 ((b.toNat &&& (2 ^ 32 - 1 - mask)) ||| (a.toNat * 2 ^ pos &&& mask))

/-- ANDN (R123). -/
def andnVal (a b : Word) : Word := a &&& ~~~b
/-- SHL (R123). -/
def shlVal (a b : Word) : Word := if 32 ≤ b.toNat then 0 else a <<< b.toNat
/-- SHR (R123). -/
def shrVal (a b : Word) : Word := if 32 ≤ b.toNat then 0 else a >>> b.toNat
/-- SAR (R123). -/
def sarVal (a b : Word) : Word := a.sshiftRight (min b.toNat 31)
/-- ROL (R123). -/
def rolVal (a b : Word) : Word := a.rotateLeft (b.toNat % 32)
/-- SHF (R123). -/
def shfVal (right : Bool) (a b c : Word) : Word :=
  let s := min c.toNat 32
  let w : DWord := a ++ b
  if right then (w >>> s).extractLsb' 0 32 else (w <<< s).extractLsb' 32 32

/-- LEA (R125). -/
def leaVal (sh : Nat) (zx : Bool) (a : DWord) (b : Word) : DWord :=
  a + ((if zx then b.setWidth 64 else b.signExtend 64) <<< sh)

/-- SEL (R127). -/
def selVal (ua : Bool) (p : Tri) (a b : Word) : Word :=
  match p with
  | .yes => a
  | .no => b
  | .undecided => if ua then a else b

/-- CMPI (R128). -/
def cmpiVal (cc : CmpCode) (sgn : Bool) (a b : Word) : Tri :=
  if ccHolds cc (compare (intOf sgn a) (intOf sgn b)) then .yes else .no

/-- The lower of two values in false < undecided < true (R129). -/
def triMin (a b : Tri) : Tri :=
  match a, b with
  | .no, _ => .no
  | _, .no => .no
  | .undecided, _ => .undecided
  | _, .undecided => .undecided
  | .yes, .yes => .yes

/-- The higher of two values (R129). -/
def triMax (a b : Tri) : Tri :=
  match a, b with
  | .yes, _ => .yes
  | _, .yes => .yes
  | .undecided, _ => .undecided
  | _, .undecided => .undecided
  | .no, .no => .no

/-- PLOP (R129). -/
def plopVal (op : PlopOp) (a b : Tri) : Tri :=
  match op with
  | .and => triMin a b
  | .or => triMax a b
  | .xor => match a, b with
    | .undecided, _ => .undecided
    | _, .undecided => .undecided
    | .yes, .yes => .no
    | .no, .no => .no
    | .yes, .no => .yes
    | .no, .yes => .yes
  | .not => match a with
    | .yes => .no
    | .no => .yes
    | .undecided => .undecided
  | .isu => match a with
    | .undecided => .yes
    | .yes => .no
    | .no => .no
  | .utot => match a with
    | .undecided => .yes
    | .yes => .yes
    | .no => .no
  | .utof => match a with
    | .undecided => .no
    | .yes => .yes
    | .no => .no

/-- PTOV (R130). -/
def ptovVal (p : Tri) : Word :=
  match p with
  | .no => 0
  | .yes => 1
  | .undecided => 2

/-- VTOP (R130). -/
def vtopVal (nz : Bool) (a : Word) : Tri :=
  if nz then (if a = 0 then .no else .yes)
  else match (a.extractLsb' 0 2).toNat with
    | 0 => .no
    | 1 => .yes
    | _ => .undecided

end Sys2Proof.Machine
end

