-- ==== Sys2Proof/Machine/Int.lean ====
section
/-! DEFINITION. The integer, bit, logic, shift, address, move and predicate instructions (R115 to R130). -/

namespace Sys2Proof.Machine

/-- The A field of form I: vector, or uniform with U = 1 (R52). -/
def immField (c : Ctl) (a : BitVec 8) : Field := dstField c.u a 1

/-- IADD (R117, R120). -/
def execIadd (c : Ctl) (sgn sat : Bool) (d : BitVec 8) (a b : Src) (s : State) : Host.Outcome State Fault Refusal :=
  aluWord c 4 d [srcField a 1, srcField b 1] (fun g l => iaddVal sgn sat (g.rd 0 0 l) (g.rd 1 0 l)) s

/-- ISUB (R117, R120). -/
def execIsub (c : Ctl) (sgn sat : Bool) (d : BitVec 8) (a b : Src) (s : State) : Host.Outcome State Fault Refusal :=
  aluWord c 4 d [srcField a 1, srcField b 1] (fun g l => isubVal sgn sat (g.rd 0 0 l) (g.rd 1 0 l)) s

/-- IMUL (R117, R120). -/
def execImul (c : Ctl) (d : BitVec 8) (a b : Src) (s : State) : Host.Outcome State Fault Refusal :=
  aluWord c 5 d [srcField a 1, srcField b 1] (fun g l => imulVal (g.rd 0 0 l) (g.rd 1 0 l)) s

/-- IMULH (R117, R120). -/
def execImulh (c : Ctl) (sgn : Bool) (d : BitVec 8) (a b : Src) (s : State) : Host.Outcome State Fault Refusal :=
  aluWord c 5 d [srcField a 1, srcField b 1] (fun g l => imulhVal sgn (g.rd 0 0 l) (g.rd 1 0 l)) s

/-- IMIN (R117, R120). -/
def execImin (c : Ctl) (sgn : Bool) (d : BitVec 8) (a b : Src) (s : State) : Host.Outcome State Fault Refusal :=
  aluWord c 4 d [srcField a 1, srcField b 1] (fun g l => iminVal sgn (g.rd 0 0 l) (g.rd 1 0 l)) s

/-- IMAX (R117, R120). -/
def execImax (c : Ctl) (sgn : Bool) (d : BitVec 8) (a b : Src) (s : State) : Host.Outcome State Fault Refusal :=
  aluWord c 4 d [srcField a 1, srcField b 1] (fun g l => imaxVal sgn (g.rd 0 0 l) (g.rd 1 0 l)) s

/-- IDIV, tagged (R117, R121). -/
def execIdiv (c : Ctl) (sgn : Bool) (d : BitVec 8) (a b : Src) (s : State) : Host.Outcome State Fault Refusal :=
  aluWord c 0 d [srcField a 1, srcField b 1] (fun g l => idivVal sgn (g.rd 0 0 l) (g.rd 1 0 l)) s

/-- IREM, tagged (R117, R121). -/
def execIrem (c : Ctl) (sgn : Bool) (d : BitVec 8) (a b : Src) (s : State) : Host.Outcome State Fault Refusal :=
  aluWord c 0 d [srcField a 1, srcField b 1] (fun g l => iremVal sgn (g.rd 0 0 l) (g.rd 1 0 l)) s

/-- IADDC: the carry comes from p[C] and goes back to it; undecided reads as no carry (R117, R120). -/
def execIaddc (c : Ctl) (d : BitVec 8) (a b : Src) (pc : BitVec 3) (s : State) : Host.Outcome State Fault Refusal :=
  issue c { needs [dstField c.u d 1] [srcField a 1, srcField b 1] 4 with preds := [pc.toNat], pdsts := [pc.toNat] }
    (fun g =>
      let r (l : Nat) : Word × Bool := iaddcVal (g.tri pc.toNat l = .yes) (g.rd 0 0 l) (g.rd 1 0 l)
      { writes := putWord c.u d.toNat g.lanes (fun l => (r l).1)
          ++ putPred pc.toNat g.lanes (fun l => if (r l).2 then .yes else .no) }) s

/-- ISUBB: the carry comes from p[C] and goes back to it; undecided reads as no carry (R117, R120). -/
def execIsubb (c : Ctl) (d : BitVec 8) (a b : Src) (pc : BitVec 3) (s : State) : Host.Outcome State Fault Refusal :=
  issue c { needs [dstField c.u d 1] [srcField a 1, srcField b 1] 4 with preds := [pc.toNat], pdsts := [pc.toNat] }
    (fun g =>
      let r (l : Nat) : Word × Bool := isubbVal (g.tri pc.toNat l = .yes) (g.rd 0 0 l) (g.rd 1 0 l)
      { writes := putWord c.u d.toNat g.lanes (fun l => (r l).1)
          ++ putPred pc.toNat g.lanes (fun l => if (r l).2 then .yes else .no) }) s

/-- IMAD (R117, R120). -/
def execImad (c : Ctl) (sgn sat : Bool) (d : BitVec 8) (a b e : Src) (s : State) : Host.Outcome State Fault Refusal :=
  aluWord c 5 d [srcField a 1, srcField b 1, srcField e 1]
    (fun g l => imadVal sgn sat (g.rd 0 0 l) (g.rd 1 0 l) (g.rd 2 0 l)) s

/-- IMADW: D and C are pairs (R117, R120). -/
def execImadw (c : Ctl) (sgn : Bool) (d : BitVec 8) (a b e : Src) (s : State) : Host.Outcome State Fault Refusal :=
  aluPair c 5 d [srcField a 1, srcField b 1, srcField e 2]
    (fun g l => imadwVal sgn (g.rd 0 0 l) (g.rd 1 0 l) (g.rd2 2 0 l)) s

/-- IABS (R117, R120). -/
def execIabs (c : Ctl) (sat : Bool) (d : BitVec 8) (a : Src) (s : State) : Host.Outcome State Fault Refusal :=
  aluWord c 4 d [srcField a 1] (fun g l => iabsVal sat (g.rd 0 0 l)) s

/-- INEG (R117, R120). -/
def execIneg (c : Ctl) (sat : Bool) (d : BitVec 8) (a : Src) (s : State) : Host.Outcome State Fault Refusal :=
  aluWord c 4 d [srcField a 1] (fun g l => inegVal sat (g.rd 0 0 l)) s

/-- ISAD (R117, R120). -/
def execIsad (c : Ctl) (sgn : Bool) (d : BitVec 8) (a b e : Src) (s : State) : Host.Outcome State Fault Refusal :=
  aluWord c 5 d [srcField a 1, srcField b 1, srcField e 1]
    (fun g l => isadVal sgn (g.rd 0 0 l) (g.rd 1 0 l) (g.rd 2 0 l)) s

/-- IADD with an immediate last source (R119, R120). -/
def execIaddImm (c : Ctl) (sgn sat : Bool) (d a : BitVec 8) (imm : Word) (s : State) : Host.Outcome State Fault Refusal :=
  aluWord c 4 d [immField c a] (fun g l => iaddVal sgn sat (g.rd 0 0 l) imm) s

/-- ISUB with an immediate last source (R119, R120). -/
def execIsubImm (c : Ctl) (sgn sat : Bool) (d a : BitVec 8) (imm : Word) (s : State) : Host.Outcome State Fault Refusal :=
  aluWord c 4 d [immField c a] (fun g l => isubVal sgn sat (g.rd 0 0 l) imm) s

/-- IMUL with an immediate last source (R119, R120). -/
def execImulImm (c : Ctl) (d a : BitVec 8) (imm : Word) (s : State) : Host.Outcome State Fault Refusal :=
  aluWord c 5 d [immField c a] (fun g l => imulVal (g.rd 0 0 l) imm) s

/-- IMIN with an immediate last source (R119, R120). -/
def execIminImm (c : Ctl) (sgn : Bool) (d a : BitVec 8) (imm : Word) (s : State) : Host.Outcome State Fault Refusal :=
  aluWord c 4 d [immField c a] (fun g l => iminVal sgn (g.rd 0 0 l) imm) s

/-- IMAX with an immediate last source (R119, R120). -/
def execImaxImm (c : Ctl) (sgn : Bool) (d a : BitVec 8) (imm : Word) (s : State) : Host.Outcome State Fault Refusal :=
  aluWord c 4 d [immField c a] (fun g l => imaxVal sgn (g.rd 0 0 l) imm) s

/-- POPC (R122, R123). -/
def execPopc (c : Ctl) (d : BitVec 8) (a : Src) (s : State) : Host.Outcome State Fault Refusal :=
  aluWord c 4 d [srcField a 1] (fun g l => popcVal (g.rd 0 0 l)) s

/-- CLZ (R122, R123). -/
def execClz (c : Ctl) (d : BitVec 8) (a : Src) (s : State) : Host.Outcome State Fault Refusal :=
  aluWord c 4 d [srcField a 1] (fun g l => clzVal (g.rd 0 0 l)) s

/-- CTZ (R122, R123). -/
def execCtz (c : Ctl) (d : BitVec 8) (a : Src) (s : State) : Host.Outcome State Fault Refusal :=
  aluWord c 4 d [srcField a 1] (fun g l => ctzVal (g.rd 0 0 l)) s

/-- BREV (R122, R123). -/
def execBrev (c : Ctl) (d : BitVec 8) (a : Src) (s : State) : Host.Outcome State Fault Refusal :=
  aluWord c 4 d [srcField a 1] (fun g l => brevVal (g.rd 0 0 l)) s

/-- BFE (R122, R123). -/
def execBfe (c : Ctl) (sx : Bool) (d : BitVec 8) (a b : Src) (s : State) : Host.Outcome State Fault Refusal :=
  aluWord c 4 d [srcField a 1, srcField b 1] (fun g l => bfeVal sx (g.rd 0 0 l) (g.rd 1 0 l)) s

/-- BFI (R122, R123). -/
def execBfi (c : Ctl) (d : BitVec 8) (a b e : Src) (s : State) : Host.Outcome State Fault Refusal :=
  aluWord c 4 d [srcField a 1, srcField b 1, srcField e 1]
    (fun g l => bfiVal (g.rd 0 0 l) (g.rd 1 0 l) (g.rd 2 0 l)) s

/-- AND (R122, R123). -/
def execAnd (c : Ctl) (d : BitVec 8) (a b : Src) (s : State) : Host.Outcome State Fault Refusal :=
  aluWord c 4 d [srcField a 1, srcField b 1] (fun g l => g.rd 0 0 l &&& g.rd 1 0 l) s

/-- AND with an immediate last source (R122, R123). -/
def execAndImm (c : Ctl) (d a : BitVec 8) (imm : Word) (s : State) : Host.Outcome State Fault Refusal :=
  aluWord c 4 d [immField c a] (fun g l => g.rd 0 0 l &&& imm) s

/-- OR (R122, R123). -/
def execOr (c : Ctl) (d : BitVec 8) (a b : Src) (s : State) : Host.Outcome State Fault Refusal :=
  aluWord c 4 d [srcField a 1, srcField b 1] (fun g l => g.rd 0 0 l ||| g.rd 1 0 l) s

/-- OR with an immediate last source (R122, R123). -/
def execOrImm (c : Ctl) (d a : BitVec 8) (imm : Word) (s : State) : Host.Outcome State Fault Refusal :=
  aluWord c 4 d [immField c a] (fun g l => g.rd 0 0 l ||| imm) s

/-- XOR (R122, R123). -/
def execXor (c : Ctl) (d : BitVec 8) (a b : Src) (s : State) : Host.Outcome State Fault Refusal :=
  aluWord c 4 d [srcField a 1, srcField b 1] (fun g l => g.rd 0 0 l ^^^ g.rd 1 0 l) s

/-- XOR with an immediate last source (R122, R123). -/
def execXorImm (c : Ctl) (d a : BitVec 8) (imm : Word) (s : State) : Host.Outcome State Fault Refusal :=
  aluWord c 4 d [immField c a] (fun g l => g.rd 0 0 l ^^^ imm) s

/-- ANDN (R122, R123). -/
def execAndn (c : Ctl) (d : BitVec 8) (a b : Src) (s : State) : Host.Outcome State Fault Refusal :=
  aluWord c 4 d [srcField a 1, srcField b 1] (fun g l => andnVal (g.rd 0 0 l) (g.rd 1 0 l)) s

/-- ANDN with an immediate last source (R122, R123). -/
def execAndnImm (c : Ctl) (d a : BitVec 8) (imm : Word) (s : State) : Host.Outcome State Fault Refusal :=
  aluWord c 4 d [immField c a] (fun g l => andnVal (g.rd 0 0 l) (imm)) s

/-- SHL (R122, R123). -/
def execShl (c : Ctl) (d : BitVec 8) (a b : Src) (s : State) : Host.Outcome State Fault Refusal :=
  aluWord c 4 d [srcField a 1, srcField b 1] (fun g l => shlVal (g.rd 0 0 l) (g.rd 1 0 l)) s

/-- SHL with an immediate last source (R122, R123). -/
def execShlImm (c : Ctl) (d a : BitVec 8) (imm : Word) (s : State) : Host.Outcome State Fault Refusal :=
  aluWord c 4 d [immField c a] (fun g l => shlVal (g.rd 0 0 l) (imm)) s

/-- SHR (R122, R123). -/
def execShr (c : Ctl) (d : BitVec 8) (a b : Src) (s : State) : Host.Outcome State Fault Refusal :=
  aluWord c 4 d [srcField a 1, srcField b 1] (fun g l => shrVal (g.rd 0 0 l) (g.rd 1 0 l)) s

/-- SHR with an immediate last source (R122, R123). -/
def execShrImm (c : Ctl) (d a : BitVec 8) (imm : Word) (s : State) : Host.Outcome State Fault Refusal :=
  aluWord c 4 d [immField c a] (fun g l => shrVal (g.rd 0 0 l) (imm)) s

/-- SAR (R122, R123). -/
def execSar (c : Ctl) (d : BitVec 8) (a b : Src) (s : State) : Host.Outcome State Fault Refusal :=
  aluWord c 4 d [srcField a 1, srcField b 1] (fun g l => sarVal (g.rd 0 0 l) (g.rd 1 0 l)) s

/-- SAR with an immediate last source (R122, R123). -/
def execSarImm (c : Ctl) (d a : BitVec 8) (imm : Word) (s : State) : Host.Outcome State Fault Refusal :=
  aluWord c 4 d [immField c a] (fun g l => sarVal (g.rd 0 0 l) (imm)) s

/-- ROL (R122, R123). -/
def execRol (c : Ctl) (d : BitVec 8) (a b : Src) (s : State) : Host.Outcome State Fault Refusal :=
  aluWord c 4 d [srcField a 1, srcField b 1] (fun g l => rolVal (g.rd 0 0 l) (g.rd 1 0 l)) s

/-- ROL with an immediate last source (R122, R123). -/
def execRolImm (c : Ctl) (d a : BitVec 8) (imm : Word) (s : State) : Host.Outcome State Fault Refusal :=
  aluWord c 4 d [immField c a] (fun g l => rolVal (g.rd 0 0 l) (imm)) s

/-- SHF (R122, R123). -/
def execShf (c : Ctl) (right : Bool) (d : BitVec 8) (a b e : Src) (s : State) : Host.Outcome State Fault Refusal :=
  aluWord c 4 d [srcField a 1, srcField b 1, srcField e 1]
    (fun g l => shfVal right (g.rd 0 0 l) (g.rd 1 0 l) (g.rd 2 0 l)) s

/-- LEA (R124, R125). -/
def execLea (c : Ctl) (sh : BitVec 3) (zx : Bool) (d : BitVec 8) (a b : Src) (s : State) : Host.Outcome State Fault Refusal :=
  aluPair c 4 d [srcField a 2, srcField b 1] (fun g l => leaVal sh.toNat zx (g.rd2 0 0 l) (g.rd 1 0 l)) s

/-- MOV and MOV.X2 (R124, R126). -/
def execMov (c : Ctl) (x2 : Bool) (d : BitVec 8) (a : Src) (s : State) : Host.Outcome State Fault Refusal :=
  if x2 then aluPair c 4 d [srcField a 2] (fun g l => g.rd2 0 0 l) s
  else aluWord c 4 d [srcField a 1] (fun g l => g.rd 0 0 l) s

/-- MOVI, MOVI.SX and MOVI.HI (R124, R126). -/
def execMovi (c : Ctl) (mode : MoviMode) (d : BitVec 8) (imm : Word) (s : State) : Host.Outcome State Fault Refusal :=
  match mode with
  | .plain => aluWord c 4 d [] (fun _ _ => imm) s
  | .sx => aluPair c 4 d [] (fun _ _ => imm.signExtend 64) s
  | .hi => aluPair c 4 d [] (fun _ _ => pairOf 0 imm) s

/-- SEL (R124, R127). -/
def execSel (c : Ctl) (ua : Bool) (d : BitVec 8) (a b : Src) (pc : BitVec 3) (s : State) : Host.Outcome State Fault Refusal :=
  issue c { needs [dstField c.u d 1] [srcField a 1, srcField b 1] 4 with preds := [pc.toNat] }
    (fun g => { writes := putWord c.u d.toNat g.lanes (fun l => selVal ua (g.tri pc.toNat l) (g.rd 0 0 l) (g.rd 1 0 l)) }) s

/-- CMPI (R124, R128). -/
def execCmpi (c : Ctl) (cc : CmpCode) (sgn : Bool) (pd : BitVec 3) (a b : Src) (s : State) : Host.Outcome State Fault Refusal :=
  aluPred c 4 pd [srcField a 1, srcField b 1] [] (fun g l => cmpiVal cc sgn (g.rd 0 0 l) (g.rd 1 0 l)) s

/-- PLOP; the one-operand operations do not read p[B] (R124, R129). -/
def execPlop (c : Ctl) (op : PlopOp) (pd pa pb : BitVec 3) (s : State) : Host.Outcome State Fault Refusal :=
  aluPred c 4 pd [] (match op with
      | .and => [pa.toNat, pb.toNat] | .or => [pa.toNat, pb.toNat] | .xor => [pa.toNat, pb.toNat]
      | .not => [pa.toNat] | .isu => [pa.toNat] | .utot => [pa.toNat] | .utof => [pa.toNat])
    (fun g l => plopVal op (g.tri pa.toNat l) (g.tri pb.toNat l)) s

/-- PTOV (R124, R130). -/
def execPtov (c : Ctl) (d : BitVec 8) (pa : BitVec 3) (s : State) : Host.Outcome State Fault Refusal :=
  issue c { needs [dstField c.u d 1] [] 4 with preds := [pa.toNat] }
    (fun g => { writes := putWord c.u d.toNat g.lanes (fun l => ptovVal (g.tri pa.toNat l)) }) s

/-- VTOP (R124, R130). -/
def execVtop (c : Ctl) (nz : Bool) (pd : BitVec 3) (a : Src) (s : State) : Host.Outcome State Fault Refusal :=
  aluPred c 4 pd [srcField a 1] [] (fun g l => vtopVal nz (g.rd 0 0 l)) s

end Sys2Proof.Machine
end

