-- ==== Sys2Proof/Machine/Lanes.lean ====
section
/-! DEFINITION. Cross-lane instructions, PARTSET and the random streams (R175 to R189). -/

namespace Sys2Proof.Machine

/-- Tile width from PART.WIDTH (R175). -/
def tileWidth (part : BitVec 3) : Nat := 2 ^ (part.toNat + 1)

/-- First lane of the tile of a lane (R176). -/
def tileBase (w l : Nat) : Nat := w * (l / w)

/-- The participants of the tile at a base (R176). -/
def tileLanes (w base : Nat) (ls : List Nat) : List Nat := ls.filter (fun l => tileBase w l == base)

/-- The bases of the tiles that hold an executing lane, ascending. -/
def tileBases (w : Nat) (ls : List Nat) : List Nat := nub (ls.map (tileBase w))

/-- The tile a uniform destination takes: the one with the lowest executing lane (R179; DEDUCED, log 66). -/
def uniTile (w : Nat) (ls : List Nat) : Nat := tileBase w (ls.headD 0)

/-- The executing lanes as a mask of the lanes for which p holds. -/
def maskWhere (ls : List Nat) (p : Nat → Bool) : Word := maskOf (ls.filter p)

/-- The source position of SHFL; none outside the tile (R180). -/
def shflSource (mode : ShflMode) (w j b : Nat) : Option Nat :=
  match mode with
  | .idx => some (b % w)
  | .up => if b ≤ j then some (j - b) else none
  | .down => if j + b < w then some (j + b) else none
  | .xor => some (j ^^^ (b % w))

/-- SHFL (R178, R179, R180; DEDUCED, log 66). -/
def execShfl (c : Ctl) (mode : ShflMode) (ud : Bool) (d : BitVec 8) (a b : Src) (pc : BitVec 3) (s : State) :
    Host.Outcome State Fault Refusal :=
  issue c { needs [dstField ud d 1] [srcField a 1, srcField b 1] 0 with pdsts := [pc.toNat] } (fun g =>
    let w := tileWidth g.f.part
    let src (l : Nat) : Option Nat :=
      (shflSource mode w (l % w) (g.rd 1 0 l).toNat).bind (fun p =>
        if p < w && g.lanes.contains (tileBase w l + p) then some (tileBase w l + p) else none)
    if ud then
      let base := uniTile w g.lanes
      let valid := src base
      { writes := (match valid with | none => [] | some k => [.u d.toNat (g.rd 0 0 k) false])
          ++ putPred pc.toNat (tileLanes w base g.lanes) (fun _ => if valid.isSome then .yes else .no) }
    else
      { writes := putWord false d.toNat g.lanes (fun l => g.rd 0 0 ((src l).getD l))
          ++ putPred pc.toNat g.lanes (fun l => if (src l).isSome then .yes else .no) }) s

/-- LPUSH (R181). -/
def execLpush (c : Ctl) (d : BitVec 8) (a b : Src) (pc : BitVec 3) (s : State) : Host.Outcome State Fault Refusal :=
  issue c { needs [dstField false d 1] [srcField a 1, srcField b 1] 0 with pdsts := [pc.toNat] } (fun g =>
    let w := tileWidth g.f.part
    let from_ (l : Nat) : List Nat := g.lanes.filter (fun k => tileBase w k + (g.rd 1 0 k).toNat % w == l)
    { writes := putWord false d.toNat (g.lanes.filter (fun l => !(from_ l).isEmpty)) (fun l => g.rd 0 0 ((from_ l).getLastD 0))
        ++ putPred pc.toNat g.lanes (fun l =>
          match from_ l with
          | [] => .no
          | [_] => .yes
          | _ :: _ :: _ => .undecided) }) s

/-- VOTE over the participants of one tile (R182). -/
def voteTri (mode : VoteMode) (ps : List Tri) : Tri :=
  match mode with
  | .all => if ps.contains .no then .no else if ps.contains .undecided then .undecided else .yes
  | .any => if ps.contains .yes then .yes else if ps.contains .undecided then .undecided else .no
  | .eq => if ps.all (fun p => decide (some p = ps.head?)) then .yes else .no
  | .ballot => .no
  | .ballotF => .no
  | .ballotU => .no

/-- The value a ballot counts (R182). -/
def ballotOf (mode : VoteMode) : Option Tri :=
  match mode with
  | .ballot => some .yes
  | .ballotF => some .no
  | .ballotU => some .undecided
  | .all => none
  | .any => none
  | .eq => none

/-- VOTE (R178, R179, R182). -/
def execVote (c : Ctl) (mode : VoteMode) (ud : Bool) (d : BitVec 8) (pa : BitVec 3) (s : State) :
    Host.Outcome State Fault Refusal :=
  let isPred := (ballotOf mode).isNone
  issue c { needs (if isPred then [] else [dstField ud d 1]) [] 0 with
      preds := [pa.toNat], pdsts := if isPred then [d.toNat % 8] else [] } (fun g =>
    let w := tileWidth g.f.part
    match ballotOf mode with
    | none =>
      { writes := putPred (d.toNat % 8) g.lanes (fun l =>
          voteTri mode ((tileLanes w (tileBase w l) g.lanes).map (g.tri pa.toNat))) }
    | some v =>
      let m (base : Nat) : Word := maskWhere (tileLanes w base g.lanes) (fun l => g.tri pa.toNat l = v)
      { writes := if ud then [.u d.toNat (m (uniTile w g.lanes)) false]
                  else putWord false d.toNat g.lanes (fun l => m (tileBase w l)) }) s

/-! ### Trees (R183, R184) -/

/-- One combination step with its flags (R183). -/
def redComb (denorm : Bool) (op : RedOp) (x y : Word) : Word × Flags :=
  let f2 (r : FVal → FVal → Nat × Flags) : Word × Flags :=
    let a := readF denorm specF32 x.toNat
    let b := readF denorm specF32 y.toNat
    let t := r a.1 b.1
    (BitVec.ofNat 32 t.1, a.2 ||| b.2 ||| t.2)
  match op with
  | .add => (x + y, 0)
  | .min => (iminVal false x y, 0)
  | .max => (imaxVal false x y, 0)
  | .minu => (iminVal true x y, 0)
  | .maxu => (imaxVal true x y, 0)
  | .and => (x &&& y, 0)
  | .or => (x ||| y, 0)
  | .xor => (x ^^^ y, 0)
  | .fadd => f2 (addVals denorm specF32 .rn)
  | .fmin => f2 (minMaxVals specF32 false false)
  | .fmax => f2 (minMaxVals specF32 true false)

/-- A participant's value as its tree takes it in: for a floating-point operation a NaN is canonical, and a subnormal is flushed under
DENORM, with their flags (R89, R90, R92). -/
def redLeaf (denorm : Bool) (op : RedOp) (x : Word) : Word × Flags :=
  match op with
  | .fadd | .fmin | .fmax =>
    let a := readF denorm specF32 x.toNat
    (BitVec.ofNat 32 (encodeVal specF32 a.1), a.2 ||| flagIf (isSNaN a.1) flagNV)
  | .add | .min | .max | .minu | .maxu | .and | .or | .xor => (x, 0)

/-- Combination of values that may be absent (R184). -/
def combOpt (denorm : Bool) (op : RedOp) (x y : Option Word) : Option Word × Flags :=
  match x, y with
  | none, none => (none, 0)
  | some a, none => (some a, 0)
  | none, some b => (some b, 0)
  | some a, some b => let r := redComb denorm op a b; (some r.1, r.2)

/-- The exclusive result with no earlier participant (R183). -/
def redIdentity (op : RedOp) : Word :=
  match op with
  | .add => 0 | .min => 0x7FFFFFFF | .max => 0x80000000 | .minu => 0xFFFFFFFF | .maxu => 0 | .and => 0xFFFFFFFF
  | .or => 0 | .xor => 0 | .fadd => 0 | .fmin => 0x7F800000 | .fmax => 0xFF800000

/-- One level of a tree: position j takes what pick gives, with the flags of the level. -/
def treeLevel (v : List (Option Word)) (pick : Nat → Option Word × Flags) : List (Option Word) × Flags :=
  let rs := (List.range v.length).map pick
  (rs.map (·.1), rs.foldl (fun m r => m ||| r.2) 0)

/-- Value at a position. -/
def posAt (v : List (Option Word)) (j : Nat) : Option Word := (v.getD j none)

/-- The levels of REDUX from stride on (R184). -/
def reduxLevels (fuel stride : Nat) (denorm : Bool) (op : RedOp) (v : List (Option Word)) (fl : Flags) : List (Option Word) × Flags :=
  match fuel with
  | 0 => (v, fl)
  | n + 1 =>
    if v.length ≤ stride then (v, fl) else
    let r := treeLevel v (fun j => if j % (2 * stride) = 0 then combOpt denorm op (posAt v j) (posAt v (j + stride)) else (posAt v j, 0))
    reduxLevels n (2 * stride) denorm op r.1 (fl ||| r.2)

/-- The levels of SCAN from stride on (R184). -/
def scanLevels (fuel stride : Nat) (denorm : Bool) (op : RedOp) (v : List (Option Word)) (fl : Flags) : List (Option Word) × Flags :=
  match fuel with
  | 0 => (v, fl)
  | n + 1 =>
    if v.length ≤ stride then (v, fl) else
    let r := treeLevel v (fun j => if stride ≤ j then combOpt denorm op (posAt v (j - stride)) (posAt v j) else (posAt v j, 0))
    scanLevels n (2 * stride) denorm op r.1 (fl ||| r.2)

/-- A value as a multiple of 2^-149 (R184); none for NaN and infinities. -/
def unitsOf (v : FVal) : Option Int :=
  match v with
  | .fin s m e => some (alignTo (-149) s m e)
  | .inf _ => none
  | .nan _ => none

/-- The zero-sign rule of a floating-point sum tree: a zero result whose addends sum exactly to zero is +0 unless every addend is -0
(R91, R184). -/
def fixZero (denorm : Bool) (op : RedOp) (addends : List Word) (r : Word) : Word :=
  if op = .fadd && (r.toNat % 2 ^ 31 = 0) then
    let vs := addends.map (fun x => (readF denorm specF32 x.toNat).1)
    match vs.mapM unitsOf with
    | none => r
    | some ns =>
      if ns.foldl (· + ·) 0 = 0 then
        (if vs.all (fun v => isZeroVal v && valNeg v) then 0x80000000 else 0)
      else r
  else r

/-- The values of a tile by position, as its tree takes them in, with their flags (R184). -/
def tileVals (g : Go) (op : RedOp) (w base : Nat) : List (Option (Word × Flags)) :=
  (List.range w).map (fun j => if g.lanes.contains (base + j) then some (redLeaf g.w.denorm op (g.rd 0 0 (base + j))) else none)

/-- The flags of values as a tree takes them in. -/
def leafFlags (v : List (Option (Word × Flags))) : Flags := v.foldl (fun m x => m ||| x.elim 0 (·.2)) 0

/-- REDUX over one tile. -/
def reduxTile (g : Go) (op : RedOp) (w base : Nat) : Word × Flags :=
  let leaves := tileVals g op w base
  let v := leaves.map (fun x => x.map (·.1))
  let r := reduxLevels 5 1 g.w.denorm op v (leafFlags leaves)
  (fixZero g.w.denorm op (v.filterMap id) ((posAt r.1 0).getD 0), r.2)

/-- SCAN over one tile: the value of each position, and the flags. -/
def scanTile (g : Go) (op : RedOp) (excl : Bool) (w base : Nat) : List Word × Flags :=
  let v := tileVals g op w base
  let leaves := if excl then none :: v.take (w - 1) else v
  let v0 := leaves.map (fun x => x.map (·.1))
  let r := scanLevels 5 1 g.w.denorm op v0 (leafFlags leaves)
  ((List.range w).map (fun j =>
    match posAt r.1 j with
    | none => redIdentity op
    | some x => fixZero g.w.denorm op ((v0.take (j + 1)).filterMap id) x), r.2)

/-- The same flags in every lane of each tile. -/
def tileFlags (w : Nat) (ls : List Nat) (f : Nat → Flags) : List (Nat × Flags) := ls.map (fun l => (l, f (tileBase w l)))

/-- REDUX (R178, R179, R183, R184). -/
def execRedux (c : Ctl) (op : RedOp) (ud : Bool) (d : BitVec 8) (a : Src) (s : State) : Host.Outcome State Fault Refusal :=
  issue c (needs [dstField ud d 1] [srcField a 1] 0) (fun g =>
    let w := tileWidth g.f.part
    { writes := if ud then [.u d.toNat (reduxTile g op w (uniTile w g.lanes)).1 false]
                else putWord false d.toNat g.lanes (fun l => (reduxTile g op w (tileBase w l)).1)
      flags := tileFlags w g.lanes (fun b => (reduxTile g op w b).2) }) s

/-- SCAN (R178, R183, R184). -/
def execScan (c : Ctl) (op : RedOp) (excl : Bool) (d : BitVec 8) (a : Src) (s : State) : Host.Outcome State Fault Refusal :=
  issue c (needs [dstField false d 1] [srcField a 1] 0) (fun g =>
    let w := tileWidth g.f.part
    { writes := putWord false d.toNat g.lanes (fun l => (scanTile g op excl w (tileBase w l)).1.getD (l % w) 0)
      flags := tileFlags w g.lanes (fun b => (scanTile g op excl w b).2) }) s

/-- MATCH (R178, R185). -/
def execMatchLanes (c : Ctl) (d : BitVec 8) (a : Src) (pc : BitVec 3) (s : State) : Host.Outcome State Fault Refusal :=
  issue c { needs [dstField false d 1] [srcField a 1] 0 with pdsts := [pc.toNat] } (fun g =>
    let w := tileWidth g.f.part
    let peers (l : Nat) : List Nat := tileLanes w (tileBase w l) g.lanes
    { writes := putWord false d.toNat g.lanes (fun l => maskWhere (peers l) (fun k => g.rd 0 0 k == g.rd 0 0 l))
        ++ putPred pc.toNat g.lanes (fun l => if (peers l).all (fun k => g.rd 0 0 k == g.rd 0 0 l) then .yes else .no) }) s

/-- PARTSET: the issuing fragment's tile width (R175, R177). -/
def execPartset (c : Ctl) (width : BitVec 3) (s : State) : Host.Outcome State Fault Refusal :=
  issue c (needs [] [] 0) (fun g =>
    { warp := fun w => { w with regs := w.regs.mapFrag g.f.id (fun f => { f with part := width }) } }) s

/-! ### Random streams (R186 to R189) -/

/-- The block of a draw (R187). -/
def rngBlock (seed stream : DWord) (spawnix taskid b place n : Word) : BitVec 128 :=
  gkc (cat2 seed (stream ^^^ (spawnix.setWidth 64 <<< 32))) (cat4 taskid b place n)

/-- The words of an output form (R187). -/
def rngWords (out : RngOut) (x : BitVec 128) : List Word :=
  let g (i : Nat) : Word := (x >>> (32 * i)).setWidth 32
  match out with
  | .u32 => [g 0]
  | .f32 => [BitVec.ofNat 32 (encodeVal specF32 (.fin false ((g 0).toNat / 256) (-24)))]
  | .x4 => [g 0, g 1, g 2, g 3]

/-- RNG (R187). -/
def execRng (c : Ctl) (out : RngOut) (d : BitVec 8) (b : Src) (s : State) : Host.Outcome State Fault Refusal :=
  issue c (needs [dstField c.u d (if out = .x4 then 4 else 1)] [srcField b 1] 0) (fun g =>
    let blk (l : Nat) : BitVec 128 :=
      rngBlock (launchSeed s g.w) (g.w.regs.streamOf (if c.u then lowLane g.f.mask else l)) g.w.spawnix g.w.taskid (g.rd 0 0 l)
        (if c.u then 0xFFFFFFFF else BitVec.ofNat 32 (g.w.warpid * 32 + l)) (if c.u then 0 else cellGet g.w.regs.draw l)
    { writes := putWords c.u d.toNat g.lanes (fun l => rngWords out (blk l))
      warp := fun w => if c.u then w else { w with regs := { w.regs with
        draw := g.lanes.foldl (fun m l => cellSet m l (cellGet m l + 1)) w.regs.draw } } }) s

/-- RNGKEY (R188). -/
def execRngkey (c : Ctl) (a : Src) (s : State) : Host.Outcome State Fault Refusal :=
  issue c (needs [] [srcField a 2] 0) (fun g =>
    { warp := fun w => { w with regs := { w.regs with
        stream := g.lanes.foldl (fun m l => cellSet m l (g.rd2 0 0 l)) w.regs.stream
        draw := g.lanes.foldl (fun m l => cellSet m l 0) w.regs.draw } } }) s

/-- RNGSKIP (R189). -/
def execRngskip (c : Ctl) (d : BitVec 8) (a : Src) (s : State) : Host.Outcome State Fault Refusal :=
  issue c (needs [dstField c.u d 1] [srcField a 1] 0) (fun g =>
    { writes := putWord c.u d.toNat g.lanes (fun l => cellGet g.w.regs.draw l)
      warp := fun w => { w with regs := { w.regs with
        draw := g.lanes.foldl (fun m l => cellSet m l (cellGet m l + g.rd 0 0 l)) w.regs.draw } } }) s

end Sys2Proof.Machine
end

