-- ==== Sys2Proof/Machine/NetEv.lean ====
section
/-! DEFINITION. What arrives from outside: links (R454), UALink requests and shoot messages of peers (R239, R450 to R453), host messages through the
mailbox windows (R262, R447 to R449), Ethernet flow control (R456). -/

namespace Sys2Proof.Machine

/-! ### Requests of peers (R452) -/

/-- What a peer's request asks for. -/
inductive PeerAsk where
  | read
  | write
  | atomic
  deriving DecidableEq, Repr

/-- Pieces of a range in the order of their offsets, each through a local realm's walk. -/
def localWalk (s : State) (p : Part) (who : Who) (acc : Acc) (realm : Nat) (e : List Word) (ps : List (DWord × Nat)) : Xl (List (Nat × Nat)) :=
  match ps with
  | [] => .ok []
  | x :: rest =>
    match translateLocal s p who acc realm e x.1 x.2 with
    | .error t => .error t
    | .ok (.mem a _) => (localWalk s p who acc realm e rest).map (fun r => (a, x.2) :: r)
    | .ok (.peer ..) => .error (realmFault 4 realm x.1)
    | .ok (.ether ..) => .error (realmFault 4 realm x.1)

/-- The words of the aperture a request names. -/
def aperture (s : State) (a : PeerAddr) : List Word := s.net.apertures.getD a.aper.toNat []

/-- Some piece meets a lock or a declared range as R248 and R241 refuse. -/
def piecesLocked (s : State) (part : Nat) (ps : List (Nat × Nat)) (write : Bool) : Bool :=
  ps.any (fun x => meetsLock s part x.1 (x.1 + x.2) (!write) || meetsDeclared s x.1 (x.1 + x.2))

/-- The checks of R452 in order: the target partition and the physical pieces, or the step that fails (DESIGN CHOICE, log 25). -/
def peerChecks (s : State) (a : PeerAddr) (ask : PeerAsk) (n : Nat) : Except Nat (Part × List (Nat × Nat)) :=
  let ap := aperture s a
  let realm := wfield ap 0 0 16
  match s.part? (wfield ap 0 28 3) with
  | none => .error 1
  | some p =>
    let e := realmEntry s p realm
    if !(wordAt ap 0).getLsbD 31 || p.state == .absent || decide (a.station < wfield ap 3 0 10) || decide (wfield ap 3 10 10 < a.station) then .error 1
    else if (ask == .write && !(wordAt ap 0).getLsbD 27) || (ask == .atomic && !(wordAt ap 0).getLsbD 26) then .error 2
    else if realmCount p ≤ realm || realmReserved e || realmKind e != 1 || !(wordAt e 0).getLsbD 24 then .error 3
    else match localWalk s p { part := p.num, user := true, path := 0, own := [] } { write := ask != .read } realm e (pieces 3 (wpair ap 1 + a.offset.setWidth 64) n) with
      | .error _ => .error 4
      | .ok ps =>
        if piecesLocked s p.num ps (ask != .read) then .error 5
        else if ask != .read && ps.any (fun x => (sealedAt s x.1).isSome || (sealedAt s (x.1 + x.2 - 1)).isSome) then .error 6
        else .ok (p, ps)

/-- Answer a peer. -/
def reply (a : PeerAddr) (r : PeerResp) : State → List Upd := sendOut (.peerReply a.station r)

/-- A byte as a peer's access under a path sees it: its own foreign versions, else the root (R453). -/
def peerByte (s : State) (a : PeerAddr) (addr : Nat) : Byte :=
  if a.path = 0 then rootByte s addr else
  match foreignWord s a.station a.path (addr / 4) with
  | some x => byteOf x (addr % 4)
  | none => rootByte s addr

/-- Bytes of physical pieces. -/
def peerBytes (s : State) (a : PeerAddr) (ps : List (Nat × Nat)) : List Byte :=
  ps.flatMap (fun x => (List.range x.2).map (fun i => peerByte s a (x.1 + i)))

/-- The mark of a poisoned word as a peer's access sees it: of the foreign version it reads, or the root's (R268, R453). -/
def peerMark (s : State) (a : PeerAddr) (addr : Nat) : Place :=
  let owner := if a.path = 0 then 0 else ((foreignSeen s a.station a.path (addr / 4)).map (fun x => foreignOwner a.station x.1)).getD 0
  { (memPlace addr).word with owner := owner }

/-- The poison of the words that physical pieces make (R268; DEDUCED, log 52). -/
def peerBad (s : State) (a : PeerAddr) (ps : List (Nat × Nat)) : List Bool :=
  let bytes := ps.flatMap (fun x => (List.range x.2).map (fun i => s.order.poison.contains (peerMark s a (x.1 + i))))
  (List.range ((bytes.length + 3) / 4)).map (fun i => ((bytes.drop (4 * i)).take 4).any id)

/-- Bytes as words, the last one filled with zeros. -/
def bytesWords (bs : List Byte) : List Word :=
  (List.range ((bs.length + 3) / 4)).map (fun i => BitVec.ofNat 32 (bytesVal ((bs.drop (4 * i)).take 4)))

/-- PEER_READ_REQUEST: checked and served; a read that names an edition only while that edition is sealed (R261, R452; DESIGN CHOICE, log 25). -/
def execPeerReadRequest (a : PeerAddr) (edition : Option Word) (bytes : Nat) (s : State) : Host.Outcome State Fault Refusal :=
  .next (s.run (match peerChecks s a .read bytes with
    | .error step => reply a (.error step) s
    | .ok (_, ps) =>
      if edition.isSome && ps.any (fun x => sealedAt s x.1 != edition) then reply a (.error 8) s
      else reply a (.data (bytesWords (peerBytes s a ps)) (peerBad s a ps)) s))

/-- Physical pieces with their bytes. -/
def cellsOfPieces (ps : List (Nat × Nat)) (bs : List Byte) : List (Place × Byte) :=
  ((ps.flatMap (fun x => (List.range x.2).map (fun i => memPlace (x.1 + i))))).zip bs

/-- A path of a source station as its commit messages have mapped it (R453). -/
def foreignPath (s : State) (part station : Nat) (p : Path) : Path := effectiveFrom 5 s.order.remaps part (some station) p

/-- Mappings of a source station whose path no foreign version's name goes through are freed once the 1 ms of R375 has passed since their
commit message, so that the path may name another shoot (R375, R453; DEDUCED, log 52). -/
def freeMappings (station : Nat) (s : State) : List Upd :=
  onOrder (fun o => { o with remaps := o.remaps.filter (fun r => r.station != some station || decide (s.dev.wall.toNat < r.since + 1000000)
    || o.versions.any (fun v => v.part == r.part && v.station == some station && v.tag != r.path && pathPrefix r.path v.tag)) }) s

/-- Bytes that a peer writes: into the root at a position, or into a foreign version (R453); none where its versions find no record
(R255; DEDUCED, log 52). -/
def peerPut (s : State) (a : PeerAddr) (part : Nat) (cells : List (Place × Byte)) (bad : List Place) : Option (List Upd) :=
  let path := foreignPath s part a.station a.path
  let marks := (nub (cells.map (fun c => c.1.word))).map (fun w => (w, bad.contains w))
  if path = 0 then some (applyCells (rootWriter part) cells marks s) else
  let mem := memCells cells
  match spillFails s part (some a.station) path (nub (mem.map (fun c => c.1 / 128))) with
  | some _ => none
  | none =>
    let pos := s.order.pos + 1
    let old (wi : Nat) : Word := (foreignWord s a.station path wi).getD (rootWord s wi)
    some (onOrder (fun o => { o with
      pos := pos
      versions := writeVersions s part (some a.station) path pos old mem
      poison := markWords o.poison (marks.map (fun m => ({ m.1 with owner := foreignOwner a.station path }, m.2))) }) s)

/-- The write of a peer waits behind a commit-priority chunk that reads its words (R235). -/
def peerHeld (s : State) (a : PeerAddr) (part : Nat) (cells : List (Place × Byte)) : Bool :=
  foreignPath s part a.station a.path = 0 && heldByPriority s (rootWriter part) (nub (cells.map (fun c => c.1.word)))

/-- A peer's bytes are put where they belong, and it is answered. -/
def peerApply (a : PeerAddr) (part : Nat) (cells : List (Place × Byte)) (bad : List Place) (answer : PeerResp) : State → List Upd :=
  andThen (freeMappings a.station) (fun s =>
    if peerHeld s a part cells then [] else
    match peerPut s a part cells bad with
    | none => reply a (.error 7) s
    | some us => us ++ reply a answer (s.run us))

/-- PEER_WRITE_REQUEST (R452, R453). -/
def execPeerWriteRequest (a : PeerAddr) (data : List (Byte × Bool)) (s : State) : Host.Outcome State Fault Refusal :=
  .next (s.run (match peerChecks s a .write data.length with
    | .error step => reply a (.error step) s
    | .ok (p, ps) =>
      let cells := cellsOfPieces ps (data.map (·.1))
      let bad := ((cells.zip data).filter (fun x => x.2.2)).map (fun x => x.1.1.word)
      peerApply a p.num cells bad (.data [] []) s))

/-- PEER_ATOMIC_REQUEST: performed at its home; the answer carries the old value, then the flags (R280, R283, R452). -/
def execPeerAtomicRequest (a : PeerAddr) (op : PeerAtomic) (s : State) : Host.Outcome State Fault Refusal :=
  let n := if op.w64 then 8 else 4
  .next (s.run (match peerChecks s a .atomic n with
    | .error step => reply a (.error step) s
    | .ok (p, ps) =>
      let old := bytesVal (peerBytes s a ps)
      let r := atomResult op.denorm (if op.cas then none else some op.op) op.w64 old op.operand.toNat op.compare.toNat
      peerApply a p.num (cellsOfPieces ps (valBytes n r.1)) [] (.data (wordsOfVal (n / 4) old ++ [r.2.setWidth 32]) (peerBad s a ps)) s))

/-! ### Shoot messages of peers (R259, R453) -/

/-- The words of a foreign version in a partition. -/
def foreignWords (s : State) (part station : Nat) (path : Path) : List (Nat × Word) :=
  (s.order.versions.filter (fun v => v.part == part && v.station == some station && v.tag == path)).flatMap (fun v => v.words.map (fun x => (x.1, x.2.1)))

/-- Free a foreign version, with its words' poison marks. -/
def dropForeign (station : Nat) (path : Path) (s : State) : List Upd :=
  onOrder (fun o => { o with
    versions := o.versions.filter (fun v => !(v.station == some station && v.tag == path))
    poison := o.poison.filter (fun p => !(p.space == .mem && p.owner == foreignOwner station path)) }) s

/-- A foreign version's words become those of the path that its parent's maps to, at a position, with their poison; at path 0 they are part
of the root (R453). -/
def commitForeign (station : Nat) (path : Path) (part : Nat) (s : State) : List Upd :=
  let words := foreignWords s part station path
  let up := foreignPath s part station (parentPath path)
  if words.isEmpty then [] else
  if up = 0 then
    applyCells (rootWriter part) (words.flatMap (fun x => (placesFrom (memPlace (4 * x.1)) 4).zip (valBytes 4 x.2.toNat)))
      (words.map (fun x => (memPlace (4 * x.1), s.order.poison.contains { memPlace (4 * x.1) with owner := foreignOwner station path }))) s
  else andThen (onOrder (fun o => { o with
      pos := o.pos + 1
      poison := movePoison (words.map (·.1)) (foreignOwner station path) (foreignOwner station up) o.poison }))
    (giveWords part (some station) up words) s

/-- The mapping of a station's path ends. -/
def dropMapping (station : Nat) (path : Path) : State → List Upd :=
  onOrder (fun o => { o with remaps := o.remaps.filter (fun r => !(r.station == some station && r.path == path)) })

/-- The mappings that a commit message makes (R256, R453). -/
def commitMaps (s : State) (station : Nat) (path : Path) : List Remap :=
  (List.range 8).map (fun part => ⟨part, some station, path, parentPath path, s.dev.wall.toNat⟩)

/-- A commit message waits where a foreign version would become part of the root behind a chunk with commit priority (R235). -/
def commitHeld (s : State) (station : Nat) (path : Path) : Bool :=
  (List.range 8).any (fun part => foreignPath s part station (parentPath path) = 0
    && heldByPriority s (rootWriter part) ((foreignWords s part station path).map (fun x => memPlace (4 * x.1))))

/-- PEER_COMMIT_MESSAGE: a foreign version becomes its parent's, and its path maps onto it from the message's position on (R235, R256,
R453). -/
def execPeerCommitMessage (station : Nat) (path : Path) (s : State) : Host.Outcome State Fault Refusal :=
  .next (s.run (if path = 0 || commitHeld s station path then [] else
    inOrder [freeMappings station, forEach (List.range 8) (commitForeign station path), dropForeign station path,
      dropMapping station path,
      onOrder (fun o => { o with remaps := o.remaps ++ commitMaps s station path })] s))

/-- PEER_PRUNE_MESSAGE: a foreign version is freed, with its path's mapping (R453). -/
def execPeerPruneMessage (station : Nat) (path : Path) (s : State) : Host.Outcome State Fault Refusal :=
  .next (s.run (if path = 0 then [] else
    andThen (dropForeign station path) (dropMapping station path) s))

/-- PEER_STORE_ACK: a peer has applied a store or a result-less atomic, whose flags come with the answer, or has refused it (R239,
R284, R452; DEDUCED, log 28). -/
def execPeerStoreAck (id : Nat) (resp : PeerResp) (s : State) : Host.Outcome State Fault Refusal :=
  .next (s.run (match s.net.peerPending.find? (fun p => p.id == id) with
    | none => []
    | some p =>
      let gone := onNet (fun n => { n with peerPending := n.peerPending.filter (fun q => q.id != id) })
      match resp with
      | .none => []
      | .data ws _ =>
        let fl : Flags := (wordAt ws 0).setWidth 9
        andThen gone (if fl = 0 then fun _ => [] else onWarp p.warp (fun w => { w with drainFlags := w.drainFlags ++ [(fl, p.pc)] })) s
      | .error step =>
        andThen gone (fun s => match s.job? p.job with
          | some j => stopJob j (peerFault step) s
          | none => if p.job = 0 then raiseLater p.warp p.who p.pc (peerFault step) s else []) s))

/-! ### Links (R320, R454) -/

/-- LINK_DOWN naming a station. -/
def linkFault (station : Nat) : TrapReq := raiseD .linkDown (BitVec.ofNat 32 station)

/-- A pending tag whose next answer would come from a station fails (R454): a result of a finished chunk when it is consumed, else the
instruction itself. -/
def failTag (wid : Nat) (e : TagEntry) (station : Nat) (s : State) : List Upd :=
  let t := { linkFault station with fpc := some e.pc }
  if e.own then onWarp wid (fun w => w.mapTags (fun x => if x.seq = e.seq then
    { x with raises := some { t with ppc := some e.pc, fpc := none }, returned := true, lanes := [], stations := [] } else x)) s
  else match s.warp? wid with
    | none => []
    | some w => takeTrap wid ((w.regs.frags.find? (fun f => f.mask &&& e.mask != 0)).elim 0 (·.id)) [] t s

/-- The station a parked fragment awaits an answer from. -/
def parkStation (s : State) (w : Warp) (f : Frag) : Option Nat :=
  match waitSpot s w f.park with
  | some (.peer st _ _, _) => some st
  | _ => none

/-- The PC of the slot before one in sequence: that of the instruction a fragment waits in (R43, R392). -/
def prevPc (pc : DWord) : DWord := if pc.toNat % 8 = 0 then pc - 59 else pc - 1

/-- A parked CWAIT whose counter lies behind a link that is down (R421, R454). -/
def failPark (wid : Nat) (f : Frag) (station : Nat) : State → List Upd :=
  takeTrap wid f.id [] { linkFault station with fpc := some (prevPc f.pc) }

/-- A station's requests in flight that a warp has issued fail: tags, stores, counter waits (R239, R454). -/
def failWarp (wid station : Nat) (s : State) : List Upd :=
  match s.warp? wid with
  | none => []
  | some w =>
    inOrder [forEach (w.regs.tags.filter (fun e => e.awaits == .peer && !e.returned && e.stations.head? == some station)) (fun e => failTag wid e station),
      forEach (w.regs.frags.filter (fun f => parkStation s w f == some station)) (fun f => failPark wid f station)] s

/-- The station a copy's next granule comes from or goes to. -/
def jobStation (s : State) (j : Job) : Option Nat :=
  let st (r : Xl (List Piece)) : Option Nat := match r with
    | .error _ => none
    | .ok ps => ps.findSome? (fun p => match p.route with
      | .peer st _ _ => some st
      | .mem .. => none
      | .ether .. => none)
  match j.kind with
  | .window => st (runRoutes s j.owner { } (j.realmOf (wfield j.desc 2 0 2)) (BitVec.ofNat 64 j.src) [(windowSource j.desc j.landed, 4)])
  | .rcopy => (st (routes s j.owner { engine := true } (j.realmOf (wfield j.desc 5 0 2)) (BitVec.ofNat 64 (j.src + j.landed)) 4)).or
      (st (routes s j.owner { write := true, engine := true } (j.realmOf (wfield j.desc 5 2 2)) (BitVec.ofNat 64 (j.dst + j.landed)) 4))
  | _ => none

/-- A command's request to a station is in flight. -/
def jobAwaits (s : State) (j : Job) (station : Nat) : Bool :=
  (j.asked && jobStation s j == some station) || s.net.peerPending.any (fun p => p.job == j.id && p.station == station)

/-- A request has been without a response for UALTO, or its port is down (R454). -/
def requestLate (s : State) (station since : Nat) : Bool :=
  let us := s.net.ualto.toNat % 2 ^ 16
  s.net.down.contains station || decide ((if us = 0 then 65536 else us) * 1000 ≤ s.dev.wall.toNat - since)

/-- Stores of warps to a station that pass a test and are not acknowledged fail (R239, R454). -/
def failStores (station : Nat) (which : PeerPending → Bool) (s : State) : List Upd :=
  let lost := s.net.peerPending.filter (fun p => p.station == station && which p)
  inOrder [onNet (fun n => { n with peerPending := n.peerPending.filter (fun p => !lost.any (fun q => q.id == p.id)) }),
    forEach (lost.filter (fun p => p.job == 0)) (fun p => raiseLater p.warp p.who p.pc (linkFault station))] s

/-- The rank of a collective's member at a station. -/
def rankAt (s : State) (j : Job) (station : Nat) : Option Nat :=
  ((List.range j.members).filter (fun r => r != j.rank)).find? (fun r => match memberAt s j r with
    | .ok (none, st) => st == station
    | _ => false)

/-- LINK_DOWN: the link layer reports the path to a station down: what waits for it fails at once, collectives with a member there
abort (R320, R454). -/
def execLinkDown (station : Nat) (s : State) : Host.Outcome State Fault Refusal :=
  let rounds := s.eng.jobs.filter (fun j => j.kind == .coll && j.sent && j.phase == 1)
  .next (s.run (inOrder [onNet (fun n => { n with down := nub (n.down ++ [station]) }),
    forEach rounds (fun j s => match rankAt s j station with
      | some r => collAbort j .linkDown r s
      | none => []),
    forEach (s.eng.jobs.filter (fun j => j.kind != .coll && jobAwaits s j station)) (fun j => stopJob j (linkFault station)),
    failStores station (fun _ => true),
    forEach (s.warps.map (·.id)) (fun w => failWarp w station)] s))

/-- LINK_RETURN (R454). -/
def execLinkReturn (station : Nat) (s : State) : Host.Outcome State Fault Refusal :=
  .next (s.run (onNet (fun n => { n with down := n.down.filter (fun x => x != station) }) s))

/-- WALL when a parked fragment last asked a peer for its counter. -/
def Park.askedAt (k : Park) : Nat :=
  match k with
  | .counter _ _ _ _ _ a => a
  | _ => 0

/-- A command's request to a station is late. -/
def jobLate (s : State) (j : Job) (station : Nat) : Bool :=
  (j.asked && jobStation s j == some station && requestLate s station j.askedAt)
    || s.net.peerPending.any (fun p => p.job == j.id && p.station == station && requestLate s station p.since)

/-- UALINK_REQUEST_TIMEOUT: a request of a warp to a station has no response within UALTO, or its port is down: the tag named, or, with
no tag, its stores, its counter waits and its commands (R7, R454). -/
def execUalinkRequestTimeout (warp tag station : Nat) (s : State) : Host.Outcome State Fault Refusal :=
  .next (s.run (
    if tag = 0 then
      inOrder [forEach (s.eng.jobs.filter (fun j => j.warp == warp && j.kind != .coll && jobLate s j station)) (fun j => stopJob j (linkFault station)),
        failStores station (fun p => p.warp == warp && p.job == 0 && requestLate s station p.since),
        fun t => match t.warp? warp with
          | none => []
          | some w => forEach (w.regs.frags.filter (fun f => parkStation t w f == some station && requestLate s station f.park.askedAt))
              (fun f => failPark warp f station) t] s
    else match s.warp? warp with
      | none => []
      | some w =>
        match w.regs.tags.find? (fun e => e.tag == tag && e.awaits == .peer && !e.returned && e.stations.head? == some station) with
        | none => []
        | some e => if requestLate s station e.since then failTag warp e station s else []))

/-! ### The host (R262, R447 to R449, R456) -/

/-- NAK codes as the model numbers them: invalid request, remote access error, receiver not ready (PRESUMED, log 59). -/
def nakInvalid : Nat := 1
def nakAccess : Nat := 2
def nakNotReady : Nat := 3

/-- Refuse a host request and count it (R448; PRESUMED, log 59). -/
def refuseHost (qpn : Nat) (s : State) : List Upd :=
  [.net { s.net with refused := s.net.refused + 1, outbox := s.net.outbox ++ [.hostReply qpn false nakAccess []] }]

/-- The partition that owns a queue pair: that of the first window in use which names it (R447, R456; DEDUCED, log 109). -/
def queueOwner (s : State) (qpn : Nat) : Option Nat :=
  (s.net.windows.find? (fun w => (wordAt w 0).getLsbD 31 && wfield w 7 0 24 == qpn)).map (fun w => wfield w 0 28 3)

/-- A window of a kind for a queue pair, of the partition that owns the queue pair (R448, R456; DEDUCED, log 109). -/
def hostWindow (s : State) (kind qpn : Nat) (rkey : Option Nat) : Option (List Word) :=
  s.net.windows.find? (fun w => (wordAt w 0).getLsbD 31 && wfield w 0 26 2 == kind && wfield w 7 0 24 == qpn && rkey.all (fun k => (wordAt w 1).toNat == k)
    && queueOwner s qpn == some (wfield w 0 28 3))

/-- The largest message (R456). -/
def messageLimit : Nat := 2 ^ 31

/-- A message beyond the size that is supported is refused as an invalid request (R456; DEDUCED, log 109). -/
def sized (qpn n : Nat) (us : State → List Upd) : State → List Upd :=
  if messageLimit < n then sendOut (.hostReply qpn false nakInvalid []) else us

/-- A window's CNT word, where it translates and is writable. -/
def windowCount (s : State) (w : List Word) : Option Nat := (windowPieces s w true (wpair w 5) 8).bind (fun ps => ps.head?.map (·.1))

/-- Some page of the pieces is sealed (R260). -/
def piecesSealed (s : State) (ps : List (Nat × Nat)) : Bool := ps.any (fun x => (sealedAt s x.1).isSome)

/-- A host request on a memory window: the window, its pieces and its counter, where it is not refused (R448). -/
def hostRange (s : State) (qpn rkey va n : Nat) (write : Bool) : Option (List Word × List (Nat × Nat) × Nat) :=
  match hostWindow s 0 qpn (some rkey) with
  | none => none
  | some w =>
    if (wordAt w 4).toNat * 128 < va + n then none else
    match windowPieces s w write (wpair w 2 + BitVec.ofNat 64 va) n, windowCount s w with
    | some ps, some c => if write && piecesSealed s ps then none else some (w, ps, c)
    | some _, none => none
    | none, _ => none

/-- A message takes its place at the ordering point of its partition. -/
def arriveMsg (a : Arrival) : State → List Upd :=
  inOrder [fun s => onNet (fun n => { n with arrivals := n.arrivals ++ [{ a with id := s.model.nextId }] }) s, useIds 1]

/-- HOST_RDMA_WRITE: a write that a window allows takes its place at the ordering point, where it is applied granule by granule; then the
arrival counter advances. An immediate changes nothing here: a memory window has no place for it (R262, R448, R456, R473; DEDUCED, log 21;
DEDUCED, log 109). -/
def execHostRdmaWrite (qpn rkey : Nat) (va : Nat) (data : HostData) (s : State) : Host.Outcome State Fault Refusal :=
  .next (s.run (sized qpn data.bytes.length (fun s => match hostRange s qpn rkey va data.bytes.length true with
    | none => refuseHost qpn s
    | some (w, ps, c) =>
      let cells := cellsOfPieces ps data.bytes
      if !partWorks s (wfield w 0 28 3) then sendOut (.hostReply qpn false nakNotReady []) s
      else arriveMsg { id := 0, part := wfield w 0 28 3, qpn := qpn, granules := payloadGranules cells.length cells, reads := [], counter := some c,
                       amount := 1, ring := 0, words := [] } s) s))

/-- HOST_RDMA_READ: served at the ordering point, after every write that arrived before it (R262; DEDUCED, log 21). -/
def execHostRdmaRead (qpn rkey : Nat) (va len : Nat) (s : State) : Host.Outcome State Fault Refusal :=
  .next (s.run (sized qpn len (fun s => match hostRange s qpn rkey va len false with
    | none => refuseHost qpn s
    | some (w, ps, _) =>
      arriveMsg { id := 0, part := wfield w 0 28 3, qpn := qpn, granules := [], reads := ps, counter := none, amount := 0, ring := 0, words := [] } s) s))

/-- A ring window's CNT word and words, where a SEND may use it (R449). -/
def ringOk (s : State) (w : List Word) : Option (Nat × List (Nat × Nat)) :=
  match windowCount s w, windowPieces s w true (wpair w 2) ((wordAt w 4).toNat * 128) with
  | some c, some ps => if piecesSealed s ps then none else some (c, ps)
  | some _, none => none
  | none, _ => none

/-- Words of an inbound ring that are not consumed: those that can be popped and those that open chunks have popped (R227, R449). -/
def ringUsed (r : Ring) : Nat :=
  r.inbound.length

/-- Words that SENDs at the ordering point bring to a ring. -/
def ringComing (s : State) (part n : Nat) : Nat :=
  ((s.net.arrivals.filter (fun a => a.part == part && a.ring == n)).map (fun a => a.words.length)).foldl (· + ·) 0

/-- A partition's ring; one that nothing has used is empty. -/
def ringOf (s : State) (part n : Nat) : Ring :=
  (s.net.rings.find? (fun r => r.part == part && r.num == n)).getD
    { part := part, num := n, inbound := [], consumer := 0, outbound := [], pushed := 0, sends := [] }

/-- HOST_SEND_INBOUND: a SEND's words, and its immediate as one more, take their place at the ordering point, where they are appended to the
inbound ring, and then CNT advances by their number; without room it is refused with an RNR NAK (R262, R449, R473; DEDUCED, log 21). -/
def execHostSendInbound (qpn : Nat) (words : List Word) (imm : Option Word) (s : State) : Host.Outcome State Fault Refusal :=
  .next (s.run (sized qpn (4 * words.length) (fun s => match hostWindow s 1 qpn none with
    | none => refuseHost qpn s
    | some w =>
      match ringOk s w with
      | none => refuseHost qpn s
      | some (c, ps) =>
        let part := wfield w 0 28 3
        let n := wfield w 0 16 4
        let all := words ++ imm.toList
        let r := ringOf s part n
        let used := ringUsed r + ringComing s part n
        let cells := ringCells ps (ringWords w) (r.consumer + used) all
        if !partWorks s part || ringWords w < used + all.length then sendOut (.hostReply qpn false nakNotReady []) s
        else arriveMsg { id := 0, part := part, qpn := qpn, granules := payloadGranules cells.length cells, reads := [], counter := some c,
                         amount := all.length, ring := n, words := all } s) s))

/-! ### The ordering point of a partition (R262, R248) -/

/-- Drop a message. -/
def dropArrival (id : Nat) : State → List Upd := onNet (fun n => { n with arrivals := n.arrivals.filter (fun a => a.id != id) })

/-- The memory a granule covers. -/
def granuleRange (g : List (Place × Byte)) : List (Nat × Nat) := (g.head?.map (fun c => (c.1.addr, g.length))).toList

/-- A message waits: its next granule meets a lock or a declared range (R248, R241), or a word that a commit-priority chunk reads, its counter's at its end (R235). -/
def arrivalWaits (s : State) (a : Arrival) : Bool :=
  match a.granules with
  | [] => a.counter.any (fun c => counterHeld s a.part (.home c))
  | g :: _ => piecesLocked s a.part (granuleRange g) true || heldByPriority s (rootWriter a.part) (nub (g.map (fun c => c.1.word)))

/-- A message is complete: its words are in its ring, its counter advances, and it is answered; a read with the bytes as they are now. -/
def endArrival (a : Arrival) : State → List Upd :=
  inOrder [dropArrival a.id,
    (if a.words.isEmpty then fun _ => []
      else fun s =>
        let r := ringOf s a.part a.ring
        onNet (fun k => { k with rings := upsert (fun x => x.part == r.part && x.num == r.num) { r with inbound := r.inbound ++ a.words.map (fun w => ⟨w, none⟩) } k.rings }) s),
    (match a.counter with
      | none => fun _ => []
      | some c => counterAdd a.part c a.amount []),
    fun s => sendOut (.hostReply a.qpn true 0 (a.reads.flatMap (fun x => (List.range x.2).map (fun i => rootByte s (x.1 + i))))) s]

/-- The next move of a partition's oldest message: a granule, which a page sealed meanwhile refuses (R260), or its end (DEDUCED, log 17). -/
def landArrival (a : Arrival) (s : State) : List Upd :=
  if arrivalWaits s a then [] else
  match a.granules with
  | [] => endArrival a s
  | g :: rest =>
    if piecesSealed s (granuleRange g) then andThen (refuseHost a.qpn) (dropArrival a.id) s
    else andThen (landGranule (rootWriter a.part) g)
      (onNet (fun n => { n with arrivals := n.arrivals.map (fun b => if b.id = a.id then { b with granules := rest } else b) })) s

/-- Each partition's oldest message makes its next move. -/
def settleArrivals (s : State) : List Upd :=
  forEach (nub (s.net.arrivals.map (·.part))) (fun part s => match s.net.arrivals.find? (fun a => a.part == part) with
    | none => []
    | some a => landArrival a s) s

/-- A halt ends the messages that still wait: the host is to send them again (R473). -/
def refuseArrivals (part : Nat) (s : State) : List Upd :=
  forEach (s.net.arrivals.filter (fun a => a.part == part)) (fun a => andThen (dropArrival a.id) (sendOut (.hostReply a.qpn false nakNotReady []))) s

/-! ### What the host answers, and Ethernet -/

/-- HOST_SEND_ACK: the host acknowledges the oldest SEND of an outbound ring: its words leave the ring and CNT advances by their number
(R449). -/
def execHostSendAck (window words : Nat) (s : State) : Host.Outcome State Fault Refusal :=
  .next (s.run (match s.net.windows[window]? with
    | none => []
    | some w =>
      let part := wfield w 0 28 3
      let n := wfield w 0 16 4
      match s.net.rings.find? (fun r => r.part == part && r.num == n) with
      | none => []
      | some r =>
        match r.sends with
        | [] => []
        | x :: rest =>
          if !(wordAt w 0).getLsbD 31 || wfield w 0 26 2 != 2 || x.1 != words || (windowCount s w).any (fun c => counterHeld s part (.home c)) then [] else
          inOrder [onNet (fun k => { k with rings := k.rings.map (fun y => if y.part = part ∧ y.num = n then { y with outbound := y.outbound.drop words, sends := rest } else y) }),
            (match windowCount s w with
              | none => fun _ => []
              | some c => counterAdd part c words [])] s))

/-- HOST_ATOMIC_VERB: refused with an invalid-request NAK (R456). -/
def execHostAtomicVerb (qpn : Nat) (s : State) : Host.Outcome State Fault Refusal :=
  .next (s.run (sendOut (.hostReply qpn false nakInvalid []) s))

/-- QUEUE_PAIR_ERROR: pushes and pops through its ring raise MBOX_FAULT from now on (R449). -/
def execQueuePairError (qpn : Nat) (s : State) : Host.Outcome State Fault Refusal :=
  .next (s.run (onNet (fun n => { n with qpErrors := nub (n.qpErrors ++ [qpn]) }) s))

/-- PRIORITY_FLOW_CONTROL: transmission on a port's priority pauses or goes on (R456). -/
def execPriorityFlowControl (port prio : Nat) (pause : Bool) (s : State) : Host.Outcome State Fault Refusal :=
  .next (s.run (onNet (fun n => { n with paused := if pause then nub (n.paused ++ [(port, prio)]) else n.paused.filter (fun x => x != (port, prio)) }) s))

/-- ECN_MARKING: the queue pair's rate is reduced (R456). -/
def execEcnMarking (qpn : Nat) (s : State) : Host.Outcome State Fault Refusal :=
  .next (s.run (onNet (fun n => { n with ecn := nub (n.ecn ++ [qpn]) }) s))

end Sys2Proof.Machine
end

