-- ==== Sys2Proof/Machine/Sched.lean ====
section
/-! DEFINITION. The launch scheduler: group lists, dependences, the order of launches, holds, shares and heat, task starts, spawned tasks,
completion, and pre-emption (R355, R358 to R367, R371 to R374, R380 to R389). -/

namespace Sys2Proof.Machine

/-! ### Becoming ready (R355, R359) -/

/-- The launch with an identity. -/
def launchOfUid (s : State) (uid : Nat) : Option Launch := s.launches.find? (fun l => l.uid == uid)

/-- A launch refused after its position is gone, with its locks. -/
def dropLaunchOf (l : Launch) (s : State) : List Upd :=
  .dropLaunch l.part l.num :: onOrder (fun o => { o with locks := o.locks.filter (fun k => !l.locks.contains k.id) }) s

/-- The child shoot of a refused grid is pruned, if it is live still (R378, R424). -/
def pruneGrid (l : Launch) (s : State) : List Upd :=
  if l.grid.isSome && (shootOf s l.part l.path).any (·.live) then pruneShoots l.part [l.path] s else []

/-- A refused launch's cause goes to the warp that issued it, or to the repair that did (R297, R346, R355). -/
def refuseLaunch (l : Launch) (t : TrapReq) (s : State) : List Upd :=
  if s.eng.jobs.any (fun j => j.kind == .repair && j.sent && j.src == l.uid) then andThen (dropLaunchOf l) (refuseRepair l.uid t) s
  else inOrder [dropLaunchOf l, pruneGrid l, raiseLater l.issuer l.who l.issuerPc t] s

/-- The reads of a launch's lists as accesses of an engine command of the warp that issued it, where that warp's launch is deterministic: the
launch then belongs to another's tree (R32, R263, R265, R355; DEDUCED, log 77). -/
def listAccesses (s : State) (l : Launch) : List Access :=
  if !l.det || l.tree == l.uid then [] else
  let clk := clockRaise l.clock (jobThread l.uid) 1
  (nub (l.lists.flatMap (fun y => wordsOf (memPlace y.2.1) y.2.2))).map (fun p =>
    { tree := l.tree, warp := l.issuer, key := ⟨(s.launch? l.part l.who.launch).elim 0 (·.uid), l.who.taskid, l.who.spawnix, l.who.warpid⟩,
      thread := jobThread l.uid, stamp := 1, place := p, path := l.who.path, write := false, kind := .plain, pc := l.issuerPc, clock := clk })

/-- LAUNCH_GROUP_LIST_READ: once no earlier command's lock stands before them, the lists are read and checked; the launch is visible, or
refused (R249, R355, R361 to R363). -/
def execLaunchGroupListRead (launch : Nat) (s : State) : Host.Outcome State Fault Refusal :=
  .next (s.run (match launchOfUid s launch with
    | none => []
    | some l =>
      match s.part? l.part with
      | none => []
      | some p =>
        if l.phase != .lists || !partWorks s l.part || behindLock s l.uid then [] else
        let gs := readGroups s l
        let as := listAccesses s l
        match firstRace (effective s l.part) s.order.accesses as with
        | some x => refuseLaunch l (engineRace x l.issuerPc) s
        | none =>
        if groupsBad p l.desc l.uid gs then refuseLaunch l (raiseIn .launchInvalid l.realm l.descOff) s
        else inOrder [fun _ => [.launch { l with groups := gs, lists := [], phase := .waiting }], logAccesses as,
          onOrder (fun o => { o with locks := o.locks.filter (fun k => !l.locks.contains k.id) })] s))

/-- LAUNCH_READY: every dependence's counter is at or above its target (R359). -/
def execLaunchReady (launch : Nat) (s : State) : Host.Outcome State Fault Refusal :=
  .next (s.run (match launchOfUid s launch with
    | none => []
    | some l =>
      if l.phase != .waiting || !partWorks s l.part || !l.deps.all (fun d => decide (d.target.toNat ≤ counterValue s d.addr)) then [] else
      [.launch { l with
        phase := .ready
        readyAt := s.dev.wall.toNat
        clock := l.deps.foldl (fun c d => clockJoin c (counterClock s (.home d.addr) (counterValue s d.addr))) l.clock }]))

/-! ### The order of launches (R358) -/

/-- Effective priority. -/
def launchRank (s : State) (l : Launch) : Nat := min 7 (l.prio + (s.dev.wall.toNat - l.readyAt) / 10000000)

/-- Records of a launch in its partition's spawn area, in order. -/
def waitingSpawns (s : State) (l : Launch) : List SpawnRec :=
  ((s.part? l.part).elim [] (·.spawnArea)).filter (fun r => r.launch == l.num)

/-- A launch has a task, or a spawned task, to start. -/
def wantsStart (s : State) (l : Launch) : Bool :=
  l.phase == .ready && !pruned s l.part l.path && (decide (l.started.length < launchTasks l.desc) || !(waitingSpawns s l).isEmpty)

/-- Launch a comes before b. -/
def launchBefore (s : State) (a b : Launch) : Bool :=
  decide (launchRank s b < launchRank s a) || (launchRank s a == launchRank s b && decide (a.order < b.order))

/-- Insert a launch in the order. -/
def insertLaunch (s : State) (l : Launch) (ls : List Launch) : List Launch :=
  match ls with
  | [] => [l]
  | x :: rest => if launchBefore s l x then l :: x :: rest else x :: insertLaunch s l rest

/-- The launches of a partition with something to start, in order. -/
def startOrder (s : State) (part : Nat) : List Launch :=
  (s.launches.filter (fun l => l.part == part && wantsStart s l)).foldl (fun acc l => insertLaunch s l acc) []

/-! ### Heat and shares (R380, R381) -/

/-- Energy units of the warps that run on a cluster, by the classes that its budget period counts (R381, R497). -/
def clusterUnits (s : State) (cluster : Nat) : Nat :=
  (s.warps.filter (fun w => w.core / 4 == cluster)).foldl (fun n w => n + w.ecounted + 1) 0

/-- The cluster's budget admits a task of n warps; a cluster that runs no task always does (DESIGN CHOICE, log 5). -/
def heatAdmits (s : State) (core eclass n : Nat) : Bool :=
  let c := core / 4
  !(s.tasks.any (fun t => t.core / 4 == c))
    || (match (s.dev.heat.find? (fun h => h.cluster == c)).bind (·.budget) with
        | none => true
        | some b => decide (clusterUnits s c + n * (eclass + 1) ≤ b))

/-- Cores on which tasks of launches that a condition picks run. -/
def coresRunning (s : State) (part : Nat) (pick : Launch → Bool) : List Nat :=
  nub ((s.tasks.filter (fun t => t.handler.isNone && t.part == part && (s.launch? part t.launch).any pick)).map (·.core))

/-- The share of a stream's cores that draft tasks may use while target tasks want cores too (DEDUCED, log 48). -/
def shareAdmits (s : State) (l : Launch) (core : Nat) : Bool :=
  let st := launchStream l.desc
  if launchSrole l.desc ≠ 1 then true else
  let ofStream (k : Launch) : Bool := launchStream k.desc == st && launchSrole k.desc != 0
  if !s.launches.any (fun k => k.part == l.part && ofStream k && launchSrole k.desc == 2 && wantsStart s k) then true else
  let avg : Int := (((s.part? l.part).bind (fun p => p.streams.find? (fun x => x.tag == st))).map (·.avg)).getD 256
  let all := nub (core :: coresRunning s l.part ofStream)
  let drafts := nub (core :: coresRunning s l.part (fun k => ofStream k && launchSrole k.desc == 1))
  decide (16 * drafts.length ≤ min 8 (1 + (avg / 256).toNat) * all.length)

/-! ### Starting warps (R357, R374, R387) -/

/-- The entry PC of a warp is checked before its first instruction (R45; DEDUCED, log 78). -/
def checkEntry (wid : Nat) (pc : DWord) (s : State) : List Upd :=
  match s.warp? wid with
  | none => []
  | some w =>
    match targetTrap s w pc with
    | none => []
    | some t => takeTrap wid 0 [] t s

/-- Add one warp of a task at its start. -/
def addWarp (l : Launch) (level : Nat) (x : Start) (s : State) : List Upd :=
  let wid := s.model.nextId
  let place := freePlace s x.core x.quadrant
  inOrder [fun s => [.warp (startWarp s l level wid { x with place := place })], useIds 1, checkEntry wid x.pc] s

/-- What a task starts as. -/
structure TaskPlan where
  index : Nat
  record : Option SpawnRec
  core : Nat
  quadrants : List Nat

/-- The saved contexts of a pre-empted task, if it is one (R387). -/
def savedOf (l : Launch) (x : TaskPlan) : Option Saved :=
  l.saved.find? (fun v => v.record == x.record && (x.record.isSome || v.index == x.index))

/-- The first uniform registers, PC, mask, identity and path of a task's warps (R357, R373, R374; DEDUCED, log 78). -/
def taskStartOf (l : Launch) (task : Nat) (x : TaskPlan) : Start :=
  match x.record with
  | none =>
    { task := task, warpid := 0, core := x.core, quadrant := 0, place := 0, pc := wpair l.desc 0, mask := BitVec.allOnes 32,
      taskid := BitVec.ofNat 32 x.index, spawnix := 0, uregs := startUregs l, vregs := [], path := l.path, clock := l.clock }
  | some r =>
    { task := task, warpid := 0, core := x.core, quadrant := 0, place := 0,
      pc := (ofLinear ((linear (wpair l.desc 0) : Int) + r.entryOff)).getD (BitVec.allOnes 64), mask := r.mask,
      taskid := r.taskid, spawnix := r.spawnix, uregs := (match r.s0 with | none => r.uregs | some b => cellSet r.uregs 0 b),
      vregs := r.vregs, path := r.path, clock := clockJoin l.clock r.clock }

/-- A reloaded warp: its registers as saved, its wave atomics counted, one fragment of the lanes it had, at RELOADPC (R240, R387). -/
def reloadWarp (l : Launch) (x : Start) (id slot wave : Nat) (clk : Clock) (s : State) : List Upd :=
  match s.part? l.part with
  | none => []
  | some p =>
    let place := freePlace s x.core x.quadrant
    let w0 := startWarp s l 0 id { x with place := place, clock := clk }
    let regs := restoredRegs s p w0 (poolSlot p slot)
    let mask := regs.frags.foldl (fun m f => m ||| f.mask) 0
    let f := startFrag id s.dev.wall.toNat s.model.cycle { x with pc := wpair l.desc 34, mask := mask, clock := clk }
    inOrder [fun _ => [.warp { w0 with
        regs := { regs with frags := [f], splits := [] }
        wave := wave
        waveDone := wave
        clock := rdPair (slotReader s p (poolSlot p slot)) 0x18
        timer := rdPair (slotReader s p (poolSlot p slot)) 0x20 }],
      checkEntry id (wpair l.desc 34)] s

/-- Start one task of a launch: fresh, or from its saved contexts. -/
def startOne (l : Launch) (x : TaskPlan) (s : State) : List Upd :=
  let id := s.model.nextId
  let b := taskStartOf l id x
  let t0 := { startTask l id x.index b.spawnix x.record.isSome x.quadrants.length x.core b.path with record := x.record, phaseAt := s.dev.wall.toNat }
  match savedOf l x with
  | none =>
    inOrder ([fun _ => [.task t0], useIds 1]
      ++ x.quadrants.zipIdx.map (fun q => addWarp l 0 { b with quadrant := q.1, warpid := q.2 })) s
  | some v =>
    let t := { t0 with phase := 2, barrier := v.barrier, cbars := v.cbars
                       exited := (List.range x.quadrants.length).filter (fun k => ((v.slots[k]?).bind (fun y => y)).isNone) }
    inOrder ([fun _ => [.task t], useIds 1]
      ++ x.quadrants.zipIdx.map (fun q => match (v.slots[q.2]?).bind (fun y => y), v.ids[q.2]? with
        | some k, some wid => reloadWarp l { b with quadrant := q.1, warpid := q.2 } wid k (v.waves.getD q.2 0) v.clock
        | _, _ => fun _ => [])) s

/-! ### Components (R362, R365, R366) -/

/-- Start every task of a component on its core, if all of them find room at once; heed: and heat and shares admit them. -/
def startAll (heed : Bool) (s : State) (p : Part) (l : Launch) (n : Nat) (xs : List (Nat × Nat)) : Option (List Upd) :=
  match xs with
  | [] => some []
  | x :: rest =>
    if heed && !(heatAdmits s x.2 (wfield l.desc 3 8 3) n && shareAdmits s l x.2) then none else
    match taskRoom s p l.desc x.2 n with
    | none => none
    | some qs =>
      let us := startOne l { index := x.1, record := none, core := x.2, quadrants := qs } s
      (startAll heed (s.run us) p l n rest).map (fun vs => us ++ vs)

/-- What looking for a component finds: its placement; the cores it passed that are not free for a later component of the launch; the
components, by their lowest tasks, that wait for room alone (R366). -/
structure Scan where
  found : Option (List (Nat × Nat))
  waits : List Nat

/-- Look through the components from task g on, n of them left: each has its turn when every task before it on its cores has started;
one that the eligible cores cannot hold waits for others (R363, R384). -/
def scanComps (n : Nat) (s : State) (p : Part) (l : Launch) (dr : Draw) (closed : List Nat) (g : Nat) (cap : List (Nat × Nat)) (blocked waits : List Nat) :
    Scan :=
  match n with
  | 0 => ⟨none, waits⟩
  | k + 1 =>
    if dr.cores.all (fun c => blocked.contains c) then ⟨none, waits⟩ else
    let comp := compOf dr.groups g
    if comp.low ≠ g || comp.tasks.any (fun t => dr.past.contains t) then scanComps k s p l dr closed (g + 1) cap blocked waits else
    let a := assignComp dr.cores dr.k (probeStart dr.seed (BitVec.ofNat 32 g) 0 0 dr.cores.length) comp cap
    if comp.tasks.all (fun t => l.started.contains t) then scanComps k s p l dr closed (g + 1) a.2 blocked waits else
    if a.1.length < comp.tasks.length then scanComps k s p l dr closed (g + 1) a.2 blocked waits else
    let xs := comp.tasks.zip a.1
    let cores := nub a.1
    let turn := !cores.any (fun c => blocked.contains c) && !comp.tasks.any (fun t => l.started.contains t)
    if turn && (startAll false s p l (launchWpt l.desc) xs).isNone then scanComps k s p l dr closed (g + 1) a.2 (blocked ++ cores) (waits ++ [g])
    else if turn && !cores.any (fun c => closed.contains c) && (startAll true s p l (launchWpt l.desc) xs).isSome then ⟨some xs, waits⟩
    else scanComps k s p l dr closed (g + 1) a.2 (blocked ++ cores) waits

/-- The next component of a launch, off the cores closed to it by a hold. -/
def nextComp (s : State) (p : Part) (l : Launch) (closed : List Nat) : Scan :=
  let dr := drawOf p l
  scanComps (launchTasks l.desc) s p l dr closed 0 (dr.cores.map (fun c => (c, 0))) [] []

/-- The core of a launch's next spawned task: the first with room in probe order (R373). -/
def spawnCore (s : State) (p : Part) (l : Launch) (r : SpawnRec) (closed : List Nat) : Option (Nat × List Nat) :=
  let cores := eligibleCores p l.desc l.uid
  (probeOrder cores (probeStart (launchSeedOf l.desc) r.taskid r.spawnix 0xFFFFFFFF cores.length)).findSome? (fun c =>
    if closed.contains c || !heatAdmits s c (wfield l.desc 3 8 3) r.warps || !shareAdmits s l c then none
    else (taskRoom s p l.desc c r.warps).map (fun qs => (c, qs)))

/-- What the scheduler would start next for a launch: a spawned task, ahead of the launch's own, or a component (R373). -/
inductive Starts where
  | spawned (r : SpawnRec) (core : Nat) (quadrants : List Nat)
  | comp (xs : List (Nat × Nat))

/-- The next start of a launch, off closed cores. -/
def nextStart (s : State) (p : Part) (l : Launch) (closed : List Nat) : Option Starts :=
  match waitingSpawns s l with
  | r :: _ => (spawnCore s p l r closed).map (fun x => .spawned r x.1 x.2)
  | [] => if l.started.length < launchTasks l.desc then (nextComp s p l closed).found.map .comp else none

/-- The cores of a launch's assignment that go to some components, named by their lowest tasks (R365). -/
def coresOfComps (n : Nat) (dr : Draw) (lows : List Nat) (g : Nat) (cap : List (Nat × Nat)) : List Nat :=
  match n with
  | 0 => []
  | k + 1 =>
    let comp := compOf dr.groups g
    if comp.low ≠ g || comp.tasks.any (fun t => dr.past.contains t) then coresOfComps k dr lows (g + 1) cap else
    let a := assignComp dr.cores dr.k (probeStart dr.seed (BitVec.ofNat 32 g) 0 0 dr.cores.length) comp cap
    (if lows.contains g then nub a.1 else []) ++ coresOfComps k dr lows (g + 1) a.2

/-- Components that the first launch in order has found to wait for room (R366; DEDUCED, log 47). -/
def waitsNow (s : State) (p : Part) (l : Launch) : List Nat :=
  if (waitingSpawns s l).isEmpty && decide (l.started.length < launchTasks l.desc) then (nextComp s p l []).waits else []

/-- The cores that a launch holds for components: those that have waited since it was first in order, and, of the first, those that wait now
(R366; DEDUCED, log 47). -/
def heldCores (s : State) (p : Part) (first : Bool) (l : Launch) : List Nat :=
  let lows := l.waiting ++ (if first then waitsNow s p l else [])
  if lows.isEmpty then [] else
  let dr := drawOf p l
  coresOfComps (launchTasks l.desc) dr lows 0 (dr.cores.map (fun c => (c, 0)))

/-- What each launch in order holds. -/
def holdsOf (s : State) (p : Part) (ls : List Launch) : List (Launch × List Nat) :=
  ls.zipIdx.map (fun x => (x.1, heldCores s p (x.2 == 0) x.1))

/-- The cores closed to a launch: those held by others of equal or higher effective priority (R366). -/
def closedTo (s : State) (holds : List (Launch × List Nat)) (l : Launch) : List Nat :=
  holds.flatMap (fun x => if x.1.uid != l.uid && decide (launchRank s l ≤ launchRank s x.1) then x.2 else [])

/-- The first launch in order that can start something (R358; DEDUCED, log 47). -/
def firstStart (s : State) (p : Part) (holds : List (Launch × List Nat)) (ls : List Launch) : Option (Launch × Starts) :=
  match ls with
  | [] => none
  | l :: rest =>
    match nextStart s p l (closedTo s holds l) with
    | some x => some (l, x)
    | none => firstStart s p holds rest

/-- What the scheduler of a partition starts next (DEDUCED, log 47). -/
def schedulerPick (s : State) (part : Nat) : Option (Launch × Starts) :=
  match s.part? part with
  | none => none
  | some p =>
    if !partWorks s part then none else
    let ls := startOrder s part
    firstStart s p (holdsOf s p ls) ls

/-- The components of the first launch in order that wait for room now hold their cores until they start (R366). -/
def settleWaiting (s : State) : List Upd :=
  s.parts.flatMap (fun p =>
    if !partWorks s p.num then [] else
    match startOrder s p.num with
    | [] => []
    | l :: _ =>
      let xs := (waitsNow s p l).filter (fun g => !l.waiting.contains g)
      if xs.isEmpty then [] else [.launch { l with waiting := l.waiting ++ xs }])

/-! ### The placement record (R367) -/

/-- The words of a placement record. -/
def placementWords (p : Part) (l : Launch) : List Word :=
  let cores := eligibleCores p l.desc l.uid
  let mask := cores.foldl (fun m c => m + 2 ^ c) 0
  [wordAt l.desc 8, wordAt l.desc 9, 0, 0] ++ (wordsOfVal 8 mask)

/-- Why a write of the record fails now: its translation is gone, a seal, a lock (R367; DEDUCED, log 49). -/
def placementFault (s : State) (l : Launch) (a : Nat) : Option TrapReq :=
  let off := wpair l.desc 30
  match translate s { part := l.part, user := l.who.level == 0, path := l.path, own := [] } { write := true, local_ := true } l.realm off 48 with
  | .error t => some t
  | .ok (.peer ..) => some (raiseIn .xlateMiss l.realm off)
  | .ok (.ether ..) => some (raiseIn .xlateMiss l.realm off)
  | .ok (.mem b _) =>
    if b ≠ a then some (raiseIn .xlateMiss l.realm off) else
    match sealedAt s a with
    | some ed => some { raiseIn .sealedWrite l.realm off with d17 := ed }
    | none => if meetsLock s l.part a (a + 48) false || meetsDeclared s a (a + 48) then some (raiseIn .rangeLock l.realm off) else none

/-- The writer of a launch's record. -/
def placementWriter (l : Launch) : Writer := ⟨l.part, l.path, l.det, l.tree, none⟩

/-- A write of the record waits behind a chunk with commit priority (R235). -/
def placementHeld (s : State) (l : Launch) (off n : Nat) : Bool :=
  l.prec.any (fun a => heldByPriority s (placementWriter l) (wordsOf (memPlace (a + off)) (4 * n)))

/-- Write words of the record; a write that fails is not made, and its cause is raised in the issuing warp (DEDUCED, log 49). -/
def putPlacement (l : Launch) (off : Nat) (ws : List Word) (s : State) : List Upd :=
  match l.prec with
  | none => []
  | some a =>
    match placementFault s l a with
    | some t => raiseLater l.issuer l.who l.issuerPc t s
    | none => applyCells (placementWriter l)
        ((placesFrom (memPlace (a + off)) (4 * ws.length)).zip (ws.flatMap (fun x => valBytes 4 x.toNat))) [] s

/-- Write words of the record, or owe them while a chunk with commit priority holds them or words before them (R235, R367; DEDUCED, log 49). -/
def writePlacement (l : Launch) (off : Nat) (ws : List Word) (s : State) : List Upd :=
  if !l.precOwed.isEmpty || placementHeld s l off ws.length then onLaunch l.part l.num (fun k => { k with precOwed := k.precOwed ++ [(off, ws)] }) s
  else putPlacement l off ws s

/-- What a launch owes its record is written, the oldest first, once no chunk with commit priority holds it (R235). -/
def settlePlacement (l : Launch) (s : State) : List Upd :=
  match l.precOwed with
  | (off, ws) :: rest =>
    if placementHeld s l off ws.length || !partWorks s l.part then [] else
    andThen (onLaunch l.part l.num (fun k => { k with precOwed := rest })) (putPlacement l off ws) s
  | [] => []

/-- The same of every launch. -/
def settlePlacements (s : State) : List Upd := forEach (s.launches.filter (fun l => !l.precOwed.isEmpty)) settlePlacement s

/-! ### Starts -/

/-- Start what the scheduler picked. -/
def runStart (p : Part) (l : Launch) (x : Starts) (s : State) : List Upd :=
  match x with
  | .spawned r core qs =>
    inOrder [onPart l.part (fun q => { q with spawnArea := q.spawnArea.erase r }),
      startOne l { index := r.taskid.toNat, record := some r, core := core, quadrants := qs }] s
  | .comp xs =>
    let l1 := { l with started := l.started ++ xs.map (·.1), precStarted := true, waiting := l.waiting.filter (fun g => !xs.any (fun x => x.1 == g)) }
    inOrder [fun _ => [.launch l1], (if l.precStarted then fun _ => [] else writePlacement l 0 (placementWords p l)),
      fun s => (startAll false s p l1 (launchWpt l.desc) xs).getD []] s

/-- TASK_START: the next component of a launch starts, where the launch is the one whose turn it is (R358, R362, R365, R366). -/
def execTaskStart (launch : Nat) (s : State) : Host.Outcome State Fault Refusal :=
  .next (s.run (match launchOfUid s launch with
    | none => []
    | some l =>
      match s.part? l.part, schedulerPick s l.part with
      | some p, some (k, .comp xs) => if k.uid = launch then runStart p k (.comp xs) s else []
      | _, _ => []))

/-- SPAWN_RECORD_MOVE: the oldest record of a core's queue moves to its partition's spawn area, while that has room (R371). -/
def execSpawnRecordMove (core : Nat) (s : State) : Host.Outcome State Fault Refusal :=
  .next (s.run (match spawnQueue s core, s.parts.find? (fun p => p.state != .absent && ownsCluster p (core / 4)) with
    | r :: rest, some p =>
      if !partWorks s p.num || decide (1024 * (p.spawncap.toNat % 65536) ≤ p.spawnArea.length) then [] else
      .queues { s.queues with spawns := s.queues.spawns.map (fun x => if x.1 = core then (x.1, rest) else x) }
        :: onPart p.num (fun q => { q with spawnArea := q.spawnArea ++ [r] }) s
    | _, _ => []))

/-- SPAWNED_TASK_START: the next spawned task starts on the first core with room (R373, R374). -/
def execSpawnedTaskStart (part : Nat) (s : State) : Host.Outcome State Fault Refusal :=
  .next (s.run (match s.part? part, schedulerPick s part with
    | some p, some (l, .spawned r core qs) => runStart p l (.spawned r core qs) s
    | _, _ => []))

/-! ### Completion (R383) -/

/-- A spawn record of a launch is on its way: in a chunk, a queue or the spawn area. -/
def spawnsOpen (s : State) (l : Launch) : Bool :=
  !(waitingSpawns s l).isEmpty
    || s.warps.any (fun w => w.part == l.part && !w.hnd && w.launch == l.num && !w.chunk.spawns.isEmpty)
    || s.queues.spawns.any (fun q => (s.parts.any (fun p => p.num == l.part && ownsCluster p (q.1 / 4))) && q.2.any (fun r => r.launch == l.num))

/-- Work of a launch that is outstanding: commits, commands, stores to peers, messages, increments that wait. -/
def workOpen (s : State) (l : Launch) : Bool :=
  s.order.commits.any (fun c => c.part == l.part && c.launch == l.uid)
    || s.eng.jobs.any (fun j => j.part == l.part && !j.who.hnd && j.launch == l.num)
    || s.net.peerPending.any (fun p => p.launch == l.uid)
    || s.net.rings.any (fun r => r.sends.any (fun x => x.2.2 == l.uid))
    || s.order.counts.any (fun c => c.launch == l.uid)

/-- A launch's tasks have all exited. -/
def tasksDone (s : State) (l : Launch) : Bool :=
  l.phase == .ready && decide (launchTasks l.desc ≤ l.started.length) && l.saved.isEmpty
    && !s.tasks.any (fun t => t.handler.isNone && t.part == l.part && t.launch == l.num) && !spawnsOpen s l

/-- A launch is complete; the control program's when its task has ended (R358, R383). -/
def launchDone (s : State) (l : Launch) : Bool := tasksDone s l && (l.control || !workOpen s l) && l.precOwed.isEmpty && !pruned s l.part l.path

/-- Accesses of a tree that has no launch left are kept no longer. -/
def forgetTree (l : Launch) (s : State) : List Upd :=
  if l.tree = 0 || s.launches.any (fun k => k.uid != l.uid && k.tree == l.tree) then []
  else onOrder (fun o => { o with accesses := o.accesses.filter (fun a => a.tree != l.tree)
                                  queueOwners := o.queueOwners.filter (fun q => q.1 != l.tree) }) s

/-- LAUNCH_COMPLETE: the completion counter advances and the record is free (R358, R383). -/
def execLaunchComplete (launch : Nat) (s : State) : Host.Outcome State Fault Refusal :=
  .next (s.run (match launchOfUid s launch with
    | none => []
    | some l =>
      if !launchDone s l || !partWorks s l.part || advanceHeld s l.part l.counter then [] else
      inOrder [advance l.part l.path l.counter 1 (clockJoin l.clock l.endClock), forgetTree l, fun _ => [.dropLaunch l.part l.num]] s))

/-! ### Pre-emption (R384 to R389) -/

/-- HELD, COUNT and BUSY of VACATE. -/
def vacateHeld (p : Part) : Nat := wfield [p.vacate] 0 16 9
def vacateCount (p : Part) : Nat := wfield [p.vacate] 0 0 9
def vacateBusy (p : Part) : Bool := p.vacate.getLsbD 31

/-- VACATE with its read-only fields. -/
def vacateSet (busy short : Bool) (held : Nat) (p : Part) : Part :=
  { p with vacate := BitVec.ofNat 32 ((if busy then 2 ^ 31 else 0) + (if short then 2 ^ 30 else 0) + held * 2 ^ 16 + vacateCount p) }

/-- Cores vacated now. -/
def vacatedCores (p : Part) : List Nat := nub (p.vacated.map (·.1))

/-- The resident tasks of a launch. -/
def launchResident (s : State) (l : Launch) : List Task :=
  s.tasks.filter (fun t => t.handler.isNone && t.part == l.part && t.launch == l.num)

/-- The resident tasks that pre-empting a task takes with it: its component, or itself where it is spawned (R385). -/
def preemptSet (s : State) (l : Launch) (t : Task) : List Task :=
  if t.spawned then [t] else
  (launchResident s l).filter (fun k => !k.spawned && (compOf l.groups t.index.toNat).tasks.contains k.index.toNat)

/-- The launches that have a task on a core, control programs apart (R385; DEDUCED, log 46). -/
def launchesOn (s : State) (part core : Nat) : List Launch :=
  s.launches.filter (fun l => l.part == part && !l.control && (launchResident s l).any (fun t => t.core == core))

/-- The tasks of a launch that are pre-empted when a core is vacated. -/
def victimsOf (s : State) (l : Launch) (core : Nat) : List Task :=
  nub (((launchResident s l).filter (fun t => t.core == core)).flatMap (preemptSet s l))

/-- The tasks pre-empted when a core is vacated: every component that has a task on it, whole (R385). -/
def victimsOn (s : State) (part core : Nat) : List Task := (launchesOn s part core).flatMap (fun l => victimsOf s l core)

/-- Pool slots that pre-empting tasks needs: one for each warp of a stateful task (R388). -/
def slotsNeeded (s : State) (l : Launch) (ts : List Task) : Nat :=
  if launchStateful l.desc then (ts.flatMap (fun t => taskWarps s t.id)).length else 0

/-- Pool slots that vacating a core needs. -/
def coreSlots (s : State) (part core : Nat) : Nat :=
  ((launchesOn s part core).map (fun l => slotsNeeded s l (victimsOf s l core))).foldl (· + ·) 0

/-- The pool has the slots. -/
def poolHas (p : Part) (n : Nat) : Bool := decide (n ≤ poolSize p - p.pool.length)

/-- A core may be vacated for a launch on it: none of the tasks is between its save handler and its RESUME. -/
def mayVacate (s : State) (l : Launch) (core : Nat) : Bool := !l.control && (victimsOn s l.part core).all (fun t => t.phase == 0)

/-- Candidates in the order of R385: the lowest launches first, the youngest of them first, their highest cores first. -/
def vacateOrder (s : State) (p : Part) : List (Launch × Nat) :=
  let ls := (s.launches.filter (fun l => l.part == p.num && l.phase == .ready)).foldl (fun acc l => insertLaunch s l acc) []
  ls.reverse.flatMap (fun l =>
    ((sortBy (fun c => 255 - c) (nub ((launchResident s l).map (·.core)))).filter (fun c => !(vacatedCores p).contains c)).map (fun c => (l, c)))

/-- Pool slots in a row for the warps of a task that are resident, by WARPID. -/
def slotsFor (n : Nat) (live : List Nat) (free : List Nat) : List (Option Nat) × List Nat :=
  match n with
  | 0 => ([], free)
  | k + 1 =>
    let r := slotsFor k live free
    if live.contains k then (r.1 ++ [r.2.head?], r.2.drop 1) else (r.1 ++ [none], r.2)

/-- Free slots of the pool. -/
def poolFree (p : Part) : List Nat := (List.range (poolSize p)).filter (fun k => !p.pool.contains k)

/-- The contexts that a stateful task is to be saved to. -/
def savedFor (s : State) (t : Task) (free : List Nat) : Saved :=
  let ws := taskWarps s t.id
  { index := t.index.toNat, record := t.record
    ids := (List.range t.warps).map (fun k => ((ws.find? (fun w => w.warpid == k)).map (·.id)).getD 0)
    slots := (slotsFor t.warps (ws.map (·.warpid)) free).1
    waves := []
    clock := [], barrier := t.barrier, cbars := t.cbars }

/-- Wave atomics of a task's warps, by WARPID (R240). -/
def savedWaves (s : State) (t : Task) : List Nat :=
  (List.range t.warps).map (fun k => ((taskWarps s t.id).find? (fun v => v.warpid == k)).elim 0 (·.waveDone))

/-- Mark one task to be pre-empted; a stateful one takes its pool slots. -/
def markPreempted (l : Launch) (t : Task) (s : State) : List Upd :=
  match s.part? l.part with
  | none => []
  | some p =>
    let x := savedFor s t (poolFree p)
    inOrder [onTask t.id (fun k => { k with phase := 3, phaseAt := s.dev.wall.toNat }),
      (if launchStateful l.desc then andThen (onPart l.part (fun q => { q with pool := q.pool ++ x.slots.filterMap (fun y => y) }))
          (onLaunch l.part l.num (fun k => { k with saved := k.saved ++ [x] }))
       else fun _ => [])] s

/-- A redraw: components with no started task are assigned anew; the placement record counts it (R367, R385). gone: tasks that are to
be unstarted. -/
def redraw (uid : Nat) (gone : List Nat) (s : State) : List Upd :=
  match launchOfUid s uid with
  | none => []
  | some l =>
    let n := min 0xFFFFFFFF (l.redraws + 1)
    .launch { l with drawn := l.started.filter (fun i => !gone.contains i), redraws := n }
      :: (if l.precStarted then writePlacement l 8 [BitVec.ofNat 32 n] s else [])

/-- Idempotent components return to their initial barrier generation (R386). -/
def resetBarriers (l : Launch) (ts : List Task) (s : State) : List Upd :=
  if launchStateful l.desc then [] else
  onLaunch l.part l.num (fun k => { k with barriers := k.barriers.filter (fun b =>
    !((b.group.bind (fun g => k.groups[g]?)).any (fun grp => ts.any (fun t => !t.spawned && grp.has t.index.toNat)))) }) s

/-- A launch with tasks on a vacated core: the core is closed to it, its components there are pre-empted, the others drawn anew (R384, R385). -/
def giveUpCore (core : Nat) (ts : List Task) (l : Launch) : State → List Upd :=
  inOrder [onPart l.part (fun p => { p with vacated := p.vacated ++ [(core, l.uid)] }),
    forEach ts (markPreempted l), redraw l.uid ((ts.filter (fun t => !t.spawned)).map (fun t => t.index.toNat))]

/-- A core is vacated. -/
def vacateCore (part core : Nat) (s : State) : List Upd :=
  forEach ((launchesOn s part core).map (fun l => (l, victimsOf s l core))) (fun x => giveUpCore core x.2 x.1) s

/-- Tasks of a partition that are being pre-empted still stand in it. -/
def preempting (s : State) (part : Nat) : Bool :=
  s.tasks.any (fun t => t.part == part && t.handler.isNone && (t.phase == 1 || t.phase == 3 || t.phase == 4))

/-- VACATE: the next core is vacated; once every core chosen is free, HELD counts it; at COUNT, or where no candidate is left, the
operation ends (R384, R385, R388; DEDUCED, log 46). -/
def execVacate (part : Nat) (s : State) : Host.Outcome State Fault Refusal :=
  .next (s.run (match s.part? part with
    | none => []
    | some p =>
      if !vacateBusy p || !partWorks s part || preempting s part || decide (vacateCount p < vacateHeld p) then [] else
      let held := (vacatedCores p).length
      if vacateCount p ≤ held then onPart part (vacateSet false false held) s else
      let cs := (vacateOrder s p).filter (fun x => mayVacate s x.1 x.2)
      match cs.find? (fun x => poolHas p (coreSlots s part x.2)) with
      | none => onPart part (vacateSet false (!cs.isEmpty) held) s
      | some x => andThen (onPart part (vacateSet true false held)) (vacateCore part x.2) s))

/-- REOPEN: the highest-numbered vacated cores are open again (R384, R385; DEDUCED, log 46). -/
def execReopen (part : Nat) (s : State) : Host.Outcome State Fault Refusal :=
  .next (s.run (match s.part? part with
    | none => []
    | some p =>
      if !partWorks s part || decide (vacateHeld p ≤ vacateCount p) then [] else
      let keep := (sortBy (fun c => c) (vacatedCores p)).take (vacateCount p)
      let opened := nub ((p.vacated.filter (fun x => !keep.contains x.1)).map (·.2))
      inOrder [onPart part (fun q => vacateSet false false keep.length { q with vacated := q.vacated.filter (fun x => keep.contains x.1) }),
        forEach opened (fun uid => redraw uid [])] s))

/-- A warp as it stands at its last chunk end, with results that have returned in its registers; what they raise waits for its next
drain point, flags that trap among it (R96). -/
def Warp.atRest (w : Warp) : Warp :=
  let v := w.rewind
  let traps (x : Flags × DWord) : Bool := trappingFlags v.regs.fpctl x.1 != 0
  ({ v with
    pending := v.pending ++ v.regs.tags.filterMap (fun e => e.raises) ++ ((v.dueFlags false).filter traps).map (standingTrap v)
    drainFlags := v.drainFlags.filter (fun x => !traps x)
    passFlags := v.passFlags.filter (fun x => !traps x) } : Warp).drain

/-- Every result that a warp's committed chunks wait for has returned. -/
def restReady (s : State) (w : Warp) : Bool :=
  w.rewind.regs.tags.all (·.returned) && !s.order.commits.any (fun c => c.warp == w.id)

/-- A pass or quarter copy of a warp's committed chunks is still to complete; in a partition that halts, only what has been granted does (R210,
R473). -/
def passesDue (s : State) (w : Warp) : Bool :=
  if partWorks s w.part then passesOpen s w.id else s.mat.entries.any (fun e => e.warp == w.id && e.committed && e.granted)

/-- A context save may drain: results have returned, passes and copies of committed chunks are complete (R66, R210). -/
def saveReady (s : State) (w : Warp) : Bool := restReady s w && !passesDue s w

/-- Runner copies of a task are aborted and its ungranted entries freed (R386). -/
def abortCopies (t : Task) (s : State) : List Upd :=
  let jobs := (s.eng.jobs.filter (fun j => j.task == t.id && (j.kind == .window || j.kind == .rcopy))).map (·.id)
  let held := jobs ++ (s.mat.entries.filter (fun e => e.task == t.id && !e.granted)).map (fun e => matrixHolder + e.id)
  inOrder [fun s => [.eng { s.eng with jobs := s.eng.jobs.filter (fun j => !jobs.contains j.id) }],
    onMat (fun m => { m with entries := m.entries.filter (fun e => !(e.task == t.id && !e.granted)) }),
    onOrder (fun o => { o with locks := o.locks.filter (fun l => !held.contains l.holder) }),
    onTask t.id (fun k => { k with windows := [] })] s

/-- A stateful warp runs its save handler: its context is in its pool slot, its registers stay (R387). -/
def beginSave (l : Launch) (slots : List (Option Nat)) (p : Part) (w : Warp) (s : State) : List Upd :=
  match (slots[w.warpid]?).bind (fun y => y) with
  | none => []
  | some k =>
    let mask := w.regs.frags.foldl (fun m f => m ||| f.mask) 0
    let f := { startFrag w.id s.dev.wall.toNat s.model.cycle
                { task := w.task, warpid := w.warpid, core := w.core, quadrant := w.quadrant, place := w.place, pc := wpair l.desc 32, mask := mask,
                  taskid := w.taskid, spawnix := w.spawnix, uregs := [], vregs := [], path := w.path, clock := warpClock w } with id := w.nextFrag }
    inOrder [saveSlot w.id (poolSlot p k) 3 none,
      onWarp w.id (fun v => { v with regs := { v.regs with frags := [f], splits := [] }, nextFrag := v.nextFrag + 1, holds := [], clean := none }),
      checkEntry w.id (wpair l.desc 32)] s

/-- PREEMPT_WARP_STOP: the warps of a pre-empted task stop together once what they committed has returned: an idempotent task's chunks and
copies are discarded and it restarts; a stateful one's warps are saved and run at SAVEPC (R386, R387; DEDUCED, log 46). -/
def execPreemptWarpStop (warp : Nat) (s : State) : Host.Outcome State Fault Refusal :=
  .next (s.run (match s.warp? warp with
    | none => []
    | some w =>
      match s.task? w.task, s.launchOf w, s.part? w.part with
      | some t, some l, some p =>
        let ws := taskWarps s t.id
        if t.phase ≠ 3 || !partWorks s p.num || pruned s t.part t.path || ws.any (fun v => v.mode != .run || !restReady s v) then [] else
        if launchStateful l.desc && ws.any (fun v => passesDue s v) then [] else
        if !launchStateful l.desc then
          inOrder ((ws.map (fun v => removeWarp v.id)) ++ [abortCopies t, resetBarriers l [t], onTask t.id (fun k => { k with phase := 4 })]) s
        else
          let mine (x : Saved) : Bool := x.record == t.record && x.index == t.index.toNat
          let slots := ((l.saved.find? mine).map (·.slots)).getD []
          inOrder (ws.map (fun v => dropChunk v.id)
            ++ [fun s => ((taskWarps s t.id).map (fun v => .warp v.atRest)),
              fun s => onLaunch l.part l.num (fun k => { k with saved := k.saved.map (fun x => if mine x then
                { x with clock := (taskWarps s t.id).foldl (fun c v => clockJoin c (warpClock v)) [], barrier := t.barrier, cbars := t.cbars, waves := savedWaves s t }
                else x) }) s]
            ++ ws.map (fun v s => match s.warp? v.id with | none => [] | some u => beginSave l slots p u s)
            ++ [onTask t.id (fun k => { k with phase := 1, phaseAt := s.dev.wall.toNat })]) s
      | _, _, _ => []))

end Sys2Proof.Machine
end

