-- ==== Sys2Proof/Machine/TrapEv.lean ====
section
/-! DEFINITION. Pruned and retiring shoots (R375, R378), trap records and handler tasks (R469 to R472), timers and watchdogs (R391, R392, R485), the
partition halt (R473 to R477, R483), incremental copies (R480), soft errors and machine checks (R473, R488, R489). -/

namespace Sys2Proof.Machine

/-! ### Shoots (R375, R378) -/

/-- PRUNE_WARP_STOP: a running warp of a pruned shoot stops, and its open chunk is discarded (R378). -/
def execPruneWarpStop (warp : Nat) (s : State) : Host.Outcome State Fault Refusal :=
  .next (s.run (match s.warp? warp with
    | none => []
    | some w => if pruned s w.part w.path && !w.hnd then removeWarp warp s else []))

/-- Something still names a path: a warp, a launch, a command, a pass, a queued record, a commit, a shoot below it. -/
def pathInUse (s : State) (part : Nat) (path : Path) : Bool :=
  s.warps.any (fun w => w.part == part && w.path == path)
    || s.launches.any (fun l => l.part == part && l.path == path)
    || s.tasks.any (fun t => t.part == part && t.path == path && t.handler.isNone)
    || s.eng.jobs.any (fun j => j.part == part && j.path == path)
    || s.mat.entries.any (fun e => e.part == part && e.path == path)
    || s.order.commits.any (fun c => c.part == part && c.who.path == path)
    || s.queues.spawns.any (fun q => s.parts.any (fun p => p.num == part && ownsCluster p (q.1 / 4)) && q.2.any (fun r => r.path == path))
    || (s.part? part).any (fun p => p.spawnArea.any (fun r => r.path == path)
        || p.shoots.any (fun x => x.path != path && pathPrefix path x.path))

/-- SHOOT_RETIRE_COMPLETE: every version and remap entry that names a retiring path is relabelled or freed, and the path is free (R375)
(DEDUCED, log 56). -/
def execShootRetireComplete (part : Nat) (path : Path) (s : State) : Host.Outcome State Fault Refusal :=
  .next (s.run (
    if !(shootOf s part path).any (fun x => !x.live) || pathInUse s part path then [] else
    onPart part (fun p => { p with shoots := p.shoots.filter (fun x => x.path != path) }) s
      ++ onOrder (fun o => { o with
        versions := o.versions.filter (fun v => !(v.part == part && v.station.isNone && v.tag == path))
        remaps := o.remaps.filter (fun r => !(r.part == part && r.station.isNone && r.path == path)) }) s))

/-! ### Trap records (R469, R475, R477) -/

/-- A record slot that may be used again: released, with no handler that runs (R469). -/
def RecSlot.free (r : RecSlot) : Bool := r.released && r.handler != 1

/-- The lowest free record slot of a partition. -/
def freeTrapSlot (p : Part) : Option Nat := lowestFree 256 ((p.records.filter (fun r => !r.free)).map (·.idx))

/-- The offset of record idx in the trap area. -/
def recordOff (idx : Nat) : Nat := 128 * idx

/-- A partition's record goes to its halt record, or is counted there where one is held (R477). -/
def haltRecord (ws : List Word) (p : Part) : Part :=
  if p.haltTaken then { p with haltRec := p.haltRec.set 24 (BitVec.ofNat 32 (min 0xFFFFFFFF ((wordAt p.haltRec 24).toNat + 1))) }
  else { p with haltRec := ws, haltTaken := true }

/-- Words of a record as pairs without poison. -/
def plainWords (ws : List Word) : List (Word × Bool) := ws.map (fun x => (x, false))

/-- Write a record at a slot, with its SLOT words. -/
def putRecord (p : Part) (idx : Nat) (ws : List Word) (slot : Option Nat) (r : RecSlot) (s : State) : List Upd :=
  let off : DWord := match slot with
    | none => 0
    | some k => p.ctxOff + BitVec.ofNat 64 k
  inOrder [areaWrite p.num p.trapArea (recordOff idx) (plainWords ((ws.set 22 (lowWord off)).set 23 (highWord off))),
    onPart p.num (fun q => { q with records := q.records.filter (fun x => x.idx != idx) ++ [r] })] s

/-- The words of a PART_HALT notice: CAUSE, CLASS 2, the trap area's offset, the halted partition, WALL (R468, R475). -/
def noticeWords (s : State) (n : Notice) : List Word :=
  [BitVec.ofNat 32 (Cause.code .partHalt * 2 ^ 26 + 2 * 2 ^ 24)] ++ List.replicate 13 0
    ++ [lowWord n.addr, highWord n.addr, 0, BitVec.ofNat 32 n.part, 0, 0, lowWord s.dev.wall, highWord s.dev.wall, 0, 0] ++ List.replicate 8 0

/-- Write the record of a trapped warp: its context in the slot of its place, its record, and it is parked on it (R469, R472). -/
def writeWarpRecord (p : Part) (idx : Nat) (w : Warp) (ws : List Word) (s : State) : List Upd :=
  let slot := placeSlot p w.core w.place
  let miss := if wfield ws 0 26 6 = Cause.code .xlateMiss then some (wfield ws 16 16 16, wpair ws 14, w.path) else none
  let r : RecSlot := { idx := idx, warp := w.id, released := false, handler := 0, slot := BitVec.ofNat 64 slot, hnd := w.hnd, level := w.level,
                       miss := miss, task := w.task }
  inOrder [fun _ => [.warp { w.atRest with mode := .parked idx }], saveSlot w.id slot 1 (some (wpair ws 2)), putRecord p idx ws (some slot) r] s

/-- A record that names no resident warp, of a task. -/
def bareSlot (idx task : Nat) : RecSlot :=
  { idx := idx, warp := 0, released := false, handler := 0, slot := 0, hnd := false, level := 0, miss := none, task := task }

/-- Write the next record of a partition: a trapped warp's, one that names no warp, or a notice that was held; while CTXCTL.VALID is 0 a
record goes to the halt record and the warp's state stays in its core (R469, R475 to R477; DEDUCED, log 44; DEDUCED, log 45). -/
def nextRecord (p : Part) (s : State) : List Upd :=
  let valid := ctxValid s p.num
  match p.trapQueue with
  | [] =>
    match p.notices, freeTrapSlot p with
    | n :: rest, some idx => if valid then
        andThen (onPart p.num (fun q => { q with notices := rest })) (putRecord p idx (noticeWords s n) none (bareSlot idx 0)) s else []
    | _, _ => []
  | wid :: later =>
    let done : State → List Upd := onPart p.num (fun q => { q with trapQueue := later, bare := if wid = 0 then q.bare.drop 1 else q.bare })
    if wid = 0 then
      let b := p.bare.headD ⟨[], 0, 0⟩
      (if !valid then andThen done (onPart p.num (haltRecord b.words)) s
      else match freeTrapSlot p with
      | none => []
      | some idx => andThen done (putRecord p idx b.words none (bareSlot idx b.task)) s)
    else
      match s.warp? wid with
      | none => done s
      | some w =>
        match w.mode with
        | .trapping ws =>
          if !saveReady s w then [] else
          if !valid then inOrder [done, onPart p.num (haltRecord ws), fun _ => [.warp { w.atRest with mode := .lost }]] s
          else match freeTrapSlot p with
          | none => []
          | some idx => andThen done (writeWarpRecord p idx w ws) s
        | _ => done s

/-- TRAP_RECORD_WRITE (R469; DEDUCED, log 44). -/
def execTrapRecordWrite (part : Nat) (s : State) : Host.Outcome State Fault Refusal :=
  .next (s.run (match s.part? part with
    | none => []
    | some p => if p.state == .running then nextRecord p s else []))

/-! ### Handler tasks (R470, R471) -/

/-- The manager's partition (R434; DEDUCED, log 40). -/
def managerPart : Nat := 0

/-- The launch words of a handler: REGS8 8, UNI8 2, no storage (R471). -/
def handlerDesc (p : Part) : List Word :=
  let d := BitVec.ofNat 32 (trapDrealm p * 2 ^ 16 + trapDrealm p)
  [lowWord p.hvec, highWord p.hvec, 0, BitVec.ofNat 32 (trapCrealm p * 2 ^ 16 + 1), BitVec.ofNat 32 (8 * 2 ^ 26 + 2 * 2 ^ 23), 0, d, d]
    ++ List.replicate 40 0

/-- A launch that a warp of no launch starts as (R435, R471). -/
def bareLaunch (part : Nat) (desc : List Word) (num uid : Nat) (who : Ident) : Launch where
  num := num
  uid := uid
  part := part
  phase := .ready
  control := true
  desc := desc
  descOff := 0
  realm := 0
  args := []
  groups := []
  lists := []
  deps := []
  counter := .none
  scope := 6
  prio := wfield desc 3 13 3
  det := false
  inherit := false
  tree := 0
  path := 0
  grid := none
  issuer := 0
  issuerTask := 0
  who := who
  issuerPc := 0
  readyAt := 0
  order := 0
  started := [0]
  drawn := []
  saved := []
  barriers := []
  prec := none
  precStarted := false
  waiting := []
  precOwed := []
  redraws := 0
  clock := []
  endClock := []
  locks := []

/-- Who no warp is: an identity of zeros in a partition (R468). -/
def noWarp (part level : Nat) (hnd : Bool) : Ident :=
  { part := part, core := 0, place := 0, launch := 0, warpid := 0, level := level, taskid := 0, spawnix := 0, path := 0, hnd := hnd }

/-- The level of a partition's control program and handlers (R427). -/
def partLevel (p : Part) : Nat := if (wordAt p.desc 12).getLsbD 0 then 2 else 1

/-- Handler tasks that run in a partition. -/
def handlersRunning (s : State) (part : Nat) : Nat := s.tasks.countP (fun t => t.part == part && t.handler.isSome)

/-- Start the handler task of a record (R471). -/
def startHandler (p : Part) (r : RecSlot) (s : State) : List Upd :=
  let id := s.model.nextId
  let core := handlerCore p
  let off : DWord := p.trapOff + BitVec.ofNat 64 (recordOff r.idx)
  let l := bareLaunch p.num (handlerDesc p) 0 0 (noWarp p.num (partLevel p) true)
  let u : Sparse 32 := cellSet (cellSet (cellSet [] 0 (lowWord off)) 1 (highWord off)) 2 (BitVec.ofNat 32 r.idx)
  let x : Start := { task := id, warpid := 0, core := core, quadrant := handlerQuadrant, place := freePlace s core handlerQuadrant, pc := p.hvec,
                     mask := BitVec.allOnes 32, taskid := 0, spawnix := 0, uregs := u, vregs := [], path := 0, clock := [] }
  inOrder [fun _ => [.task { startTask l id 0 0 false 1 core 0 with handler := some r.idx }],
    fun _ => [.warp { startWarp s l (partLevel p) (id + 1) x with hnd := true }], useIds 2,
    onPart p.num (fun q => { q with records := q.records.map (fun y => if y.idx = r.idx then { y with handler := 1 } else y) }),
    checkEntry (id + 1) p.hvec] s

/-- HANDLER_TASK_START: the handler of the oldest written record that has none and is not released starts, at most 16 at once (R471)
(DEDUCED, log 44). -/
def execHandlerTaskStart (part : Nat) (s : State) : Host.Outcome State Fault Refusal :=
  .next (s.run (match s.part? part with
    | none => []
    | some p =>
      match p.records.find? (fun r => r.handler == 0 && !r.released) with
      | none => []
      | some r => if partWorks s part && decide (handlersRunning s part < 16) then startHandler p r s else []))

/-! ### Timers and watchdogs (R390 to R392, R485) -/

/-- The fragment of a warp that holds its lowest lane (DEDUCED, log 50). -/
def lowFrag (w : Warp) : Option Frag := (sortBy (fun f => lowLane f.mask) w.regs.frags).head?

/-- A warp waits at issue on a queue, a full table or a reservation: every fragment of it that could issue does (R369, R485). -/
def waitsAtIssue (s : State) (w : Warp) : Bool :=
  w.regs.frags.all (fun f => f.park != .run || f.held || (s.model.tried.contains (w.id, f.id) && f.ask.isSome))

/-- A trap of a commit of the warp is still to come (R465, R492). -/
def trapOwed (s : State) (wid : Nat) : Bool :=
  s.order.commits.any (fun c => c.warp == wid && c.after.any (fun a => match a with
    | .trap .. => true
    | _ => false))

/-- TIMER_TRAP: WALL has reached the deadline of a warp that is between chunks or parked, which traps at once, or that waits at issue,
which traps with its chunk discarded; a warp inside a chunk takes it after its commit (R485; DEDUCED, log 50). -/
def execTimerTrap (warp : Nat) (s : State) : Host.Outcome State Fault Refusal :=
  .next (s.run (match s.warp? warp with
    | none => []
    | some w =>
      match lowFrag w with
      | none => []
      | some f =>
        if w.timer = 0 || w.hnd || w.mode != .run || !partWorks s w.part || s.order.commits.any (fun c => c.warp == warp)
            || decide (s.dev.wall.toNat < w.timer.toNat) then [] else
        let late : DWord := s.dev.wall - w.timer
        let t := { raise .timer with d18 := lowWord late, d19 := highWord late }
        if w.chunk.start.isNone then
          andThen (onWarp warp (fun v => { v with timer := 0 })) (takeCommitted warp f.id f.pc { t with fpc := some (w.endPc.getD (prevPc f.pc)) }) s
        else if w.chunk.phase == .open_ && waitsAtIssue s w then
          andThen (onWarp warp (fun v => { v with timer := 0 })) (takeTrap warp f.id [] t) s
        else []))

/-- A partition's watchdog has run out on a wait since a time on WALL (R392). -/
def watchdogOut (s : State) (part since : Nat) : Bool :=
  (s.part? part).any (fun p => p.wdog != 0 && decide (p.wdog.toNat * 1000000 < s.dev.wall.toNat - since))

/-- The number by which a record names a barrier. -/
def BarId.num (b : BarId) : Nat :=
  match b with
  | .group _ g => g
  | .task _ => 0

/-- The object that a parked fragment waits on: ADDR and realm; none where no watchdog applies (R391, R392; DEDUCED, log 37). -/
def waitObject (w : Warp) (k : Park) : Option (DWord × Nat) :=
  match k with
  | .counter rsel off _ _ _ _ => some (off, w.realmOf rsel)
  | .bar b _ _ => some (BitVec.ofNat 64 b.num, 0)
  | .barq b _ => some (BitVec.ofNat 64 b.num, 0)
  | .barWait b _ => some (BitVec.ofNat 64 b.num, 0)
  | .cbWait cb _ => some (BitVec.ofNat 64 cb, 0)
  | .run => none
  | .join => some (0, 0)
  | .sleep _ => none

/-- WAIT_PROGRESS of a fragment's wait, or of a save handler that runs too long (R389, R392). -/
def fragmentLate (s : State) (w : Warp) (f : Frag) : List Upd :=
  match if watchdogOut s w.part f.since then waitObject w f.park else none with
  | some x => takeTrap w.id f.id [] { raiseAt .waitProgress x.1 with realm := x.2, fpc := if f.park == .join then none else some (prevPc f.pc) } s
  | none =>
    if (s.task? w.task).any (fun t => t.phase == 1 && watchdogOut s w.part t.phaseAt) then
      andThen (onTask w.task (fun t => { t with phaseAt := s.dev.wall.toNat })) (takeTrap w.id f.id [] (raise .waitProgress)) s
    else []

/-- WAIT_PROGRESS of a matrix entry that stays ineligible: raised in its warp, and the entry is freed (R212). -/
def entryLate (s : State) (e : Entry) : List Upd :=
  if e.granted || entryEligible s e || !watchdogOut s e.part e.since then [] else
  andThen (freeEntry e) (onWarp e.warp (fun w => { w with pending := w.pending ++
    [{ raiseAt .waitProgress (BitVec.ofNat 64 e.aOff) with ppc := some e.pc }] })) s

/-- WAIT_PROGRESS: a wait has lasted longer than the partition's watchdog (R391, R392, R212, R240, R336, R359; DEDUCED, log 37). -/
def execWaitProgress (o : WaitObj) (s : State) : Host.Outcome State Fault Refusal :=
  .next (s.run (match o with
    | .fragment wid fid =>
      (match (s.warp? wid).bind (fun w => (w.frag? fid).map (fun f => (w, f))) with
      | none => []
      | some (w, f) => if partWorks s w.part && !trapOwed s wid then fragmentLate s w f else [])
    | .entry id =>
      (match s.entry? id with
      | none => []
      | some e => if partWorks s e.part then entryLate s e else [])
    | .wave wid =>
      (match (s.warp? wid).bind (fun w => w.waveAsk.bind (fun a => (w.frag? a.1).map (fun f => (w, f)))) with
      | none => []
      | some (w, f) => if partWorks s w.part && watchdogOut s w.part f.since then takeTrap w.id f.id [] (raise .waitProgress) s else [])
    | .kvld wid tag =>
      (match (s.warp? wid).bind (fun w => (w.regs.tags.find? (fun e => e.tag == tag && e.awaits == .kv && !e.returned)).map (fun e => (w, e))) with
      | none => []
      | some (w, e) =>
        match (w.regs.frags.find? (fun f => f.mask &&& e.mask != 0)).or w.regs.frags.head? with
        | none => []
        | some f =>
          if partWorks s w.part && watchdogOut s w.part f.since then
            takeTrap w.id f.id [] { raiseAt .waitProgress (BitVec.ofNat 64 ((e.tiles.head?).elim 0 (·.2))) with fpc := some e.pc } s
          else [])
    | .dependence uid index =>
      (match launchOfUid s uid with
      | none => []
      | some l =>
        match l.deps[index]? with
        | none => []
        | some d =>
          if l.phase == .waiting && partWorks s l.part && decide (counterValue s d.addr < d.target.toNat) && watchdogOut s l.part l.readyAt then
            .launch { l with readyAt := s.dev.wall.toNat }
              :: raiseLater l.issuer l.who l.issuerPc { raiseIn .waitProgress l.realm l.descOff with d17 := BitVec.ofNat 32 index } s
          else [])))

/-- A port bound to the spawn queue: the lowest (R412). -/
def spawnPort (w : Warp) : Nat := ((List.range 8).find? (bindsSpawn w)).getD 0

/-- A fragment waits on the queue of a port: its last attempt to issue did, or its chunk's records wait for room (R371, R413, R414). -/
def waitsOnQueue (s : State) (w : Warp) (port : Nat) (f : Frag) : Bool :=
  f.park == .run && !f.held && ((s.model.tried.contains (w.id, f.id) && f.ask == some (.queue port))
    || (w.holds.contains .spawnRoom && port == spawnPort w))

/-- QUEUE_PROGRESS: a warp has waited on a queue, or for room in the spawn queue, longer than the watchdog (R371, R391, R392; DEDUCED, log 37). -/
def execQueueProgress (warp queue : Nat) (s : State) : Host.Outcome State Fault Refusal :=
  .next (s.run (match s.warp? warp with
    | none => []
    | some w =>
      match w.regs.frags.find? (waitsOnQueue s w queue) with
      | none => []
      | some f =>
        if partWorks s w.part && !trapOwed s warp && watchdogOut s w.part f.since then
          takeTrap warp f.id [] (raiseD .queueProgress (BitVec.ofNat 32 queue)) s
        else []))

/-! ### The partition halt (R473 to R477, R483) -/

/-- Kind of engine and stop-record KIND of a command; none for a command that no engine holds at a halt (R474). -/
def stopKind (k : JobKind) : Nat :=
  match k with
  | .window => 1 | .rcopy => 1 | .kvcompact => 1 | .beammap => 1 | .placement => 1
  | .coll => 3 | .topk => 4 | .repair => 5 | .ckpt => 7
  | .cwb => 0

/-- The offset of a command's counter in its realm; 0 for none (R474). -/
def counterOffset (j : Job) : DWord :=
  if j.counter = .none then 0 else
  match j.kind with
  | .window => wpair j.desc 6 | .rcopy => wpair j.desc 6 | .topk => wpair j.desc 6 | .repair => wpair j.desc 6
  | .coll => wpair j.desc 5
  | .ckpt => wpair j.desc 3
  | .kvcompact => 0 | .beammap => 0 | .placement => 0 | .cwb => 0

/-- Granules of a command (R474). -/
def totalGranules (j : Job) : Nat :=
  match j.kind with
  | .window => granulesOf (windowOffset j.dst) j.total
  | .rcopy => granulesOf j.dst j.total
  | .coll => granulesOf 0 j.total
  | .topk => granulesOf j.dst j.total
  | .repair => 0
  | .kvcompact => j.total | .beammap => j.total | .ckpt => j.total | .placement => j.total | .cwb => 0

/-- The words of a stop record (R474). -/
def stopWords (kind unit state : Nat) (who : Ident) (pc : DWord) (landed total detail : Nat) (cnt : DWord) : List Word :=
  let n (k : Nat) : Word := BitVec.ofNat 32 k
  [n (kind * 2 ^ 28 + unit % 256 * 2 ^ 20 + state * 2 ^ 16), who.taskid, n (who.warpid * 2 ^ 16 + who.core), lowWord pc, highWord pc,
    n landed, n total, n detail, lowWord cnt, highWord cnt] ++ List.replicate 6 0

/-- The stop record of a command: STATE 2 where its granules have all landed (R474; DEDUCED, log 106). -/
def jobStop (j : Job) : List Word :=
  let kind := stopKind j.kind
  let unit := if kind = 1 then 64 * dieOf j.core + Config.engineUnit j.id % 64 else Config.engineUnit j.id
  let detail := match j.kind with
    | .repair => j.phase / 2 - 1
    | .coll => ((awaitedRanks j).find? (fun r => !j.msgs.any (fun m => m.rank == r))).getD 0
    | _ => 0
  let done := decide (0 < totalGranules j) && decide (totalGranules j ≤ j.granules)
  stopWords kind unit (if done then 2 else 1) j.who j.pc j.granules (totalGranules j) detail (counterOffset j)

/-- The stop record of a matrix entry: why it is held (R216, R474). -/
def entryStop (s : State) (e : Entry) : List Word :=
  let who : Ident := { noWarp e.part 0 false with taskid := e.taskid, warpid := e.warpid, core := e.core }
  let detail := if (entryQuarters e).any (fun q => (quarterFor s e q.1).isNone) then 2 else if e.committed then 1 else 0
  stopWords 2 e.cluster 3 who e.pc 0 0 detail 0

/-- A mailbox engine that holds words of a partition (R474). -/
def ringStop (part : Nat) (r : Ring) : List Word :=
  stopWords 6 r.num 1 (noWarp part 0 false) 0 r.inbound.length r.outbound.length 0 0

/-- The stop records of a partition, in order, with the one that ends the list. -/
def stopRecords (s : State) (part : Nat) : List (List Word) :=
  ((s.eng.jobs.filter (fun j => j.part == part && j.sent && !j.done && stopKind j.kind != 0)).map jobStop
    ++ (s.mat.entries.filter (fun e => e.part == part && e.committed)).map (entryStop s)
    ++ (s.net.rings.filter (fun r => r.part == part && !r.outbound.isEmpty)).map (ringStop part)).take 2047
  ++ [List.replicate 16 0]

/-- Write the stop records (R474). -/
def writeStops (p : Part) (s : State) : List Upd :=
  forEach ((stopRecords s p.num).zipIdx) (fun x => areaWrite p.num p.trapArea (0x8000 + 64 * x.2) (plainWords x.1)) s

/-- A warp's context stands in its core: it runs, or its trap's record is not written yet (R469, R483). -/
def Warp.inCore (w : Warp) : Bool :=
  match w.mode with
  | .run => true
  | .trapping _ => true
  | .parked _ => false
  | .lost => false
  | .halted => false
  | .saved => false

/-- What a partition's halt still waits for: commits that hold a position, granted passes and eligible entries, results of committed
chunks, records to be written, host messages that can go on (R473, R216). -/
def haltWaits (s : State) (p : Part) : Bool :=
  s.order.commits.any (fun c => c.part == p.num)
    || s.mat.entries.any (fun e => e.part == p.num && (e.granted || entryEligible s e))
    || s.mat.copies.any (fun c => (s.task? c.task).any (fun t => t.part == p.num) && c.committed && copyReady s c)
    || s.warps.any (fun w => w.part == p.num && w.inCore && !restReady s w)
    || (!p.trapQueue.isEmpty && (!ctxValid s p.num || (freeTrapSlot p).isSome))
    || s.net.arrivals.any (fun a => a.part == p.num && !(arrivalWaits s a))

/-- A collective stops its round (R473; DEDUCED, log 53). -/
def stopColls (part : Nat) (s : State) : List Upd :=
  forEach ((s.eng.jobs.filter (fun j => j.part == part && j.kind == .coll && j.sent)).map (·.id)) dropJob s

/-- Tell the manager of a halt; the notice is held until it can be written (R475; DEDUCED, log 40). -/
def postNotice (p : Part) : State → List Upd :=
  if p.num = managerPart then fun _ => [] else
  onPart managerPart (fun q => { q with notices := q.notices ++ [⟨p.num, if p.ctxctl.getLsbD 0 then p.trapOff else 0⟩] })

/-- A PARTCTL operation ends with a status (R433, R434). -/
def endOperation (status : Nat) : State → List Upd :=
  onDev (fun d => { d with partctl := (d.partctl &&& 0x00000F00) ||| BitVec.ofNat 32 (status * 2 ^ 16) })

/-- The operation of PARTCTL that runs, and its partition. -/
def operation (s : State) : Option (Nat × Nat) :=
  if s.dev.partctl.getLsbD 31 then some (wfield [s.dev.partctl] 0 0 3, partSelected s) else none

/-- HALT_ACK: the partition has come to rest: chunks are discarded, stop records and contexts written, HALTED is 1 (R473 to R477, R483)
(DEDUCED, log 42; DEDUCED, log 53). -/
def execHaltAck (part : Nat) (s : State) : Host.Outcome State Fault Refusal :=
  .next (s.run (match s.part? part with
    | none => []
    | some p =>
      if p.state != .running || !p.haltLine || haltWaits s p then [] else
      let ws := (s.warps.filter (fun w => w.part == part && w.inCore)).map (·.id)
      let valid := ctxValid s part
      inOrder [forEach ws dropChunk,
        fun s => (s.warps.filter (fun w => ws.contains w.id)).map (fun w => .warp { w.atRest with mode := if w.mode = .run then .halted else w.mode }),
        (if valid then writeStops p else fun _ => []),
        stopColls part, refuseArrivals part,
        (if valid then forEach (s.warps.filter (fun w => ws.contains w.id)) (fun w => saveSlot w.id (placeSlot p w.core w.place) 2 none) else fun _ => []),
        (if valid then saveCores part else fun _ => []),
        onPart part (fun q => { q with state := .stopped, haltLine := false, dbgctl := q.dbgctl ||| 0x80000000 }),
        postNotice p,
        (if operation s = some (3, part) then endOperation 0 else fun _ => [])] s))

/-! ### Incremental copies (R480) -/

/-- INCREMENTAL_BANK_COPY: a dirty bank of a warp at a chunk end goes into the warp's CLEAN slot. -/
def execIncrementalBankCopy (warp bank : Nat) (s : State) : Host.Outcome State Fault Refusal :=
  .next (s.run (match s.warp? warp with
    | none => []
    | some w =>
      if w.chunk.start.isNone && w.mode == .run && partWorks s w.part && w.dirty.contains bank
          && (s.part? w.part).any (fun p => p.ctxctl.getLsbD 0 && p.ctxctl.getLsbD 1) then saveBank warp bank s
      else []))

/-! ### Soft errors and machine checks (R473, R488, R489) -/

/-- ECCCNT counts one more corrected error, saturating. -/
def countEcc (part : Nat) : State → List Upd :=
  onPart part (fun p => { p with eccnt := BitVec.ofNat 32 (min 0xFFFFFFFF (p.eccnt.toNat + 1)) })

/-- ECC_CORRECTED (R488, R489). -/
def execEccCorrected (part : Nat) (s : State) : Host.Outcome State Fault Refusal := .next (s.run (countEcc part s))

/-- A halting record that names no warp: words w1 to w13 are 0 (R468, R473). -/
def checkWords (s : State) (cause : Cause) (kind unit : Nat) : List Word :=
  BitVec.ofNat 32 (cause.code * 2 ^ 26 + 2 ^ 24) :: List.replicate 16 0
    ++ [BitVec.ofNat 32 kind, BitVec.ofNat 32 unit, 0, lowWord s.dev.wall, highWord s.dev.wall, 0, 0] ++ List.replicate 8 0

/-- A check halts a running partition, or every one for a shared structure, each with a record that names no warp (R473, R488; DEDUCED, log 55). -/
def haltFor (part : Option Nat) (cause : Cause) (kind unit : Nat) (s : State) : List Upd :=
  forEach ((s.parts.filter (fun p => p.state == .running && part.all (fun k => k == p.num))).map (·.num)) (fun n s =>
    onPart n (fun p => { p with bare := p.bare ++ [⟨checkWords s cause kind unit, 0, 0⟩], trapQueue := p.trapQueue ++ [0], haltLine := true }) s) s

/-- MACHINE_CHECK (R473; DEDUCED, log 55). -/
def execMachineCheck (part : Option Nat) (kind unit : Nat) (s : State) : Host.Outcome State Fault Refusal :=
  .next (s.run (haltFor part .machineCheck kind unit s))

/-- A register word becomes poison, in the copy taken at the chunk start too where the chunk has not written it. -/
def poisonReg_ (key : Nat) (uni : Bool) (undo : Nat) (w : Warp) : Warp :=
  let mark (r : Regs) : Regs := if uni then { r with poisonU := markPoison r.poisonU key true } else { r with poisonV := markPoison r.poisonV key true }
  { w with regs := mark w.regs
           chunk := { w.chunk with start := if w.chunk.undo.contains undo then w.chunk.start else w.chunk.start.map mark } }

/-- A held word becomes poison. -/
def RegWrite.poisoned (x : RegWrite) : RegWrite :=
  match x with
  | .v r l val _ => .v r l val true
  | .u r val _ => .u r val true
  | .p r l val => .p r l val
  | .m i val => .m i val

/-- ECC_UNCORRECTABLE: data becomes poison; an error in a control structure is ECC_FATAL (R488; DEDUCED, log 55). -/
def execEccUncorrectable (t : EccTarget) (s : State) : Host.Outcome State Fault Refusal :=
  let mark (ps : List Place) : State → List Upd := onOrder (fun o => { o with poison := markWords o.poison (ps.map (fun p => (p, true))) })
  .next (s.run (match t with
    | .vreg w r l => onWarp w (fun v => if r < 8 * v.regs8 ∧ l < 32 then poisonReg_ (32 * r + l) false r v else v) s
    | .ureg w r => onWarp w (fun v => if r < 8 * v.uni8 then poisonReg_ r true (256 + r) v else v) s
    | .memory a => if a < memLimit then mark [memPlace (a / 8 * 8), memPlace (a / 8 * 8 + 4)] s else []
    | .l2 path a => if a < memLimit then mark [{ memPlace (a / 4 * 4) with owner := path.toNat }] s else []
    | .l1 core a => if a < memLimit ∧ core < 256 then mark [l1Mark core (memPlace a)] s else []
    | .quarter core set a => onMat (fun m => { m with quarters := m.quarters.map (fun q =>
        if q.core = core ∧ q.set = set ∧ a < q.bytes.length then { q with poison := nub (q.poison ++ (List.range 4).map (fun i => a / 4 * 4 + i)) } else q) }) s
    | .returned wid tag k => onWarp wid (fun w =>
        let g (e : TagEntry) : TagEntry := if e.tag = tag then { e with writes := e.writes.zipIdx.map (fun x => if x.2 = k then x.1.poisoned else x.1) } else e
        { w.mapTags g with chunk := { w.chunk with start := w.chunk.start.map (fun r => { r with tags := r.tags.map g }) } }) s
    | .buffered wid sp o a => onWarp wid (fun w =>
        match w.chunk.bytes.find? (fun x => spaceCode x.1.space == sp && x.1.owner == o && x.1.addr / 4 == a / 4) with
        | none => w
        | some x => { w with chunk := { w.chunk with poisoned := nub (x.1.word :: w.chunk.poisoned) } }) s
    | .scratch k a => (match s.task? k with
      | none => []
      | some x => if a < 1024 * x.scrk then mark [⟨.scratch, k, a / 4 * 4⟩] s else [])
    | .tile k a => (match s.task? k with
      | none => []
      | some x => if a < 1024 * x.tilek then mark [⟨.tile, k, a / 4 * 4⟩] s else [])
    | .table kind unit part => haltFor part .eccFatal kind unit s))

/-- PATROL_SCRUB: a word of HBM4E is read; an error that it finds is corrected, written back and counted (R488). -/
def execPatrolScrub (addr : Nat) (bad : Bool) (s : State) : Host.Outcome State Fault Refusal :=
  .next (s.run (match s.parts.find? (fun p => p.state != .absent && ownsAddr p addr) with
    | none => []
    | some p => if bad then countEcc p.num s else []))

/-- TRANSLATION_PARITY_ERROR: the cached translation, or table entry of a walk cache, is dropped and walked again (R488); the walk caches'
entries are numbered after the TLBs', those of the KV translation caches after both. -/
def execTranslationParityError (index : Nat) (s : State) : Host.Outcome State Fault Refusal :=
  .next (s.run [.xl (if index < s.xl.cached.length then { s.xl with cached := s.xl.cached.eraseIdx index }
    else if index < s.xl.cached.length + s.xl.walks.length then { s.xl with walks := s.xl.walks.eraseIdx (index - s.xl.cached.length) }
    else { s.xl with kvs := s.xl.kvs.eraseIdx (index - s.xl.cached.length - s.xl.walks.length) })])

/-- HEAT_BUDGET_PERIOD: a cluster's budget from its sensors; its clock steps down while they exceed the limit, and up once they are well
under it; a class set since the last period counts from now on (R381, R382, R497; DESIGN CHOICE, log 5). -/
def execHeatBudgetPeriod (cluster budget : Nat) (hot cool : Bool) (s : State) : Host.Outcome State Fault Refusal :=
  let old := ((s.dev.heat.find? (fun h => h.cluster == cluster)).map (·.clock)).getD 16
  let clk := if hot then max 8 (old - 1) else if cool then min 16 (old + 1) else old
  .next (s.run (if 64 ≤ cluster then [] else
    onDev (fun d => { d with heat := upsert (fun h => h.cluster == cluster) ⟨cluster, some budget, clk⟩ d.heat }) s
      ++ (s.warps.filter (fun w => w.core / 4 == cluster)).map (fun w => .warp { w with ecounted := w.eclass })))

end Sys2Proof.Machine
end

