-- ==== Sys2Proof/Machine/PartEv.lean ====
section
/-! DEFINITION. Partitions through PARTCTL (R431 to R435, R446, R475 to R477, R483), boot and the management responder (R458 to R463). -/

namespace Sys2Proof.Machine

/-! ### Descriptors (R431, R434) -/

/-- The bits of words lo to hi of a descriptor. -/
def descBits (d : List Word) (lo hi : Nat) : Nat := ((List.range (hi + 1 - lo)).map (fun k => (wordAt d (lo + k)).toNat * 2 ^ (32 * k))).foldl (· + ·) 0

/-- Two bit sets meet. -/
def bitsMeet (a b : Nat) : Bool := a &&& b != 0

/-- Memory units of a descriptor. -/
def descUnits (d : List Word) : Nat := descBits d 6 7 % 2 ^ 48

/-- A resource of a descriptor is another partition's (DEDUCED, log 41). -/
def descOverlaps (d e : List Word) : Bool :=
  bitsMeet (descBits d 0 1) (descBits e 0 1) || bitsMeet (descBits d 2 5) (descBits e 2 5) || bitsMeet (descUnits d) (descUnits e)
    || bitsMeet (descBits d 8 11) (descBits e 8 11)

/-- A reserved field of a descriptor is not 0. -/
def descReserved (d : List Word) : Bool :=
  decide (wfield d 7 16 16 ≠ 0) || decide (wfield d 12 24 8 ≠ 0) || decide (wfield d 12 2 10 ≠ 0) || decide (wfield d 14 9 23 ≠ 0)
    || wordAt d 15 != 0 || decide (wfield d 18 16 16 ≠ 0) || (d.drop 19).any (fun x => x != 0)

/-- A share in sixty-fourths; 0 means 64. -/
def shareOf (x : Nat) : Nat := if x = 0 then 64 else x

/-- The shares of all partitions at a field of w12. -/
def sharesAt (ds : List (List Word)) (lo : Nat) : Nat := (ds.map (fun d => shareOf (wfield d 12 lo 6))).foldl (· + ·) 0

/-- A die where a descriptor has a cluster and no runner. -/
def dieBare (d : List Word) (die : Nat) : Bool :=
  decide (descBits d 0 1 / 2 ^ (32 * die) % 2 ^ 32 ≠ 0) && decide (descBits d 8 11 / 2 ^ (64 * die) % 2 ^ 64 = 0)

/-- What makes a descriptor invalid (R431, R434; DEDUCED, log 41). -/
def descInvalid (s : State) (n : Nat) (d : List Word) : Bool :=
  let p := { Part.reset n with desc := d }
  let others := (s.parts.filter (fun q => q.state != .absent && q.num != n)).map (·.desc)
  decide (descBits d 0 1 = 0) || decide (descBits d 2 5 = 0) || decide (descUnits d = 0) || dieBare d 0 || dieBare d 1 || descReserved d
    || decide (wfield d 14 4 5 < 4) || decide (16 < wfield d 14 4 5) || decide (realmBase p % (16 * realmCount p) ≠ 0)
    || !ownsRange p (realmBase p) (16 * realmCount p) || decide (64 < sharesAt (d :: others) 18) || decide (64 < sharesAt (d :: others) 12)

/-! ### Create (R434) -/

/-- The descriptor's physical address (R433). -/
def descAddress (s : State) : Nat := s.dev.pdeschi.toNat % 2 ^ 20 * 2 ^ 32 + s.dev.pdesclo.toNat / 128 * 128

/-- What create answers (DEDUCED, log 41). -/
def createStatus (s : State) (p : Part) (d : List Word) : Nat :=
  if p.state != .absent then 3
  else if s.parts.any (fun q => q.num != p.num && q.state != .absent && descOverlaps d q.desc) then 1
  else if descInvalid s p.num d || !(s.part? managerPart).any (fun m => ownsRange m (descAddress s) 128) then 2
  else 0

/-- PARTITION_CREATE (R434). -/
def execPartitionCreate (s : State) : Host.Outcome State Fault Refusal :=
  .next (s.run (match operation s with
    | some (1, n) =>
      (match s.part? n with
      | none => []
      | some p =>
        let d := rootWords s (descAddress s) 32
        let st := createStatus s p d
        andThen (withKeys (fun _ => if st = 0 then [.part { Part.reset n with state := .created, desc := d, descAddr := descAddress s }] else []))
          (endOperation st) s)
    | _ => []))

/-! ### Start (R434, R435, R446, R475 to R477) -/

/-- The launch words of a control program (R435). -/
def controlDesc (p : Part) : List Word :=
  let realm := wfield p.desc 18 0 16
  let d := BitVec.ofNat 32 (realm * 2 ^ 16 + realm)
  [wordAt p.desc 16, wordAt p.desc 17, 0, BitVec.ofNat 32 (realm * 2 ^ 16 + 7 * 2 ^ 13 + 1), BitVec.ofNat 32 (32 * 2 ^ 26 + 7 * 2 ^ 23), 0, d, d]
    ++ List.replicate 7 0 ++ [0x80, 0, 0, wordAt p.desc 0, wordAt p.desc 1, 0x40000000] ++ List.replicate 27 0

/-- The warp of a control program: every register that its table does not name is 0, the masks of matrix rows and columns among them (R435). -/
def controlWarp (p : Part) (l : Launch) (id : Nat) (x : Start) (s : State) : Warp :=
  let w := startWarp s l (partLevel p) id x
  { w with regs := { w.regs with mm := List.replicate 8 0 } }

/-- Start a partition's control program: one warp in quadrant 0 of its lowest core, on the lowest free launch record (R358, R435;
DESIGN CHOICE, log 9). -/
def startControl (p : Part) (s : State) : List Upd :=
  match freeRecord? s p.num with
  | none => []
  | some num =>
    let uid := s.model.nextId
    let core := handlerCore p
    let l := { bareLaunch p.num (controlDesc p) num uid (noWarp p.num (partLevel p) false) with order := s.order.pos, readyAt := s.dev.wall.toNat }
    let addr : DWord := BitVec.ofNat 64 p.descAddr
    let u : Sparse 32 := cellSet (cellSet (cellSet [] 0 (BitVec.ofNat 32 p.num)) 2 (lowWord addr)) 3 (highWord addr)
    let x : Start := { task := uid + 1, warpid := 0, core := core, quadrant := 0, place := freePlace s core 0, pc := wpair p.desc 16,
                       mask := BitVec.allOnes 32, taskid := 0, spawnix := 0, uregs := u, vregs := [], path := 0, clock := [] }
    inOrder [fun _ => [.launch l, .task (startTask l (uid + 1) 0 0 false 1 core 0), .warp (controlWarp p l (uid + 2) x s)], useIds 3,
      onPart p.num (fun q => { q with state := .running }), checkEntry (uid + 2) (wpair p.desc 16)] s

/-- Notices of a partition are dropped (R475). -/
def dropNotices (n : Nat) : State → List Upd :=
  onPart managerPart (fun q => { q with notices := q.notices.filter (fun x => x.part != n) })

/-- The core state and the saved contexts of a stopped partition can all be restored (R480, R482, R483). -/
def contextsOk (s : State) (p : Part) : Bool :=
  !ctxValid s p.num || (coresOk s p && (s.warps.filter (fun w => w.part == p.num && w.mode == .halted)).all (fun w => slotOk s p w (placeSlot p w.core w.place)))

/-- A warp goes on where it halted: from its slot, or as it stands in its core while CTXCTL.VALID is 0 (R477, R483). -/
def goOnWarp (p : Part) (valid : Bool) (w : Warp) : State → List Upd :=
  if valid then loadSlot w.id (placeSlot p w.core w.place) else
  fun s => onWarp w.id (fun v => { v with mode := .run
                                          regs := { v.regs with frags := v.regs.frags.map (fun f => { f with since := s.dev.wall.toNat }) } }) s

/-- Execution goes on from stopped: warps restored, warps that trapped without a record ended with their tasks, matrix entries at age 0,
the halt record cleared, waits with fresh
watchdogs (R216, R392, R475, R477, R483; DEDUCED, log 45). -/
def restartPart (p : Part) (s : State) : List Upd :=
  let mine := s.warps.filter (fun w => w.part == p.num)
  inOrder [onPart p.num (fun q => { q with state := .running, haltLine := false, dbgctl := q.dbgctl &&& 0x7FFFFFFF, haltRec := List.replicate 32 0, haltTaken := false }),
    forEach (mine.filter (fun w => w.mode == .halted)) (goOnWarp p (ctxValid s p.num)),
    forEach (nub ((mine.filter (fun w => w.mode == .lost)).map (·.task))) killTask,
    fun s => forEach (((s.tasks.filter (fun t => t.part == p.num)).map (·.id))) freshSave s,
    onMat (fun m => { m with entries := m.entries.map (fun e => if e.part = p.num then { e with eligibleAt := none, since := s.dev.wall.toNat } else e) }),
    fun s => (s.launches.filter (fun l => l.part == p.num && l.phase == .waiting)).map (fun l => .launch { l with readyAt := s.dev.wall.toNat }),
    dropNotices p.num] s

/-- Start refuses an encrypted partition whose key slot is all zeros (R446). -/
def keyless (p : Part) : Bool := (wordAt p.desc 12).getLsbD 1 && p.enckey.all (fun k => k == 0)

/-- What start answers. -/
def startStatus (s : State) (p : Part) : Nat :=
  match p.state with
  | .created => if keyless p then 2 else 0
  | .stopped => if contextsOk s p && !keyless p then 0 else 2
  | .running => 3
  | .absent => 3

/-- PARTITION_START (R434, R435, R446). -/
def execPartitionStart (s : State) : Host.Outcome State Fault Refusal :=
  .next (s.run (match operation s with
    | some (2, n) =>
      (match s.part? n with
      | none => []
      | some p =>
        let st := startStatus s p
        inOrder [(if st ≠ 0 then fun _ => [] else if p.state == .created then startControl p else restartPart p), endOperation st] s)
    | _ => []))

/-! ### Stop and destroy (R434, R473, R475) -/

/-- A partition's stop raises its halt line and invalidates all its translations (R434, R443; DEDUCED, log 42). -/
def raiseHalt (n : Nat) (s : State) : List Upd :=
  inOrder [onPart n (fun p => { p with haltLine := true }), useIds 1, beginInval s.model.nextId n none 0 (2 ^ 64) none] s

/-- PARTITION_STOP: the halt line is raised; the operation ends when the halt is acknowledged (DEDUCED, log 42). -/
def execPartitionStop (s : State) : Host.Outcome State Fault Refusal :=
  .next (s.run (match operation s with
    | some (3, n) => if (s.part? n).any (fun p => p.state == .running) then raiseHalt n s else endOperation 3 s
    | _ => []))

/-- Everything that a partition holds is gone: warps, tasks, launches, commands, passes, versions, locks, queues, translations. -/
def clearPart (p : Part) (s : State) : List Upd :=
  let n := p.num
  let mineQ (q : QueueId) : Bool := match q with
    | .core c _ => ownsCluster p (c / 4)
    | .cluster c _ => ownsCluster p c
    | .ring m _ => m == n
  inOrder [fun s => (s.warps.filter (fun w => w.part == n)).map (fun w => .dropWarp w.id),
    fun s => (s.tasks.filter (fun t => t.part == n)).map (fun t => .dropTask t.id),
    fun s => (s.launches.filter (fun l => l.part == n)).map (fun l => .dropLaunch l.part l.num),
    fun s => [.eng { s.eng with jobs := s.eng.jobs.filter (fun j => j.part != n) }],
    onMat (fun m => { m with
      entries := m.entries.filter (fun e => e.part != n)
      quarters := m.quarters.filter (fun q => !ownsCluster p (q.core / 4))
      copies := m.copies.filter (fun c => !ownsCluster p (c.core / 4)) }),
    onOrder (fun o => { o with
      versions := o.versions.filter (fun v => v.part != n), remaps := o.remaps.filter (fun r => r.part != n)
      locks := o.locks.filter (fun l => l.part != n), ranges := o.ranges.filter (fun r => r.part != n)
      counts := o.counts.filter (fun c => c.part != n)
      counterClocks := o.counterClocks.filter (fun c => match c.target with
        | .home a => !ownsAddr p a
        | .peer .. => true
        | .ether .. => true) }),
    fun s => [.xl { s.xl with
      cached := s.xl.cached.filter (fun c => c.part != n), kvs := s.xl.kvs.filter (fun c => c.part != n), walks := s.xl.walks.filter (fun c => c.part != n)
      lines := s.xl.lines.filter (fun c => c.part != n)
      invals := s.xl.invals.filter (fun i => i.part != n), changes := s.xl.changes.filter (fun i => i.part != n) }],
    fun s => [.queues { s.queues with
      chans := s.queues.chans.filter (fun c => !mineQ c.queue), spawns := s.queues.spawns.filter (fun q => !ownsCluster p (q.1 / 4)) }],
    onNet (fun t => { t with rings := t.rings.filter (fun r => r.part != n), arrivals := t.arrivals.filter (fun a => a.part != n) })] s

/-- Writes that stood in the L2 alone are lost (R434; DEDUCED, log 42). -/
def discardL2 (p : Part) (s : State) : List Upd :=
  putBytes ((Config.staleCells s.model.free).filter (fun c => ownsAddr p c.1)) s ++ [.model { s.model with free := s.model.free + 1 }]

/-- PARTITION_DESTROY: partition 0 cannot be destroyed; the key slot and the halt record are cleared with the rest (R434, R475, R477;
DEDUCED, log 40; DEDUCED, log 42). -/
def execPartitionDestroy (s : State) : Host.Outcome State Fault Refusal :=
  .next (s.run (match operation s with
    | some (4, n) =>
      (match s.part? n with
      | none => []
      | some p =>
        if n = managerPart || !(p.state == .created || p.state == .stopped) then endOperation 3 s else
        inOrder [clearPart p, discardL2 p, withKeys (fun _ => [.part (Part.reset n)]), dropNotices n, endOperation 0] s)
    | _ => []))

/-! ### Register writes as steps of their own (R255, R446, R447, R452, R476, R486, R489, R493) -/

/-- The write of a register by a warp: what it raises, its wait, else its effect. -/
def registerWrite (wid num : Nat) (v : DWord) (s : State) : List Upd :=
  match s.warp? wid with
  | none => []
  | some w =>
    match sysRefused s w num with
    | some t => takeTrap wid 0 [] t s
    | none =>
      if sysAccess num w.level = .read then [] else
      match sysWriteTrap s w num v with
      | some t => takeTrap wid 0 [] t s
      | none =>
        if sysWriteWaits s num then []
        else if sysLocal num then onWarp wid (fun y => localWrite num ((y.regs.frags.head?).elim 0 (·.id)) (lowWord v) y) s
        else sysWriteAt wid num v s

/-- SYSREG_WRITE (R493). -/
def execSysregWrite (warp : Nat) (num : BitVec 12) (value : DWord) (s : State) : Host.Outcome State Fault Refusal :=
  .next (s.run (registerWrite warp num.toNat value s))

/-- CTXCTL_VALID_WRITE (R476). -/
def execCtxctlValidWrite (warp : Nat) (value : Word) (s : State) : Host.Outcome State Fault Refusal :=
  .next (s.run (registerWrite warp 0x054 (value.setWidth 64) s))

/-- VSPILL_WRITE (R255). -/
def execVspillWrite (warp : Nat) (value : DWord) (s : State) : Host.Outcome State Fault Refusal :=
  .next (s.run (registerWrite warp 0x046 value s))

/-- ENCKEY_WRITE (R446). -/
def execEnckeyWrite (warp index : Nat) (value : Word) (s : State) : Host.Outcome State Fault Refusal :=
  .next (s.run (registerWrite warp (0x0D0 + index % 16) (value.setWidth 64) s))

/-- MBWIN_WRITE (R447). -/
def execMbwinWrite (warp index : Nat) (value : Word) (s : State) : Host.Outcome State Fault Refusal :=
  .next (s.run (registerWrite warp (0x0E8 + index % 8) (value.setWidth 64) s))

/-- APENT_WRITE: a change to an aperture in use begins an invalidation of its realm (R443, R452). -/
def execApentWrite (warp index : Nat) (value : Word) (s : State) : Host.Outcome State Fault Refusal :=
  .next (s.run (registerWrite warp (0x0F4 + index % 4) (value.setWidth 64) s))

/-- ECCCNT_READ (R489). -/
def execEcccntRead (warp : Nat) (s : State) : Host.Outcome State Fault Refusal :=
  .next (s.run (match s.warp? warp with
    | none => []
    | some w =>
      match sysRefused s w 0x056 with
      | some t => takeTrap warp 0 [] t s
      | none => clearEcc (sysPart s w 0x056) s))

/-- DBGCTL_HALT: a manager's write of DBGCTL.HALT raises the halt line, with no record (R486). -/
def execDbgctlHalt (part : Nat) (s : State) : Host.Outcome State Fault Refusal :=
  .next (s.run (onPart part (fun p => dbgctlWrite 2 (p.dbgctl &&& 2 ||| 1) p) s))

/-! ### Boot (R458 to R462) -/

/-- A field of an image's header, lowest byte first. -/
def imageField (img : List Byte) (off n : Nat) : Nat := bytesVal ((img.drop off).take n)

/-- The bytes that a flash slot holds, and an image at most (R458). -/
def flashSlotBytes : Nat := 2 ^ 25

/-- Where the header's section table puts a section: offset and length, 4 bytes each (R459; DESIGN CHOICE, log 3). -/
def sectionAt (img : List Byte) (k : Nat) : Nat × Nat := (imageField img (20 + 8 * k) 4, imageField img (24 + 8 * k) 4)

/-- A section's bytes: 0 SKU, 1 repair maps, 2 reserved units, 3 keys, 4 manager program (R459). -/
def imageSection (img : List Byte) (k : Nat) : List Byte := (img.drop (sectionAt img k).1).take (sectionAt img k).2

/-- The sections follow the header in their order, each whole and behind the one before it, within the total length (R459). -/
def sectionsOk (img : List Byte) (total : Nat) : Bool :=
  let starts (k : Nat) : Nat := if k == 0 then 512 else (sectionAt img (k - 1)).1 + (sectionAt img (k - 1)).2
  (List.range 5).all (fun k => decide (starts k ≤ (sectionAt img k).1 ∧ (sectionAt img k).1 + (sectionAt img k).2 ≤ total))

/-- An image slot holds an image that verifies: header, total length, section table and signature (R458, R459). -/
def imageGood (img : List Byte) : Bool :=
  let total := imageField img 16 4
  decide (512 ≤ img.length) && decide (imageField img 0 4 = 0x49435647) && decide (imageField img 4 4 = 1)
    && decide (total ≤ img.length ∧ total ≤ flashSlotBytes) && sectionsOk img total
    && Config.imageVerifies (img.take 416) ((List.range 5).map (imageSection img)) ((img.drop 416).take 96)

/-- The slot used: the higher sequence number, and the other slot if that one fails; slot A where they are equal (R460). -/
def imageUsed (d : Device) : Option (Bool × List Byte) :=
  let bFirst := decide (imageField d.slotA 8 8 < imageField d.slotB 8 8)
  let order := if bFirst then [(true, d.slotB), (false, d.slotA)] else [(false, d.slotA), (true, d.slotB)]
  order.find? (fun x => imageGood x.2)

/-- BOOTSTAT (R461). -/
def bootWord (phase : Nat) (fail slot : Bool) (unit : BitVec 10) (code : BitVec 16) : Word :=
  BitVec.ofNat 32 (phase % 8 * 2 ^ 28 + (if fail then 2 ^ 27 else 0) + (if slot then 2 ^ 26 else 0) + unit.toNat * 2 ^ 16 + code.toNat)

/-- The slot in use at a phase: chosen from phase 2 on. -/
def bootSlot (d : Device) (phase : Nat) : Bool := decide (2 ≤ phase) && ((imageUsed d).map (·.1)).getD false

/-- The image that verified before a phase that fails (R460, R463). -/
def bootImage (d : Device) (phase : Nat) : List Byte := if 2 < phase then ((imageUsed d).map (·.2)).getD [] else []

/-- The sequence numbers of both slots, two words each: boot's first phase reads them (R458, R460). -/
def bootSeqs (d : Device) (phase : Nat) : List Word :=
  let n (img : List Byte) (off : Nat) : Word := BitVec.ofNat 32 (imageField img off 4)
  if 1 < phase then [n d.slotA 8, n d.slotA 12, n d.slotB 8, n d.slotB 12] else d.seqs

/-- The safe state (R462). -/
def enterSafe (phase : Nat) (unit : BitVec 10) (code : BitVec 16) : State → List Upd :=
  onDev (fun d => { d with bootstat := bootWord phase true (bootSlot d phase) unit code, safe := true, image := bootImage d phase
                           seqs := bootSeqs d phase })

/-- The words that an image's sections of reserved units and of the manager program give for partition 0's descriptor (R459). -/
def imageWords (img : List Byte) : List Word := Config.imageDesc (imageSection img 2) (imageSection img 4)

/-- The descriptor of partition 0: everything but the units that the image reserves, MGR = 1 (R434). -/
def bootDesc (img : List Byte) : List Word :=
  let d := imageWords img
  let all : Word := BitVec.allOnes 32
  [all, all, all, all, all, all, wordAt d 6, wordAt d 7 &&& 0xFFFF, all, all, all, all, (wordAt d 12 &&& 0x00FFF000) ||| 1,
    wordAt d 13, wordAt d 14 &&& 0x1FF, 0, wordAt d 16, wordAt d 17, wordAt d 18 &&& 0xFFFF] ++ List.replicate 13 0

/-- Phase 7: partition 0 is created and its control program starts (R434, R460). -/
def bootDone (slot : Bool) (img : List Byte) (s : State) : List Upd :=
  let p := { Part.reset managerPart with state := .created, desc := bootDesc img, descAddr := (wpair (imageWords img) 32).toNat }
  inOrder [onDev (fun d => { d with bootstat := bootWord 7 false slot 0 0, booted := true, image := img, seqs := bootSeqs d 7 }),
    withKeys (fun _ => [.part p]), putBytes (Config.imageCells (imageSection img 4)), startControl p] s

/-- A boot phase that fails, or passes its bound, in the order of the phases: without an image that verifies, no phase behind the second is
entered, and the second fails (R460, R461; DESIGN CHOICE, log 3). -/
def bootFailed (phase : Nat) (unit : BitVec 10) (code : BitVec 16) (s : State) : List Upd :=
  if decide (2 < phase) && (imageUsed s.dev).isNone then
    andThen (enterSafe 2 0 (Config.bootCode s.model.free)) (fun s => [.model { s.model with free := s.model.free + 1 }]) s
  else enterSafe phase unit code s

/-- POWER_ON: the boot phases run; one that fails, or the want of an image that verifies, leads to the safe state (R460 to R462;
DESIGN CHOICE, log 3). -/
def execPowerOn (fail : Option BootFail) (s : State) : Host.Outcome State Fault Refusal :=
  .next (s.run (
    if s.dev.booted || s.dev.safe then [] else
    match fail with
    | some f => if 1 ≤ f.phase ∧ f.phase ≤ 7 then bootFailed f.phase f.unit f.code s else []
    | none =>
      match imageUsed s.dev with
      | none => bootFailed 7 0 0 s
      | some (slot, img) => bootDone slot img s))

/-- BOOT_PHASE_TIMEOUT: a phase passes its bound; phase 7 has none (R460, R461). -/
def execBootPhaseTimeout (phase : Nat) (unit : BitVec 10) (s : State) : Host.Outcome State Fault Refusal :=
  .next (s.run (if s.dev.booted || s.dev.safe || phase == 0 || decide (6 < phase) then [] else bootFailed phase unit 0xFFFF s))

/-- The manager writes a flash slot through its management path, up to the slot's size (R458; DESIGN CHOICE, log 3). -/
def writeFlash (slot : Bool) (img : List Byte) (s : State) : List Upd :=
  if !partWorks s managerPart || decide (flashSlotBytes < img.length) then []
  else onDev (fun d => if slot then { d with slotB := img } else { d with slotA := img }) s

/-! ### The management responder (R463) -/

/-- The keys section of the image in use, where one verified (R463). -/
def keysSection (d : Device) : Option (List Byte) := if d.image == [] then none else some (imageSection d.image 3)

/-- The number of a partition's state. -/
def PartState.num (p : PartState) : Nat :=
  match p with
  | .absent => 0 | .created => 1 | .running => 2 | .stopped => 3

/-- The words of a report, in the order of R463. -/
def reportWords (s : State) (nonce : DWord) : List Word :=
  let n (k : Nat) : Word := BitVec.ofNat 32 k
  [s.dev.bootstat] ++ s.dev.seqs ++ [Config.imageSku (imageSection s.dev.image 0)] ++ s.parts.map (fun p => n p.state.num)
    ++ (s.parts.filter (·.haltTaken)).flatMap (·.haltRec) ++ [n s.net.refused]
    ++ (List.range 16).map (fun k => n (bytesVal (((Config.unitDetail s.model.free).drop (4 * k)).take 4))) ++ [lowWord nonce, highWord nonce]

/-- MGMT_REPORT: the responder answers in every state, with a fresh nonce (R463). -/
def execMgmtReport (s : State) : Host.Outcome State Fault Refusal :=
  let nonce := Config.nonce s.model.free
  .next (s.run (inOrder [sendOut (.report (reportWords s nonce)), onDev (fun d => { d with nonce := some nonce }),
    fun s => [.model { s.model with free := s.model.free + 1 }]] s))

/-- The device restarts from phase 1: its state is that of reset, but for the flash, and the bytes of memory (R458, R463; DEDUCED, log 43). -/
def restartDevice (s : State) : List Upd :=
  let r := State.reset
  withKeys (inOrder [fun s => s.warps.map (fun w => .dropWarp w.id), fun s => s.tasks.map (fun t => .dropTask t.id),
    fun s => s.launches.map (fun l => .dropLaunch l.part l.num), fun s => s.parts.map (fun p => .part (Part.reset p.num)),
    fun s => [.dev { r.dev with slotA := s.dev.slotA, slotB := s.dev.slotB, rekeys := s.dev.rekeys }, .xl r.xl, .mat r.mat, .eng r.eng,
      .net { r.net with outbox := s.net.outbox }, .queues r.queues, .cur none,
      .order { r.order with poison := s.order.poison.filter (fun p => p.space == .mem && p.owner == 0) }]]) s

/-- MGMT_RESET: a request that carries the last nonce, signed by the reset key, restarts the device; any other is ignored (R463;
DEDUCED, log 43). -/
def execMgmtReset (nonce : DWord) (key : Nat) (sig : List Byte) (s : State) : Host.Outcome State Fault Refusal :=
  .next (s.run (if s.dev.nonce = some nonce ∧ Config.resetSigned (keysSection s.dev) nonce key sig = true then restartDevice s else []))

end Sys2Proof.Machine
end

