-- ==== Sys2Proof/Machine/Dispatch.lean ====
section
/-! DEFINITION. One arm for each constructor of Instr: an encoded instruction issues from the current fragment; an event row is a step of the device. -/

namespace Sys2Proof.Machine

/-- The meaning of an instruction or event (DESIGN CHOICE, log 10). -/
def exec (i : Instr) (s : State) : Host.Outcome State Fault Refusal :=
  match i with
  | .nop c => Sys2Proof.Machine.execNop c s
  | .bra c off => Sys2Proof.Machine.execBra c off s
  | .br3 c p off off2 => Sys2Proof.Machine.execBr3 c p off off2 s
  | .brx c a => Sys2Proof.Machine.execBrx c a s
  | .call c d off => Sys2Proof.Machine.execCall c d off s
  | .ret c a => Sys2Proof.Machine.execRet c a s
  | .join c => Sys2Proof.Machine.execJoin c s
  | .exit c => Sys2Proof.Machine.execExit c s
  | .yield c => Sys2Proof.Machine.execYield c s
  | .drain c => Sys2Proof.Machine.execDrain c s
  | .sleep c ns => Sys2Proof.Machine.execSleep c ns s
  | .iadd c sgn sat d a b => Sys2Proof.Machine.execIadd c sgn sat d a b s
  | .isub c sgn sat d a b => Sys2Proof.Machine.execIsub c sgn sat d a b s
  | .iaddc c d a b pc => Sys2Proof.Machine.execIaddc c d a b pc s
  | .isubb c d a b pc => Sys2Proof.Machine.execIsubb c d a b pc s
  | .imul c d a b => Sys2Proof.Machine.execImul c d a b s
  | .imulh c sgn d a b => Sys2Proof.Machine.execImulh c sgn d a b s
  | .imad c sgn sat d a b e => Sys2Proof.Machine.execImad c sgn sat d a b e s
  | .imadw c sgn d a b e => Sys2Proof.Machine.execImadw c sgn d a b e s
  | .idiv c sgn d a b => Sys2Proof.Machine.execIdiv c sgn d a b s
  | .irem c sgn d a b => Sys2Proof.Machine.execIrem c sgn d a b s
  | .imin c sgn d a b => Sys2Proof.Machine.execImin c sgn d a b s
  | .imax c sgn d a b => Sys2Proof.Machine.execImax c sgn d a b s
  | .iabs c sat d a => Sys2Proof.Machine.execIabs c sat d a s
  | .ineg c sat d a => Sys2Proof.Machine.execIneg c sat d a s
  | .isad c sgn d a b e => Sys2Proof.Machine.execIsad c sgn d a b e s
  | .iaddImm c sgn sat d a imm => Sys2Proof.Machine.execIaddImm c sgn sat d a imm s
  | .isubImm c sgn sat d a imm => Sys2Proof.Machine.execIsubImm c sgn sat d a imm s
  | .imulImm c d a imm => Sys2Proof.Machine.execImulImm c d a imm s
  | .iminImm c sgn d a imm => Sys2Proof.Machine.execIminImm c sgn d a imm s
  | .imaxImm c sgn d a imm => Sys2Proof.Machine.execImaxImm c sgn d a imm s
  | .popc c d a => Sys2Proof.Machine.execPopc c d a s
  | .clz c d a => Sys2Proof.Machine.execClz c d a s
  | .ctz c d a => Sys2Proof.Machine.execCtz c d a s
  | .brev c d a => Sys2Proof.Machine.execBrev c d a s
  | .bfe c sx d a b => Sys2Proof.Machine.execBfe c sx d a b s
  | .bfi c d a b e => Sys2Proof.Machine.execBfi c d a b e s
  | .and c d a b => Sys2Proof.Machine.execAnd c d a b s
  | .or c d a b => Sys2Proof.Machine.execOr c d a b s
  | .xor c d a b => Sys2Proof.Machine.execXor c d a b s
  | .andn c d a b => Sys2Proof.Machine.execAndn c d a b s
  | .shl c d a b => Sys2Proof.Machine.execShl c d a b s
  | .shr c d a b => Sys2Proof.Machine.execShr c d a b s
  | .sar c d a b => Sys2Proof.Machine.execSar c d a b s
  | .rol c d a b => Sys2Proof.Machine.execRol c d a b s
  | .shf c right d a b e => Sys2Proof.Machine.execShf c right d a b e s
  | .andImm c d a imm => Sys2Proof.Machine.execAndImm c d a imm s
  | .orImm c d a imm => Sys2Proof.Machine.execOrImm c d a imm s
  | .xorImm c d a imm => Sys2Proof.Machine.execXorImm c d a imm s
  | .andnImm c d a imm => Sys2Proof.Machine.execAndnImm c d a imm s
  | .shlImm c d a imm => Sys2Proof.Machine.execShlImm c d a imm s
  | .shrImm c d a imm => Sys2Proof.Machine.execShrImm c d a imm s
  | .sarImm c d a imm => Sys2Proof.Machine.execSarImm c d a imm s
  | .rolImm c d a imm => Sys2Proof.Machine.execRolImm c d a imm s
  | .lea c sh zx d a b => Sys2Proof.Machine.execLea c sh zx d a b s
  | .mov c x2 d a => Sys2Proof.Machine.execMov c x2 d a s
  | .movi c mode d imm => Sys2Proof.Machine.execMovi c mode d imm s
  | .sel c ua d a b pc => Sys2Proof.Machine.execSel c ua d a b pc s
  | .cmpi c cc sgn pd a b => Sys2Proof.Machine.execCmpi c cc sgn pd a b s
  | .plop c op pd pa pb => Sys2Proof.Machine.execPlop c op pd pa pb s
  | .ptov c d pa => Sys2Proof.Machine.execPtov c d pa s
  | .vtop c nz pd a => Sys2Proof.Machine.execVtop c nz pd a s
  | .fadd c fmt rnd d a b => Sys2Proof.Machine.execFadd c fmt rnd d a b s
  | .fsub c fmt rnd d a b => Sys2Proof.Machine.execFsub c fmt rnd d a b s
  | .fmul c fmt rnd d a b => Sys2Proof.Machine.execFmul c fmt rnd d a b s
  | .ffma c fmt rnd d a b e => Sys2Proof.Machine.execFfma c fmt rnd d a b e s
  | .fmin c fmt nan d a b => Sys2Proof.Machine.execFmin c fmt nan d a b s
  | .fmax c fmt nan d a b => Sys2Proof.Machine.execFmax c fmt nan d a b s
  | .fcmp c fmt cc pd a b => Sys2Proof.Machine.execFcmp c fmt cc pd a b s
  | .frcp c fmt d a => Sys2Proof.Machine.execFrcp c fmt d a s
  | .frsq c fmt d a => Sys2Proof.Machine.execFrsq c fmt d a s
  | .fsqrt c fmt rnd d a => Sys2Proof.Machine.execFsqrt c fmt rnd d a s
  | .fdiv c fmt rnd d a b => Sys2Proof.Machine.execFdiv c fmt rnd d a b s
  | .fex2 c fmt d a => Sys2Proof.Machine.execFex2 c fmt d a s
  | .flg2 c fmt d a => Sys2Proof.Machine.execFlg2 c fmt d a s
  | .fsin c fmt d a => Sys2Proof.Machine.execFsin c fmt d a s
  | .fcos c fmt d a => Sys2Proof.Machine.execFcos c fmt d a s
  | .ftanh c fmt d a => Sys2Proof.Machine.execFtanh c fmt d a s
  | .fclass c fmt d a => Sys2Proof.Machine.execFclass c fmt d a s
  | .frnd c fmt rnd x d a => Sys2Proof.Machine.execFrnd c fmt rnd x d a s
  | .fscale c fmt rnd d a b => Sys2Proof.Machine.execFscale c fmt rnd d a b s
  | .fgetexp c fmt d a => Sys2Proof.Machine.execFgetexp c fmt d a s
  | .fcvt c dfmt sfmt rnd idx d a => Sys2Proof.Machine.execFcvt c dfmt sfmt rnd idx d a s
  | .ftoi c dfmt sfmt rnd idx d a => Sys2Proof.Machine.execFtoi c dfmt sfmt rnd idx d a s
  | .itof c dfmt sfmt rnd idx d a => Sys2Proof.Machine.execItof c dfmt sfmt rnd idx d a s
  | .cvtsr c dfmt sfmt idx d a b => Sys2Proof.Machine.execCvtsr c dfmt sfmt idx d a b s
  | .qmx c ef bf16 d a => Sys2Proof.Machine.execQmx c ef bf16 d a s
  | .dqmx c ef bf16 rnd d a b => Sys2Proof.Machine.execDqmx c ef bf16 rnd d a b s
  | .qgb c bands bf16 d a b => Sys2Proof.Machine.execQgb c bands bf16 d a b s
  | .dqgb c bf16 rnd d a b e => Sys2Proof.Machine.execDqgb c bf16 rnd d a b e s
  | .ivset c f pf d a => Sys2Proof.Machine.execIvset c f pf d a s
  | .ivmk c f pf d a b => Sys2Proof.Machine.execIvmk c f pf d a b s
  | .ivadd c f d a b => Sys2Proof.Machine.execIvadd c f d a b s
  | .ivsub c f d a b => Sys2Proof.Machine.execIvsub c f d a b s
  | .ivmul c f d a b => Sys2Proof.Machine.execIvmul c f d a b s
  | .ivdiv c f d a b => Sys2Proof.Machine.execIvdiv c f d a b s
  | .ivfma c f d a b e => Sys2Proof.Machine.execIvfma c f d a b e s
  | .ivsqr c f d a => Sys2Proof.Machine.execIvsqr c f d a s
  | .ivsqrt c f d a => Sys2Proof.Machine.execIvsqrt c f d a s
  | .ivrcp c f d a => Sys2Proof.Machine.execIvrcp c f d a s
  | .ivexp c f d a => Sys2Proof.Machine.execIvexp c f d a s
  | .ivlog c f d a => Sys2Proof.Machine.execIvlog c f d a s
  | .ivabs c f d a => Sys2Proof.Machine.execIvabs c f d a s
  | .ivmin c f d a b => Sys2Proof.Machine.execIvmin c f d a b s
  | .ivmax c f d a b => Sys2Proof.Machine.execIvmax c f d a b s
  | .ivisect c f d a b => Sys2Proof.Machine.execIvisect c f d a b s
  | .ivhull c f d a b => Sys2Proof.Machine.execIvhull c f d a b s
  | .ivlo c f pf d a => Sys2Proof.Machine.execIvlo c f pf d a s
  | .ivhi c f pf d a => Sys2Proof.Machine.execIvhi c f pf d a s
  | .ivmid c f pf d a => Sys2Proof.Machine.execIvmid c f pf d a s
  | .ivwid c f pf d a => Sys2Proof.Machine.execIvwid c f pf d a s
  | .ivcmp c f rel pd a b => Sys2Proof.Machine.execIvcmp c f rel pd a b s
  | .ivin c f pf pd a b => Sys2Proof.Machine.execIvin c f pf pd a b s
  | .ivsplit c f hi d a b => Sys2Proof.Machine.execIvsplit c f hi d a b s
  | .ivbis c f qn d pb a => Sys2Proof.Machine.execIvbis c f qn d pb a s
  | .ivld c f d r => Sys2Proof.Machine.execIvld c f d r s
  | .ivst c f r e => Sys2Proof.Machine.execIvst c f r e s
  | .shfl c mode ud d a b pc => Sys2Proof.Machine.execShfl c mode ud d a b pc s
  | .lpush c d a b pc => Sys2Proof.Machine.execLpush c d a b pc s
  | .vote c mode ud d pa => Sys2Proof.Machine.execVote c mode ud d pa s
  | .redux c op ud d a => Sys2Proof.Machine.execRedux c op ud d a s
  | .scan c op excl d a => Sys2Proof.Machine.execScan c op excl d a s
  | .matchLanes c d a pc => Sys2Proof.Machine.execMatchLanes c d a pc s
  | .partset c width => Sys2Proof.Machine.execPartset c width s
  | .rng c out d b => Sys2Proof.Machine.execRng c out d b s
  | .rngkey c a => Sys2Proof.Machine.execRngkey c a s
  | .rngskip c d a => Sys2Proof.Machine.execRngskip c d a s
  | .talloc c d a => Sys2Proof.Machine.execTalloc c d a s
  | .tfree c a b => Sys2Proof.Machine.execTfree c a b s
  | .tld c sz a r => Sys2Proof.Machine.execTld c sz a r s
  | .tst c sz a r => Sys2Proof.Machine.execTst c sz a r s
  | .mbq c fmt set1 a b => Sys2Proof.Machine.execMbq c fmt set1 a b s
  | .mma c af bf acc row col d a b e => Sys2Proof.Machine.execMma c af bf acc row col d a b e s
  | .mzero c ac a => Sys2Proof.Machine.execMzero c ac a s
  | .mmask c len d a => Sys2Proof.Machine.execMmask c len d a s
  | .maccr c ac d a b => Sys2Proof.Machine.execMaccr c ac d a b s
  | .maccw c ac a b e => Sys2Proof.Machine.execMaccw c ac a b e s
  | .mcvt c df s32 rnd k1 col a b => Sys2Proof.Machine.execMcvt c df s32 rnd k1 col a b s
  | .mrowmax c col d a e => Sys2Proof.Machine.execMrowmax c col d a e s
  | .mrowexp c mul row col d a b e => Sys2Proof.Machine.execMrowexp c mul row col d a b e s
  | .mstat c sel d => Sys2Proof.Machine.execMstat c sel d s
  | .ld c sz ed d e r => Sys2Proof.Machine.execLd c sz ed d e r s
  | .st c sz r e => Sys2Proof.Machine.execSt c sz r e s
  | .ldu c sz ed d e r => Sys2Proof.Machine.execLdu c sz ed d e r s
  | .lds c sz d r => Sys2Proof.Machine.execLds c sz d r s
  | .sts c sz r e => Sys2Proof.Machine.execSts c sz r e s
  | .gather c sz zx d a r => Sys2Proof.Machine.execGather c sz zx d a r s
  | .scatter c sz zx a e r => Sys2Proof.Machine.execScatter c sz zx a e r s
  | .pref c l2 r => Sys2Proof.Machine.execPref c l2 r s
  | .atom c op w64 scope d r e => Sys2Proof.Machine.execAtom c op w64 scope d r e s
  | .acas c w64 scope d r e => Sys2Proof.Machine.execAcas c w64 scope d r e s
  | .red c op w64 scope r e => Sys2Proof.Machine.execRed c op w64 scope r e s
  | .crdecl c op fmt rsel a b e => Sys2Proof.Machine.execCrdecl c op fmt rsel a b e s
  | .crrel c rsel a => Sys2Proof.Machine.execCrrel c rsel a s
  | .fence c scope => Sys2Proof.Machine.execFence c scope s
  | .chend c => Sys2Proof.Machine.execChend c s
  | .cinv c scope r len => Sys2Proof.Machine.execCinv c scope r len s
  | .cwb c r len => Sys2Proof.Machine.execCwb c r len s
  | .wbind c mma a e => Sys2Proof.Machine.execWbind c mma a e s
  | .wkick c a => Sys2Proof.Machine.execWkick c a s
  | .wdrop c a => Sys2Proof.Machine.execWdrop c a s
  | .wstat c d a => Sys2Proof.Machine.execWstat c d a s
  | .rcopy c a b => Sys2Proof.Machine.execRcopy c a b s
  | .cntinc c scope rsel a b => Sys2Proof.Machine.execCntinc c scope rsel a b s
  | .cntrd c rsel d a => Sys2Proof.Machine.execCntrd c rsel d a s
  | .seal c rsel a b e => Sys2Proof.Machine.execSeal c rsel a b e s
  | .unseal c rsel a b => Sys2Proof.Machine.execUnseal c rsel a b s
  | .coll c a => Sys2Proof.Machine.execColl c a s
  | .kvld c f32 rsel d a b pc => Sys2Proof.Machine.execKvld c f32 rsel d a b pc s
  | .kvappend c valid spec rsel a b e => Sys2Proof.Machine.execKvappend c valid spec rsel a b e s
  | .kvmask c op rsel a b => Sys2Proof.Machine.execKvmask c op rsel a b s
  | .kvcompact c rsel a => Sys2Proof.Machine.execKvcompact c rsel a s
  | .kvfmt c rsel a b => Sys2Proof.Machine.execKvfmt c rsel a b s
  | .kvprov c rsel a b => Sys2Proof.Machine.execKvprov c rsel a b s
  | .kvshare c rsel a b => Sys2Proof.Machine.execKvshare c rsel a b s
  | .graft c ro rsel a b => Sys2Proof.Machine.execGraft c ro rsel a b s
  | .repair c rsel a b => Sys2Proof.Machine.execRepair c rsel a b s
  | .beammap c rsel a b e => Sys2Proof.Machine.execBeammap c rsel a b e s
  | .topk c a => Sys2Proof.Machine.execTopk c a s
  | .bar c task group => Sys2Proof.Machine.execBar c task group s
  | .barc c op cb r => Sys2Proof.Machine.execBarc c op cb r s
  | .barq c op task group r => Sys2Proof.Machine.execBarq c op task group r s
  | .cwait c rsel cont a b off => Sys2Proof.Machine.execCwait c rsel cont a b off s
  | .spawn c qn wm1 b => Sys2Proof.Machine.execSpawn c qn wm1 b s
  | .launch c rsel a => Sys2Proof.Machine.execLaunch c rsel a s
  | .shoot c rsel d a b => Sys2Proof.Machine.execShoot c rsel d a b s
  | .resolve c d a b => Sys2Proof.Machine.execResolve c d a b s
  | .role c r => Sys2Proof.Machine.execRole c r s
  | .trap c imm => Sys2Proof.Machine.execTrap c imm s
  | .resume c mode a => Sys2Proof.Machine.execResume c mode a s
  | .sread c x2 d num => Sys2Proof.Machine.execSread c x2 d num s
  | .swrite c x2 num a => Sys2Proof.Machine.execSwrite c x2 num a s
  | .tlbinv c other all rsel a b => Sys2Proof.Machine.execTlbinv c other all rsel a b s
  | .brk c imm => Sys2Proof.Machine.execBrk c imm s
  | .ckpt c other a => Sys2Proof.Machine.execCkpt c other a s
  | .pwrhint c cls => Sys2Proof.Machine.execPwrhint c cls s
  | .illegalOpcode word => Sys2Proof.Machine.execIllegalOpcode word s
  | .lineRefetch core line => Sys2Proof.Machine.execLineRefetch core line s
  | .fixedLatencyWriteback warp => Sys2Proof.Machine.execFixedLatencyWriteback warp s
  | .tagReturn warp tag resp => Sys2Proof.Machine.execTagReturn warp tag resp s
  | .switchMarkerResume warp => Sys2Proof.Machine.execSwitchMarkerResume warp s
  | .chunkLimitEnd warp => Sys2Proof.Machine.execChunkLimitEnd warp s
  | .chunkPosition warp => Sys2Proof.Machine.execChunkPosition warp s
  | .commitComplete pos => Sys2Proof.Machine.execCommitComplete pos s
  | .waveAtomicExecute warp => Sys2Proof.Machine.execWaveAtomicExecute warp s
  | .walkComplete site realm offset => Sys2Proof.Machine.execWalkComplete site realm offset s
  | .invalidationAck id => Sys2Proof.Machine.execInvalidationAck id s
  | .entryChangeAck id => Sys2Proof.Machine.execEntryChangeAck id s
  | .mmaGrant core => Sys2Proof.Machine.execMmaGrant core s
  | .passComplete id => Sys2Proof.Machine.execPassComplete id s
  | .quarterCopy id => Sys2Proof.Machine.execQuarterCopy id s
  | .runnerGranule job resp => Sys2Proof.Machine.execRunnerGranule job resp s
  | .windowCopyStart job => Sys2Proof.Machine.execWindowCopyStart job s
  | .windowLanded job => Sys2Proof.Machine.execWindowLanded job s
  | .rcopyComplete job => Sys2Proof.Machine.execRcopyComplete job s
  | .engineCommandStop job cause detail => Sys2Proof.Machine.execEngineCommandStop job cause detail s
  | .topkComplete job => Sys2Proof.Machine.execTopkComplete job s
  | .collComplete job => Sys2Proof.Machine.execCollComplete job s
  | .launchGroupListRead launch => Sys2Proof.Machine.execLaunchGroupListRead launch s
  | .launchReady launch => Sys2Proof.Machine.execLaunchReady launch s
  | .taskStart launch => Sys2Proof.Machine.execTaskStart launch s
  | .spawnRecordMove core => Sys2Proof.Machine.execSpawnRecordMove core s
  | .spawnedTaskStart part => Sys2Proof.Machine.execSpawnedTaskStart part s
  | .launchComplete launch => Sys2Proof.Machine.execLaunchComplete launch s
  | .cwaitWake warp frag peer => Sys2Proof.Machine.execCwaitWake warp frag peer s
  | .sleepWake warp frag => Sys2Proof.Machine.execSleepWake warp frag s
  | .kvldWaitGather warp tag => Sys2Proof.Machine.execKvldWaitGather warp tag s
  | .repairProbeDone job => Sys2Proof.Machine.execRepairProbeDone job s
  | .repairLayerDone job => Sys2Proof.Machine.execRepairLayerDone job s
  | .beammapFlip job => Sys2Proof.Machine.execBeammapFlip job s
  | .shootRetireComplete part path => Sys2Proof.Machine.execShootRetireComplete part path s
  | .pruneWarpStop warp => Sys2Proof.Machine.execPruneWarpStop warp s
  | .trapRecordWrite part => Sys2Proof.Machine.execTrapRecordWrite part s
  | .handlerTaskStart part => Sys2Proof.Machine.execHandlerTaskStart part s
  | .timerTrap warp => Sys2Proof.Machine.execTimerTrap warp s
  | .waitProgress o => Sys2Proof.Machine.execWaitProgress o s
  | .queueProgress warp queue => Sys2Proof.Machine.execQueueProgress warp queue s
  | .haltAck part => Sys2Proof.Machine.execHaltAck part s
  | .preemptWarpStop warp => Sys2Proof.Machine.execPreemptWarpStop warp s
  | .incrementalBankCopy warp bank => Sys2Proof.Machine.execIncrementalBankCopy warp bank s
  | .powerOn fail => Sys2Proof.Machine.execPowerOn fail s
  | .cwbComplete job => Sys2Proof.Machine.execCwbComplete job s
  | .crPartialEvict range core elem => Sys2Proof.Machine.execCrPartialEvict range core elem s
  | .collMessage job m => Sys2Proof.Machine.execCollMessage job m s
  | .collTimeout job rank => Sys2Proof.Machine.execCollTimeout job rank s
  | .collAbortMessage job rank => Sys2Proof.Machine.execCollAbortMessage job rank s
  | .linkDown station => Sys2Proof.Machine.execLinkDown station s
  | .ualinkRequestTimeout warp tag station => Sys2Proof.Machine.execUalinkRequestTimeout warp tag station s
  | .peerReadRequest a edition bytes => Sys2Proof.Machine.execPeerReadRequest a edition bytes s
  | .peerWriteRequest a data => Sys2Proof.Machine.execPeerWriteRequest a data s
  | .peerAtomicRequest a op => Sys2Proof.Machine.execPeerAtomicRequest a op s
  | .peerCommitMessage station path => Sys2Proof.Machine.execPeerCommitMessage station path s
  | .peerPruneMessage station path => Sys2Proof.Machine.execPeerPruneMessage station path s
  | .peerStoreAck id resp => Sys2Proof.Machine.execPeerStoreAck id resp s
  | .hostRdmaWrite qpn rkey va data => Sys2Proof.Machine.execHostRdmaWrite qpn rkey va data s
  | .hostRdmaRead qpn rkey va len => Sys2Proof.Machine.execHostRdmaRead qpn rkey va len s
  | .hostSendInbound qpn words imm => Sys2Proof.Machine.execHostSendInbound qpn words imm s
  | .hostSendAck window words => Sys2Proof.Machine.execHostSendAck window words s
  | .hostAtomicVerb qpn => Sys2Proof.Machine.execHostAtomicVerb qpn s
  | .heatBudgetPeriod cluster budget hot cool => Sys2Proof.Machine.execHeatBudgetPeriod cluster budget hot cool s
  | .eccCorrected part => Sys2Proof.Machine.execEccCorrected part s
  | .eccUncorrectable t => Sys2Proof.Machine.execEccUncorrectable t s
  | .patrolScrub addr bad => Sys2Proof.Machine.execPatrolScrub addr bad s
  | .translationParityError index => Sys2Proof.Machine.execTranslationParityError index s
  | .machineCheck part kind unit => Sys2Proof.Machine.execMachineCheck part kind unit s
  | .bootPhaseTimeout phase unit => Sys2Proof.Machine.execBootPhaseTimeout phase unit s
  | .mgmtReport => Sys2Proof.Machine.execMgmtReport s
  | .mgmtReset nonce key sig => Sys2Proof.Machine.execMgmtReset nonce key sig s
  | .partitionCreate => Sys2Proof.Machine.execPartitionCreate s
  | .partitionStart => Sys2Proof.Machine.execPartitionStart s
  | .partitionStop => Sys2Proof.Machine.execPartitionStop s
  | .partitionDestroy => Sys2Proof.Machine.execPartitionDestroy s
  | .vacate part => Sys2Proof.Machine.execVacate part s
  | .reopen part => Sys2Proof.Machine.execReopen part s
  | .dbgctlHalt part => Sys2Proof.Machine.execDbgctlHalt part s
  | .ctxctlValidWrite warp value => Sys2Proof.Machine.execCtxctlValidWrite warp value s
  | .vspillWrite warp value => Sys2Proof.Machine.execVspillWrite warp value s
  | .enckeyWrite warp index value => Sys2Proof.Machine.execEnckeyWrite warp index value s
  | .mbwinWrite warp index value => Sys2Proof.Machine.execMbwinWrite warp index value s
  | .apentWrite warp index value => Sys2Proof.Machine.execApentWrite warp index value s
  | .ecccntRead warp => Sys2Proof.Machine.execEcccntRead warp s
  | .sysregWrite warp num value => Sys2Proof.Machine.execSysregWrite warp num value s
  | .linkReturn station => Sys2Proof.Machine.execLinkReturn station s
  | .queuePairError qpn => Sys2Proof.Machine.execQueuePairError qpn s
  | .priorityFlowControl port prio pause => Sys2Proof.Machine.execPriorityFlowControl port prio pause s
  | .ecnMarking qpn => Sys2Proof.Machine.execEcnMarking qpn s

end Sys2Proof.Machine
end

