-- ==== Sys2Proof/Machine/Next.lean ====
section
/-! DEFINITION. Which step moves next: time passes, what follows by itself settles, then the agenda's turn, else the first event whose conditions
hold, else the fragment whose last issue lies furthest back (R368, R369), else nothing. -/

namespace Sys2Proof.Machine

/-! ### Time (R484, DESIGN CHOICE, log 6) -/

/-- One step takes a cycle of the model and free amounts of WALL and CLOCK; CLOCK of a warp whose context is out stands still
(DESIGN CHOICE, log 6). -/
def tick (s : State) : List Upd :=
  let k := s.model.free
  [.model { s.model with cycle := s.model.cycle + 1, free := k + 1 },
   .dev { s.dev with wall := s.dev.wall + BitVec.ofNat 64 (Config.wallStep k) }]
  ++ (s.warps.filter (fun w => w.mode != .halted)).map (fun w => .warp { w with clock := w.clock + BitVec.ofNat 64 (Config.clockStep k) })

/-- The state in which a step chooses its turn. -/
def beginStep (s : State) : State := s.run (inOrder [tick, settle, settleRepairs, settleArrivals, settlePlacements, settleWaiting] s)

/-! ### Events that may happen -/

/-- A step of the device would change its state (DESIGN CHOICE, log 10). -/
def changes (s : State) (o : Host.Outcome State Fault Refusal) : Bool :=
  match o with
  | .next t => decide (t ≠ s)
  | .fault _ => true
  | .refused _ => true

/-- Events of warps: results that land and return, markers, limits, commits, waves, KV waits. -/
def warpEvents (s : State) (w : Warp) : List Instr :=
  List.flatten [
    (if w.inflight.any (fun x => decide (x.at_ ≤ s.model.cycle)) then [.fixedLatencyWriteback w.id] else []),
    ((w.regs.tags.filter (fun e => !e.returned && (e.awaits == .unit || e.awaits == .late))).map (fun e => .tagReturn w.id e.tag .none)),
    (if w.holds.contains .switch then [.switchMarkerResume w.id] else []),
    (if w.chunk.phase == .open_ && decide (512 ≤ w.chunk.count) then [.chunkLimitEnd w.id] else []),
    (if w.chunk.phase == .ended then [.chunkPosition w.id] else []),
    (if w.waveAsk.isSome then [.waveAtomicExecute w.id] else []),
    ((w.regs.tags.filter (fun e => !e.returned && e.awaits == .kv)).map (fun e => .kvldWaitGather w.id e.tag))]

/-- Events of parked fragments: counters that have reached their targets, wake-up times. -/
def parkEvents (w : Warp) : List Instr :=
  w.regs.frags.flatMap (fun f => match f.park with
    | .counter .. => [.cwaitWake w.id f.id none]
    | .sleep _ => [.sleepWake w.id f.id]
    | _ => [])

/-- Events of commands. -/
def jobEvents (j : Job) : List Instr :=
  match j.kind with
  | .window => [.windowCopyStart j.id, .windowLanded j.id, .runnerGranule j.id .none]
  | .rcopy => [.runnerGranule j.id .none, .rcopyComplete j.id]
  | .cwb => [.cwbComplete j.id]
  | .kvcompact => [.runnerGranule j.id .none]
  | .beammap => [.runnerGranule j.id .none, .beammapFlip j.id]
  | .topk => [.runnerGranule j.id .none, .topkComplete j.id]
  | .coll => [.runnerGranule j.id .none, .collComplete j.id]
  | .repair => [.repairProbeDone j.id, .repairLayerDone j.id]
  | .ckpt => [.runnerGranule j.id .none]
  | .placement => []

/-- Events of the matrix engines. -/
def matrixEvents (m : Matrix) : List Instr :=
  m.copies.map (fun c => .quarterCopy c.id)
  ++ (m.entries.filter (·.granted)).map (fun e => .passComplete e.id)
  ++ (nub (m.entries.map (·.core))).map .mmaGrant

/-- Events of a launch. -/
def launchEvents (s : State) (l : Launch) : List Instr :=
  match l.phase with
  | .issued => []
  | .lists => [.launchGroupListRead l.uid]
  | .waiting => [.launchReady l.uid]
  | .ready =>
    (if s.tasks.any (fun t => t.handler.isNone && t.part == l.part && t.launch == l.num) && !wantsStart s l then []
     else [.launchComplete l.uid, .taskStart l.uid])

/-- Events of a partition: records, handlers, spawned tasks, retiring paths, the halt. -/
def partEvents (p : Part) : List Instr :=
  List.flatten [
    (if p.trapQueue.isEmpty && p.notices.isEmpty then [] else [.trapRecordWrite p.num]),
    (if p.haltLine then [.haltAck p.num] else []),
    (if p.records.any (fun r => r.handler == 0 && !r.released) then [.handlerTaskStart p.num] else []),
    (if p.spawnArea.isEmpty then [] else [.spawnedTaskStart p.num]),
    ((p.shoots.filter (fun x => !x.live)).map (fun x => .shootRetireComplete p.num x.path))]

/-- Events of time of one running warp, a save handler's in any of its waits (R389 to R392). -/
def warpTimes (s : State) (w : Warp) : List Instr :=
  if w.mode != .run then [] else List.flatten [
    if w.timer = 0 then [] else [.timerTrap w.id],
    (w.regs.frags.filter (fun f => f.park != .run || (s.task? w.task).any (fun t => t.phase == 1))).map (fun f => .waitProgress (.fragment w.id f.id)),
    if w.waveAsk.isSome then [.waitProgress (.wave w.id)] else [],
    (w.regs.tags.filter (fun e => !e.returned && e.awaits == .kv)).map (fun e => .waitProgress (.kvld w.id e.tag)),
    if s.model.tried.any (fun x => x.1 == w.id) || w.holds.contains .spawnRoom then (List.range 8).map (fun q => .queueProgress w.id q) else []]

/-- Events of time: deadlines and watchdogs (R390 to R392, R485). -/
def timeEvents (s : State) : List Instr :=
  List.flatten [
    s.warps.flatMap (warpTimes s),
    (s.mat.entries.filter (fun e => !e.granted)).map (fun e => .waitProgress (.entry e.id)),
    (s.launches.filter (fun l => l.phase == .waiting)).flatMap (fun l => (List.range l.deps.length).map (fun k => .waitProgress (.dependence l.uid k)))]

/-- The events to look at, in order (DESIGN CHOICE, log 10). -/
def candidates (s : State) : List Instr :=
  List.flatten [
    (if s.dev.booted || s.dev.safe then [] else [.powerOn none]),
    (s.warps.filter (fun w => pruned s w.part w.path && !w.hnd)).map (fun w => .pruneWarpStop w.id),
    s.warps.flatMap (warpEvents s),
    (s.order.commits.filter (completeReady s)).map (fun c => .commitComplete c.pos),
    s.parts.flatMap partEvents,
    s.xl.invals.map (fun i => .invalidationAck i.id),
    s.xl.changes.map (fun i => .entryChangeAck i.id),
    matrixEvents s.mat,
    s.eng.jobs.flatMap jobEvents,
    s.warps.flatMap parkEvents,
    s.launches.flatMap (launchEvents s),
    (s.queues.spawns.filter (fun q => !q.2.isEmpty)).map (fun q => .spawnRecordMove q.1),
    (s.warps.filter (fun w => (s.task? w.task).any (fun t => t.phase == 3))).map (fun w => .preemptWarpStop w.id),
    timeEvents s]

/-- The operation that PARTCTL runs (R433, R434). -/
def partStep (s : State) : Option (Host.Outcome State Fault Refusal) :=
  match operation s with
  | some (1, _) => some (execPartitionCreate s)
  | some (2, _) => some (execPartitionStart s)
  | some (3, n) => if (s.part? n).any (·.haltLine) then none else some (execPartitionStop s)
  | some (4, _) => some (execPartitionDestroy s)
  | _ => none

/-- What follows a link that is down (R454), and what VACATE sets to work (R384). -/
def otherStep (s : State) : Option (Host.Outcome State Fault Refusal) :=
  ((s.net.down.map (fun st => execLinkDown st s))
    ++ (s.parts.filter vacateBusy).map (fun p => execVacate p.num s)
    ++ (s.parts.filter (fun p => decide (vacateCount p < vacateHeld p))).map (fun p => execReopen p.num s)).find? (changes s)

/-- The first event whose conditions hold. -/
def nextEvent (s : State) : Option (Host.Outcome State Fault Refusal) :=
  ((partStep s).or (otherStep s)).or (((candidates s).find? (fun i => changes s (exec i s))).map (fun i => exec i s))

/-! ### Issue (R368, R369) -/

/-- A fragment may be tried: nothing parks or holds it, its distance has elapsed, and it has not just been found to wait. -/
def mayTry (s : State) (w : Warp) (f : Frag) : Bool :=
  partWorks s w.part && mayIssue w f && decide (w.stallUntil ≤ s.model.cycle) && !s.model.tried.contains (w.id, f.id)

/-- The fragments that may be tried. -/
def tryList (s : State) : List (Warp × Frag) :=
  s.warps.flatMap (fun w => (w.regs.frags.filter (mayTry s w)).map (fun f => (w, f)))

/-- Fragment a goes before b: its last issue lies further back; then the lower warp place, then the lower lane. -/
def issuesBefore (a b : Warp × Frag) : Bool :=
  decide (a.2.last < b.2.last) || (a.2.last == b.2.last && (decide (a.1.place < b.1.place)
    || (a.1.place == b.1.place && (decide (a.1.id < b.1.id) || (a.1.id == b.1.id && decide (lowLane a.2.mask < lowLane b.2.mask))))))

/-- The first of some fragments in that order. -/
def firstFrag (l : List (Warp × Frag)) : Option (Warp × Frag) :=
  match l with
  | [] => none
  | x :: rest => some (rest.foldl (fun a b => if issuesBefore b a then b else a) x)

/-- The slot at a fragment's PC is a uniform one; a slot that cannot be fetched counts as none. -/
def uniformSlot (s : State) (w : Warp) (f : Frag) : Bool :=
  match fetchLine s w f.pc with
  | .ok (_, line) => (lineSlot line (f.pc.toNat % 8)).getLsbD 2
  | .error _ => false

/-- The slot at a fragment's PC asks to issue together with the next one (R37, R40). -/
def pairSlot (s : State) (w : Warp) (f : Frag) : Bool :=
  match fetchLine s w f.pc with
  | .ok (_, line) => linePair (lineWord line) (f.pc.toNat % 8)
  | .error _ => false

/-- What chooses among fragments: a quadrant's scheduler, or its uniform port (R369). -/
def chooser (s : State) (x : Warp × Frag) : Nat × Nat × Bool := (x.1.core, x.1.quadrant, uniformSlot s x.1 x.2)

/-- What a chooser chooses: a fragment that yielded is passed over while another is there, for at most 32 cycles. -/
def choice (s : State) (l : List (Warp × Frag)) : Option (Warp × Frag) :=
  (firstFrag (l.filter (fun x => !(x.2.yields && decide (s.model.cycle < x.2.last + 32))))).or (firstFrag l)

/-- The fragment whose second slot of a pair is to issue: the two slots issue one after the other (R40; DESIGN CHOICE, log 1). -/
def pairedFragment (s : State) (l : List (Warp × Frag)) : Option (Warp × Frag) :=
  s.model.paired.bind (fun p => l.find? (fun x => x.1.id == p.1 && x.2.id == p.2.1 && x.2.pc == p.2.2))

/-- The fragment that issues next: a pair's second slot, else, of what the choosers choose, the one whose last issue lies furthest back (R369;
DESIGN CHOICE, log 1). -/
def nextFragment (s : State) : Option (Warp × Frag) :=
  let l := tryList s
  let at_ := l.map (fun x => (chooser s x, x))
  (pairedFragment s l).or
    (firstFrag ((nub (at_.map (·.1))).filterMap (fun k => choice s ((at_.filter (fun x => x.1 == k)).map (·.2)))))

/-- An attempt to issue has moved its warp: an instruction issued, its chunk ended, it trapped, or it is gone. -/
def moved (w : Warp) (v : Option Warp) : Bool :=
  match v with
  | none => true
  | some v => v.nextSeq != w.nextSeq || v.chunk.phase != w.chunk.phase || v.mode != .run

/-- Forget which fragments were tried. -/
def retry (s : State) : List Upd := [.cur none, .model { s.model with tried := [] }]

/-- The state after an attempt of a fragment to issue: one that did not move its warp is not tried again until something has changed. pair: the
PC of the second slot, where the slot asks for a pair. -/
def endIssue (w : Warp) (fid : Nat) (pair : Option DWord) (t : State) : State :=
  if moved w (t.warp? w.id) then t.run [.cur none, .model { t.model with tried := [], paired := pair.map (fun pc => (w.id, fid, pc)) }]
  else t.run [.cur none, .model { t.model with tried := t.model.tried ++ [(w.id, fid)] }]

/-- The same of an outcome. -/
def afterIssue (w : Warp) (fid : Nat) (pair : Option DWord) (o : Host.Outcome State Fault Refusal) : Host.Outcome State Fault Refusal :=
  match o with
  | .next t => .next (endIssue w fid pair t)
  | .fault f => .fault f
  | .refused r => .refused r

/-- The state in which a fragment's instruction executes. -/
def issuing (w : Warp) (f : Frag) (s : State) : State := s.run [.cur (some (w.id, f.id))]

/-- A fragment issues: its slot is fetched, decoded and executed; a fetch that fails traps; a line that fails its parity is fetched once
more. -/
def issueTurn (w : Warp) (f : Frag) (s : State) : Host.Outcome State Fault Refusal :=
  match fetchSlot s w f with
  | .trap t => .next (endIssue w f.id none (s.run (takeTrap w.id f.id [] t s)))
  | .again core a => execLineRefetch core a (s.run (keepLine w a false s))
  | .instr i _ => afterIssue w f.id (if pairSlot s w f then some (nextPc f.pc) else none) (exec i (issuing w f s))

/-! ### One step -/

/-- The outcome of an event: what waits is tried again. -/
def afterEvent (o : Host.Outcome State Fault Refusal) : Host.Outcome State Fault Refusal :=
  match o with
  | .next t => .next (t.run (retry t))
  | .fault f => .fault f
  | .refused r => .refused r

/-- The step of the device that comes by itself (DESIGN CHOICE, log 1). -/
def ownTurn (s : State) : Host.Outcome State Fault Refusal :=
  match nextEvent s with
  | some o => afterEvent o
  | none =>
    match nextFragment s with
    | some (w, f) => issueTurn w f s
    | none => .next (s.run (retry s))

/-- The walks of an issue start early or complete late (R266, R515; DESIGN CHOICE, log 104). -/
def walking (stale late : Bool) (s : State) : State := s.run [.model { s.model with stale := stale, late := late }]

/-- A fragment may issue now. -/
def mayTurn (s : State) (w : Warp) (f : Frag) : Bool := partWorks s w.part && mayIssue w f && decide (w.stallUntil ≤ s.model.cycle)

/-- A fragment issues with walks that started early: they tell only where they fail, for an entry read too early is read again. -/
def walkTurn (w : Warp) (f : Frag) (stale late : Bool) (s : State) : Host.Outcome State Fault Refusal :=
  let go (stale : Bool) : Host.Outcome State Fault Refusal :=
    match issueTurn w f (walking stale late s) with
    | .next t => .next (walking false false t)
    | .fault x => .fault x
    | .refused r => .refused r
  match go stale with
  | .next t => if !stale || (t.warp? w.id).any (fun v => v.mode != .run || v.regs.tags.any (fun e => e.awaits == .late)) then .next t else go false
  | .fault x => .fault x
  | .refused r => .refused r

/-- A turn of the agenda. -/
def agendaTurn (t : Turn) (s : State) : Host.Outcome State Fault Refusal :=
  match t with
  | .event i => afterEvent (exec i s)
  | .issue wid fid =>
    match s.warp? wid with
    | none => .next s
    | some w =>
      match w.frag? fid with
      | none => .next s
      | some f => if mayTurn s w f then issueTurn w f s else .next s
  | .walk wid fid stale late =>
    match s.warp? wid with
    | none => .next s
    | some w =>
      match w.frag? fid with
      | none => .next s
      | some f => if mayTurn s w f then walkTurn w f stale late s else .next s
  | .flash slot image => .next (s.run (writeFlash slot image s))

/-- The turn of a step (DESIGN CHOICE, log 1). -/
def takeTurn (s : State) : Host.Outcome State Fault Refusal :=
  match s.model.agenda with
  | [] => ownTurn s
  | t :: rest => agendaTurn t (s.run [.model { s.model with agenda := rest }])

/-! ### A word as the first instruction (DESIGN CHOICE, log 3) -/

/-- Bytes of a 64-bit value at an address. -/
def dwordCells (a v : Nat) : List (Nat × Byte) := cellsAt a (valBytes 8 v)

/-- Where the placed program's line stands. -/
def placeAddr : Nat := 0x1000

/-- The cells of a realm table, two page tables that map the first GiB onto itself, and one line whose slot 0 holds a word. -/
def placeCells (w : Nat) : List (Nat × Byte) :=
  let nop : Slot := BitVec.ofNat 80 0x00400000000000000000
  let slots := [BitVec.ofNat 80 w, nop, nop, nop, nop, nop]
  cellsAt placeAddr (mkLine (mkLineWord 0x3F slots) slots)
  ++ dwordCells 0x10000 (0x1E000000 + 0x10 * 2 ^ 32)
  ++ dwordCells 0x100000 (0x200000 + 9 + 3 * 2 ^ 52)
  ++ dwordCells 0x200000 (13 + 3 * 2 ^ 52)

/-- Partition 0 as a boot leaves it, its control program at the placed line in realm 0. -/
def placePart : Part :=
  let all : Word := BitVec.allOnes 32
  { Part.reset 0 with
    state := .created
    desc := [all, all, all, all, all, all, all, 0xFFFF, all, all, all, all, 1, 1, 0x40, 0, BitVec.ofNat 32 placeAddr, 0, 0] ++ List.replicate 13 0 }

/-- A state whose next step fetches and runs a word: the device has booted, only partition 0's control program runs, and it stands before
the word. It stands for the load of a program that boot makes from flash (R459, R460; DESIGN CHOICE, log 3). -/
def placeWord (s : State) (w : Nat) : State :=
  let r := State.reset
  let s1 : State := { s with
    mem := (placeCells w).foldl (fun m c => memPut m c.1 (c.2 ^^^ blankByte s c.1)) s.mem
    dev := { s.dev with booted := true, safe := false, partctl := 0 }
    parts := r.parts.map (fun p => if p.num = 0 then placePart else p)
    launches := [], tasks := [], warps := [], order := r.order, xl := r.xl, mat := r.mat, eng := r.eng
    net := { s.net with down := [], rings := [], peerPending := [], arrivals := [] }, queues := r.queues
    model := { s.model with agenda := [], tried := [], paired := none }, cur := none }
  s1.run (startControl placePart s1)

end Sys2Proof.Machine
end

