-- ==== Sys2Proof/Machine/Step.lean ====
section
/-! DEFINITION. One step of the machine: time passes and what follows by itself settles, then one turn is taken. -/

namespace Sys2Proof.Machine

/-- One step (R368; DESIGN CHOICE, log 1). -/
def step (s : State) : Host.Outcome State Fault Refusal := takeTurn (beginStep s)

/-- The state with a word placed where the next step fetches its instruction (DESIGN CHOICE, log 3): a line's slot has 80 bits. -/
def State.withFetchWord (s : State) (nbits w : Nat) : State := placeWord s (w % 2 ^ nbits)

end Sys2Proof.Machine
end

