-- ==== Sys2Proof/Safety.lean ====
section
/-! DEFINITION. What a run is, what a safe state of one is, and the terms in which claims say what an issued instruction does. -/

namespace Sys2Proof.Machine

/-- n steps end in t. -/
def steps : Nat → State → State → Prop
  | 0, s, t => s = t
  | n + 1, s, t => ∃ u, step s = .next u ∧ steps n u t

/-- A run from s ends in t. -/
def Reaches (s t : State) : Prop := ∃ n, steps n s t

/-- No step of a run from s stops the model. -/
def NeverStops (s : State) : Prop := ∀ t, Reaches s t → ∃ u, step t = .next u

/-- No warp stands on a trap and no partition is halted: nothing has gone wrong in s. -/
def Quiet (s : State) : Prop := s.warps.all (fun w => w.mode == .run) = true ∧ s.parts.all (fun p => !p.haltLine) = true

/-- The invariant of the machine's state: memory is in its canonical form, with no byte at an address that exists on no part (R430; DESIGN CHOICE, log 2); the
partitions are the eight of R431, in order; no two warps and no two tasks have one identity; a partition's launch record names one launch (R358). -/
def Coherent (s : State) : Prop :=
  Memory.wf s.mem = true ∧ s.parts.map (·.num) = List.range 8 ∧ (s.warps.map (·.id)).Nodup ∧ (s.tasks.map (·.id)).Nodup
    ∧ (s.launches.map (fun l => (l.part, l.num))).Nodup

/-! ### Results -/

/-- What an instruction gives: k words in each of some lanes for registers d, d+1, …, uniform or vector; a predicate's values in some
lanes; the flags it raises. -/
structure Result where
  uni : Bool
  d : Nat
  k : Nat
  lanes : List Nat
  word : Nat → Nat → Word
  pred : Option Nat
  plane : List Nat
  tri : Nat → Tri
  flags : Flags

/-- No result. -/
def Result.nothing : Result := ⟨false, 0, 0, [], fun _ _ => 0, none, [], fun _ => .no, 0⟩

/-- k words in every executing lane, with flags (R48). -/
def Result.ofWords (u : Bool) (d : BitVec 8) (k : Nat) (g : Go) (f : Nat → Nat → Word) (flags : Flags) : Result :=
  ⟨u, d.toNat, k, g.lanes, f, none, [], fun _ => .no, flags⟩

/-- One word in every executing lane (R48). -/
def Result.ofWord (u : Bool) (d : BitVec 8) (g : Go) (f : Nat → Word) : Result := .ofWords u d 1 g (fun l _ => f l) 0

/-- One 64-bit value in every executing lane, its low word in the lower register (R5, R48). -/
def Result.ofPair (u : Bool) (d : BitVec 8) (g : Go) (f : Nat → DWord) : Result :=
  .ofWords u d 2 g (fun l j => if j = 0 then lowWord (f l) else highWord (f l)) 0

/-- A predicate in every executing lane, with flags (R20). -/
def Result.ofPred (p : BitVec 3) (g : Go) (f : Nat → Tri) (flags : Flags) : Result :=
  ⟨false, 0, 0, [], fun _ _ => 0, some p.toNat, g.lanes, f, flags⟩

/-- The registers r hold the result. A uniform destination takes the last of the lanes; a queue port holds nothing (R50); p7 stays true
(R20). -/
def Result.shows (x : Result) (r : Regs) : Prop :=
  (x.uni = false → ∀ l ∈ x.lanes, ∀ j, j < x.k → r.vreg (x.d + j) l = x.word l j)
  ∧ (x.uni = true → ∀ l, x.lanes.getLast? = some l → ∀ j, j < x.k → x.d + j < 56 → r.ureg (x.d + j) = x.word l j)
  ∧ (∀ p, x.pred = some p → ∀ l ∈ x.plane, r.pred p l = if p = 7 then 1 else bitsOfTri (x.tri l))

/-- The special registers of a warp beside its vector, uniform and predicate registers and FPSTAT, and its split records (R20, R94,
R167, R186, R409 to R412). -/
def Regs.specials (r : Regs) : List DWord × List (BitVec 16) × Word × Word × Sparse 64 × Sparse 32 × Sparse 32 × Word × List Word × List SplitRec :=
  (r.mm, r.realm, r.fpctl, r.role, r.stream, r.draw, r.biscnt, r.spcnt, r.qbind, r.splits)

/-- Every register that is no destination of the result holds in new what it holds in old, and so do the special registers, FPSTAT
apart. -/
def Result.keeps (x : Result) (old new : Regs) : Prop :=
  (∀ n l, l < 32 → ¬(x.uni = false ∧ l ∈ x.lanes ∧ x.d ≤ n ∧ n < x.d + x.k) → new.vreg n l = old.vreg n l)
  ∧ (∀ n, n < 56 → ¬(x.uni = true ∧ x.d ≤ n ∧ n < x.d + x.k) → new.ureg n = old.ureg n)
  ∧ (∀ p l, l < 32 → ¬(x.pred = some p ∧ l ∈ x.plane) → new.pred p l = old.pred p l)
  ∧ new.specials = old.specials

/-- The elements the result pushes: the words of uniform destinations that name queue ports (R50). -/
def Result.pushed (x : Result) (g : Go) : List (QueueId × QItem) :=
  if x.uni then x.lanes.flatMap (fun l => (List.range x.k).filterMap (fun j =>
    if 56 ≤ x.d + j then (boundQueue g.w (x.d + j - 56)).map (fun q => (q, x.word l j, g.f.clock)) else none))
  else []

/-! ### What an instruction that issues does -/

/-- What an instruction does: its register results; the words it reads and writes and the bytes it buffers (R225, R227); whether its chunk
ends after it, and what waits for the chunk's position then (R233); what its tag waits for and keeps; what else changes in its chunk
record, in its warp and in the rest of the state. -/
structure Effect where
  res : Result := .nothing
  reads : List Place := []
  touches : List Place := []
  stores : List (Place × Byte) := []
  ends : Bool := false
  after : List Deferred := []
  stays : Bool := false
  awaits : Await := .unit
  mark : TagEntry → TagEntry := id
  chunk : Chunk → Chunk := id
  turn : Warp → Warp := id
  upds : State → List Upd := fun _ => []

/-- The current fragment f of warp w issues an instruction with the control fields c and the needs n, and some lane executes it: the gate
is open and answers g (the warp after its waits, the lanes, the operands as read), and the chunk has room for what x records. -/
structure Issues (c : Ctl) (n : Need) (s : State) (w : Warp) (f : Frag) (g : Go) (x : Effect) : Prop where
  cur : s.current = some (w, f)
  go : gate c n s w f = .go g
  lanes : g.lanes ≠ []
  room : overLimit g.w.chunk (g.keys n) { reads := x.reads, touches := x.touches, stores := x.stores } = false

/-- What a reader sees of a fragment but for its clock and issue times: identity, mask, PC, path number, tile width, park. -/
def Frag.face (f : Frag) : Nat × LaneMask × DWord × Nat × BitVec 3 × Park := (f.id, f.mask, f.pc, f.pid, f.part, f.park)

/-- The fragment that issued stands at the next slot (R43) unless the effect moves it, its siblings where they were. The chunk has
buffered the bytes, records the words, and keeps what waits for its position. -/
structure Passed (g : Go) (x : Effect) (v : Warp) : Prop where
  id : v.id = g.w.id
  frags : v.regs.frags.map Frag.face = g.w.regs.frags.map (fun y =>
    if y.id = g.f.id ∧ x.stays = false then { y with pc := nextPc y.pc }.face else y.face)
  chunk : ∃ k : Chunk, v.chunk = { x.chunk k with accesses := v.chunk.accesses }
    ∧ k.bytes = x.stores.reverse ++ g.w.chunk.bytes
    ∧ k.after = g.w.chunk.after ++ x.after
    ∧ k.pushes = g.w.chunk.pushes ++ x.res.pushed g
    ∧ (∀ p ∈ x.reads, p.word ∈ k.reads) ∧ (∀ p ∈ x.touches, p.word ∈ k.writes) ∧ (∀ b ∈ x.stores, b.1.word ∈ k.writes)
    ∧ (x.ends = true → k.phase = .ended)
  mode : v.mode = g.w.mode
  pending : v.pending = g.w.pending

/-- Where the result stands in the warp v: at once, readers waiting lat cycles for it and for its flags, when the instruction has a fixed
latency (R60, R95); at once when it has neither a latency nor a tag; otherwise under the tag, where it waits to return and to be
consumed (R61, R63). -/
def Effect.lands (x : Effect) (c : Ctl) (n : Need) (now : Nat) (g : Go) (v : Warp) : Prop :=
  if n.lat ≠ 0 then
    x.res.shows v.regs ∧ x.res.keeps g.w.regs v.regs ∧ v.regs.fpstat = g.w.regs.fpstat ∧ v.regs.tags = g.w.regs.tags
    ∧ ∃ m, v.inflight = g.w.inflight ++ [m] ∧ m.at_ = now + n.lat ∧ m.flags = x.res.flags
  else if c.alloc = 0 then
    x.res.shows v.regs ∧ x.res.keeps g.w.regs v.regs ∧ v.regs.fpstat = fpstatOr g.w.regs.fpstat x.res.flags
    ∧ v.regs.tags = g.w.regs.tags ∧ v.inflight = g.w.inflight
  else
    v.regs.v = g.w.regs.v ∧ v.regs.u = g.w.regs.u ∧ v.regs.p = g.w.regs.p ∧ v.regs.fpstat = g.w.regs.fpstat
    ∧ v.regs.specials = g.w.regs.specials ∧ v.inflight = g.w.inflight
    ∧ ∃ e, v.regs.tags = g.w.regs.tags ++ [x.mark e] ∧ e.tag = c.alloc.toNat ∧ e.awaits = x.awaits ∧ e.returned = false
        ∧ e.raises = none ∧ e.flags = x.res.flags ∧ x.res.shows (g.w.regs.putAll e.writes)
        ∧ x.res.keeps g.w.regs (g.w.regs.putAll e.writes)

/-- The instruction i, if a slot encodes it, does x, with the control fields c and the needs n: whenever it issues where ok holds, and no flag it raises has its
trap enabled, exec answers a next state. Queues have given up what was popped; the warp has the result and stands behind the instruction,
with the further changes x names; the rest of the state has changed as x says and no further. -/
def Does (i : Instr) (c : Ctl) (n : Need) (ok : State → Go → Prop) (x : State → Go → Effect) : Prop :=
  i.wf = true → ∀ s w f g, Issues c n s w f g (x s g) → ok s g → trappingFlags g.w.regs.fpctl (x s g).res.flags = 0 →
    ∃ v, let t := s.run (g.upds ++ [.warp ((x s g).turn v)])
      exec i s = .next (t.run ((x s g).upds t)) ∧ Passed g (x s g) v ∧ (x s g).lands c n s.model.cycle g v

/-- The instruction i, if a slot encodes it, completes: wherever it issues, with no trap of R96 enabled, exec answers a next state, in which
the warp has gone on behind it. -/
def Completes (i : Instr) (c : Ctl) (n : Need) : Prop :=
  i.wf = true → ∀ s w f g, Issues c n s w f g {} → (∀ fl, trappingFlags g.w.regs.fpctl fl = 0) →
    ∃ t v, exec i s = .next t ∧ t.warp? g.w.id = some v ∧ v.mode = g.w.mode ∧ v.regs.frags.map Frag.face
      = g.w.regs.frags.map (fun y => if y.id = g.f.id then { y with pc := nextPc y.pc }.face else y.face)

/-- The union of the flags of lanes. -/
def orFlags (ls : List Nat) (f : Nat → Flags) : Flags := ls.foldl (fun m l => m ||| f l) 0

/-- The instruction i computes r and does nothing else. -/
def Computes (i : Instr) (c : Ctl) (n : Need) (r : Go → Result) : Prop :=
  Does i c n (fun _ _ => True) (fun _ g => { res := r g })

/-- The instruction i, issued where no lane executes it, writes nothing and pops, pushes and buffers nothing; its control fields still act: a
tag it allocates has returned at once, with nothing held (R57). -/
def PassesIdle (i : Instr) (c : Ctl) (n : Need) : Prop :=
  i.wf = true → ∀ s w f g, s.current = some (w, f) → gate c n s w f = .go g → g.lanes = [] → overLimit g.w.chunk [] {} = false →
    ∃ v, exec i s = .next (s.run [.warp v]) ∧ Passed g {} v
      ∧ v.regs.v = g.w.regs.v ∧ v.regs.u = g.w.regs.u ∧ v.regs.p = g.w.regs.p ∧ v.regs.fpstat = g.w.regs.fpstat
      ∧ v.regs.specials = g.w.regs.specials ∧ v.inflight = g.w.inflight ∧ v.chunk.pops = g.w.chunk.pops
      ∧ v.stallUntil = s.model.cycle + max c.stall.toNat 1 ∧ v.holds = (if c.sw then g.w.holds ++ [.switch] else g.w.holds)
      ∧ (n.lat ≠ 0 ∨ c.alloc = 0 → v.regs.tags = g.w.regs.tags)
      ∧ (n.lat = 0 → c.alloc ≠ 0 → ∃ e, v.regs.tags = g.w.regs.tags ++ [e] ∧ e.tag = c.alloc.toNat ∧ e.returned = true ∧ e.writes = []
        ∧ e.flags = 0 ∧ e.raises = none)

/-- The instruction i, whose lanes raise the flags fl where ok holds, takes FP_TRAP where a lane raises one whose trap FPCTL enables: nothing is
written, and the record has those flags and every flag raised; a tagged one gives its tag the trap, which its consumer takes (R96). -/
def TrapsOnFlags (i : Instr) (c : Ctl) (n : Need) (ok : Go → Prop) (fl : Go → Nat → Flags) : Prop :=
  i.wf = true → ∀ s w f g, Issues c n s w f g {} → ok g →
    let all := orFlags g.lanes (fl g)
    let ls := g.lanes.filter (fun l => trappingFlags g.w.regs.fpctl (fl g l) != 0)
    let t : TrapReq := { raise .fpTrap with
      lanes := some (maskOf ls), d17 := (trappingFlags g.w.regs.fpctl all).setWidth 32
      d18 := all.setWidth 32 ||| (readFlags c n g).setWidth 32 }
    ls ≠ [] →
      (n.lat ≠ 0 ∨ c.alloc = 0 → exec i s = .next (s.run (takeTrap w.id g.f.id [] t s)))
      ∧ (n.lat = 0 → c.alloc ≠ 0 → ∃ v e, exec i s = .next (s.run (g.upds ++ [.warp v])) ∧ v.regs.tags = g.w.regs.tags ++ [e]
        ∧ e.tag = c.alloc.toNat ∧ e.writes = [] ∧ e.flags = 0 ∧ e.raises = some { t with ppc := some g.f.pc }
        ∧ v.regs.v = g.w.regs.v ∧ v.regs.u = g.w.regs.u ∧ v.regs.p = g.w.regs.p ∧ v.regs.fpstat = g.w.regs.fpstat)

/-- One word per lane, computed from the operands; lat 0: under its tag. -/
def ComputesWord (i : Instr) (c : Ctl) (lat : Nat) (d : BitVec 8) (srcs : List Field) (f : Go → Nat → Word) : Prop :=
  Computes i c (needs [dstField c.u d 1] srcs lat) (fun g => .ofWord c.u d g (f g))

/-- One pair per lane. -/
def ComputesPair (i : Instr) (c : Ctl) (lat : Nat) (d : BitVec 8) (srcs : List Field) (f : Go → Nat → DWord) : Prop :=
  Computes i c (needs [dstField c.u d 2] srcs lat) (fun g => .ofPair c.u d g (f g))

/-- One predicate value per lane. -/
def ComputesPred (i : Instr) (c : Ctl) (lat : Nat) (pd : BitVec 3) (srcs : List Field) (preds : List Nat) (f : Go → Nat → Tri) : Prop :=
  Computes i c { needs [] srcs lat with preds := preds, pdsts := [pd.toNat] } (fun g => .ofPred pd g (f g) 0)

/-- k words per lane with the flags the lanes raise. -/
def ComputesFlags (i : Instr) (c : Ctl) (lat : Nat) (d : BitVec 8) (k : Nat) (srcs : List Field) (f : Go → Nat → List Word × Flags) : Prop :=
  Computes i c (needs [dstField c.u d k] srcs lat)
    (fun g => .ofWords c.u d k g (fun l j => (f g l).1.getD j 0) (orFlags g.lanes (fun l => (f g l).2)))

/-! ### Numbers in plain terms, as the rules state them -/

/-- A register as a signed or an unsigned integer (R120). -/
def num (unsigned : Bool) (x : Word) : Int := if unsigned then x.toNat else x.toInt

/-- An integer put into 32 bits: wrapped, or clamped to the signed or unsigned range (R120). -/
def fit (unsigned sat : Bool) (n : Int) : Word :=
  if sat = false then BitVec.ofInt 32 n
  else if unsigned then (if n < 0 then 0 else if 2 ^ 32 ≤ n then 0xFFFFFFFF else BitVec.ofInt 32 n)
  else if n < -2 ^ 31 then 0x80000000 else if 2 ^ 31 ≤ n then 0x7FFFFFFF else BitVec.ofInt 32 n

end Sys2Proof.Machine
end

