-- ==== Sys2Proof/Certificates/Slice0/Obligations.lean ====
section
/-! DEFINITION. The statements about the machine. -/

open Sys2Proof Sys2Proof.Machine

/-! ### Integer instructions -/

/-- IADD and ISUB, register and immediate forms: the sum or difference of the operands, clamped with SAT, else modulo 2^32 (R117, R119,
R120), landing after 4 cycles.
IADDC and ISUBB: the sum with the carry of p[C], the difference with its borrow, and the carry or borrow back into p[C]; an undecided
predicate is no carry (R117, R120). -/
def Obligations.IntegerSums : Prop :=
  (∀ (c : Ctl) (sgn sat : Bool) (d : BitVec 8),
  (∀ a b, ComputesWord (.iadd c sgn sat d a b) c 4 d [srcField a 1, srcField b 1]
    (fun g l => fit sgn sat (num sgn (g.rd 0 0 l) + num sgn (g.rd 1 0 l))))
  ∧ (∀ a b, ComputesWord (.isub c sgn sat d a b) c 4 d [srcField a 1, srcField b 1]
    (fun g l => fit sgn sat (num sgn (g.rd 0 0 l) - num sgn (g.rd 1 0 l))))
  ∧ (∀ a imm, ComputesWord (.iaddImm c sgn sat d a imm) c 4 d [dstField c.u a 1]
    (fun g l => fit sgn sat (num sgn (g.rd 0 0 l) + num sgn imm)))
  ∧ (∀ a imm, ComputesWord (.isubImm c sgn sat d a imm) c 4 d [dstField c.u a 1]
    (fun g l => fit sgn sat (num sgn (g.rd 0 0 l) - num sgn imm))))
  ∧ (∀ (c : Ctl) (d : BitVec 8) (a b : Src) (pc : BitVec 3),
  let n : Need := { needs [dstField c.u d 1] [srcField a 1, srcField b 1] 4 with preds := [pc.toNat], pdsts := [pc.toNat] }
  let one (g : Go) (l : Nat) : Nat := if g.tri pc.toNat l = .yes then 1 else 0
  Computes (.iaddc c d a b pc) c n (fun g =>
    { Result.ofWord c.u d g (fun l => BitVec.ofNat 32 ((g.rd 0 0 l).toNat + (g.rd 1 0 l).toNat + one g l)) with
      pred := some pc.toNat, plane := g.lanes,
      tri := fun l => if 2 ^ 32 ≤ (g.rd 0 0 l).toNat + (g.rd 1 0 l).toNat + one g l then .yes else .no })
  ∧ Computes (.isubb c d a b pc) c n (fun g =>
    { Result.ofWord c.u d g (fun l => g.rd 0 0 l - g.rd 1 0 l - BitVec.ofNat 32 (one g l)) with
      pred := some pc.toNat, plane := g.lanes,
      tri := fun l => if (g.rd 0 0 l).toNat < (g.rd 1 0 l).toNat + one g l then .yes else .no }))

/-- IMUL, IMULH, IMAD and IMADW, and IMUL with an immediate: the low word, the high word, the fitted sum with C, the 64-bit sum with the
pair C (R117, R119, R120). -/
def Obligations.IntegerMultiply : Prop := ∀ (c : Ctl) (d : BitVec 8),
  (∀ a b, ComputesWord (.imul c d a b) c 5 d [srcField a 1, srcField b 1] (fun g l => g.rd 0 0 l * g.rd 1 0 l))
  ∧ (∀ a imm, ComputesWord (.imulImm c d a imm) c 5 d [dstField c.u a 1] (fun g l => g.rd 0 0 l * imm))
  ∧ (∀ sgn a b, ComputesWord (.imulh c sgn d a b) c 5 d [srcField a 1, srcField b 1]
    (fun g l => BitVec.ofInt 32 ((num sgn (g.rd 0 0 l) * num sgn (g.rd 1 0 l)) / 2 ^ 32)))
  ∧ (∀ sgn sat a b e, ComputesWord (.imad c sgn sat d a b e) c 5 d [srcField a 1, srcField b 1, srcField e 1]
    (fun g l => fit sgn sat (num sgn (g.rd 0 0 l) * num sgn (g.rd 1 0 l) + num sgn (g.rd 2 0 l))))
  ∧ (∀ sgn a b e, ComputesPair (.imadw c sgn d a b e) c 5 d [srcField a 1, srcField b 1, srcField e 2]
    (fun g l => BitVec.ofInt 64 (num sgn (g.rd 0 0 l) * num sgn (g.rd 1 0 l)) + g.rd2 2 0 l))

/-- IDIV and IREM: quotient towards zero and its remainder; a divisor 0 gives all ones and the dividend; the most negative number by -1
gives itself and 0 (R121). -/
def Obligations.IntegerDivide : Prop := ∀ (c : Ctl) (sgn : Bool) (d : BitVec 8) (a b : Src),
  ComputesWord (.idiv c sgn d a b) c 0 d [srcField a 1, srcField b 1] (fun g l =>
    let x := g.rd 0 0 l
    let y := g.rd 1 0 l
    if y = 0 then 0xFFFFFFFF else if sgn then x / y else x.sdiv y)
  ∧ ComputesWord (.irem c sgn d a b) c 0 d [srcField a 1, srcField b 1] (fun g l =>
    let x := g.rd 0 0 l
    let y := g.rd 1 0 l
    if y = 0 then x else if sgn then x % y else x.srem y)

/-- IMIN, IMAX with their immediate forms, IABS, INEG and ISAD (R117, R119, R120). -/
def Obligations.IntegerOrder : Prop := ∀ (c : Ctl) (sgn sat : Bool) (d : BitVec 8),
  (∀ a b, ComputesWord (.imin c sgn d a b) c 4 d [srcField a 1, srcField b 1]
    (fun g l => if num sgn (g.rd 1 0 l) ≤ num sgn (g.rd 0 0 l) then g.rd 1 0 l else g.rd 0 0 l))
  ∧ (∀ a b, ComputesWord (.imax c sgn d a b) c 4 d [srcField a 1, srcField b 1]
    (fun g l => if num sgn (g.rd 0 0 l) ≤ num sgn (g.rd 1 0 l) then g.rd 1 0 l else g.rd 0 0 l))
  ∧ (∀ a imm, ComputesWord (.iminImm c sgn d a imm) c 4 d [dstField c.u a 1]
    (fun g l => if num sgn imm ≤ num sgn (g.rd 0 0 l) then imm else g.rd 0 0 l))
  ∧ (∀ a imm, ComputesWord (.imaxImm c sgn d a imm) c 4 d [dstField c.u a 1]
    (fun g l => if num sgn (g.rd 0 0 l) ≤ num sgn imm then imm else g.rd 0 0 l))
  ∧ (∀ a, ComputesWord (.iabs c sat d a) c 4 d [srcField a 1] (fun g l => fit false sat |(g.rd 0 0 l).toInt|))
  ∧ (∀ a, ComputesWord (.ineg c sat d a) c 4 d [srcField a 1] (fun g l => fit false sat (-(g.rd 0 0 l).toInt)))
  ∧ (∀ a b e, ComputesWord (.isad c sgn d a b e) c 5 d [srcField a 1, srcField b 1, srcField e 1]
    (fun g l => BitVec.ofInt 32 |num sgn (g.rd 0 0 l) - num sgn (g.rd 1 0 l)| + g.rd 2 0 l))

/-- POPC, CLZ, CTZ and BREV, each by the bits of the operand: a count of the 1 bits; the zeros above the highest 1 bit; the zeros below
the lowest; bit i from bit 31 - i (R122, R123).
BFE and BFI: the field at POS of LEN bits (LEN above 32 is 32), its high bit extended with SX; the insertion of A's low bits there,
none above bit 31 (R122, R123). -/
def Obligations.BitInstructions : Prop :=
  (∀ (c : Ctl) (d : BitVec 8) (a : Src),
  let bits (x : Word) : List Bool := (List.range 32).map (fun i => x.getLsbD i)
  ComputesWord (.popc c d a) c 4 d [srcField a 1] (fun g l => BitVec.ofNat 32 ((bits (g.rd 0 0 l)).count true))
  ∧ ComputesWord (.clz c d a) c 4 d [srcField a 1] (fun g l => BitVec.ofNat 32 ((bits (g.rd 0 0 l)).reverse.takeWhile (! ·)).length)
  ∧ ComputesWord (.ctz c d a) c 4 d [srcField a 1] (fun g l => BitVec.ofNat 32 ((bits (g.rd 0 0 l)).takeWhile (! ·)).length)
  ∧ ComputesWord (.brev c d a) c 4 d [srcField a 1] (fun g l => (g.rd 0 0 l).reverse))
  ∧ (∀ (c : Ctl) (d : BitVec 8) (a b : Src),
  (∀ sx, ComputesWord (.bfe c sx d a b) c 4 d [srcField a 1, srcField b 1] (fun g l =>
    let pos := (g.rd 1 0 l).toNat % 256
    let len := min ((g.rd 1 0 l).toNat / 256 % 256) 32
    let x := (g.rd 0 0 l).toNat / 2 ^ pos % 2 ^ len
    if sx = true ∧ 0 < len ∧ 2 ^ len ≤ 2 * x then BitVec.ofInt 32 ((x : Int) - 2 ^ len) else BitVec.ofNat 32 x))
  ∧ (∀ e, ComputesWord (.bfi c d a b e) c 4 d [srcField a 1, srcField b 1, srcField e 1] (fun g l =>
    let pos := (g.rd 2 0 l).toNat % 256
    let len := (g.rd 2 0 l).toNat / 256 % 256
    let bit (i : Nat) : Bool := if pos ≤ i ∧ i < pos + len then (g.rd 0 0 l).getLsbD (i - pos) else (g.rd 1 0 l).getLsbD i
    BitVec.ofNat 32 ((List.range 32).map (fun i => if bit i then 2 ^ i else 0)).sum)))

/-- AND, OR, XOR and ANDN, bit by bit, with their immediate forms (R122, R123).
SHL, SHR, SAR, ROL and SHF, with the immediate forms of the first four: amounts of 32 or more shift every bit out, SAR fills with the
sign, ROL turns modulo 32, SHF shifts the pair A:B by at most 32 (R122, R123). -/
def Obligations.LogicAndShifts : Prop :=
  (∀ (c : Ctl) (d : BitVec 8),
  (∀ a b, ComputesWord (.and c d a b) c 4 d [srcField a 1, srcField b 1] (fun g l => g.rd 0 0 l &&& g.rd 1 0 l))
  ∧ (∀ a b, ComputesWord (.or c d a b) c 4 d [srcField a 1, srcField b 1] (fun g l => g.rd 0 0 l ||| g.rd 1 0 l))
  ∧ (∀ a b, ComputesWord (.xor c d a b) c 4 d [srcField a 1, srcField b 1] (fun g l => g.rd 0 0 l ^^^ g.rd 1 0 l))
  ∧ (∀ a b, ComputesWord (.andn c d a b) c 4 d [srcField a 1, srcField b 1] (fun g l => g.rd 0 0 l &&& ~~~(g.rd 1 0 l)))
  ∧ (∀ a imm, ComputesWord (.andImm c d a imm) c 4 d [dstField c.u a 1] (fun g l => g.rd 0 0 l &&& imm))
  ∧ (∀ a imm, ComputesWord (.orImm c d a imm) c 4 d [dstField c.u a 1] (fun g l => g.rd 0 0 l ||| imm))
  ∧ (∀ a imm, ComputesWord (.xorImm c d a imm) c 4 d [dstField c.u a 1] (fun g l => g.rd 0 0 l ^^^ imm))
  ∧ (∀ a imm, ComputesWord (.andnImm c d a imm) c 4 d [dstField c.u a 1] (fun g l => g.rd 0 0 l &&& ~~~imm)))
  ∧ (∀ (c : Ctl) (d : BitVec 8),
  let sar (x y : Word) : Word := BitVec.ofInt 32 (x.toInt / 2 ^ y.toNat)
  let rol (x y : Word) : Word := x.rotateLeft y.toNat
  (∀ a b, ComputesWord (.shl c d a b) c 4 d [srcField a 1, srcField b 1] (fun g l => g.rd 0 0 l <<< (g.rd 1 0 l).toNat))
  ∧ (∀ a b, ComputesWord (.shr c d a b) c 4 d [srcField a 1, srcField b 1] (fun g l => g.rd 0 0 l >>> (g.rd 1 0 l).toNat))
  ∧ (∀ a b, ComputesWord (.sar c d a b) c 4 d [srcField a 1, srcField b 1] (fun g l => sar (g.rd 0 0 l) (g.rd 1 0 l)))
  ∧ (∀ a b, ComputesWord (.rol c d a b) c 4 d [srcField a 1, srcField b 1] (fun g l => rol (g.rd 0 0 l) (g.rd 1 0 l)))
  ∧ (∀ a imm, ComputesWord (.shlImm c d a imm) c 4 d [dstField c.u a 1] (fun g l => g.rd 0 0 l <<< imm.toNat))
  ∧ (∀ a imm, ComputesWord (.shrImm c d a imm) c 4 d [dstField c.u a 1] (fun g l => g.rd 0 0 l >>> imm.toNat))
  ∧ (∀ a imm, ComputesWord (.sarImm c d a imm) c 4 d [dstField c.u a 1] (fun g l => sar (g.rd 0 0 l) imm))
  ∧ (∀ a imm, ComputesWord (.rolImm c d a imm) c 4 d [dstField c.u a 1] (fun g l => rol (g.rd 0 0 l) imm))
  ∧ (∀ right a b e, ComputesWord (.shf c right d a b e) c 4 d [srcField a 1, srcField b 1, srcField e 1] (fun g l =>
      let x := (g.rd 0 0 l).toNat * 2 ^ 32 + (g.rd 1 0 l).toNat
      let y := min (g.rd 2 0 l).toNat 32
      BitVec.ofNat 32 (if right then x / 2 ^ y else x * 2 ^ y / 2 ^ 32))))

/-- LEA, MOV, MOV.X2 and the three MOVI: A plus B shifted, B sign- or zero-extended; a copy; the immediate alone, sign-extended to a pair,
or as the high word of one (R124 to R126). -/
def Obligations.AddressMoves : Prop := ∀ (c : Ctl) (d : BitVec 8),
  (∀ sh zx a b, ComputesPair (.lea c sh zx d a b) c 4 d [srcField a 2, srcField b 1]
    (fun g l => BitVec.ofInt 64 ((g.rd2 0 0 l).toNat + num zx (g.rd 1 0 l) * 2 ^ sh.toNat)))
  ∧ (∀ a, ComputesWord (.mov c false d a) c 4 d [srcField a 1] (fun g l => g.rd 0 0 l))
  ∧ (∀ a, ComputesPair (.mov c true d a) c 4 d [srcField a 2] (fun g l => g.rd2 0 0 l))
  ∧ (∀ imm, ComputesWord (.movi c .plain d imm) c 4 d [] (fun _ _ => imm))
  ∧ (∀ imm, ComputesPair (.movi c .sx d imm) c 4 d [] (fun _ _ => BitVec.ofInt 64 imm.toInt))
  ∧ (∀ imm, ComputesPair (.movi c .hi d imm) c 4 d [] (fun _ _ => BitVec.ofNat 64 (imm.toNat * 2 ^ 32)))

/-- SEL, CMPI, PLOP, PTOV and VTOP: a choice by a three-valued predicate, an integer comparison, three-valued logic with false below
undecided below true, and moves between predicates and registers (R124, R127 to R130). -/
def Obligations.PredicateOps : Prop := ∀ (c : Ctl) (d : BitVec 8) (pd pa pb : BitVec 3),
  let level (t : Tri) : Nat := match t with | .no => 0 | .undecided => 1 | .yes => 2
  (∀ ua a b, Computes (.sel c ua d a b pa) c { needs [dstField c.u d 1] [srcField a 1, srcField b 1] 4 with preds := [pa.toNat] }
    (fun g => .ofWord c.u d g (fun l => if g.tri pa.toNat l = .yes ∨ (ua = true ∧ g.tri pa.toNat l = .undecided) then g.rd 0 0 l
      else g.rd 1 0 l)))
  ∧ (∀ cc sgn a b, ComputesPred (.cmpi c cc sgn pd a b) c 4 pd [srcField a 1, srcField b 1] []
    (fun g l => if ccHolds cc (compare (num sgn (g.rd 0 0 l)) (num sgn (g.rd 1 0 l))) then .yes else .no))
  ∧ ComputesPred (.plop c .and pd pa pb) c 4 pd [] [pa.toNat, pb.toNat]
    (fun g l => if level (g.tri pa.toNat l) ≤ level (g.tri pb.toNat l) then g.tri pa.toNat l else g.tri pb.toNat l)
  ∧ ComputesPred (.plop c .or pd pa pb) c 4 pd [] [pa.toNat, pb.toNat]
    (fun g l => if level (g.tri pa.toNat l) ≤ level (g.tri pb.toNat l) then g.tri pb.toNat l else g.tri pa.toNat l)
  ∧ ComputesPred (.plop c .xor pd pa pb) c 4 pd [] [pa.toNat, pb.toNat]
    (fun g l => if g.tri pa.toNat l = .undecided ∨ g.tri pb.toNat l = .undecided then .undecided
      else if g.tri pa.toNat l = g.tri pb.toNat l then .no else .yes)
  ∧ ComputesPred (.plop c .not pd pa 0) c 4 pd [] [pa.toNat]
    (fun g l => if g.tri pa.toNat l = .undecided then .undecided else if g.tri pa.toNat l = .yes then .no else .yes)
  ∧ ComputesPred (.plop c .isu pd pa 0) c 4 pd [] [pa.toNat] (fun g l => if g.tri pa.toNat l = .undecided then .yes else .no)
  ∧ ComputesPred (.plop c .utot pd pa 0) c 4 pd [] [pa.toNat] (fun g l => if g.tri pa.toNat l = .no then .no else .yes)
  ∧ ComputesPred (.plop c .utof pd pa 0) c 4 pd [] [pa.toNat] (fun g l => if g.tri pa.toNat l = .yes then .yes else .no)
  ∧ Computes (.ptov c d pa) c { needs [dstField c.u d 1] [] 4 with preds := [pa.toNat] }
    (fun g => .ofWord c.u d g (fun l => if g.tri pa.toNat l = .no then 0 else if g.tri pa.toNat l = .yes then 1 else 2))
  ∧ (∀ a, ComputesPred (.vtop c true pd a) c 4 pd [srcField a 1] [] (fun g l => if g.rd 0 0 l = 0 then .no else .yes))
  ∧ (∀ a, ComputesPred (.vtop c false pd a) c 4 pd [srcField a 1] []
    (fun g l => if (g.rd 0 0 l).toNat % 4 = 0 then .no else if (g.rd 0 0 l).toNat % 4 = 1 then .yes else .undecided))

/-! ### Floating-point instructions -/

/-- FADD, FSUB, FMUL, FFMA, FSQRT and FDIV: the exact result of the operands as read (flushed with DENORM), rounded once in the direction
of RND or FPCTL, element by element in the packed formats, with its flags; FSQRT and FDIV under their tags (R131, R132, R134, R137).
Every other floating-point instruction completes where it issues: the fragment stands behind it (R42, R43). -/
def Obligations.FloatArithmetic : Prop := ∀ (c : Ctl) (fmt : FFmt) (rnd : Rnd) (d : BitVec 8) (a b e : Src),
  let f := elemSpec fmt
  let k := ffmtRegs fmt
  let lane (op : Bool → RMode → List FVal → Nat × Flags) (g : Go) (xs : List Nat) : List Word × Flags :=
    perElement fmt (onVals g.w.denorm f (op g.w.denorm (rmodeOf g.w.regs.fpctl rnd))) xs
  ComputesFlags (.fadd c fmt rnd d a b) c (fpLat fmt) d k [srcField a k, srcField b k]
    (fun g l => lane (fun dn m v => addVals dn f m (valAt v 0) (valAt v 1)) g [g.fop fmt 0 l, g.fop fmt 1 l])
  ∧ ComputesFlags (.fsub c fmt rnd d a b) c (fpLat fmt) d k [srcField a k, srcField b k]
    (fun g l => lane (fun dn m v => addVals dn f m (valAt v 0) (negVal (valAt v 1))) g [g.fop fmt 0 l, g.fop fmt 1 l])
  ∧ ComputesFlags (.fmul c fmt rnd d a b) c (fpLat fmt) d k [srcField a k, srcField b k]
    (fun g l => lane (fun dn m v => mulVals dn f m (valAt v 0) (valAt v 1)) g [g.fop fmt 0 l, g.fop fmt 1 l])
  ∧ ComputesFlags (.ffma c fmt rnd d a b e) c (fpLat fmt) d k [srcField a k, srcField b k, srcField e k]
    (fun g l => lane (fun dn m v => fmaVals dn f m (valAt v 0) (valAt v 1) (valAt v 2)) g [g.fop fmt 0 l, g.fop fmt 1 l, g.fop fmt 2 l])
  ∧ ComputesFlags (.fsqrt c fmt rnd d a) c 0 d k [srcField a k]
    (fun g l => lane (fun dn m v => sqrtVal dn f m (valAt v 0)) g [g.fop fmt 0 l])
  ∧ ComputesFlags (.fdiv c fmt rnd d a b) c 0 d k [srcField a k, srcField b k]
    (fun g l => lane (fun dn m v => divVals dn f m (valAt v 0) (valAt v 1)) g [g.fop fmt 0 l, g.fop fmt 1 l])
  ∧ (∀ nan, let n := needs [dstField c.u d k] [srcField a k, srcField b k] (fpLat fmt)
    Completes (.fmin c fmt nan d a b) c n ∧ Completes (.fmax c fmt nan d a b) c n)
  ∧ (∀ cc pd, Completes (.fcmp c fmt cc pd a b) c { needs [] [srcField a k, srcField b k] (fpLat fmt) with pdsts := [pd.toNat] })
  ∧ (∀ x, Completes (.frnd c fmt rnd x d a) c (needs [dstField c.u d k] [srcField a k] (fpLat fmt)))
  ∧ Completes (.fclass c fmt d a) c (needs [dstField c.u d 1] [srcField a k] (fpLat fmt))
  ∧ Completes (.fgetexp c fmt d a) c (needs [dstField c.u d 1] [srcField a k] (fpLat fmt))
  ∧ Completes (.fscale c fmt rnd d a b) c (needs [dstField c.u d k] [srcField a k, srcField b 1] (fpLat fmt))
  ∧ (∀ i ∈ [Instr.frcp c fmt d a, .frsq c fmt d a, .fex2 c fmt d a, .flg2 c fmt d a, .fsin c fmt d a, .fcos c fmt d a, .ftanh c fmt d a],
    Completes i c (needs [dstField c.u d k] [srcField a k] 0))

/-- FMIN, FMAX, FCMP, FCLASS, FRND, FSCALE and FGETEXP (R135, R136, R138 to R141): FCLASS reads the encoding as it stands and raises
nothing; FSCALE's B and the results of FCLASS and FGETEXP are one register at every format (R133).
FRCP, FRSQ, FEX2, FLG2, FSIN, FCOS and FTANH give, under their tags, the model's function of the operand bits and the format, element by
element: R137 leaves open which value inside its bounds that is, and the model leaves it free (log 7, log 80). -/
def Obligations.FloatSelection : Prop :=
  (∀ (c : Ctl) (fmt : FFmt) (rnd : Rnd) (d : BitVec 8) (a b : Src),
  let f := elemSpec fmt
  let k := ffmtRegs fmt
  let low (g : Go) (i l : Nat) : Nat := g.fop fmt i l % 2 ^ f.width
  (∀ nan, ComputesFlags (.fmin c fmt nan d a b) c (fpLat fmt) d k [srcField a k, srcField b k]
    (fun g l => perElement fmt (onVals g.w.denorm f (fun v => minMaxVals f false nan (valAt v 0) (valAt v 1))) [g.fop fmt 0 l, g.fop fmt 1 l]))
  ∧ (∀ nan, ComputesFlags (.fmax c fmt nan d a b) c (fpLat fmt) d k [srcField a k, srcField b k]
    (fun g l => perElement fmt (onVals g.w.denorm f (fun v => minMaxVals f true nan (valAt v 0) (valAt v 1))) [g.fop fmt 0 l, g.fop fmt 1 l]))
  ∧ (∀ cc pd, Computes (.fcmp c fmt cc pd a b) c { needs [] [srcField a k, srcField b k] (fpLat fmt) with pdsts := [pd.toNat] }
    (fun g =>
      let x (i l : Nat) : FVal × Flags := readF g.w.denorm f (low g i l)
      let r (l : Nat) : Tri × Flags := fcmpVals cc (x 0 l).1 (x 1 l).1
      .ofPred pd g (fun l => (r l).1) (orFlags g.lanes (fun l => (x 0 l).2 ||| (x 1 l).2 ||| (r l).2))))
  ∧ ComputesWord (.fclass c fmt d a) c (fpLat fmt) d [srcField a k] (fun g l => BitVec.ofNat 32 (fclassBits f (low g 0 l)))
  ∧ (∀ x, ComputesFlags (.frnd c fmt rnd x d a) c (fpLat fmt) d k [srcField a k]
    (fun g l => perElement fmt (onVals g.w.denorm f (fun v => frndVal f (rmodeOf g.w.regs.fpctl rnd) x (valAt v 0))) [g.fop fmt 0 l]))
  ∧ ComputesFlags (.fscale c fmt rnd d a b) c (fpLat fmt) d k [srcField a k, srcField b 1]
    (fun g l => perElement fmt (onVals g.w.denorm f (fun v =>
      fscaleVal g.w.denorm f (rmodeOf g.w.regs.fpctl rnd) (valAt v 0) (g.rd 1 0 l).toInt)) [g.fop fmt 0 l])
  ∧ ComputesFlags (.fgetexp c fmt d a) c (fpLat fmt) d 1 [srcField a k]
    (fun g l =>
      let x := readF g.w.denorm f (low g 0 l)
      ([BitVec.ofInt 32 (fgetexpVal x.1).1], x.2 ||| (fgetexpVal x.1).2)))
  ∧ (∀ (c : Ctl) (fmt : FFmt) (d : BitVec 8) (a : Src),
  let k := ffmtRegs fmt
  let gives (i : Instr) (fn : SpFn) : Prop := ComputesFlags i c 0 d k [srcField a k]
    (fun g l => perElement fmt (fun xs => specialFn fn g.w.denorm fmt (xs.headD 0)) [g.fop fmt 0 l])
  gives (.frcp c fmt d a) .rcp ∧ gives (.frsq c fmt d a) .rsq ∧ gives (.fex2 c fmt d a) .ex2 ∧ gives (.flg2 c fmt d a) .lg2
  ∧ gives (.fsin c fmt d a) .sin ∧ gives (.fcos c fmt d a) .cos ∧ gives (.ftanh c fmt d a) .tanh)

/-- A conversion of dw bits from sw bits: element IDX of the source, converted, into element IDX of a narrow destination whose other bits
stay, or into the whole destination (R143); a queue port has no other bits (log 8). -/
def Converts (i : Instr) (c : Ctl) (dw sw : Nat) (idx : BitVec 3) (d : BitVec 8) (srcs : List Field)
    (op : State → Go → Nat → Nat → Nat × Flags) : Prop :=
  let port := c.u && decide (56 ≤ d.toNat)
  let k := if dw = 64 then 2 else 1
  Does i c (needs [dstField c.u d k] (srcs ++ if dw < 32 ∧ port = false then [dstField c.u d 1] else [])
      (if dw = 64 ∨ sw = 64 then 7 else 5))
    (fun _ _ => True)
    (fun s g =>
      let old (l : Nat) : Word := if 32 ≤ dw ∨ port = true then 0 else if c.u then g.w.regs.ureg d.toNat else g.w.regs.vreg d.toNat l
      let x (l : Nat) : Nat := if sw = 64 then (g.rd2 0 0 l).toNat else (g.rd 0 0 l).toNat
      let r (l : Nat) : Nat × Flags := op s g l (pickElem sw idx.toNat (x l))
      { res := .ofWords c.u d k g (fun l j => (convWords dw idx.toNat (old l) (r l).1).getD j 0) (orFlags g.lanes (fun l => (r l).2)) })

/-- FCVT, FTOI, ITOF and CVTSR (R142 to R147): the value of the source, rounded to the destination format or integer, CVTSR by a random
word that its launch seed, the lane's stream, TASKID, B and the lane's place give.
QMX, DQMX, QGB, QGB.BANDS and DQGB: a block's shared scale and elements from its executing lanes, and back (R148 to R153). -/
def Obligations.ConversionInstructions : Prop :=
  (∀ (c : Ctl) (dfmt sfmt : FFmt) (di si : IFmt) (rnd : Rnd) (idx : BitVec 3) (d : BitVec 8) (a b : Src),
  Converts (.fcvt c dfmt sfmt rnd idx d a) c (fspec dfmt).width (fspec sfmt).width idx d [srcField a (ffmtRegs sfmt)] (fun _ g _ x =>
    let v := readF g.w.denorm (fspec sfmt) x
    let r := convertVal g.w.denorm (fspec dfmt) (rmodeOf g.w.regs.fpctl rnd) v.1
    (r.1, v.2 ||| r.2))
  ∧ Converts (.ftoi c di sfmt rnd idx d a) c (ifmtWidth di) (fspec sfmt).width idx d [srcField a (ffmtRegs sfmt)] (fun _ g _ x =>
    let v := readF g.w.denorm (fspec sfmt) x
    let r := ftoiVal di (rmodeOf g.w.regs.fpctl rnd) v.1
    (r.1, v.2 ||| r.2))
  ∧ Converts (.itof c dfmt si rnd idx d a) c (fspec dfmt).width (ifmtWidth si) idx d [srcField a 1]
    (fun _ g _ x => itofInt g.w.denorm (fspec dfmt) (rmodeOf g.w.regs.fpctl rnd) (intOfCode si x))
  ∧ Converts (.cvtsr c dfmt sfmt idx d a b) c (fspec dfmt).width (fspec sfmt).width idx d [srcField a (ffmtRegs sfmt), srcField b 1]
    (fun s g l x =>
      let stream := cellGet g.w.regs.stream (if c.u then lowLane g.f.mask else l)
      let place : Word := if c.u then 0xFFFFFFFF else BitVec.ofNat 32 (g.w.warpid * 32 + l)
      let word := (gkc (cat2 (launchSeed s g.w) (0x4356535200000000 ^^^ stream)) (cat4 g.w.taskid (g.rd 1 0 l) place 0)).toNat % 2 ^ 32
      let v := readF g.w.denorm (fspec sfmt) x
      let r := roundSR g.w.denorm (fpctlSrcompat g.w.regs.fpctl) (fspec dfmt) word v.1
      (r.1, v.2 ||| r.2)))
  ∧ (∀ (c : Ctl) (bf16 : Bool) (rnd : Rnd) (d : BitVec 8) (a b e : Src),
  let out : FSpec := if bf16 then specBF16 else specF32
  let block (g : Go) (rs : List (Nat × Word × Flags)) : Result :=
    .ofWords false d 1 g (fun l _ => resultOf rs l) (rs.foldl (fun m r => m ||| r.2.2) 0)
  (∀ ef, Computes (.qmx c ef bf16 d a) c (needs [dstField c.u d 1] [srcField a 1] 0) (fun g =>
    let vs := g.lanes.map (fun l => quantSource g.w.denorm bf16 (g.rd 0 0 l))
    block g (blockResults g.lanes (qmxBlock ef (vs.map (·.1))) (vs.map (·.2)))))
  ∧ (∀ ef, ComputesFlags (.dqmx c ef bf16 rnd d a b) c 0 d 1 [srcField a 1, srcField b 1] (fun g l =>
    let w := match efmtSpec ef with | some x => x.width | none => 8
    let r := convertVal g.w.denorm out (rmodeOf g.w.regs.fpctl rnd) (mxValue ef ((g.rd 0 0 l).toNat % 2 ^ w) ((g.rd 1 0 l).toNat % 256))
    ([BitVec.ofNat 32 r.1], r.2)))
  ∧ Computes (.qgb c true bf16 d a b) c { needs [dstField c.u d 1] [srcField a 1, srcField b 1] 0 with carry := [1] } (fun g =>
    let v (l : Nat) : FVal × Flags := quantSource g.w.denorm bf16 (g.rd 0 0 l)
    .ofWords false d 1 g (fun l _ => BitVec.ofNat 32 (qgbBand (v l).1).1) (orFlags g.lanes (fun l => (v l).2 ||| (qgbBand (v l).1).2)))
  ∧ Computes (.qgb c false bf16 d a b) c (needs [dstField c.u d 1] [srcField a 1, srcField b 1] 0) (fun g =>
    block g ((List.range 4).flatMap (fun j =>
      let ls := gbLanes g.lanes j
      let vs := ls.map (fun l => quantSource g.w.denorm bf16 (g.rd 0 0 l))
      let band := match ls.head? with
        | none => FVal.nan false
        | some l => decodeF specBF16 ((g.rd 1 0 l).toNat % 2 ^ 15)
      blockResults ls (qgbBlock band (vs.map (·.1))) (vs.map (·.2)))))
  ∧ ComputesFlags (.dqgb c bf16 rnd d a b e) c 0 d 1 [srcField a 1, srcField b 1, srcField e 1] (fun g l =>
    let r := convertVal g.w.denorm out (rmodeOf g.w.regs.fpctl rnd)
      (gb4Value ((g.rd 2 0 l).toNat % 2 ^ 16) ((g.rd 1 0 l).toNat % 256) ((g.rd 0 0 l).toNat % 16))
    ([BitVec.ofNat 32 r.1], r.2)))

/-! ### Interval instructions -/

/-- From intervals to an interval: where every operand is well formed (R157) and every result has an element, or EMASK is 1 (R159), the
bounds of each lane's result, the canonical empty interval with EMP where it has none. -/
def ComputesIv (i : Instr) (c : Ctl) (lat : Nat) (f : IvFmt) (d : BitVec 8) (srcs : List Src)
    (op : Bool → FSpec → List Iv → Option (Nat × Nat)) : Prop :=
  let is := List.range srcs.length
  let res (g : Go) (l : Nat) : Option (Nat × Nat) := op g.w.denorm (ivBound f) (is.map (fun i => (g.iv f i l).elim none (·.1)))
  Does i c (needs [dstField c.u d (ivRegs f)] (srcs.map (fun a => srcField a (ivRegs f))) (if f = .if64 then 0 else lat))
    (fun _ g => (∀ l ∈ g.lanes, ∀ i ∈ is, (g.iv f i l).isSome = true)
      ∧ ((∀ l ∈ g.lanes, (res g l).isSome = true) ∨ fpctlEmask g.w.regs.fpctl = true))
    (fun _ g =>
      { res := .ofWords c.u d (ivRegs f) g (fun l j => (ivWords f ((res g l).getD (emptyBounds (ivBound f)))).getD j 0)
          (orFlags g.lanes (fun l => orFlags is (fun i => (g.iv f i l).elim 0 (·.2)) ||| flagIf (res g l).isNone flagEMP)) })

/-- The interval arithmetic of R160 and R161, with the flags of the operands read, DEN among them (R92). Which enclosing bounds IVEXP and IVLOG
give R161 leaves open: they are the model's own function of the operand, which holds a free value (the model's choice, log 7). -/
def Obligations.IntervalArithmetic : Prop := ∀ (c : Ctl) (f : IvFmt) (d : BitVec 8) (a b e : Src),
  ComputesIv (.ivadd c f d a b) c 6 f d [a, b] (fun dn x v => ivAdd dn x (ivAt v 0) (ivAt v 1))
  ∧ ComputesIv (.ivsub c f d a b) c 6 f d [a, b] (fun dn x v => ivSub dn x (ivAt v 0) (ivAt v 1))
  ∧ ComputesIv (.ivmul c f d a b) c 7 f d [a, b] (fun dn x v => ivMul dn x (ivAt v 0) (ivAt v 1))
  ∧ ComputesIv (.ivdiv c f d a b) c 0 f d [a, b] (fun dn x v => ivDiv dn x (ivAt v 0) (ivAt v 1))
  ∧ ComputesIv (.ivfma c f d a b e) c 7 f d [a, b, e] (fun dn x v => ivFma dn x (ivAt v 0) (ivAt v 1) (ivAt v 2))
  ∧ ComputesIv (.ivsqr c f d a) c 7 f d [a] (fun dn x v => ivSqr dn x (ivAt v 0))
  ∧ ComputesIv (.ivsqrt c f d a) c 0 f d [a] (fun dn x v => ivSqrt dn x (ivAt v 0))
  ∧ ComputesIv (.ivrcp c f d a) c 0 f d [a] (fun dn x v => ivRcp dn x (ivAt v 0))
  ∧ ComputesIv (.ivexp c f d a) c 0 f d [a] (fun dn x v => ivExp dn x (ivAt v 0))
  ∧ ComputesIv (.ivlog c f d a) c 0 f d [a] (fun dn x v => ivLog dn x (ivAt v 0))
  ∧ ComputesIv (.ivabs c f d a) c 6 f d [a] (fun dn x v => ivAbs dn x (ivAt v 0))
  ∧ ComputesIv (.ivmin c f d a b) c 6 f d [a, b] (fun dn x v => ivMin dn x (ivAt v 0) (ivAt v 1))
  ∧ ComputesIv (.ivmax c f d a b) c 6 f d [a, b] (fun dn x v => ivMax dn x (ivAt v 0) (ivAt v 1))
  ∧ ComputesIv (.ivisect c f d a b) c 6 f d [a, b] (fun dn x v => ivIsect dn x (ivAt v 0) (ivAt v 1))
  ∧ ComputesIv (.ivhull c f d a b) c 6 f d [a, b] (fun dn x v => ivHull dn x (ivAt v 0) (ivAt v 1))

/-- IVSET, IVMK and IVSPLIT make intervals from points and intervals; IVLO, IVHI, IVMID and IVWID make points; IVCMP and IVIN make
predicates (R162 to R166), where the interval operands are well formed and an interval result has an element or EMASK is 1. -/
def Obligations.IntervalPoints : Prop := ∀ (c : Ctl) (f : IvFmt) (pf : PFmt) (d : BitVec 8) (a b : Src),
  let lat : Nat := if f = .if64 then 0 else 6
  let iv (g : Go) (i l : Nat) : Iv := (g.iv f i l).elim none (·.1)
  let fl (g : Go) (i l : Nat) : Flags := (g.iv f i l).elim 0 (·.2)
  let ok (g : Go) (is : List Nat) : Prop := ∀ l ∈ g.lanes, ∀ i ∈ is, (g.iv f i l).isSome = true
  let full (g : Go) (res : Nat → Option (Nat × Nat)) : Prop :=
    (∀ l ∈ g.lanes, (res l).isSome = true) ∨ fpctlEmask g.w.regs.fpctl = true
  let put (g : Go) (res : Nat → Option (Nat × Nat)) (read : Nat → Flags) : Effect :=
    { res := .ofWords c.u d (ivRegs f) g (fun l j => (ivWords f ((res l).getD (emptyBounds (ivBound f)))).getD j 0)
        (orFlags g.lanes (fun l => read l ||| flagIf (res l).isNone flagEMP)) }
  let point (i : Instr) (op : Bool → FSpec → Iv → Nat × Flags) : Prop :=
    Does i c (needs [dstField c.u d (pfmtRegs pf)] [srcField a (ivRegs f)] lat) (fun _ g => ok g [0]) (fun _ g =>
      let r (l : Nat) : Nat × Flags := op g.w.denorm (pfmtSpec pf) (iv g 0 l)
      { res := .ofWords c.u d (pfmtRegs pf) g (fun l j => (pointWords pf (r l).1).getD j 0) (orFlags g.lanes (fun l => (r l).2 ||| fl g 0 l)) })
  Does (.ivset c f pf d a) c (needs [dstField c.u d (ivRegs f)] [srcField a (pfmtRegs pf)] lat)
    (fun _ g => full g (fun l => ivSet g.w.denorm (ivBound f) (g.pointVal pf 0 l).1))
    (fun _ g => put g (fun l => ivSet g.w.denorm (ivBound f) (g.pointVal pf 0 l).1) (fun l => (g.pointVal pf 0 l).2))
  ∧ Does (.ivmk c f pf d a b) c (needs [dstField c.u d (ivRegs f)] [srcField a (pfmtRegs pf), srcField b (pfmtRegs pf)] lat)
    (fun _ g => full g (fun l => ivMk g.w.denorm (ivBound f) (g.pointVal pf 0 l).1 (g.pointVal pf 1 l).1))
    (fun _ g => put g (fun l => ivMk g.w.denorm (ivBound f) (g.pointVal pf 0 l).1 (g.pointVal pf 1 l).1)
      (fun l => (g.pointVal pf 0 l).2 ||| (g.pointVal pf 1 l).2))
  ∧ (∀ hi, let p := boundPoint f
    Does (.ivsplit c f hi d a b) c (needs [dstField c.u d (ivRegs f)] [srcField a (ivRegs f), srcField b (pfmtRegs p)] lat)
      (fun _ g => ok g [0] ∧ full g (fun l => ivSplit g.w.denorm (ivBound f) hi (iv g 0 l) (g.pointVal p 1 l).1))
      (fun _ g => put g (fun l => ivSplit g.w.denorm (ivBound f) hi (iv g 0 l) (g.pointVal p 1 l).1)
        (fun l => fl g 0 l ||| (g.pointVal p 1 l).2)))
  ∧ point (.ivlo c f pf d a) ivLo ∧ point (.ivhi c f pf d a) ivHi ∧ point (.ivmid c f pf d a) ivMid ∧ point (.ivwid c f pf d a) ivWid
  ∧ (∀ rel pd, Does (.ivcmp c f rel pd a b) c { needs [] [srcField a (ivRegs f), srcField b (ivRegs f)] lat with pdsts := [pd.toNat] }
    (fun _ g => ok g [0, 1])
    (fun _ g => { res := .ofPred pd g (fun l => ivCmp rel (iv g 0 l) (iv g 1 l)) (orFlags g.lanes (fun l => fl g 0 l ||| fl g 1 l)) }))
  ∧ (∀ pd, Does (.ivin c f pf pd a b) c { needs [] [srcField a (pfmtRegs pf), srcField b (ivRegs f)] lat with pdsts := [pd.toNat] }
    (fun _ g => ok g [1])
    (fun _ g => { res := .ofPred pd g (fun l => ivIn (g.pointVal pf 0 l).1 (iv g 1 l)) (orFlags g.lanes (fun l => (g.pointVal pf 0 l).2 ||| fl g 1 l)) }))

/-- IVBIS: the lower halves of the intervals it cuts stay, p[B] says which lanes were cut, each lane that holds a non-empty interval counts,
and the upper halves go to one spawn record in the chunk (R167, R168); where its port is bound to the spawn queue, the queue and the chunk
have room, operands are well formed, and no result is empty or EMASK is 1. -/
def Obligations.IntervalBisect : Prop := ∀ (c : Ctl) (f : IvFmt) (qn pb : BitVec 3) (d : BitVec 8) (a : Src),
  let part (g : Go) (l : Nat) : Option (Option (Nat × Nat) × Option (Option (Nat × Nat))) :=
    ((g.iv f 0 l).elim none (·.1)).map (ivBisect g.w.denorm (ivBound f))
  let res (g : Go) (l : Nat) : Option (Nat × Nat) := (part g l).elim none (·.1)
  let upper (g : Go) (l : Nat) : Option (Nat × Nat) := (part g l).elim none (fun x => x.2.elim none id)
  let cut (g : Go) : List Nat := g.lanes.filter (fun l => (upper g l).isSome)
  Does (.ivbis c f qn d pb a) c { needs [dstField c.u d (ivRegs f)] [srcField a (ivRegs f)] 0 with pdsts := [pb.toNat] }
    (fun s g => bindsSpawn g.w qn.toNat = true ∧ g.w.chunk.spawns.length < 64 ∧ (spawnQueue s g.w.core).length < 64
      ∧ (∀ l ∈ g.lanes, (g.iv f 0 l).isSome = true)
      ∧ ((∀ l ∈ g.lanes, (res g l).isSome = true) ∨ fpctlEmask g.w.regs.fpctl = true)
      ∧ (cut g = [] ∨ usesClash [56 + qn.toNat] g.w g.f = none))
    (fun s g =>
      { res := { Result.ofWords c.u d (ivRegs f) g (fun l j => (ivWords f ((res g l).getD (emptyBounds (ivBound f)))).getD j 0)
            (orFlags g.lanes (fun l => (g.iv f 0 l).elim 0 (·.2) ||| flagIf (res g l).isNone flagEMP)) with
          pred := some pb.toNat, plane := g.lanes, tri := fun l => if l ∈ cut g then .yes else .no }
        turn := fun w => { w with regs := { w.regs with
          biscnt := (g.lanes.filter (fun l => (part g l).isSome)).foldl (fun m l => cellSet m l (cellGet m l + 1)) w.regs.biscnt
          sib := if cut g = [] then w.regs.sib else noteUses [56 + qn.toNat] w g.f } }
        chunk := fun k => if cut g = [] then k else { k with spawns := k.spawns ++ [
          { launch := g.w.launch, entryOff := entryD g.w qn.toNat, warps := 1, mask := maskOf (cut g), taskid := g.w.taskid,
            spawnix := childIndex (launchSeed s g.w) 0x4956424900000000 g.w.taskid g.w.spawnix
              (BitVec.ofNat 32 (g.w.warpid * 32 + (cut g).headD 0)) (cellGet g.w.regs.biscnt ((cut g).headD 0)),
            uregs := g.w.regs.u, s0 := none,
            vregs := (cut g).foldl (fun m l => ((ivWords f ((upper g l).getD (0, 0))).zipIdx).foldl
              (fun m x => cellSet m (32 * (d.toNat + x.2) + l) x.1) m) [],
            path := g.w.path, warp := g.w.id, clock := g.f.clock }] } })

/-! ### Lanes and random streams -/

/-- SHFL, LPUSH, VOTE and MATCH over the executing lanes of each tile of PART.WIDTH lanes (R175, R176, R178 to R182, R185): with a uniform
destination the tile of the lowest executing lane. -/
def Obligations.LaneExchange : Prop := ∀ (c : Ctl) (d : BitVec 8) (a b : Src) (pc pa : BitVec 3),
  let width (g : Go) : Nat := 2 ^ (g.f.part.toNat + 1)
  let tile (g : Go) (l : Nat) : List Nat := g.lanes.filter (fun k => k / width g = l / width g)
  let first (g : Go) : Nat := g.lanes.headD 0
  let source (mode : ShflMode) (g : Go) (l : Nat) : Option Nat :=
    let w := width g
    let j := l % w
    let b := (g.rd 1 0 l).toNat
    let p : Option Nat := match mode with
      | .idx => some (b % w)
      | .up => if b ≤ j then some (j - b) else none
      | .down => if j + b < w then some (j + b) else none
      | .xor => some (j ^^^ (b % w))
    p.bind (fun x => if x < w ∧ l / w * w + x ∈ g.lanes then some (l / w * w + x) else none)
  let senders (g : Go) (l : Nat) : List Nat :=
    g.lanes.filter (fun k => k / width g * width g + (g.rd 1 0 k).toNat % width g = l)
  let votes (g : Go) (l : Nat) : List Tri := (tile g l).map (g.tri pa.toNat)
  let ballot (g : Go) (v : Tri) (l : Nat) : Word := maskOf ((tile g l).filter (fun k => g.tri pa.toNat k = v))
  (∀ mode, Computes (.shfl c mode false d a b pc) c { needs [dstField false d 1] [srcField a 1, srcField b 1] 0 with pdsts := [pc.toNat] }
    (fun g => { Result.ofWord false d g (fun l => g.rd 0 0 ((source mode g l).getD l)) with
      pred := some pc.toNat, plane := g.lanes, tri := fun l => if (source mode g l).isSome then .yes else .no }))
  ∧ (∀ mode, Computes (.shfl c mode true d a b pc) c { needs [dstField true d 1] [srcField a 1, srcField b 1] 0 with pdsts := [pc.toNat] }
    (fun g =>
      let valid := source mode g (first g / width g * width g)
      { Result.ofWord true d g (fun _ => g.rd 0 0 (valid.getD 0)) with
        lanes := if valid.isSome then [0] else []
        pred := some pc.toNat, plane := tile g (first g), tri := fun _ => if valid.isSome then .yes else .no }))
  ∧ Computes (.lpush c d a b pc) c { needs [dstField false d 1] [srcField a 1, srcField b 1] 0 with pdsts := [pc.toNat] }
    (fun g => { Result.ofWord false d g (fun l => g.rd 0 0 ((senders g l).getLastD 0)) with
      lanes := g.lanes.filter (fun l => senders g l ≠ [])
      pred := some pc.toNat, plane := g.lanes
      tri := fun l => if (senders g l).length = 0 then .no else if (senders g l).length = 1 then .yes else .undecided })
  ∧ Computes (.vote c .all false d pa) c { needs [] [] 0 with preds := [pa.toNat], pdsts := [d.toNat % 8] }
    (fun g => { Result.nothing with
      pred := some (d.toNat % 8), plane := g.lanes
      tri := fun l => if Tri.no ∈ votes g l then .no else if Tri.undecided ∈ votes g l then .undecided else .yes })
  ∧ Computes (.vote c .any false d pa) c { needs [] [] 0 with preds := [pa.toNat], pdsts := [d.toNat % 8] }
    (fun g => { Result.nothing with
      pred := some (d.toNat % 8), plane := g.lanes
      tri := fun l => if Tri.yes ∈ votes g l then .yes else if Tri.undecided ∈ votes g l then .undecided else .no })
  ∧ Computes (.vote c .eq false d pa) c { needs [] [] 0 with preds := [pa.toNat], pdsts := [d.toNat % 8] }
    (fun g => { Result.nothing with
      pred := some (d.toNat % 8), plane := g.lanes
      tri := fun l => if ∀ k ∈ tile g l, ∀ m ∈ tile g l, g.tri pa.toNat k = g.tri pa.toNat m then .yes else .no })
  ∧ (∀ mode v, (mode, v) ∈ [(VoteMode.ballot, Tri.yes), (.ballotF, .no), (.ballotU, .undecided)] →
    Computes (.vote c mode false d pa) c { needs [dstField false d 1] [] 0 with preds := [pa.toNat] }
      (fun g => .ofWord false d g (fun l => ballot g v l))
    ∧ Computes (.vote c mode true d pa) c { needs [dstField true d 1] [] 0 with preds := [pa.toNat] }
      (fun g => { Result.ofWord true d g (fun _ => ballot g v (first g)) with lanes := [0] }))
  ∧ Computes (.matchLanes c d a pc) c { needs [dstField false d 1] [srcField a 1] 0 with pdsts := [pc.toNat] }
    (fun g => { Result.ofWord false d g (fun l => maskOf ((tile g l).filter (fun k => g.rd 0 0 k = g.rd 0 0 l))) with
      pred := some pc.toNat, plane := g.lanes
      tri := fun l => if ∀ k ∈ tile g l, g.rd 0 0 k = g.rd 0 0 l then .yes else .no })
  ∧ (∀ op ud, Completes (.redux c op ud d a) c (needs [dstField ud d 1] [srcField a 1] 0))
  ∧ (∀ op excl, Completes (.scan c op excl d a) c (needs [dstField false d 1] [srcField a 1] 0))

/-- REDUX and SCAN complete with the trees of R183 and R184, tile by tile; their flags are a tile's in each of its lanes. -/
def Obligations.LaneTrees : Prop := ∀ (c : Ctl) (op : RedOp) (d : BitVec 8) (a : Src),
  let width (g : Go) : Nat := 2 ^ (g.f.part.toNat + 1)
  let base (g : Go) (l : Nat) : Nat := width g * (l / width g)
  Computes (.redux c op false d a) c (needs [dstField false d 1] [srcField a 1] 0) (fun g =>
    .ofWords false d 1 g (fun l _ => (reduxTile g op (width g) (base g l)).1)
      (orFlags g.lanes (fun l => (reduxTile g op (width g) (base g l)).2)))
  ∧ Computes (.redux c op true d a) c (needs [dstField true d 1] [srcField a 1] 0) (fun g =>
    { Result.ofWords true d 1 g (fun _ _ => (reduxTile g op (width g) (base g (g.lanes.headD 0))).1)
        (orFlags g.lanes (fun l => (reduxTile g op (width g) (base g l)).2)) with lanes := [0] })
  ∧ (∀ excl, Computes (.scan c op excl d a) c (needs [dstField false d 1] [srcField a 1] 0) (fun g =>
    .ofWords false d 1 g (fun l _ => (scanTile g op excl (width g) (base g l)).1.getD (l % width g) 0)
      (orFlags g.lanes (fun l => (scanTile g op excl (width g) (base g l)).2))))

/-- PARTSET, RNG, RNGKEY and RNGSKIP (R177, R186 to R189): the issuing fragment's tile width; the words of the lane's stream at its draw
number, which counts on in vector form; a new stream at draw 0; the draw number as it was, moved on by A. -/
def Obligations.StreamsAndTiles : Prop := ∀ (c : Ctl) (d : BitVec 8) (a : Src),
  (∀ width, Does (.partset c width) c (needs [] [] 0) (fun _ _ => True) (fun _ g =>
    { turn := fun w => { w with regs := w.regs.mapFrag g.f.id (fun f => { f with part := width }) } }))
  ∧ (∀ out, Does (.rng c out d a) c (needs [dstField c.u d (if out = .x4 then 4 else 1)] [srcField a 1] 0) (fun _ _ => True) (fun s g =>
      let x (l : Nat) : BitVec 128 := gkc
        (cat2 (launchSeed s g.w) (cellGet g.w.regs.stream (if c.u then lowLane g.f.mask else l) ^^^ (g.w.spawnix.setWidth 64 <<< 32)))
        (cat4 g.w.taskid (g.rd 0 0 l) (if c.u then 0xFFFFFFFF else BitVec.ofNat 32 (g.w.warpid * 32 + l))
          (if c.u then 0 else cellGet g.w.regs.draw l))
      { res := .ofWords c.u d (if out = .x4 then 4 else 1) g (fun l j => (rngWords out (x l)).getD j 0) 0
        turn := fun w => if c.u then w else { w with regs := { w.regs with
          draw := g.lanes.foldl (fun m l => cellSet m l (cellGet m l + 1)) w.regs.draw } } }))
  ∧ Does (.rngkey c a) c (needs [] [srcField a 2] 0) (fun _ _ => True) (fun _ g =>
    { turn := fun w => { w with regs := { w.regs with
        stream := g.lanes.foldl (fun m l => cellSet m l (g.rd2 0 0 l)) w.regs.stream
        draw := g.lanes.foldl (fun m l => cellSet m l 0) w.regs.draw } } })
  ∧ Does (.rngskip c d a) c (needs [dstField c.u d 1] [srcField a 1] 0) (fun _ _ => True) (fun _ g =>
    { res := .ofWord c.u d g (fun l => cellGet g.w.regs.draw l)
      turn := fun w => { w with regs := { w.regs with
        draw := g.lanes.foldl (fun m l => cellSet m l (cellGet m l + g.rd 0 0 l)) w.regs.draw } } })

/-! ### Control flow -/

/-- A transfer: the lanes that goTo names a PC for go there, every such PC passing its check (R45), the others to the next slot; with U = 1
the whole fragment goes where its lowest executing lane goes; the split table has room for what parts. The lanes that leave take the
link, if there is one (R394, R401, R404, R405). -/
def Transfers (i : Instr) (c : Ctl) (n : Need) (link : Option (BitVec 8)) (goTo : Go → Nat → Option (Xl DWord)) : Prop :=
  let takers (g : Go) : List Nat := g.lanes.filter (fun l => (goTo g l).isSome)
  let dest (g : Go) (l : Nat) : DWord := match goTo g l with
    | some (.ok t) => t
    | some (.error _) => nextPc g.f.pc
    | none => nextPc g.f.pc
  let next (g : Go) (l : Nat) : DWord :=
    if c.u then (if takers g = [] then nextPc g.f.pc else dest g ((takers g).headD 0))
    else if l ∈ takers g then dest g l else nextPc g.f.pc
  let split (s : State) (g : Go) (w : Warp) : Option (Warp × List Nat) := splitFrag s w g.f (next g)
  Does i c n
    (fun s g => (∀ l ∈ takers g, goTo g l = some (.ok (dest g l)) ∧ targetTrap s g.w (dest g l) = none) ∧ (split s g g.w).isSome = true)
    (fun s g =>
      { res := match link with
          | none => .nothing
          | some d => { Result.ofPair c.u d g (fun _ => nextPc g.f.pc) with
              lanes := (takers g).filter (fun l => l ∈ (split s g g.w).elim [] (·.2)) }
        stays := true
        turn := fun w => (split s g w).elim w (·.1) })

/-- BRA, BR3, BRX, CALL and RET (R401 to R405): by an offset in slots (R44), by a three-valued predicate, by a register, with a link, to a
PC in a pair.
A branch that every lane of its fragment takes moves the fragment to the target, and splits nothing: with U = 1, or with every lane of
the fragment executing (R394, R401). The target is the slot OFF slots further on (R44). -/
def Obligations.Branches : Prop :=
  (∀ (c : Ctl) (p : BitVec 3) (off : BitVec 26) (off2 : BitVec 16) (d : BitVec 8) (a : Src),
  Transfers (.bra c off) c (needs [] [] 0) none (fun g _ => some (offsetTarget g.f.pc off.toInt))
  ∧ Transfers (.br3 c p off off2) c { needs [] [] 0 with preds := [p.toNat] } none (fun g l =>
      if g.tri p.toNat l = .yes then some (offsetTarget g.f.pc off.toInt)
      else if g.tri p.toNat l = .undecided then some (offsetTarget g.f.pc off2.toInt) else none)
  ∧ Transfers (.brx c a) c (needs [] [srcField a 1] 0) none (fun g l => some (offsetTarget g.f.pc (g.rd 0 0 l).toInt))
  ∧ Transfers (.call c d off) c (needs [dstField c.u d 2] [] 0) (some d) (fun g _ => some (offsetTarget g.f.pc off.toInt))
  ∧ Transfers (.ret c a) c (needs [] [srcField a 2] 0) none (fun g l => some (.ok (g.rd2 0 0 l))))
  ∧ (∀ (c : Ctl) (off : BitVec 26) (s : State) (w : Warp) (f : Frag) (g : Go) (t : DWord),
  (Instr.bra c off).wf = true → Issues c (needs [] [] 0) s w f g {} → g.lanes = lanesOf g.f.mask ∨ c.u = true →
  wellPlaced t = true → (linear t : Int) = linear g.f.pc + off.toInt → targetTrap s g.w t = none →
  ∃ v, exec (.bra c off) s = .next (s.run (g.upds ++ [.warp v])) ∧ v.regs.splits = g.w.regs.splits
    ∧ v.regs.frags.map Frag.face = g.w.regs.frags.map (fun x => if x.id = g.f.id then { x with pc := t }.face else x.face))

/-- An interval operand that is not well formed raises INTERVAL_ORDER in its lanes, with no effect (R157); an empty result with EMASK 0
raises EMPTY_INTERVAL (R159). Stated of IVADD at the fixed-latency formats.
A misaligned access raises MISALIGNED, and nothing takes effect (R266): stated of LD and ST where every executing lane fails.
A branch whose target is no slot, or lies in a line that may not be fetched or is no target of its line, moves nothing and traps
(R44, R45): stated of BRA. A target T below 0 or from 6 × 2^58 on raises LINE_TARGET, its ADDR being T itself (the model's choice, log 89).
A flag whose trap FPCTL enables raises FP_TRAP, and nothing is written (R96): stated of FADD, FSUB, FMUL, FFMA, FSQRT, FDIV, FCVT and IVMID; a
tagged one gives its tag the trap. -/
def Obligations.OperandTraps : Prop :=
  (∀ (c : Ctl) (f : IvFmt) (d : BitVec 8) (a b : Src) (s : State) (w : Warp) (fr : Frag) (g : Go),
  f ≠ .if64 →
  Issues c (needs [dstField c.u d (ivRegs f)] [srcField a (ivRegs f), srcField b (ivRegs f)] 6) s w fr g {} →
  let bad := g.lanes.filter (fun l => (g.iv f 0 l).isNone || (g.iv f 1 l).isNone)
  (bad ≠ [] → exec (.ivadd c f d a b) s = .next (s.run (takeTrap w.id g.f.id (if c.alloc = 0 then [] else [c.alloc.toNat])
    { raise .intervalOrder with lanes := some (maskOf bad) } s)))
  ∧ (bad = [] → fpctlEmask g.w.regs.fpctl = false →
    let none_ := g.lanes.filter (fun l => (ivAdd g.w.denorm (ivBound f) ((g.iv f 0 l).elim none (·.1)) ((g.iv f 1 l).elim none (·.1))).isNone)
    none_ ≠ [] → exec (.ivadd c f d a b) s = .next (s.run (takeTrap w.id g.f.id []
      { raise .emptyInterval with lanes := some (maskOf none_) } s))))
  ∧ (∀ (c : Ctl) (sz : Sz) (d e : BitVec 8) (v : Src) (r : MemRef) (s : State) (w : Warp) (f : Frag) (g : Go),
  let n := szBytes sz
  let off (l : Nat) : DWord := g.rd2 0 0 l + BitVec.ofInt 64 (r.disp.toInt * n)
  let trap : TrapReq := { raiseIn .misaligned (g.w.realmOf r.rsel.toNat) (off (g.lanes.headD 0)) with lanes := some (maskOf g.lanes) }
  (∀ l ∈ g.lanes, (off l).toNat % n ≠ 0) →
  (Issues c (needs [dstField false d (szRegs sz)] [srcField r.base 2] 0) s w f g {} →
    exec (.ld c sz false d e r) s = .next (s.run (takeTrap w.id g.f.id (if c.alloc = 0 then [] else [c.alloc.toNat]) trap s)))
  ∧ (Issues c { needs [] [srcField r.base 2, srcField v (szRegs sz)] 0 with carry := [1] } s w f g {} →
    exec (.st c sz r v) s = .next (s.run (takeTrap w.id g.f.id (if c.alloc = 0 then [] else [c.alloc.toNat]) trap s))))
  ∧ (∀ (c : Ctl) (off : BitVec 26) (s : State) (w : Warp) (f : Frag) (g : Go),
  (Instr.bra c off).wf = true → Issues c (needs [] [] 0) s w f g {} → (linear g.f.pc : Int) + off.toInt < 0 →
  exec (.bra c off) s = .next (s.run (takeTrap w.id g.f.id []
    (raiseAt .lineTarget (BitVec.ofInt 64 ((linear g.f.pc : Int) + off.toInt))) s)))
  ∧ (∀ (c : Ctl) (off : BitVec 26) (s : State) (w : Warp) (f : Frag) (g : Go),
  (Instr.bra c off).wf = true → Issues c (needs [] [] 0) s w f g {} →
  ((6 * 2 ^ 58 : Int) ≤ (linear g.f.pc : Int) + off.toInt → exec (.bra c off) s = .next (s.run (takeTrap w.id g.f.id []
    (raiseAt .lineTarget (BitVec.ofInt 64 ((linear g.f.pc : Int) + off.toInt))) s)))
  ∧ (∀ pc t, offsetTarget g.f.pc off.toInt = .ok pc → targetTrap s g.w pc = some t →
    exec (.bra c off) s = .next (s.run (takeTrap w.id g.f.id [] t s)))
  ∧ (∀ pc, targetTrap s g.w pc = (if wellPlaced pc = false then some (raiseAt .lineTarget pc) else
    match fetchLine s g.w pc with
    | .error t => some { t with addr := pc }
    | .ok (_, line) => if lineTarget (lineWord line) (pc.toNat % 8) then none else some (raiseAt .lineTarget pc))))
  ∧ (∀ (c : Ctl) (fmt dfmt sfmt : FFmt) (rnd : Rnd) (f : IvFmt) (pf : PFmt) (idx : BitVec 3) (d : BitVec 8) (a b e : Src),
  let k := ffmtRegs fmt
  let flags (g : Go) (op : Bool → RMode → List FVal → Nat × Flags) (xs : List Nat) : Flags :=
    (perElement fmt (onVals g.w.denorm (elemSpec fmt) (op g.w.denorm (rmodeOf g.w.regs.fpctl rnd))) xs).2
  let ab : List Field := [srcField a k, srcField b k]
  TrapsOnFlags (.fadd c fmt rnd d a b) c (needs [dstField c.u d k] ab (fpLat fmt)) (fun _ => True)
    (fun g l => flags g (fun dn m v => addVals dn (elemSpec fmt) m (valAt v 0) (valAt v 1)) [g.fop fmt 0 l, g.fop fmt 1 l])
  ∧ TrapsOnFlags (.fsub c fmt rnd d a b) c (needs [dstField c.u d k] ab (fpLat fmt)) (fun _ => True)
    (fun g l => flags g (fun dn m v => addVals dn (elemSpec fmt) m (valAt v 0) (negVal (valAt v 1))) [g.fop fmt 0 l, g.fop fmt 1 l])
  ∧ TrapsOnFlags (.fmul c fmt rnd d a b) c (needs [dstField c.u d k] ab (fpLat fmt)) (fun _ => True)
    (fun g l => flags g (fun dn m v => mulVals dn (elemSpec fmt) m (valAt v 0) (valAt v 1)) [g.fop fmt 0 l, g.fop fmt 1 l])
  ∧ TrapsOnFlags (.ffma c fmt rnd d a b e) c (needs [dstField c.u d k] (ab ++ [srcField e k]) (fpLat fmt)) (fun _ => True)
    (fun g l => flags g (fun dn m v => fmaVals dn (elemSpec fmt) m (valAt v 0) (valAt v 1) (valAt v 2))
      [g.fop fmt 0 l, g.fop fmt 1 l, g.fop fmt 2 l])
  ∧ TrapsOnFlags (.fsqrt c fmt rnd d a) c (needs [dstField c.u d k] [srcField a k] 0) (fun _ => True)
    (fun g l => flags g (fun dn m v => sqrtVal dn (elemSpec fmt) m (valAt v 0)) [g.fop fmt 0 l])
  ∧ TrapsOnFlags (.fdiv c fmt rnd d a b) c (needs [dstField c.u d k] ab 0) (fun _ => True)
    (fun g l => flags g (fun dn m v => divVals dn (elemSpec fmt) m (valAt v 0) (valAt v 1)) [g.fop fmt 0 l, g.fop fmt 1 l])
  ∧ (32 ≤ (fspec dfmt).width → TrapsOnFlags (.fcvt c dfmt sfmt rnd idx d a) c
    (needs [dstField c.u d (if (fspec dfmt).width = 64 then 2 else 1)] [srcField a (ffmtRegs sfmt)]
      (if (fspec dfmt).width = 64 ∨ (fspec sfmt).width = 64 then 7 else 5)) (fun _ => True)
    (fun g l =>
      let v := readF g.w.denorm (fspec sfmt) (pickElem (fspec sfmt).width idx.toNat
        (if (fspec sfmt).width = 64 then (g.rd2 0 0 l).toNat else (g.rd 0 0 l).toNat))
      v.2 ||| (convertVal g.w.denorm (fspec dfmt) (rmodeOf g.w.regs.fpctl rnd) v.1).2))
  ∧ TrapsOnFlags (.ivmid c f pf d a) c (needs [dstField c.u d (pfmtRegs pf)] [srcField a (ivRegs f)] (if f = .if64 then 0 else 6))
    (fun g => ∀ l ∈ g.lanes, (g.iv f 0 l).isSome = true)
    (fun g l => (ivMid g.w.denorm (pfmtSpec pf) ((g.iv f 0 l).elim none (·.1))).2 ||| (g.iv f 0 l).elim 0 (·.2)))

/-- NOP does nothing; YIELD marks its fragment; JOIN outside a split does nothing, inside one it parks its fragment, which fuses with those
that wait at the same JOIN; DRAIN, once every tag has returned and no pass or copy is open, writes every held result
(R66, R69, R210, R396, R407).
The instructions that end their chunk and act at its position: EXIT, SLEEP, CHEND, FENCE from DEVICE scope on; FENCE below TASK scope
does nothing, up to DIE scope it waits for the warp's tile-store writes (R226, R238, R289, R290, R406, R408).
An instruction that no lane executes does what its control fields say, and nothing else (R57): stated of IADD, FADD, FDIV, IVADD, LD, ST and BRA. -/
def Obligations.ControlInstructions : Prop :=
  (∀ (c : Ctl),
  Does (.nop c) c (needs [] [] 0) (fun _ _ => True) (fun _ _ => {})
  ∧ Does (.yield c) c (needs [] [] 0) (fun _ _ => True) (fun _ g =>
    { turn := fun w => { w with regs := w.regs.mapFrag g.f.id (fun f => { f with yields := !c.sw }) } })
  ∧ Does (.join c) c (needs [] [] 0) (fun _ g => g.f.pid = 0) (fun _ _ => {})
  ∧ Does (.join c) c (needs [] [] 0) (fun _ g => g.f.pid ≠ 0) (fun _ g =>
    { stays := true
      turn := fun w =>
        let r := w.regs.mapFrag g.f.id (fun f => { f with park := .join })
        ((r.frags.find? (fun f => f.id == g.f.id)).map (fun f => { w with regs := (fuseAt r f).settle })).getD w })
  ∧ Does (.drain c) c (needs [] [] 0) (fun s g => drainWaits s g.w false = false ∧ drainTrap g.w = none) (fun _ _ => { turn := Warp.drain }))
  ∧ (∀ (c : Ctl) (ns : Word) (scope : Scope),
  Does (.exit c) c (needs [] [] 0) (fun _ _ => True) (fun _ g => { ends := true, after := [.exit g.f.id (maskOf g.lanes)] })
  ∧ Does (.sleep c ns) c (needs [] [] 0) (fun _ _ => True) (fun _ g => { ends := true, after := [.sleep g.f.id ns.toNat] })
  ∧ Does (.chend c) c (needs [] [] 0) (fun _ _ => True) (fun _ _ => { ends := true })
  ∧ (scopeCode scope < 2 → Does (.fence c scope) c (needs [] [] 0) (fun _ _ => True) (fun _ _ => {}))
  ∧ (2 ≤ scopeCode scope → scopeCode scope < 6 →
    Does (.fence c scope) c (needs [] [] 0) (fun _ g => tileWritesPending g.w = false) (fun _ _ => {}))
  ∧ (6 ≤ scopeCode scope → Does (.fence c scope) c (needs [] [] 0) (fun _ g => tileWritesPending g.w = false)
    (fun _ _ => { ends := true, after := [.fence (scopeCode scope)] })))
  ∧ (∀ (c : Ctl) (sgn sat : Bool) (fmt : FFmt) (rnd : Rnd) (f : IvFmt) (sz : Sz) (d e : BitVec 8) (a b : Src) (r : MemRef) (off : BitVec 26),
  let k := ffmtRegs fmt
  let m := ivRegs f
  PassesIdle (.iadd c sgn sat d a b) c (needs [dstField c.u d 1] [srcField a 1, srcField b 1] 4)
  ∧ PassesIdle (.fadd c fmt rnd d a b) c (needs [dstField c.u d k] [srcField a k, srcField b k] (fpLat fmt))
  ∧ PassesIdle (.fdiv c fmt rnd d a b) c (needs [dstField c.u d k] [srcField a k, srcField b k] 0)
  ∧ PassesIdle (.ivadd c f d a b) c (needs [dstField c.u d m] [srcField a m, srcField b m] (if f = .if64 then 0 else 6))
  ∧ PassesIdle (.ld c sz false d e r) c (needs [dstField false d (szRegs sz)] [srcField r.base 2] 0)
  ∧ PassesIdle (.st c sz r a) c { needs [] [srcField r.base 2, srcField a (szRegs sz)] 0 with carry := [1] }
  ∧ PassesIdle (.bra c off) c (needs [] [] 0))

/-! ### Memory instructions -/

/-- The place a lane's access goes to. -/
def spotPlace (x : Xl Spot) : Place :=
  match x with
  | .ok (.at_ p _ _ _) => p
  | .ok (.peer ..) => memPlace 0
  | .error _ => memPlace 0

/-- The extended entry of the page it goes to. -/
def spotEntry (x : Xl Spot) : Option Nat :=
  match x with
  | .ok (.at_ _ e _ _) => e
  | .ok (.peer ..) => none
  | .error _ => none

/-- The flags of the combining reads that the lanes' accesses make in declared ranges (R244); an interval load raises none (R95). -/
def loadFlags (s : State) (g : Go) (ext n : Nat) (spot : State → Go → Nat → Xl Spot) : Flags :=
  if 8 ≤ ext then 0 else orFlags g.lanes (fun l => viewFlags s g.w.view (spotPlace (spot s g l)) n)

/-- A load of n bytes a lane, where every lane's access passes its checks (R266) and reaches this device or the task's own storage: the
register takes what the warp sees there, its own chunk's stores first (R227), extended by SZ; the words read enter the chunk's read
set (R225), those of an .ED load do not (R273). -/
def Loads (i : Instr) (c : Ctl) (u : Bool) (sz : Sz) (d : BitVec 8) (srcs : List Field) (ext : Nat) (edition : Go → Option Word)
    (spot : State → Go → Nat → Xl Spot) (good : State → Go → Place → Prop) : Prop :=
  Does i c (needs [dstField u d (szRegs sz)] srcs 0)
    (fun s g => ∀ l ∈ g.lanes, ∃ p e t, spot s g l = .ok (.at_ p e .free t) ∧ good s g p
      ∧ ∀ j, j < szRegs sz → poisonedAt s g.w { p with addr := p.addr + 4 * j } = false)
    (fun s g =>
      { res := .ofWords u d (szRegs sz) g (fun l j => (extendVal sz (viewVal s g.w.view (spotPlace (spot s g l)) (szBytes sz))).getD j 0) (loadFlags s g ext (szBytes sz) spot)
        reads := if (edition g).isSome then [] else
          g.lanes.flatMap (fun l => entryWords (spotEntry (spot s g l)) ++ wordsOf (spotPlace (spot s g l)) (szBytes sz))
        mark := fun e => { e with
          dst := d.toNat, duni := u, width := (szBytes sz + 3) / 4, lanes := [], stations := [], ext := ext, kv := (edition g).toList } })

/-- LD, LDU, LDS, GATHER and IVLD (R171 to R173, R270 to R273, R275 to R277). -/
def Obligations.LoadInstructions : Prop := ∀ (c : Ctl) (sz : Sz) (ed zx : Bool) (f : IvFmt) (d a e : BitVec 8) (r : MemRef) (q : ScrRef),
  let edition (g : Go) (l : Nat) : Option Word := if ed then some (g.rd 1 0 l) else none
  let n := szBytes sz
  let offset (g : Go) (l : Nat) (index : Int) (n : Nat) : DWord :=
    g.rd2 0 0 l + BitVec.ofInt 64 (index * n) + BitVec.ofInt 64 (r.disp.toInt * n)
  let base : List Field := srcField r.base 2 :: if ed then [uniField e 1] else []
  Loads (.ld c sz ed d e r) c false sz d base (szCode sz) (fun g => edition g (g.lanes.headD 0))
    (fun s g l => editionSpot s g.w (edition g l) r.rsel.toNat (offset g l 0 n) n) (fun _ _ _ => True)
  ∧ Loads (.ldu c sz ed d e r) c true sz d base (szCode sz) (fun g => edition g (g.lanes.headD 0))
    (fun s g l => editionSpot s g.w (edition g l) r.rsel.toNat (offset g l 0 n) n) (fun _ _ _ => True)
  ∧ Loads (.lds c sz d q) c c.u sz d [srcField q.base 1] (szCode sz) (fun _ => none)
    (fun s g l => taskSpot s g.w .scratch ((g.rd 0 0 l).toNat + q.disp.toInt * n) n n false) (fun _ _ _ => True)
  ∧ Loads (.gather c sz zx d a r) c false sz d [srcField r.base 2, srcField (.v a) 1] (szCode sz) (fun _ => none)
    (fun s g l => memSpot s g.w {} r.rsel.toNat (offset g l (num zx (g.rd 1 0 l)) n) n n) (fun _ _ _ => True)
  ∧ Loads (.ivld c f d r) c false (ivSz f) d [srcField r.base 2] (8 + ivCode f) (fun _ => none)
    (fun s g l => memSpot s g.w {} r.rsel.toNat (offset g l 0 (ivBytes f)) (ivBytes f) (ivBytes f))
    (fun s g p => ivBytesOk g.w.denorm f (viewVal s g.w.view p (ivBytes f)) = true)

/-- A store of n bytes a lane, where every lane's access passes its checks and reaches this device or the task's own storage: the bytes go
into the chunk's buffer (R227), lowest lane first, so that the highest lane's byte stands where lanes meet; memory itself does not
change before the chunk's commit. -/
def Stores (i : Instr) (c : Ctl) (addr : List Field) (data : Field) (n : Nat) (spot : State → Go → Nat → Xl Spot)
    (good : State → Go → Prop) : Prop :=
  let k := addr.length
  Does i c { needs [] (addr ++ [data]) 0 with carry := [k] }
    (fun s g => good s g ∧ peersTrap s g.w [] = none ∧ ∀ l ∈ g.lanes, ∃ p e t, spot s g l = .ok (.at_ p e .free t))
    (fun s g =>
      { stores := g.lanes.flatMap (fun l => (placesFrom (spotPlace (spot s g l)) n).zip (dataBytes g k l n))
        reads := g.lanes.flatMap (fun l => entryWords (spotEntry (spot s g l)))
        chunk := fun x => { x with
          poisoned := storeMarks s g.w n x.poisoned (g.lanes.map (fun l => (spotPlace (spot s g l), fun j => g.poisoned k j l))) } })

/-- ST, STS, SCATTER and IVST (R171 to R173, R272, R274, R276, R277), and PREF, which does nothing (R278). -/
def Obligations.StoreInstructions : Prop := ∀ (c : Ctl) (sz : Sz) (zx l2 : Bool) (f : IvFmt) (a e : BitVec 8) (v : Src) (r : MemRef) (q : ScrRef),
  let n := szBytes sz
  let offset (g : Go) (l : Nat) (index : Int) (n : Nat) : DWord :=
    g.rd2 0 0 l + BitVec.ofInt 64 (index * n) + BitVec.ofInt 64 (r.disp.toInt * n)
  Stores (.st c sz r v) c [srcField r.base 2] (srcField v (szRegs sz)) n
    (fun s g l => memSpot s g.w { write := true } r.rsel.toNat (offset g l 0 n) n n) (fun _ _ => True)
  ∧ Stores (.sts c sz q v) c [srcField q.base 1] (srcField v (szRegs sz)) n
    (fun s g l => taskSpot s g.w .scratch ((g.rd 0 0 l).toNat + q.disp.toInt * n) n n true) (fun _ _ => True)
  ∧ Stores (.scatter c sz zx a e r) c [srcField r.base 2, srcField (.v a) 1] (srcField (.v e) (szRegs sz)) n
    (fun s g l => memSpot s g.w { write := true } r.rsel.toNat (offset g l (num zx (g.rd 1 0 l)) n) n n) (fun _ _ => True)
  ∧ Stores (.ivst c f r v) c [srcField r.base 2] (srcField v (ivRegs f)) (ivBytes f)
    (fun s g l => memSpot s g.w { write := true } r.rsel.toNat (offset g l 0 (ivBytes f)) (ivBytes f) (ivBytes f))
    (fun _ g => ∀ l ∈ g.lanes, (g.iv f 1 l).isSome = true)
  ∧ (∀ k, Does (.pref c l2 r) c k (fun s _ => prefNeed r s = k) (fun _ _ => {}))

/-! ### Atomics, ranges, counters, editions -/

/-- Where a lane's checked atomic goes. -/
def atomAt (x : Xl AtomSpot) : AtomSpot :=
  match x with
  | .ok y => y
  | .error _ => .peer 0 0 0

/-- The atomics of an instruction inside its chunk, lane after lane in ascending order, each on what the lanes before it left (R236,
R281). -/
def atomRun (s : State) (g : Go) (op : Option AtomOp) (cas w64 : Bool) (spot : Nat → AtomSpot) : AtomRun :=
  g.lanes.foldl (fun run l => atomStep s g op cas w64 run (l, spot l)) ⟨[], [], []⟩

/-- ATOM and ACAS, where every lane's word passes its checks and is here: at scopes up to DIE each lane's register takes the old value and
the chunk buffers the new one; from DEVICE scope on the chunk ends and the atomic is performed at the word's home, its tag waiting for
the commit (R240, R279 to R283). A wave atomic runs when it opens its chunk and its wave has come. -/
def Obligations.ValueAtomics : Prop := ∀ (c : Ctl) (op : AtomOp) (w64 : Bool) (scope : Scope) (d : BitVec 8) (r : MemRef) (e : Src),
  let code := scopeCode scope
  let n : Nat := if w64 then 8 else 4
  let k : Nat := if w64 then 2 else 1
  let one (i : Instr) (o : Option AtomOp) (cas : Bool) : Prop :=
    let spot (s : State) (g : Go) (l : Nat) : Xl AtomSpot :=
      atomSpot s g.w false o w64 code r.rsel.toNat (g.rd2 0 0 l + BitVec.ofInt 64 (r.disp.toInt * n))
    let run (s : State) (g : Go) : AtomRun := if code ≤ 5 then atomRun s g o cas w64 (fun l => atomAt (spot s g l)) else ⟨[], [], []⟩
    let wave (g : Go) : Bool := g.w.det && decide (code = 2)
    Does i c (needs [dstField c.u d k] ([srcField r.base 2, srcField e k] ++ if cas then [dstField c.u d k] else []) 0)
      (fun s g => (∀ l ∈ g.lanes, ∃ p q, spot s g l = .ok (.word p q) ∧ ∀ x ∈ wordsOf p n, poisonedAt s g.w x = false)
        ∧ (wave g = true → g.w.chunk.count = 0 ∧ waveReady s g.w = true))
      (fun s g =>
        { res := { Result.ofWords c.u d k g (fun l j =>
              (wordsOfVal k (((run s g).old.find? (fun x => x.1 == l)).elim 0 (·.2.1))).getD j 0)
              ((run s g).flags.foldl (fun m x => m ||| x.2) 0) with
            lanes := if code ≤ 5 then g.lanes else [] }
          reads := if code ≤ 5 then g.lanes.flatMap (fun l => (atomAt (spot s g l)).words w64) else []
          touches := g.lanes.flatMap (fun l => (atomAt (spot s g l)).words w64)
          stores := (run s g).bytes
          ends := decide (6 ≤ code)
          awaits := if code ≤ 5 then .unit else .commit
          mark := fun t => { t with dst := d.toNat, duni := c.u, width := k }
          chunk := fun x => { x with
            atoms := x.atoms ++ (if code ≤ 5 then [] else homeAtomics g o cas w64 (some (d.toNat, c.u)) c.alloc.toNat
              (g.lanes.map (fun l => (l, atomAt (spot s g l)))))
            poisoned := markWords x.poisoned (if code ≤ 5 then
              (g.lanes.flatMap (fun l => (atomAt (spot s g l)).words w64)).map (fun p => (p, false)) else []) }
          turn := fun w => w.waved (wave g) g.f.id (waveClockOf s g.w) })
  one (.atom c op w64 scope d r e) (some op) false ∧ one (.acas c w64 scope d r e) none true

/-- RED, where every lane's place passes its checks, no lane's contribution leaves the window of its range, and no flag traps: a word takes
the new value in the chunk's buffer, or at its home from DEVICE scope on; an element of a declared range takes a contribution (R242,
R281, R284, R286). It returns nothing; its flags wait for the commit. -/
def Obligations.Reductions : Prop := ∀ (c : Ctl) (op : AtomOp) (w64 : Bool) (scope : Scope) (r : MemRef) (e : Src),
  let code := scopeCode scope
  let n : Nat := if w64 then 8 else 4
  let k : Nat := if w64 then 2 else 1
  let spot (s : State) (g : Go) (l : Nat) : Xl AtomSpot :=
    atomSpot s g.w true (some op) w64 code r.rsel.toNat (g.rd2 0 0 l + BitVec.ofInt 64 (r.disp.toInt * n))
  let run (s : State) (g : Go) : AtomRun := if code ≤ 5 then atomRun s g (some op) false w64 (fun l => atomAt (spot s g l)) else ⟨[], [], []⟩
  let xs (s : State) (g : Go) : List (Nat × AtomSpot) := g.lanes.map (fun l => (l, atomAt (spot s g l)))
  let flags (s : State) (g : Go) : List (Nat × Flags) := (run s g).flags ++ (contribsOf g w64 (xs s g)).1.map (fun x => (x.1, x.2.2))
  Does (.red c op w64 scope r e) c (needs [] [srcField r.base 2, srcField e k] 0)
    (fun s g => (∀ l ∈ g.lanes, ∃ x, spot s g l = .ok x) ∧ (contribsOf g w64 (xs s g)).2 = []
      ∧ trappingFlags g.w.regs.fpctl ((flags s g).foldl (fun m x => m ||| x.2) 0) = 0)
    (fun s g =>
      { reads := if code ≤ 5 then (xs s g).flatMap (fun x => match x.2 with
          | .word .. => x.2.words w64
          | .contrib .. => []
          | .peer .. => []) else []
        touches := (xs s g).flatMap (fun x => x.2.words w64)
        stores := (run s g).bytes
        ends := decide (6 ≤ code)
        mark := fun t => { t with dst := 0, duni := c.u, width := k }
        chunk := fun x => { x with
          atoms := x.atoms ++ (if code ≤ 5 then [] else homeAtomics g (some op) false w64 none 0 (xs s g))
          contribs := x.contribs ++ (contribsOf g w64 (xs s g)).1.map (fun y => y.2.1)
          poisoned := markWords x.poisoned (if code ≤ 5 then atomPoison s g.w w64 (xs s g) else [])
          flags := x.flags ||| (flags s g).foldl (fun m y => m ||| y.2) 0 } })

/-- CRDECL, CRREL, CNTINC, CNTRD, SEAL and UNSEAL, where their operands pass the checks the rules give: each ends its chunk and acts at its
position, CNTINC below DEVICE scope without ending it; CNTRD reads the counter at its home under its tag (R241, R245, R251, R260, R285,
R287, R308, R310, R314). -/
def Obligations.RangesCountersEditions : Prop := ∀ (c : Ctl) (op : CrOp) (fmt : CrFmt) (scope : Scope) (rsel : BitVec 2) (a b d e : BitVec 8),
  let off (g : Go) : DWord := g.rd2 0 0 0
  let realm (g : Go) : Nat := g.w.realmOf rsel.toNat
  let range (s : State) (g : Go) : CRange :=
    { id := s.model.nextId, part := g.w.part, realm := realm g, offset := off g, op := op, fmt := fmt
      q := (g.rd 2 0 0).toInt, denorm := g.w.denorm, die := dieOf g.w.core, live := false, elems := [] }
  Does (.crdecl c op fmt rsel a b e) c (needs [] [uniField a 2, uniField b 1, uniField e 1] 0)
    (fun s g => g.w.path = 0 ∧ (off g).toNat % 128 = 0 ∧ (g.rd 1 0 0).toNat % 128 = 0 ∧ 128 ≤ (g.rd 1 0 0).toNat ∧ (g.rd 1 0 0).toNat ≤ 2 ^ 24
      ∧ ((crSpec fmt).isSome = true → -1100 ≤ (g.rd 2 0 0).toInt ∧ (g.rd 2 0 0).toInt ≤ 1100)
      ∧ lockRoom s (dieOf g.w.core) 1 = true
      ∧ ∃ ps es, routes s g.w.who { local_ := true } (realm g) (off g) (g.rd 1 0 0).toNat = .ok ps
        ∧ (∀ x ∈ localRanges ps, meetsLock s g.w.part x.1 x.2 false = false ∧ meetsDeclared s x.1 x.2 = false)
        ∧ baseElems s g.w.view (range s g) (elemAddrs (crWidth fmt) (localRanges ps)) = some es)
    (fun s g =>
      { ends := true
        after := [.crdecl s.model.nextId]
        upds := fun t =>
          let es := match routes s g.w.who { local_ := true } (realm g) (off g) (g.rd 1 0 0).toNat with
            | .ok ps => (baseElems s g.w.view (range s g) (elemAddrs (crWidth fmt) (localRanges ps))).getD []
            | .error _ => []
          [.order { t.order with ranges := t.order.ranges ++ [{ range s g with elems := es }] }, .model { t.model with nextId := t.model.nextId + 1 }] })
  ∧ (∀ id, Does (.crrel c rsel a) c (needs [] [uniField a 2] 0)
    (fun s g => g.w.path = 0 ∧ (off g).toNat % 128 = 0 ∧ (∃ p, translate s g.w.who { local_ := true } (realm g) (off g) 128 = .ok p)
      ∧ ∃ r, s.order.ranges.find? (fun r => r.live && r.part == g.w.part && r.realm == realm g && r.offset == off g) = some r ∧ r.id = id)
    (fun _ _ => { ends := true, after := [.crrel id] }))
  ∧ (∀ t, Does (.cntinc c scope rsel a b) c (needs [] [uniField a 2, uniField b 1] 0)
    (fun s g => counterSpot s g.w true (scopeCode scope) rsel.toNat (off g) = .ok t)
    (fun _ g =>
      { ends := decide (6 ≤ scopeCode scope)
        after := [.cntinc t ((g.rd 1 0 0).setWidth 64) (scopeCode scope) g.f.clock]
        turn := fun w => { w with regs := w.regs.mapFrag g.f.id (Frag.nextEpoch w.id) } }))
  ∧ (∀ x, Does (.cntrd c rsel d a) c (needs [dstField true d 2] [uniField a 2] 0)
    (fun s g => counterSpot s g.w false 6 rsel.toNat (off g) = .ok (.home x))
    (fun s g => { res := { Result.ofPair true d g (fun _ => pairOf (rootWord s (x / 4)) (rootWord s (x / 4 + 1))) with lanes := [0] } }))
  ∧ (∀ pages, Does (.seal c rsel a b e) c (needs [] [uniField a 2, uniField b 1, uniField e 1] 0)
    (fun s g => sealPages s g.w rsel.toNat (off g) (g.rd 1 0 0).toNat = .ok pages
      ∧ ∀ p ∈ pages, sealRefused s (g.rd 2 0 0) p = false ∧ meetsLock s g.w.part (p * 2 ^ 16) ((p + 1) * 2 ^ 16) true = false)
    (fun _ g => { ends := true, after := [.seal pages (g.rd 2 0 0)] }))
  ∧ (∀ pages, Does (.unseal c rsel a b) c (needs [] [uniField a 2, uniField b 1] 0)
    (fun s g => sealPages s g.w rsel.toNat (off g) (g.rd 1 0 0).toNat = .ok pages)
    (fun _ _ => { ends := true, after := [.unseal pages] }))

/-- CINV and CWB over a range whose ends are multiples of 128 and which translates: CINV discards the fetched copies there at its chunk's
position; CWB writes the lines back after its commit, under its tag (R291 to R293). -/
def Obligations.CacheMaintenance : Prop := ∀ (c : Ctl) (scope : Scope) (r : MemRef) (len : BitVec 8) (ps : List Piece),
  let off (g : Go) : DWord := g.rd2 0 0 (g.lanes.headD 0) + BitVec.ofInt 64 (r.disp.toInt * 128)
  let n (g : Go) : Nat := (g.rd 1 0 (g.lanes.headD 0)).toNat
  let ok (s : State) (g : Go) : Prop := (off g).toNat % 128 = 0 ∧ n g % 128 = 0
    ∧ routes s g.w.who {} (g.w.realmOf r.rsel.toNat) (off g) (n g) = .ok ps
  Does (.cinv c scope r len) c (needs [] [srcField r.base 2, uniField len 1] 0) ok
    (fun _ _ => { after := (localRanges ps).map (fun x => .cinv x.1 x.2 (scopeCode scope)) })
  ∧ Does (.cwb c r len) c (needs [] [srcField r.base 2, uniField len 1] 0)
    (fun s g => ok s g ∧ ps.any Piece.remote = false ∧ n g = 0) (fun _ _ => {})
  ∧ Does (.cwb c r len) c (needs [] [srcField r.base 2, uniField len 1] 0)
    (fun s g => ok s g ∧ ps.any Piece.remote = false ∧ 0 < n g)
    (fun s g =>
      { awaits := .job s.model.nextId
        after := [.job s.model.nextId]
        upds := fun t =>
          [.eng { t.eng with jobs := t.eng.jobs ++ [{ newJob s g.w g.f .cwb with tag := c.alloc.toNat, total := n g }] },
           .model { t.model with nextId := t.model.nextId + 1 }] })

/-! ### Tile store and matrix engine -/

/-- An instruction on the tile store may go on: no fault of a granted pass is pending (R212), the core's row unit is not at a copy issued earlier
(R191), the images it names have legal offsets, do not overlap and lie in the task's allocation (R196), the bytes it touches are free of
locks (R199, R248), and no word it reads is poisoned (R215, R268). -/
def TileReady (s : State) (g : Go) (imgs touched : List Img) : Prop :=
  tilePending g.w = none ∧ rowUnitBusy s g.w = false ∧ imageShape s g.w imgs = none
  ∧ (∃ hs, imageLocks s g.w touched = .ok hs ∧ ∀ h ∈ hs, h = LockHit.free)
  ∧ ∀ i ∈ touched, i.write = false → tilePoison s g.w i.off i.size = none

/-- TALLOC gives the lowest run of clear granules and sets it, or all ones; TFREE clears a run that is set; TLD copies memory bytes into the
tile store at once, TST tile bytes into the chunk's buffer (R192, R193, R200, R240). -/
def Obligations.TileStore : Prop := ∀ (c : Ctl) (sz : TileSz) (d a b : BitVec 8) (t : Src) (r : MemRef),
  let map (s : State) (g : Go) : Nat := viewVal s g.w.view ⟨.carve, g.w.task, 0⟩ 32
  let put (g : Go) (m : Nat) : List (Place × Byte) := (placesFrom ⟨.carve, g.w.task, 0⟩ 32).zip (valBytes 32 m)
  let turnOf (s : State) (g : Go) : Prop := g.w.det = true → g.w.chunk.count = 0 ∧ waveReady s g.w = true
  let n := tileBytes sz
  let tile (g : Go) (l : Nat) : Nat := match t with
    | .v _ => (g.rd 1 0 l).toNat
    | .u _ => (g.rd 1 0 l).toNat + n * l
  let spots (s : State) (g : Go) (w : Bool) (l : Nat) : Xl (Spot × LockHit) :=
    tileSpots s g.w { write := w } r.rsel.toNat (g.rd2 0 0 l + BitVec.ofInt 64 (r.disp.toInt * n)) n (tile g l)
  let spot (s : State) (g : Go) (w : Bool) (l : Nat) : Xl Spot := match spots s g w l with
    | .ok x => .ok x.1
    | .error e => .error e
  let ready (s : State) (g : Go) (w : Bool) : Prop :=
    tilePending g.w = none ∧ ∀ l ∈ g.lanes, ∃ p e q, spots s g w l = .ok (.at_ p e .free q, .free)
  Does (.talloc c d a) c (needs [dstField true d 1] [uniField a 1] 0) turnOf (fun s g =>
    let k := carveFit (map s g) (granules s g.w.task) (g.rd 0 0 0).toNat
    { res := { Result.ofWord true d g (fun _ => k.elim 0xFFFFFFFF (fun x => BitVec.ofNat 32 (x * 1024))) with lanes := [0] }
      reads := wordsOf ⟨.carve, g.w.task, 0⟩ 32
      stores := k.elim [] (fun x => put g (map s g + (2 ^ (g.rd 0 0 0).toNat - 1) * 2 ^ x))
      turn := fun w => w.waved g.w.det g.f.id (waveClockOf s g.w) })
  ∧ Does (.tfree c a b) c (needs [] [uniField a 1, uniField b 1] 0)
    (fun s g => turnOf s g ∧ (g.rd 0 0 0).toNat % 1024 = 0 ∧ ((g.rd 1 0 0).toNat = 0 ∨ (g.rd 1 0 0).toNat ≤ 256
      ∧ carved (map s g) (granules s g.w.task) ((g.rd 0 0 0).toNat / 1024) (g.rd 1 0 0).toNat true = true))
    (fun s g =>
      { reads := wordsOf ⟨.carve, g.w.task, 0⟩ 32
        stores := if (g.rd 1 0 0).toNat = 0 then [] else
          put g (map s g - (2 ^ (g.rd 1 0 0).toNat - 1) * 2 ^ ((g.rd 0 0 0).toNat / 1024))
        turn := fun w => w.waved g.w.det g.f.id (waveClockOf s g.w) })
  ∧ Does (.tld c sz t r) c (needs [] [srcField r.base 2, srcField t 1] 0) (fun s g => ready s g false)
    (fun s g =>
      { res := { Result.nothing with flags := orFlags g.lanes (fun l => viewFlags s g.w.view (spotPlace (spot s g false l)) n) }
        reads := g.lanes.flatMap (fun l => entryWords (spotEntry (spot s g false l)) ++ wordsOf (spotPlace (spot s g false l)) n)
        touches := g.lanes.flatMap (fun l => wordsOf ⟨.tile, g.w.task, tile g l⟩ n)
        mark := fun e => { e with lanes := [], stations := [], tiles := [], width := n / 4, ext := 16 }
        turn := fun w => { w with tileBusy := w.tileBusy ++ [] }
        upds := andThen
          (putTile g.w.task (g.lanes.flatMap (fun l => cellsAt (tile g l) (viewBytes s g.w.view (spotPlace (spot s g false l)) n)))
            (g.lanes.flatMap (fun l => (wordsOf ⟨.tile, g.w.task, tile g l⟩ n).zip
              ((wordsOf (spotPlace (spot s g false l)) n).map (poisonedAt s g.w)))))
          (fun _ => []) })
  ∧ Does (.tst c sz t r) c (needs [] [srcField r.base 2, srcField t 1] 0) (fun s g => ready s g true ∧ peersTrap s g.w [] = none)
    (fun s g =>
      { reads := g.lanes.flatMap (fun l => wordsOf ⟨.tile, g.w.task, tile g l⟩ n) ++ g.lanes.flatMap (fun l => entryWords (spotEntry (spot s g true l)))
        stores := g.lanes.flatMap (fun l => (placesFrom (spotPlace (spot s g true l)) n).zip (viewBytes s g.w.view ⟨.tile, g.w.task, tile g l⟩ n))
        chunk := fun k => { k with
          poisoned := markWords k.poisoned (g.lanes.flatMap (fun l => (wordsOf (spotPlace (spot s g true l)) n).zip
            ((wordsOf ⟨.tile, g.w.task, tile g l⟩ n).map (poisonedAt s g.w)))) } })

/-- MZERO, MACCR, MACCW, MCVT, MROWMAX, MROWEXP and MSTAT (R217 to R222), where the tile store is ready for them: zeros over an accumulator;
a row's two columns of each lane read or written; FP32 or S32 rows converted; the maximum of each lane's two rows; their exponentials or
products; the status word. What they write into the tile store stands at once. -/
def Obligations.MatrixRows : Prop := ∀ (c : Ctl) (ac : AcFmt) (df : MatFmt) (s32 k1 mul : Bool) (rnd : Rnd) (row col : BitVec 2) (sel : BitVec 3)
    (d a b e : BitVec 8),
  let n : Nat := if ac = .bf16 then 4 else 8
  let at_ (g : Go) (off : Nat) : Place := ⟨.tile, g.w.task, off⟩
  let lane (g : Go) (l : Nat) : Nat := (g.rd 0 0 0).toNat + (g.rd 1 0 0).toNat * accRow ac + n * l
  let cm (g : Go) : DWord := g.w.regs.mm.getD (4 + col.toNat) 0
  let rm (g : Go) : DWord := g.w.regs.mm.getD row.toNat 0
  Does (.mzero c ac a) c (needs [] [uniField a 1] 0)
    (fun s g => TileReady s g [⟨(g.rd 0 0 0).toNat, accImage ac, true⟩] [⟨(g.rd 0 0 0).toNat, accImage ac, true⟩])
    (fun _ g =>
      { touches := wordsOf (at_ g (g.rd 0 0 0).toNat) (accImage ac)
        upds := putTile g.w.task (cellsAt (g.rd 0 0 0).toNat (List.replicate (accImage ac) 0))
          ((wordsOf (at_ g (g.rd 0 0 0).toNat) (accImage ac)).map (fun p => (p, false))) })
  ∧ Does (.maccr c ac d a b) c (needs [dstField false d (n / 4)] [uniField a 1, uniField b 1] 0)
    (fun s g => (g.rd 1 0 0).toNat ≤ 63
      ∧ TileReady s g [⟨(g.rd 0 0 0).toNat, accImage ac, false⟩] (g.lanes.map (fun l => ⟨lane g l, n, false⟩))
      ∧ ∀ l ∈ g.lanes, ∀ j, j < n / 4 → poisonedAt s g.w (at_ g (lane g l + 4 * j)) = false)
    (fun s g =>
      { res := .ofWords false d (n / 4) g (fun l j => BitVec.ofNat 32 (viewVal s g.w.view (at_ g (lane g l)) n / 2 ^ (32 * j))) 0
        reads := g.lanes.flatMap (fun l => wordsOf (at_ g (lane g l)) n) })
  ∧ Does (.maccw c ac a b e) c (needs [] [uniField a 1, uniField b 1, srcField (.v e) (n / 4)] 0)
    (fun s g => (g.rd 1 0 0).toNat ≤ 63
      ∧ TileReady s g [⟨(g.rd 0 0 0).toNat, accImage ac, true⟩] (g.lanes.map (fun l => ⟨lane g l, n, true⟩)))
    (fun _ g =>
      { touches := g.lanes.flatMap (fun l => wordsOf (at_ g (lane g l)) n)
        upds := putTile g.w.task (g.lanes.flatMap (fun l => cellsAt (lane g l) (dataBytes g 2 l n)))
          (g.lanes.flatMap (fun l => (wordsOf (at_ g (lane g l)) n).map (fun p => (p, false)))) })
  ∧ (let f := mcvtSpec df
    let es := f.width / 8
    let dst (g : Go) : Nat := (g.rd 0 0 0).toNat
    let src (g : Go) : Nat := (g.rd 1 0 0).toNat
    let half (g : Go) (i : Nat) : Nat := dst g + i * matRow df + es * 64 * (if k1 then 1 else 0)
    let imgs (g : Go) : List Img := [⟨dst g, matImage df 64, true⟩, ⟨src g, 16384, false⟩]
    let srcs (g : Go) : List Img := (List.range 64).flatMap (fun i => rowReads (cm g) (src g + 256 * i))
    let dsts (g : Go) : List Img := (List.range 64).map (fun i => ⟨half g i, 64 * es, true⟩)
    let elem (s : State) (g : Go) (i j : Nat) : Nat × Flags :=
      mcvtElem g.w.denorm s32 f (rmodeOf g.w.regs.fpctl rnd) (!(cm g).getLsbD j) (viewVal s g.w.view (at_ g (src g + 256 * i + 4 * j)) 4)
    let all (s : State) (g : Go) : Flags :=
      (List.range 64).foldl (fun m i => (List.range 64).foldl (fun m j => m ||| (elem s g i j).2) m) 0
    Does (.mcvt c df s32 rnd k1 col a b) c (needs [] [uniField a 1, uniField b 1] 0) (fun s g => TileReady s g (imgs g) (srcs g ++ dsts g))
      (fun s g =>
        { res := { Result.nothing with flags := all s g }
          reads := (srcs g).flatMap (fun i => wordsOf (at_ g i.off) i.size)
          touches := (List.range 64).flatMap (fun i => wordsOf (at_ g (half g i)) (64 * es))
          upds := putTile g.w.task
            ((List.range 64).flatMap (fun i => cellsAt (half g i) ((List.range 64).flatMap (fun j => valBytes es (elem s g i j).1))))
            ((List.range 64).flatMap (fun i => (wordsOf (at_ g (half g i)) (64 * es)).map (fun p => (p, false)))) }))
  ∧ (let src (g : Go) : Nat := (g.rd 0 0 0).toNat
    let rows (g : Go) : List Img := g.lanes.flatMap (fun l => rowReads (cm g) (src g + 512 * l) ++ rowReads (cm g) (src g + 512 * l + 256))
    let res (s : State) (g : Go) (l j : Nat) : Word × Flags := rowMax s g.w (cm g) (src g) (2 * l + j) (g.rd 1 j l)
    Does (.mrowmax c col d a e) c (needs [dstField false d 2] [uniField a 1, srcField (.v e) 2] 0)
      (fun s g => TileReady s g [⟨src g, 16384, false⟩] (rows g))
      (fun s g =>
        { res := .ofWords false d 2 g (fun l j => (res s g l j).1) (orFlags g.lanes (fun l => (res s g l 0).2 ||| (res s g l 1).2))
          reads := (rows g).flatMap (fun i => wordsOf (at_ g i.off) i.size) }))
  ∧ (let dst (g : Go) : Nat := (g.rd 0 0 0).toNat
    let src (g : Go) : Nat := (g.rd 1 0 0).toNat
    let res (s : State) (g : Go) (l j : Nat) : List Nat × Word × Flags :=
      rowExp s g.w mul (rm g) (cm g) (src g) (2 * l + j) (if mul then 0 else g.rd 3 0 0) (g.rd 2 j l)
    let srcs (g : Go) : List Img := if mul then g.lanes.map (fun l => ⟨src g + 512 * l, 512, false⟩) else
      g.lanes.flatMap (fun l => [2 * l, 2 * l + 1].flatMap (fun i => if (rm g).getLsbD i then rowReads (cm g) (src g + 256 * i) else []))
    let dsts (g : Go) : List Img := g.lanes.map (fun l => ⟨dst g + 512 * l, 512, true⟩)
    Does (.mrowexp c mul row col d a b e) c
      (needs (if mul then [] else [dstField false d 2]) ([uniField a 1, uniField b 1, srcField (.v d) 2] ++ if mul then [] else [uniField e 1]) 0)
      (fun s g => TileReady s g [⟨dst g, 16384, true⟩, ⟨src g, 16384, false⟩] (srcs g ++ dsts g))
      (fun s g =>
        { res := { Result.ofWords false d 2 g (fun l j => (res s g l j).2.1) (orFlags g.lanes (fun l => (res s g l 0).2.2 ||| (res s g l 1).2.2)) with
            k := if mul then 0 else 2 }
          reads := (srcs g).flatMap (fun i => wordsOf (at_ g i.off) i.size)
          touches := (dsts g).flatMap (fun i => wordsOf (at_ g i.off) i.size)
          upds := putTile g.w.task
            (g.lanes.flatMap (fun l => [0, 1].flatMap (fun j => cellsAt (dst g + 256 * (2 * l + j)) ((res s g l j).1.flatMap (valBytes 4)))))
            ((dsts g).flatMap (fun i => (wordsOf (at_ g i.off) i.size).map (fun p => (p, false)))) }))
  ∧ Does (.mstat c sel d) c (needs [dstField true d 1] [] 0) (fun _ _ => True)
    (fun s g => { res := { Result.ofWord true d g (fun _ => BitVec.ofNat 32 (mstatWord s g.w sel.toNat)) with lanes := [0] } })

/-- MBQ and MMA, where their operands pass R196, R202 and R205 and the tables have room: the chunk ends; a quarter copy or a reservation
entry stands with its locks, and starts at the chunk's position (R202, R204, R205, R211, R247).
MMASK writes one matrix mask, from a pair or as the low bits up to a length, and no other register (R203). -/
def Obligations.MatrixCommands : Prop :=
  (∀ (c : Ctl) (fmt af bf : MatFmt) (acc : AccMode) (set1 : Bool) (row col : BitVec 2) (d a b e : BitVec 8),
  let img (g : Go) : Img := ⟨(g.rd 0 0 0).toNat, matImage fmt 16, false⟩
  let ask (g : Go) : MmaAsk :=
    { af := af, bf := bf, acc := acc, row := row.toNat, col := col.toNat, a := (g.rd 0 0 0).toNat, b := (g.rd 1 0 0).toNat
      sel := g.rd 2 0 0, step := if acc = .bf16sr then g.rd 3 0 0 else 0 }
  Does (.mbq c fmt set1 a b) c (needs [] [uniField a 1, uniField b 1] 0)
    (fun s g => tilePending g.w = none ∧ (g.rd 1 0 0).toNat < 2 ^ 16 ∧ imageShape s g.w [img g] = none ∧ commandLocks s g.w [img g] = none
      ∧ lockRoom s (dieOf g.w.core) 1 = true)
    (fun s g =>
      { ends := true
        after := [.copy s.model.nextId]
        upds := inOrder [
          onMat (fun m => { m with copies := m.copies ++ [
            { id := s.model.nextId, core := g.w.core, set := if set1 then 1 else 0, fmt := fmt, gen := (g.rd 1 0 0).setWidth 16,
              launch := launchIdent s g.w, task := g.w.task, warp := g.w.id, tile := (g.rd 0 0 0).toNat, committed := false, pos := 0,
              seq := s.model.nextId, pc := g.f.pc, path := g.w.path, who := g.w.ident, thread := threadOf g.w.id g.f.id
              stamp := clockGet g.f.clock (threadOf g.w.id g.f.id), clock := g.f.clock }] }),
          addLocks [taskLock s g.w .tile (img g) (matrixHolder + s.model.nextId) 0 (s.model.nextId + 1) none], useIds 2] })
  ∧ Does (.mma c af bf acc row col d a b e) c
    (needs [] ([uniField a 1, uniField b 1, uniField e 1] ++ if acc = .bf16sr then [uniField d 1] else []) 0)
    (fun s g => tilePending g.w = none ∧ mmaCheck s g.w (ask g) = none ∧ entryFree s g.w.core = true ∧ lockRoom s (dieOf g.w.core) 2 = true)
    (fun s g =>
      { ends := true
        after := [.entry s.model.nextId]
        upds := takeEntry g.w (mmaEntry s g.w g.f (ask g) none) (ask g) }))
  ∧ (∀ (c : Ctl) (len : Bool) (d : BitVec 3) (a : BitVec 8) (s : State) (w : Warp) (f : Frag) (g : Go),
  (Instr.mmask c len d a).wf = true →
  Issues c { needs [] [uniField a (if len then 1 else 2)] 0 with mdsts := [d.toNat] } s w f g {} →
  ∃ v, exec (.mmask c len d a) s = .next (s.run (g.upds ++ [.warp v]))
    ∧ v.regs.mm = g.w.regs.mm.set d.toNat (if len then (BitVec.ofNat 64 (2 ^ min (g.rd 0 0 0).toNat 64 - 1)) else g.rd2 0 0 0)
    ∧ v.regs.v = g.w.regs.v ∧ v.regs.u = g.w.regs.u ∧ v.regs.p = g.w.regs.p ∧ v.regs.fpstat = g.w.regs.fpstat
    ∧ v.regs.fpctl = g.w.regs.fpctl ∧ v.regs.realm = g.w.regs.realm ∧ v.chunk.bytes = g.w.chunk.bytes
    ∧ v.regs.frags.map Frag.face = g.w.regs.frags.map (fun x => if x.id = g.f.id then { x with pc := nextPc x.pc }.face else x.face))

/-! ### Engine commands -/

/-- The window word and the length that WBIND's descriptor gives (R299, R300). -/
def bindWord (d : List Word) : Nat := wfield d 5 0 18 + 2 ^ 31 * wfield d 5 31 1

/-- WBIND, where its descriptor, its source, its counter and, for .MMA, its follow-on pass pass the checks and the tables have room: a
reserved window, its copy command and the locks of destination and source, a halo's for the rows that its copy will read; it takes effect at the
chunk's position (R299 to R304). -/
def Obligations.WindowBind : Prop := ∀ (c : Ctl) (mma : Bool) (a e : BitVec 8) (src : List Piece) (ctr : CounterRef),
  let d (g : Go) : List Word := descWords g 0 8
  let q (g : Go) : List Word := if mma then descWords g 1 4 else []
  let word (g : Go) : Nat := bindWord (d g)
  let halo (g : Go) : Bool := (wordAt (d g) 2).getLsbD 9
  let locks (s : State) (g : Go) : List Lock :=
    taskLock s g.w (windowSpace (word g)) ⟨windowOffset (word g), windowLen (d g), true⟩ s.model.nextId 0 (s.model.nextId + 1) (some (word g))
      :: (if halo g then [taskLock s g.w .scratch ⟨0, 0, false⟩ s.model.nextId 1 (s.model.nextId + 2) none]
          else rangeLocks s g.w (localRanges src) false s.model.nextId 1 (s.model.nextId + 2))
  Does (.wbind c mma a e) c (needs [] (uniField a 8 :: (if mma then [uniField e 4] else [])) 0)
    (fun s g => ∃ t, s.task? g.w.task = some t ∧ wbindLimits (d g) = none
      ∧ counterAligned g.w ((wordAt (d g) 2).getLsbD 8) (wfield (d g) 2 2 2) (wpair (d g) 6) = none ∧ t.windows.length < 16
      ∧ windowOffset (word g) + windowLen (d g) ≤ spaceBytes s t.id (windowSpace (word g))
      ∧ meetsWindow t (word g) (windowLen (d g)) = false
      ∧ (halo g = true → haloBounds s g.w (d g) = none ∧ haloCheck s g.w (d g) = none ∧ src = [])
      ∧ (halo g = false → sourceRoutes s g.w (g.w.realmOf (wfield (d g) 2 0 2)) (wpair (d g) 0) (windowRuns (d g)) = .ok src)
      ∧ (mma = true → followCheck s g.w (windowSpace (word g) = .tile) (q g) = none ∧ (followOn (q g)).isSome = true ∧ entryFree s g.w.core = true)
      ∧ engineCounter s g.w ((wordAt (d g) 2).getLsbD 8) (wfield (d g) 2 4 4) (wfield (d g) 2 2 2) (wpair (d g) 6) = .ok ctr
      ∧ declaredPieces s (g.w.realmOf (wfield (d g) 2 0 2)) (wpair (d g) 0) src = none
      ∧ regionUse s g.w.core < 64
      ∧ lockRoom s (dieOf g.w.core) (1 + (if halo g then 1 else rangeCount src) + (if mma then 2 else 0)) = true)
    (fun s g =>
      let id := s.model.nextId
      let n := (locks s g).length
      { after := [.job id] ++ (if mma then [.entry (id + 2 + n)] else [])
        upds := inOrder [
          addJob { newJob s g.w g.f .window with
            desc := d g, src := (wpair (d g) 0).toNat, dst := word g, total := windowLen (d g), phase := if halo g then 0 else 2, amount := 1
            counter := ctr, scope := if (wordAt (d g) 2).getLsbD 8 then 6 else wfield (d g) 2 4 4, tag := wfield (d g) 2 10 8 },
          onTask g.w.task (fun t => { t with windows := t.windows ++ [
            { word := word g, state := 0, len := windowLen (d g), desc := d g, job := id, first := id, counter := ctr, realms := g.w.regs.realm
              landed := 0, fault := false, binder := g.w.id, pc := g.f.pc, path := g.w.path }] }),
          addLocks (locks s g), useIds (2 + n),
          fun t => match (if mma then followOn (q g) else none) with
            | none => []
            | some ask => takeEntry g.w (mmaEntry t g.w g.f ask (some id)) ask t] })

/-- WKICK and WDROP act at their chunk's position on a window that their word names, bound or reserved in their own chunk, and WKICK of a landed one where
its locks have room; WSTAT writes a
window's state, whether a follow-on pass waits, whether its copy has failed and the granules that have landed, 0 for a free window (R305,
R306). -/
def Obligations.WindowCommands : Prop := ∀ (c : Ctl) (d a : BitVec 8),
  let word (g : Go) : Nat := (g.rd 0 0 0).toNat
  let named (s : State) (g : Go) : Prop := word g / 2 ^ 18 % 2 ^ 13 = 0
    ∧ ∃ t x, s.task? g.w.task = some t ∧ x ∈ t.windows ∧ x.word = word g ∧ (x.state ≠ 0 ∨ x.binder = g.w.id)
  Does (.wkick c a) c (needs [] [uniField a 1] 0)
    (fun s g => named s g ∧ ∀ t, s.task? g.w.task = some t → ∀ x ∈ t.windows, x.word = word g → x.state = 3 →
      lockRoom s (dieOf g.w.core) (if (wordAt x.desc 2).getLsbD 9 then 2 else 1) = true) (fun _ g => { after := [.windowKick g.w.task (word g)] })
  ∧ Does (.wdrop c a) c (needs [] [uniField a 1] 0) named (fun _ g => { after := [.windowDrop g.w.task (word g)] })
  ∧ Does (.wstat c d a) c (needs [dstField true d 1] [uniField a 1] 0) (fun _ _ => True) (fun s g =>
    { res := { Result.ofWord true d g (fun _ => match (s.task? g.w.task).bind (fun t => t.window? (word g)) with
        | none => 0
        | some x => BitVec.ofNat 32 (x.state + (if s.mat.entries.any (fun e => e.window == some x.first) then 4 else 0)
            + (if x.fault then 8 else 0) + 256 * min (2 ^ 24 - 1) (granulesOf (windowOffset x.word)
              (if x.state = 2 then ((s.job? x.job).map (·.landed)).getD 0 else x.landed)))) with lanes := [0] } })

/-- RCOPY, TOPK, COLL and CKPT, where the descriptor is within its limits, its offsets are aligned, its ranges and its counter pass their
checks and the lock table has room: a command with its locks, which leaves at the chunk's position; COLL and CKPT end their chunk (R311,
R315, R316, R321, R350, R496). -/
def Obligations.EngineCommands : Prop := ∀ (c : Ctl) (other : Bool) (a b : BitVec 8) (src dst : List Piece) (ctr : CounterRef),
  let d (g : Go) : List Word := descWords g 0 8
  let locks (s : State) (g : Go) (ds dd : Bool) : List Lock :=
    rangeLocks s g.w (localRanges src) ds s.model.nextId 0 (s.model.nextId + 1)
      ++ rangeLocks s g.w (localRanges dst) dd s.model.nextId 1 (s.model.nextId + 1 + (localRanges src).length)
  let room (s : State) (g : Go) : Prop := lockRoom s (dieOf g.w.core) (rangeCount src + rangeCount dst) = true
  let puts (ls : List Lock) (job : Job) : State → List Upd :=
    inOrder [addJob job, addLocks ls, useIds (1 + ls.length)]
  let apart : Prop := ∀ p ∈ src, ∀ q ∈ dst, p.meets q = false
  Does (.rcopy c a b) c (needs [] [uniField a 8, uniField b 1] 0)
    (fun s g => rcopyLimits (d g) = none ∧ rcopyAligned g.w (d g) = none
      ∧ commandRanges s g.w true false (g.w.realmOf (wfield (d g) 5 0 2)) (wpair (d g) 0) (wordAt (d g) 4).toNat
          (g.w.realmOf (wfield (d g) 5 2 2)) (wpair (d g) 2) (wordAt (d g) 4).toNat
          (engineCounter s g.w ((wordAt (d g) 5).getLsbD 10) (wfield (d g) 5 6 4) (wfield (d g) 5 4 2) (wpair (d g) 6)) = .ok (src, dst, ctr)
      ∧ (nub ((src ++ dst).filterMap Piece.device)).length ≤ 1 ∧ apart ∧ room s g)
    (fun s g =>
      { after := [.job s.model.nextId]
        upds := puts (locks s g false true) { newJob s g.w g.f .rcopy with
          desc := d g, src := (wpair (d g) 0).toNat, dst := (wpair (d g) 2).toNat, total := (wordAt (d g) 4).toNat
          amount := (g.rd 1 0 0).setWidth 64, counter := ctr, scope := if (wordAt (d g) 5).getLsbD 10 then 6 else wfield (d g) 5 6 4 } })
  ∧ Does (.topk c a) c (needs [] [uniField a 8] 0)
    (fun s g =>
      let rows := wfield (d g) 3 21 11
      topkLimits (d g) = none ∧ topkAligned g.w (d g) = none
      ∧ commandRanges s g.w false true (g.w.realmOf (wfield (d g) 3 10 2)) (wpair (d g) 0) (rows * wfield (d g) 2 0 23 * topkSize (d g))
          (g.w.realmOf (wfield (d g) 3 12 2)) (wpair (d g) 4) (rows * 8 * wfield (d g) 3 0 9)
          (engineCounter s g.w ((wordAt (d g) 3).getLsbD 20) (wfield (d g) 3 16 4) (wfield (d g) 3 14 2) (wpair (d g) 6)) = .ok (src, dst, ctr)
      ∧ room s g)
    (fun s g =>
      { after := [.job s.model.nextId]
        upds := puts (locks s g false true) { newJob s g.w g.f .topk with
          desc := d g, src := (wpair (d g) 0).toNat, dst := (wpair (d g) 4).toNat, total := wfield (d g) 3 21 11 * 8 * wfield (d g) 3 0 9
          amount := 1, counter := ctr, scope := if (wordAt (d g) 3).getLsbD 20 then 6 else wfield (d g) 3 16 4
          phase := if g.w.denorm then 1 else 0 } })
  ∧ Does (.coll c a) c (needs [] [uniField a 8] 0)
    (fun s g => g.w.path = 0 ∧ collLimits (d g) = none ∧ (wpair (d g) 0).toNat % 128 = 0 ∧ (wpair (d g) 5).toNat % 8 = 0
      ∧ engineRange s g.w { write := true, local_ := true, engine := true } (g.w.realmOf (wfield (d g) 3 8 2)) (wpair (d g) 0)
          ((wordAt (d g) 2).toNat * collBytes (wfield (d g) 3 3 3)) = .ok src
      ∧ engineRange s g.w { write := true, local_ := true, engine := true } (g.w.realmOf (wfield (d g) 3 10 2)) (wpair (d g) 5) (8 + 4 * wfield (d g) 4 16 11) = .ok dst
      ∧ collsInFlight s g.w.part < 8 ∧ lockRoom s (dieOf g.w.core) 2 = true)
    (fun s g =>
      { ends := true
        after := [.job s.model.nextId]
        upds := puts (locks s g true true) { newJob s g.w g.f .coll with
          desc := d g, src := (wpair (d g) 0).toNat, dst := (wpair (d g) 5).toNat, total := (wordAt (d g) 2).toNat * collBytes (wfield (d g) 3 3 3)
          amount := 1, counter := (localRanges dst).head?.elim .none (fun r => .local r.1), scope := 7, data := [if g.w.denorm then 1 else 0] } })
  ∧ Does (.ckpt c other a) c (needs [] [uniField a 8] 0)
    (fun s g => g.w.level ≠ 0 ∧ (other = true → g.w.level = 2) ∧ g.w.path = 0 ∧ ckptReserved (d g) = false ∧ ckptLimits s g.w other (d g) = none
      ∧ ckptTargets s g.w (wfield (d g) 2 16 16) (ckptUnits (d g)).length = none
      ∧ engineCounter s g.w ((wordAt (d g) 2).getLsbD 3) (wfield (d g) 2 4 4) (wfield (d g) 2 0 2) (wpair (d g) 3) = .ok ctr)
    (fun s g =>
      { ends := true
        after := [.job s.model.nextId]
        upds := inOrder [addJob { newJob s g.w g.f .ckpt with
          desc := d g, data := ckptUnits (d g), total := (ckptUnits (d g)).length * 2 ^ 27, amount := 1, counter := ctr
          scope := if (wordAt (d g) 2).getLsbD 3 then 6 else wfield (d g) 2 4 4 }, useIds 1] })

/-! ### The KV cache -/

/-- KVLD, where every lane's slot passes R335 and holds no poison: the gathered words and a predicate that is false for an invisible slot
and undecided for stale values, in the lanes that do not wait for a repair; those wait under the tag (R334 to R336). KVAPPEND, where
every lane's slot passes its checks and no conversion traps: values and entry words into the chunk's buffer, lane by lane (R337). -/
def Obligations.KvSlots : Prop := ∀ (c : Ctl) (f32 valid spec : Bool) (rsel : BitVec 2) (d a b e : BitVec 8) (pc : BitVec 3)
    (xs : List (Nat × KvSlot × List (Nat × Nat))) (ys : List (Nat × KvSlot)),
  let count : Nat := if f32 then 4 else 8
  let sel (g : Go) : List Word := descWords g 1 4
  let now (g : Go) : List (Nat × KvSlot × List (Nat × Nat)) := xs.filter (fun x => !kvldWaits g.w x.2.1)
  let later (g : Go) : List (Nat × KvSlot × List (Nat × Nat)) := xs.filter (fun x => kvldWaits g.w x.2.1)
  let got (s : State) (g : Go) (x : KvSlot × List (Nat × Nat)) : List Word × Flags × Bool := kvldGather s g.w f32 x.1 (freqAt x.2)
  let words (s : State) (g : Go) (l : Nat) : List Word := (xs.find? (fun x => x.1 == l)).elim [] (fun x => (got s g x.2).1)
  let shown (l : Nat) : Tri := (xs.find? (fun x => x.1 == l)).elim .no (fun x =>
    if x.2.1.vis = false then .no else if x.2.1.stale then .undecided else .yes)
  let fl (g : Go) (x : Nat × KvSlot) : Flags := (kvAppendValues g (kvFmtTag x.2.leaf.e) x.1).foldl (fun m v => m ||| v.2) (0 : Flags)
  Does (.kvld c f32 rsel d a b pc) c { needs [dstField false d 4] [srcField (.v a) 1, uniField b 4] 0 with pdsts := [pc.toNat] }
    (fun s g => eachLane g.lanes (fun l => kvldLane s g.w rsel.toNat (sel g) count (g.rd 0 0 l).toNat) = .ok xs
      ∧ ∀ x ∈ now g, (got s g x.2).2.2 = false)
    (fun s g =>
      { res := { Result.ofWords false d 4 g (fun l j => (words s g l).getD j 0) ((now g).foldl (fun m x => m ||| (got s g x.2).2.1) 0) with
          lanes := (now g).map (·.1)
          pred := some pc.toNat, plane := (now g).map (·.1), tri := shown }
        reads := (now g).flatMap (fun x => kvldPlaces x.2.1 count)
        awaits := if later g = [] then .unit else .kv
        mark := fun t => { t with
          dst := d.toNat, width := 4, lanes := (later g).map (·.1)
          tiles := (later g).map (fun x => ((g.rd 0 0 x.1).toNat, repairCounter s g.w.part x.2.1.leaf.ea))
          kv := [if f32 then 1 else 0, BitVec.ofNat 32 rsel.toNat, BitVec.ofNat 32 pc.toNat] ++ sel g } })
  ∧ Does (.kvappend c valid spec rsel a b e) c { needs [] [srcField (.v a) 1, uniField b 4, srcField (.v e) 4] 0 with carry := [2] }
    (fun s g => eachLane g.lanes (fun l => kvAppendSlot s g.w rsel.toNat (sel g) (g.rd 0 0 l).toNat) = .ok ys
      ∧ trappingFlags g.w.regs.fpctl (ys.foldl (fun m x => m ||| fl g x) 0) = 0)
    (fun s g =>
      { stores := ys.foldl (kvAppendLane s g valid spec) []
        reads := ys.flatMap (fun x => kvPlaces x.2.leaf.ea)
        chunk := fun k => { k with
          poisoned := markWords k.poisoned (ys.flatMap (kvAppendMarks g))
          flags := k.flags ||| ys.foldl (fun m x => m ||| fl g x) 0 } })

/-- Entries that a page instruction may rewrite: not held by a repair, not locked or declared, not sealed (R241, R260, R338). -/
def KvOpen (s : State) (w : Warp) (ls : List KvLeaf) : Prop :=
  ∀ l ∈ ls, kvRpend l.e = false ∧ meetsLock s w.part l.ea (l.ea + 32) false = false ∧ meetsDeclared s l.ea (l.ea + 32) = false
    ∧ sealedAt s l.ea = none

/-- Entries that a page instruction may read: not held by a repair, not under a destination lock (R248, R338). -/
def KvReadable (s : State) (w : Warp) (ls : List KvLeaf) : Prop :=
  ∀ l ∈ ls, kvRpend l.e = false ∧ readLocked s w.part (kvPlaces l.ea) = false

/-- A page instruction, where its checks pass and find the entries seen and the new words of those it changes: its chunk ends; the words
go into the chunk's buffer; at the position the pages whose translation changes are given up everywhere (R338, R352). -/
def ChangesPages (i : Instr) (c : Ctl) (srcs : List Field) (rsel : BitVec 2) (turns : Bool)
    (plan : State → Go → List KvLeaf → List (KvLeaf × List Nat × List Word) → Prop) : Prop := ∀ seen new,
  Does i c (needs [] srcs 0) (fun s g => plan s g seen new)
    (fun _ g =>
      { ends := true
        reads := seen.flatMap (fun l => kvPlaces l.ea)
        stores := new.flatMap (fun x => kvStores x.1.ea x.2.1 x.2.2)
        after := [.kvChange (g.w.realmOf rsel.toNat) (if turns then new.map (fun x => x.1.va.toNat / 2 ^ 16) else [])] })

/-- KVMASK, KVFMT and KVPROV over a checked range: the masks, the format and frame, the document and version of each entry (R339 to
R341).
What KVMASK makes of an entry's masks: SET raises VALID, CLR clears both, ACCEPT clears SPEC, REJECT clears VALID where SPEC was set and
then SPEC (R339). Every other bit of the entry stays. -/
def Obligations.KvEntries : Prop :=
  (∀ (c : Ctl) (op : KvMaskOp) (rsel : BitVec 2) (a b : BitVec 8),
  let sel (g : Go) : List Word := descWords g 0 4
  let range (s : State) (g : Go) (r : KvRange) (seen : List KvLeaf) : Prop :=
    kvPageRange s g.w rsel.toNat (sel g) false = .ok r
    ∧ kvEntries s g.w true rsel.toNat r.d r.cols r.first r.count = .ok seen ∧ KvOpen s g.w seen
  let plain (seen : List KvLeaf) : Prop := ∀ l ∈ seen, kvRo l.e = false
  ChangesPages (.kvmask c op rsel a b) c [uniField a 4, uniField b 2] rsel false (fun s g seen new =>
    (∃ r, range s g r seen) ∧ plain seen ∧ new = seen.map (fun l => (l, kvMaskIdx op, kvMasked op (g.rd2 1 0 0).toNat l.e)))
  ∧ ChangesPages (.kvfmt c rsel a b) c [uniField a 4, uniField b 1] rsel true (fun s g seen new =>
    let x := (g.rd 1 0 0).toNat
    (∃ r, range s g r seen ∧ r.count = 1) ∧ plain seen ∧ wfield (sel g) 3 16 1 = 0 ∧ x < 2 ^ 30 ∧ x % 2 ^ 26 ≠ 0 ∧ x / 2 ^ 26 < 9
      ∧ (∀ l ∈ seen, x % 2 ^ 26 < kvPoolFrames l.part ∧ kvSpec l.e = 0)
      ∧ new = seen.map (fun l => (l, [4, 7], kvSet (kvSet l.e 228 26 (x % 2 ^ 26)) 128 4 (x / 2 ^ 26))))
  ∧ ChangesPages (.kvprov c rsel a b) c [uniField a 4, uniField b 2] rsel false (fun s g seen new =>
    (∃ r, range s g r seen) ∧ (g.rd 1 1 0).toNat < 2 ^ 16
      ∧ new = seen.map (fun l => (l, [5, 6, 7], kvSet (kvSet l.e 180 32 (g.rd 1 0 0).toNat) 212 16 (g.rd 1 1 0).toNat))))
  ∧ (∀ (m : Nat) (e : List Word), e.length = 8 → m < 2 ^ 64 →
  let v := kvValid e
  let p := kvSpec e
  let out (x y : Nat) : Nat := x &&& (2 ^ 64 - 1 - y)
  let shows (op : KvMaskOp) (v' p' : Nat) : Prop :=
    kvValid (kvMasked op m e) = v' ∧ kvSpec (kvMasked op m e) = p' ∧ kvNat (kvMasked op m e) / 2 ^ 128 = kvNat e / 2 ^ 128
  shows .set (v ||| m) p ∧ shows .clr (out v m) (out p m) ∧ shows .accept v (out p m) ∧ shows .reject (out v (m &&& p)) (out p m))

/-- KVSHARE and GRAFT in the root shoot, where both selectors pass, the destination's entries are open and empty as the rules ask, the
source's are mapped with nothing speculative, and no shoot holds a version of an entry that changes: the shared entries are read-only
copies; a graft opens its pages at P and moves what stood there behind them (R342, R343). -/
def Obligations.KvSharing : Prop := ∀ (c : Ctl) (ro : Bool) (rsel : BitVec 2) (a b : BitVec 8),
  let both (s : State) (g : Go) (r : KvRange) (sd : List Word) (sfirst : Nat) : Prop :=
    g.w.path = 0 ∧ kvPageRange s g.w rsel.toNat (descWords g 0 4) true = .ok r
    ∧ kvSource s g.w rsel.toNat (descWords g 1 4) r.d r.count = .ok (sd, sfirst)
  ChangesPages (.kvshare c rsel a b) c [uniField a 4, uniField b 4] rsel true (fun s g seen new => ∃ r sd sfirst dst src,
    both s g r sd sfirst ∧ wfield (descWords g 1 4) 2 16 16 = 0
    ∧ kvEntries s g.w true rsel.toNat r.d r.cols r.first r.count = .ok dst
    ∧ kvEntries s g.w false rsel.toNat sd r.cols sfirst r.count = .ok src
    ∧ KvOpen s g.w dst ∧ KvReadable s g.w src ∧ (∀ l ∈ dst, kvBlank l.e = true) ∧ (∀ l ∈ src, kvTakable l.e = true) ∧ kvUnshared s g.w dst = .ok ()
    ∧ seen = dst ++ src ∧ new = (dst.zip src).map (fun x => (x.1, List.range 8, kvSet (kvSet x.2.e 255 1 1) 254 1 0)))
  ∧ ChangesPages (.graft c ro rsel a b) c [uniField a 4, uniField b 4] rsel true (fun s g seen new =>
    ∃ (r : KvRange) (sd : List Word) (sfirst : Nat) (dst src : List KvLeaf) (news : List (List (KvLeaf × List Nat × List Word))),
    let run := kvPps r.d - r.first
    both s g r sd sfirst ∧ wpair (descWords g 0 4) 0 ≠ wpair (descWords g 1 4) 0
    ∧ kvEntries s g.w true rsel.toNat r.d r.cols r.first run = .ok dst
    ∧ kvEntries s g.w false rsel.toNat sd r.cols sfirst r.count = .ok src
    ∧ KvOpen s g.w dst ∧ KvReadable s g.w src ∧ (∀ col ∈ chunksOf run r.cols.length dst, ∀ l ∈ col.drop (run - r.count), kvBlank l.e = true)
    ∧ (∀ l ∈ src, kvTakable l.e = true) ∧ kvUnshared s g.w dst = .ok ()
    ∧ ((chunksOf run r.cols.length dst).zip (chunksOf r.count r.cols.length src)).map
        (fun x => graftColumn ro r.first sfirst r.count x.1 x.2) = news.map some
    ∧ seen = dst ++ src ∧ new = news.flatten)

/-- KVCOMPACT, REPAIR and BEAMMAP, where their checks pass and the lock table has room: entry words into the chunk's buffer and a command
with its locks, which leaves at the chunk's position (R344, R346, R349). -/
def Obligations.KvCommands : Prop := ∀ (c : Ctl) (rsel : BitVec 2) (a b e : BitVec 8) (r : KvRange) (cols : List (List KvLeaf))
    (frames : List (List Nat)) (ls : List KvLeaf) (ctr : CounterRef) (table : DWord) (head : Word) (pi : List Nat) (src dst : List Piece),
  let realm (g : Go) : Nat := g.w.realmOf rsel.toNat
  let puts (job : Job) (ks : List Lock) : State → List Upd := inOrder [addJob job, addLocks ks, useIds (1 + ks.length)]
  let m : Nat := (kvValidSlots ((cols.headD []).map (·.e))).length
  let moves : List Nat := cols.flatMap (fun x => compactMoves (x.map KvLeaf.page) (x.map (·.e)))
  Does (.kvcompact c rsel a) c (needs [] [uniField a 4] 0)
    (fun s g => compactPlan s g.w rsel.toNat (descWords g 0 4) = .ok (r, cols, frames) ∧ lockRoom s (dieOf g.w.core) cols.flatten.length = true)
    (fun s g =>
      { ends := true
        reads := cols.flatten.flatMap (fun l => kvPlaces l.ea)
        stores := cols.flatMap (fun col => col.zipIdx.flatMap (fun x =>
          kvStores x.1.ea [0, 1] (kvSet x.1.e 0 64 (2 ^ min 64 (m - 64 * x.2) - 1))))
        after := [.kvChange (realm g) [], .job s.model.nextId]
        upds := puts { newJob s g.w g.f .kvcompact with dst := realm g, total := moves.length / 4, data := moves }
          (eachLocks s g.w ((cols.flatten.zip frames.flatten).map (fun x => (x.2, x.2 + kvFootprint (kvFmtTag x.1.e)))) true
            s.model.nextId (s.model.nextId + 1)) })
  ∧ Does (.repair c rsel a b) c (needs [] [uniField a 4, uniField b 8] 0)
    (fun s g => repairPlan s g.w rsel.toNat (descWords g 0 4) (descWords g 1 8) = .ok (r, ls, ctr) ∧ lockRoom s (dieOf g.w.core) ls.length = true)
    (fun s g =>
      { ends := true
        reads := ls.flatMap (fun l => kvPlaces l.ea)
        stores := ls.flatMap (fun l => kvStores l.ea [5, 7] (kvSet (kvSet l.e 172 8 0) 254 1 1))
        after := [.kvChange (realm g) [], .job s.model.nextId]
        upds := puts { newJob s g.w g.f .repair with
            desc := descWords g 1 8 ++ [BitVec.ofNat 32 (kvLayers r.d), if g.w.denorm then 1 else 0], dst := realm g, total := 64 * r.count, amount := 1, counter := ctr
            data := ls.map (·.ea) }
          (eachLocks s g.w (ls.map (fun l => (l.ea, l.ea + 32))) true s.model.nextId (s.model.nextId + 1)) })
  ∧ Does (.beammap c rsel a b e) c (needs [] [uniField a 4, uniField b 2, uniField e 1] 0)
    (fun s g => beamPlan s g.w rsel.toNat (descWords g 0 4) (g.rd2 1 0 0) (g.rd 2 0 0).toNat = .ok (table, head, pi, src, dst)
      ∧ lockRoom s (dieOf g.w.core) 2 = true)
    (fun s g =>
      { ends := true
        after := [.kvChange (realm g) [], .job s.model.nextId]
        upds := puts { newJob s g.w g.f .beammap with
            desc := [head, g.rd 2 0 0], src := table.toNat, dst := realm g
            total := (kvBeamHead head).1 * (kvBeamHead head).2 / 128, data := pi }
          (rangeLocks s g.w (localRanges src) false s.model.nextId 0 (s.model.nextId + 1)
            ++ rangeLocks s g.w (localRanges dst) true s.model.nextId 1 (s.model.nextId + 1 + (localRanges src).length)) })

/-! ### Synchronisation, work creation, speculation -/

/-- The warp of a barrier instruction may drain: every tag has returned, no pass or copy is open, and nothing it takes raises (R66,
R417). -/
def Drained (s : State) (g : Go) : Prop := drainWaits s g.w false = false ∧ drainTrap g.w = none

/-- BAR, BARQ, BARC and CWAIT end their chunk and act at its position; BAR and BARQ drain the warp first; BARQ.ARRIVE and BARC.GEN return a
pair under their tag after the commit (R416 to R421). -/
def Obligations.Barriers : Prop := ∀ (c : Ctl) (task cont : Bool) (group r a b : BitVec 8) (cb : BitVec 4) (rsel : BitVec 2) (off : BitVec 26)
    (bar : BarId) (k : Option DWord),
  let pair (t : TagEntry) : TagEntry := { t with dst := r.toNat, duni := true, width := 2 }
  let named (s : State) (g : Go) : Prop := barrierNamed s g.w task group.toNat = .ok bar ∧ Drained s g
  Does (.bar c task group) c (needs [] [] 0) named
    (fun _ g => { ends := true, after := [.bar g.f.id bar], turn := drainBefore g.w })
  ∧ Does (.barq c .arrive task group r) c (needs [dstField true r 2] [] 0) named
    (fun _ g => { ends := true, after := [.barqArrive g.f.id bar c.alloc.toNat r.toNat], awaits := .commit, mark := pair, turn := drainBefore g.w })
  ∧ Does (.barq c .wait task group r) c (needs [] [uniField r 2] 0) named
    (fun _ g => { ends := true, after := [.barqWait g.f.id bar (g.rd2 0 0 0).toNat], turn := drainBefore g.w })
  ∧ Does (.barc c .init cb r) c (needs [] [uniField r 1] 0)
    (fun _ g => (g.rd 0 0 0).toNat % 2 ^ 16 ≠ 0 ∧ (g.rd 0 0 0).toNat < 2 ^ 19)
    (fun _ g => { ends := true, after := [.barcInit cb.toNat ((g.rd 0 0 0).toNat % 2 ^ 16) ((g.rd 0 0 0).toNat / 2 ^ 16)] })
  ∧ Does (.barc c .arrive cb r) c (needs [] [uniField r 1] 0)
    (fun _ g => 0 < (g.rd 0 0 0).toNat ∧ (g.rd 0 0 0).toNat < 2 ^ 16)
    (fun _ g => { ends := true, after := [.barcArrive cb.toNat (g.rd 0 0 0).toNat g.f.clock] })
  ∧ Does (.barc c .wait cb r) c (needs [] [uniField r 2] 0) (fun _ _ => True)
    (fun _ g => { ends := true, after := [.barcWait g.f.id cb.toNat (g.rd2 0 0 0).toNat] })
  ∧ Does (.barc c .gen cb r) c (needs [dstField true r 2] [] 0) (fun _ _ => True)
    (fun _ _ => { ends := true, after := [.barcGen cb.toNat c.alloc.toNat r.toNat], awaits := .commit, mark := pair })
  ∧ Does (.cwait c rsel cont a b off) c (needs [] [uniField a 2, uniField b 2] 0)
    (fun s g => (∃ t, counterSpot s g.w false 6 rsel.toNat (g.rd2 0 0 0) = .ok t)
      ∧ (cont = false → k = none)
      ∧ (cont = true → ∃ pc, offsetTarget g.f.pc off.toInt = .ok pc ∧ targetTrap s g.w pc = none ∧ k = some pc))
    (fun _ g => { ends := true, after := [.cwait g.f.id rsel.toNat (g.rd2 0 0 0) (g.rd2 1 0 0) k] })

/-- The launch that LAUNCH and SHOOT issue, where a record is free, what they read passes R355 and R356, and the lock table has room for
the group lists. -/
def LaunchReady (s : State) (g : Go) (rsel : Nat) (num : Nat) (a : Asked) : Prop :=
  freeRecord? s g.w.part = some num
  ∧ launchRead s (warpIssuer s g.w g.f rsel) (g.rd2 0 0 0) s.model.nextId = .ok a
  ∧ lockRoom s (dieOf g.w.core) a.listCount = true

/-- The locks on a launch's group lists. -/
def launchLocks (s : State) (g : Go) (a : Asked) : List Lock :=
  listLocks s g.w a s.model.nextId (s.model.nextId + 1)

/-- The launch record as it is issued: its groups are whole where no list is to be read. -/
def launchAsked (s : State) (g : Go) (rsel : Nat) (num : Nat) (a : Asked) (grid : Option Word) : Launch :=
  let l := newLaunch (warpIssuer s g.w g.f rsel) a num s.model.nextId grid ((launchLocks s g a).map (·.id))
  if a.lists = [] then { l with groups := readGroups s l } else l

/-- SPAWN puts a record into the chunk and counts; LAUNCH and SHOOT take a launch record, which waits for the chunk's position, SHOOT's path
returning under its tag after the commit; RESOLVE checks its path and count; ROLE sets ROLE at once (R355, R372, R411, R422 to R425). -/
def Obligations.WorkCreation : Prop := ∀ (c : Ctl) (qn : BitVec 3) (wm1 : BitVec 4) (rsel r : BitVec 2) (d a b : BitVec 8) (num : Nat) (k : Asked),
  let whole (s : State) (g : Go) (grid : Option Word) : Prop := k.lists = [] →
    ∃ p, s.part? g.w.part = some p ∧ groupsBad p k.desc s.model.nextId (launchAsked s g rsel.toNat num k grid).groups = false
  let puts (s : State) (g : Go) (grid : Option Word) : State → List Upd :=
    inOrder [fun _ => [.launch (launchAsked s g rsel.toNat num k grid)], addLocks (launchLocks s g k), useIds (1 + (launchLocks s g k).length)]
  let word (t : TagEntry) : TagEntry := { t with dst := d.toNat, duni := true, width := 1 }
  Does (.spawn c qn wm1 b) c { needs [] [uniField b 1] 0 with ports := [56 + qn.toNat] }
    (fun s g => bindsSpawn g.w qn.toNat = true ∧ (∃ l, s.launchOf g.w = some l ∧ wm1.toNat < launchWpt l.desc)
      ∧ g.w.chunk.spawns.length < 64 ∧ (spawnQueue s g.w.core).length < 64)
    (fun s g =>
      { chunk := fun x => { x with spawns := x.spawns ++ [
          { launch := g.w.launch, entryOff := entryD g.w qn.toNat, warps := wm1.toNat + 1, mask := BitVec.allOnes 32, taskid := g.w.taskid
            spawnix := childIndex (launchSeed s g.w) 0x5350415700000000 g.w.taskid g.w.spawnix (BitVec.ofNat 32 g.w.warpid) g.w.regs.spcnt
            uregs := g.w.regs.u, s0 := some (g.rd 0 0 0), vregs := [], path := g.w.path, warp := g.w.id, clock := g.f.clock }] }
        turn := fun w => { w with regs := { w.regs with spcnt := w.regs.spcnt + 1 } } })
  ∧ Does (.launch c rsel a) c (needs [] [uniField a 2] 0) (fun s g => LaunchReady s g rsel.toNat num k ∧ whole s g none)
    (fun s g => { ends := true, reads := k.reads, after := [.launch s.model.nextId], upds := puts s g none })
  ∧ Does (.shoot c rsel d a b) c (needs [dstField true d 1] [uniField a 2, uniField b 1] 0)
    (fun s g => LaunchReady s g rsel.toNat num k ∧ whole s g (some (g.rd 1 0 0)))
    (fun s g =>
      { ends := true, reads := k.reads, after := [.launch s.model.nextId, .shoot s.model.nextId c.alloc.toNat d.toNat]
        awaits := .commit, mark := word, upds := puts s g (some (g.rd 1 0 0)) })
  ∧ Does (.resolve c d a b) c (needs [dstField true d 1] [uniField a 1, uniField b 1] 0)
    (fun _ g => (g.rd 0 0 0).toNat < 2 ^ 16 ∧ (g.rd 1 0 0).toNat < 2 ^ 8 ∧ wellFormedPath ((g.rd 0 0 0).setWidth 16) = true)
    (fun _ g =>
      { ends := true, after := [.resolve ((g.rd 0 0 0).setWidth 16) (g.rd 1 0 0).toNat c.alloc.toNat d.toNat], awaits := .commit, mark := word })
  ∧ Does (.role c r) c (needs [] [] 0) (fun _ _ => True) (fun _ _ => { turn := fun w => { w with regs := { w.regs with role := r.setWidth 32 } } })

/-! ### System instructions -/

/-- TRAP, BRK, RESUME, TLBINV and PWRHINT end their chunk, PWRHINT apart, and act at its position: BRK traps there only while DBGCTL.BE
is 1 and the warp is no handler's; RESUME .WARP and .KILL and TLBINV at supervisor level or above, TLBINV of another partition at manager
level (R471, R491 to R497).
A slot of no assigned opcode raises ILLEGAL_OPCODE when its fragment may issue, and does nothing before (R70, R78). -/
def Obligations.SystemInstructions : Prop :=
  (∀ (c : Ctl) (imm : Word) (a b : BitVec 8) (rsel : BitVec 2) (other : Bool) (cls : BitVec 3) (slot : Nat),
  let part (s : State) (g : Go) : Nat := if other then (s.dev.partctl.toNat / 2 ^ 8) % 8 else g.w.part
  let may (g : Go) : Prop := g.w.level ≠ 0 ∧ (other = true → g.w.level = 2)
  let index (g : Go) : Nat := (g.rd 0 0 0).toNat
  Does (.trap c imm) c (needs [] [] 0) (fun _ _ => True) (fun _ _ => { ends := true, after := [.trap imm] })
  ∧ Does (.brk c imm) c (needs [] [] 0) (fun s g => g.w.hnd = false ∧ ∃ p, s.part? g.w.part = some p ∧ p.dbgctl.getLsbD 1 = true)
    (fun _ _ => { ends := true, after := [.brk imm] })
  ∧ Does (.brk c imm) c (needs [] [] 0) (fun s g => g.w.hnd = true ∨ ∀ p, s.part? g.w.part = some p → p.dbgctl.getLsbD 1 = false)
    (fun _ _ => { ends := true })
  ∧ Does (.resume c .self a) c (needs [] [] 0) (fun s g => ownContext s g.w = some slot)
    (fun _ _ => { ends := true, after := [.resume .self slot] })
  ∧ (∀ mode, mode ≠ .self → Does (.resume c mode a) c (needs [] [uniField a 1] 0) (fun _ g => g.w.level ≠ 0 ∧ index g ≤ 255)
    (fun _ g => { ends := true, after := [.resume mode (index g)] }))
  ∧ Does (.tlbinv c other true rsel a b) c (needs [] [] 0) (fun _ g => may g)
    (fun s g => { ends := true, after := [.tlbinv (part s g) none 0 (2 ^ 64)] })
  ∧ Does (.tlbinv c other false rsel a b) c (needs [] [uniField a 2, uniField b 2] 0)
    (fun _ g => may g ∧ (g.rd2 0 0 0).toNat % 65536 = 0 ∧ (g.rd2 1 0 0).toNat % 65536 = 0 ∧ g.rd2 1 0 0 ≠ 0
      ∧ (g.rd2 0 0 0).toNat + (g.rd2 1 0 0).toNat ≤ 2 ^ 64)
    (fun s g => { ends := true, after := [.tlbinv (part s g) (some (g.w.realmOf rsel.toNat)) (g.rd2 0 0 0).toNat
      ((g.rd2 0 0 0).toNat + (g.rd2 1 0 0).toNat)] })
  ∧ Does (.pwrhint c cls) c (needs [] [] 0) (fun _ _ => True) (fun _ _ => { after := [.pwrhint cls.toNat] }))
  ∧ (∀ (x : Slot) (s : State) (w : Warp) (f : Frag), s.current = some (w, f) →
  exec (.illegalOpcode x) s = .next (if mayIssue w f then s.run (takeTrap w.id f.id [] (raise .illegalOpcode) s) else s))

/-- SREAD and SWRITE (R13, R429, R493): a read gives the register's value, lane by lane, and reading ECCCNT clears it; a write of PART, ROLE,
FPCTL or FPSTAT takes effect at once (the model's reading of R226, log 35), one of any other register that the level may write at the chunk's
position, one of a read-only register not at all, whatever its value (the model's choice, log 86). A write that raises or waits is not part of
this statement. -/
def Obligations.SystemRegisters : Prop := ∀ (c : Ctl) (x2 : Bool) (d a : BitVec 8) (num : BitVec 12),
  let n := num.toNat
  let value (s : State) (g : Go) (l : Nat) : DWord := sysValue s g.w g.f n l
  let v (g : Go) : DWord := if x2 then g.rd2 0 0 0 else (g.rd 0 0 0).setWidth 64
  let need : Need := needs [] [uniField a (if x2 then 2 else 1)] 0
  Does (.sread c x2 d num) c (needs [dstField c.u d (if x2 then 2 else 1)] [] 0) (fun s g => sysRefused s g.w n = none)
    (fun s g =>
      { res := if x2 then .ofPair c.u d g (value s g) else .ofWord c.u d g (fun l => lowWord (value s g l))
        upds := if n = 0x056 then onPart (sysPart s g.w 0x056) (fun p => { p with eccnt := 0 }) else fun _ => [] })
  ∧ Does (.swrite c x2 num a) c need (fun s g => sysRefused s g.w n = none ∧ sysAccess n g.w.level = .read)
    (fun _ _ => { ends := decide ¬(0x010 ≤ n ∧ n ≤ 0x013) })
  ∧ (0x010 ≤ n → n ≤ 0x013 → Does (.swrite c x2 num a) c need
    (fun s g => sysRefused s g.w n = none ∧ sysAccess n g.w.level = .both ∧ sysWriteTrap s g.w n (v g) = none)
    (fun _ g => { turn := localWrite n g.f.id (lowWord (v g)) }))
  ∧ (¬(0x010 ≤ n ∧ n ≤ 0x013) → Does (.swrite c x2 num a) c need
    (fun s g => sysRefused s g.w n = none ∧ sysAccess n g.w.level = .both ∧ sysWriteTrap s g.w n (v g) = none ∧ sysWriteWaits s n = false)
    (fun _ g => { ends := true, after := [.swrite n (v g)] }))

/-- A system instruction below its level raises PRIV with DETAIL 0x1000: RESUME .WARP and .KILL, TLBINV and CKPT below supervisor level, the last
two with .OTHER below manager level (R491); and an access to a register that the level has no access to raises PRIV with its number; nothing takes
effect (R429, R467, R490). -/
def Obligations.Privilege : Prop := ∀ (c : Ctl) (x2 other all : Bool) (d a b : BitVec 8) (rsel : BitVec 2) (num : BitVec 12) (mode : ResumeMode)
    (s : State) (w : Warp) (f : Frag) (g : Go),
  let own : List Nat := if c.alloc = 0 then [] else [c.alloc.toNat]
  let priv (n : Nat) : Host.Outcome State Fault Refusal := .next (s.run (takeTrap w.id g.f.id own (raiseD .priv (BitVec.ofNat 32 n)) s))
  (mode ≠ .self → g.w.level = 0 → Issues c (needs [] [uniField a 1] 0) s w f g {} → exec (.resume c mode a) s = priv 0x1000)
  ∧ (g.w.level = 0 ∨ (other = true ∧ g.w.level = 1) → Issues c (needs [] (if all then [] else [uniField a 2, uniField b 2]) 0) s w f g {} →
    exec (.tlbinv c other all rsel a b) s = priv 0x1000)
  ∧ (g.w.level = 0 ∨ (other = true ∧ g.w.level = 1) → Issues c (needs [] [uniField a 8] 0) s w f g {} → exec (.ckpt c other a) s = priv 0x1000)
  ∧ (sysAccess num.toNat g.w.level = .none → Issues c (needs [dstField c.u d (if x2 then 2 else 1)] [] 0) s w f g {} →
    exec (.sread c x2 d num) s = priv num.toNat)
  ∧ (sysAccess num.toNat g.w.level = .none → Issues c (needs [] [uniField a (if x2 then 2 else 1)] 0) s w f g {} →
    exec (.swrite c x2 num a) s = priv num.toNat)

/-! ### What the machine does by itself, and what comes from outside -/

/-- The step i of the device, taken in s, makes the updates us and nothing else. -/
def Runs (i : Instr) (s : State) (us : List Upd) : Prop := exec i s = .next (s.run us)

/-- Steps of a core. Which line copies a core keeps (log 19), what a walk fills and which entries make room (log 18), when acknowledgments come
(log 56) and that answers come lowest lane first (log 57) are the model's choices. The clause of an error answer leaves ADDR and realm of its trap open,
and that of a waiting gather what else its chunk record holds. LINE_REFETCH takes the copies that fail a parity again from memory, once (R38). FIXED_LATENCY_WRITEBACK ends what is
due and puts its flags into FPSTAT (R60, R95). TAG_RETURN returns a tag, or gives one lane its peer's words (R61). SWITCH_MARKER_RESUME
drains and goes on once every tag has returned (R66, R68). CHUNK_LIMIT_END ends a chunk at 512 slots (R225). WALK_COMPLETE puts a page into the
TLBs of its core and quadrant and the entries above it into the walk cache, a parity error drops one (R441, R488); acknowledgments end what waits for them (R352, R443). KVLD_WAIT_GATHER gathers repaired lanes under the tag (R336). -/
def Obligations.CoreEvents : Prop :=
  (∀ (core line : Nat) (s : State), Runs (.lineRefetch core line) s [.xl { s.xl with lines := s.xl.lines.map (fun (c : LineCopy) =>
      if c.core = core ∧ c.addr = line ∧ c.refetched = false ∧ (List.range 6).any (lineBad c.bytes) = true then
        { c with bytes := lineAt s c.part c.path c.addr, refetched := true } else c) }])
  ∧ (∀ (id : Nat) (s : State) (w : Warp), s.warp? id = some w → (∃ x ∈ w.inflight, x.at_ ≤ s.model.cycle) →
    Runs (.fixedLatencyWriteback id) s [.warp { w with
      inflight := w.inflight.filter (fun x => decide (s.model.cycle < x.at_))
      regs := { w.regs with
        fpstat := fpstatOr w.regs.fpstat ((w.inflight.filter (fun x => decide (x.at_ ≤ s.model.cycle))).foldl (fun m x => m ||| x.flags) 0) } }])
  ∧ (∀ (id tag : Nat) (resp : PeerResp) (s : State) (w : Warp) (e : TagEntry), s.warp? id = some w →
    w.regs.tags.find? (fun e => e.tag == tag && !e.returned && (e.awaits == .unit || e.awaits == .peer || e.awaits == .late)) = some e →
    (e.awaits = .unit → Runs (.tagReturn id tag resp) s [.warp (w.mapTags (fun x => if x.seq = e.seq then { x with returned := true } else x))])
    ∧ (∀ t, e.awaits = .late → e.raises = some t → Runs (.tagReturn id tag resp) s
      (takeTrap id ((w.regs.frags.find? (fun f => f.mask &&& e.mask != 0)).elim 0 (·.id)) [] { t with ppc := none, fpc := some e.pc } s))
    ∧ (∀ (l : Nat) (ls : List Nat) (ws : List Word) (bad : List Bool), e.awaits = .peer → e.lanes = l :: ls → e.own = false → e.ext ≠ 16 →
      resp = .data ws bad →
      Runs (.tagReturn id tag resp) s [.warp (w.mapTags (fun x => if x.seq = e.seq then
        { x with writes := x.writes ++ laneWrites e l ws bad, raises := laneRaises w.denorm e l ws, lanes := ls, stations := x.stations.drop 1
                 returned := ls.isEmpty } else x))])
    ∧ (∀ (l : Nat) (ls : List Nat) (step : Nat), e.awaits = .peer → e.lanes = l :: ls → e.own = false → step < 7 → resp = .error step →
      ∃ t : TrapReq, t.cause = (if step = 5 then .rangeLock else if step = 6 then .sealedWrite else .realmFault) ∧ t.sub = step
        ∧ t.fpc = some e.pc ∧ t.lanes = some (maskOf [l])
        ∧ Runs (.tagReturn id tag resp) s (takeTrap id ((w.regs.frags.find? (fun f => f.mask &&& e.mask != 0)).elim 0 (·.id)) [] t s)))
  ∧ (∀ (id : Nat) (s : State) (w : Warp), s.warp? id = some w → .switch ∈ w.holds → (∀ e ∈ w.regs.tags, e.returned = true) →
    drainWaits s w false = false → drainTrap w = none →
    Runs (.switchMarkerResume id) s [.warp { w.drain with holds := w.holds.filter (fun h => h != .switch) }])
  ∧ (∀ (id : Nat) (s : State) (w : Warp), s.warp? id = some w → w.chunk.start.isSome = true → 512 ≤ w.chunk.count →
    Runs (.chunkLimitEnd id) s [.warp w.closed])
  ∧ (∀ (core quadrant part realm : Nat) (path : Path) (offset : DWord) (s : State) (p : Part) (a size : Nat) (u w x : Bool), s.part? part = some p →
    let e : List Word := realmEntry s p realm
    let who : Who := { part := part, user := false, path := path, own := [], core := core, quadrant := some quadrant }
    let new (q : Option Nat) : Xlat := ⟨core, q, e, p.num, realm, offset.toNat / size, size, a / 65536, u, w, x⟩
    let trail : List WalkEntry := (walkTrail [0, 1, 2] s p (dieOf core) realm offset (realmRoot e)).filter (fun y => !s.xl.walks.contains y)
    cachedXlat s who realm offset = none → cachedKv s who realm offset = none → ownsCluster p (core / 4) = true → realmKind e = 1 →
    walk s p (dieOf core) realm (realmRoot e) offset = .ok (.page a size u w x) →
    Runs (.walkComplete ⟨core, quadrant, part, path⟩ realm offset) s
      [.xl { s.xl with
        walks := takeIn 4096 (fun y => y.die == dieOf core) s.xl.walks trail
        cached := fillTlb (new (some quadrant)) (fillTlb (new none) s.xl.cached) }])
  ∧ (∀ (i : Nat) (s : State), Runs (.translationParityError i) s [.xl (if i < s.xl.cached.length then
      { s.xl with cached := s.xl.cached.eraseIdx i }
      else if i < s.xl.cached.length + s.xl.walks.length then { s.xl with walks := s.xl.walks.eraseIdx (i - s.xl.cached.length) }
      else { s.xl with kvs := s.xl.kvs.eraseIdx (i - s.xl.cached.length - s.xl.walks.length) })])
  ∧ (∀ (id : Nat) (s : State) (i : Inval), s.xl.invals.find? (fun i => i.id == id) = some i → (∀ c ∈ s.order.commits, c.part ≠ i.part) →
    Runs (.invalidationAck id) s [.xl { s.xl with invals := s.xl.invals.filter (fun x => x.id != id) }])
  ∧ (∀ (id : Nat) (s : State) (i : Inval), s.xl.changes.find? (fun i => i.id == id) = some i → changeDone s i = true →
    Runs (.entryChangeAck id) s [.xl { s.xl with changes := s.xl.changes.filter (fun x => x.id != id) }])
  ∧ (∀ (id tag : Nat) (s : State) (w : Warp) (e : TagEntry) (xs : List (Nat × KvSlot × List (Nat × Nat))), s.warp? id = some w →
    w.regs.tags.find? (fun e => e.tag == tag && e.awaits == .kv && !e.returned) = some e → gatherable s w e = .ok xs → xs ≠ [] →
    ∃ v : Warp, Runs (.kvldWaitGather id tag) s [.warp v] ∧ v.id = w.id ∧ v.chunk.bytes = w.chunk.bytes
      ∧ v.regs = { w.regs with tags := w.regs.tags.map (fun x => if x.seq = e.seq then gatheredEntry s w e xs else x) }
      ∧ ∀ y ∈ xs, ∀ p ∈ kvldPlaces y.2.1 (if wordAt e.kv 0 = 1 then 4 else 8), p.word ∈ v.chunk.reads)

/-- What follows a commit's completion, in the order in which it leaves: 0 stores to peers, 1 atomics at peers, 2 the rest (R281, R283). -/
def leavesAt (a : AfterCommit) : Nat :=
  match a with
  | .peerAtomic _ => 1
  | .tag .. => 2
  | .peerStore _ => 0
  | .count .. => 2
  | .trap .. => 2
  | .cwb _ => 2

/-- Chunks and the matrix engine. A chunk that is ready takes the next position with its effects, or is stopped where it drains or at the
position (R230, R233); a commit that is ready completes and what follows it is done, stores to peers before atomics there (R239, R251, R281,
R414), and one that is not ready stays; the wave atomic whose turn has come executes as it does when it issues (R240). The best eligible entry
is granted, or freed with MATRIX_SHAPE where a quarter has another format; a granted pass writes its results, its flags wait for the warp's
next drain; a copy fills its quarter; a pass or a copy that makes the second access of a race is dropped with RACE (R202, R206 to R213,
R265). The model's choices among it: what is not ready leaves the state as it is (log 10), positions are counted from reset (log 4), and the
order of the causes at a drain (log 58). -/
def Obligations.ChunkAndMatrixEvents : Prop :=
  (∀ (id : Nat) (s : State) (w : Warp), s.warp? id = some w →
    (positionReady s w = false → exec (.chunkPosition id) s = .next s)
    ∧ (∀ (t : TrapReq) (f : Warp → Warp), positionReady s w = true → drainTrapOf (deferredEnd s w) w = some (t, f) →
      Runs (.chunkPosition id) s
        (andThen (onWarp id f) (takeTrap id w.chunk.lastFrag [] { t with fpc := some (t.fpc.getD w.chunk.lastPc) }) s))
    ∧ (∀ t : TrapReq, positionReady s w = true → drainTrapOf (deferredEnd s w) w = none →
      positionTrap s (w.drainOf (deferredEnd s w)) = some t → Runs (.chunkPosition id) s (takeTrap id w.chunk.lastFrag [] t s))
    ∧ (positionReady s w = true → drainTrapOf (deferredEnd s w) w = none → positionTrap s (w.drainOf (deferredEnd s w)) = none →
      Runs (.chunkPosition id) s (.warp (w.drainOf (deferredEnd s w)) :: commitChunk id (s.run [.warp (w.drainOf (deferredEnd s w))]))))
  ∧ (∀ (pos : Nat) (s : State) (c : Commit), s.order.commits.find? (fun c => c.pos == pos) = some c →
    (completeReady s c = true →
      Runs (.commitComplete pos) s (inOrder [onOrder (fun o => { o with commits := o.commits.filter (fun x => x.pos != pos) }), deliverPushes c,
        forEach ((List.range 3).flatMap (fun k => c.after.filter (fun a => leavesAt a == k))) (runAfter c)] s))
    ∧ (completeReady s c = false → exec (.commitComplete pos) s = .next s))
  ∧ (∀ (id fid : Nat) (i : Instr) (s : State) (w : Warp) (f : Frag), s.warp? id = some w → w.waveAsk = some (fid, i) → w.frag? fid = some f →
    waveReady s w = true → w.stallUntil ≤ s.model.cycle →
    (∀ (c : Ctl) (d a : BitVec 8), i = .talloc c d a →
      Runs (.waveAtomicExecute id) s (issueScript c (tallocNeed d a) (fun _ => { }) (tallocAct s i d) s w f))
    ∧ (∀ (c : Ctl) (a b : BitVec 8), i = .tfree c a b →
      Runs (.waveAtomicExecute id) s (issueScript c (tfreeNeed a b) (fun _ => { }) (tfreeAct s i) s w f))
    ∧ (∀ (c : Ctl) (op : AtomOp) (w64 : Bool) (scope : Scope) (d : BitVec 8) (r : MemRef) (e : Src), i = .atom c op w64 scope d r e →
      Runs (.waveAtomicExecute id) s (atomScript i c false false (some op) w64 scope d r e s w f)))
  ∧ (∀ (core : Nat) (s : State) (e : Entry), nextGrant s core = some e →
    ((∀ x ∈ entryQuarters e, ∀ q, quarterFor s e x.1 = some q → q.fmt = e.bf) →
      Runs (.mmaGrant core) s [.mat { s.mat with entries := s.mat.entries.map (fun x => if x.id = e.id then { x with granted := true } else x) }])
    ∧ ((∃ x ∈ entryQuarters e, ∃ q, quarterFor s e x.1 = some q ∧ q.fmt ≠ e.bf) →
      Runs (.mmaGrant core) s (inOrder [freeEntry e, raiseLater e.warp e.who e.pc (raise .matrixShape)] s)))
  ∧ (∀ (id : Nat) (s : State) (e : Entry), s.entry? id = some e → e.granted = true →
    let es := if accFmt e.acc = .bf16 then 2 else 4
    let fl : Flags := (passResults s e).foldl (fun m r => m ||| r.2.2.1) 0
    (firstRace (effective s e.part) s.order.accesses (passAccesses s e) = none → Runs (.passComplete id) s (inOrder [
      putTile e.task ((passResults s e).flatMap (fun r => tileCells r.1 (valBytes es r.2.1)))
        ((passResults s e).map (fun r => ((⟨.tile, e.task, r.1⟩ : Place).word, r.2.2.2))),
      freeEntry e, onWarp e.warp (fun w => if fl = 0 then w else { w with passFlags := w.passFlags ++ [(fl, e.pc)] }),
      onMat (fun m => { m with done := cellSet m.done e.core (cellGet m.done e.core + 1) }), logAccesses (passAccesses s e)] s))
    ∧ (∀ x, firstRace (effective s e.part) s.order.accesses (passAccesses s e) = some x →
      Runs (.passComplete id) s (inOrder [freeEntry e, raiseLater e.warp e.who e.pc (engineRace x e.pc)] s)))
  ∧ (∀ (id : Nat) (s : State) (c : QCopy), s.mat.copies.find? (fun c => c.id == id) = some c → copyReady s c = true →
    let as := tileAccesses s c.launch c.warp c.who c.path c.pc c.thread c.stamp c.clock (wordsOf ⟨.tile, c.task, c.tile⟩ (matImage c.fmt 16)) []
    (firstRace (effective s c.who.part) s.order.accesses as = none →
      ∃ q : Quarter, q.core = c.core ∧ q.set = c.set ∧ q.fmt = c.fmt ∧ q.gen = c.gen ∧ q.launch = c.launch ∧ q.bytes.length = matImage c.fmt 16
      ∧ (∀ k, k < matImage c.fmt 16 → q.bytes.getD k 0 = taskTile s c.task (c.tile + k))
      ∧ (∀ k, k < matImage c.fmt 16 → (k ∈ q.poison ↔ taskTilePoison s c.task (c.tile + k) = true))
      ∧ Runs (.quarterCopy id) s (inOrder [endCopy c (some q), logAccesses as] s))
    ∧ (∀ x, firstRace (effective s c.who.part) s.order.accesses as = some x →
      Runs (.quarterCopy id) s (inOrder [endCopy c none, raiseLater c.warp c.who c.pc (engineRace x c.pc)] s)))

/-- Waits that end. CWAIT_WAKE looks at the counter of a running warp's fragment (R421); SLEEP_WAKE goes on once WALL has passed the time
(R408); TIMER_TRAP traps a warp between chunks whose deadline has passed (R485); WAIT_PROGRESS and QUEUE_PROGRESS raise when the
watchdog has run out, WAIT_PROGRESS in a save handler past its bound too (R389, R391, R392). The model's choices among it: FPC of a TIMER between
chunks (log 50), what a watchdog counts from and the object it names (log 37), and that what is not late leaves the state (log 10). The clause of an
unmet CWAIT says where the fragment stands and leaves its registers open. -/
def Obligations.WaitEvents : Prop :=
  (∀ (id fid : Nat) (peer : Option DWord) (s : State) (w : Warp) (f : Frag) (a : Nat) (target : DWord) (cont : Option DWord) (first : Bool),
    s.warp? id = some w → w.mode = .run → w.frag? fid = some f → waitSpot s w f.park = some (.home a, target, cont, first) →
    (target.toNat ≤ counterValue s a → Runs (.cwaitWake id fid peer) s [.warp { w with regs := w.regs.mapFrag fid (fun f => { f with
        park := .run
        pc := (if first then none else cont).getD f.pc
        clock := clockJoin f.clock (counterClock s (.home a) (counterValue s a))
        since := s.dev.wall.toNat }) }])
    ∧ (counterValue s a < target.toNat → ∃ v : Warp, Runs (.cwaitWake id fid peer) s [.warp v] ∧ v.id = w.id ∧ v.chunk = w.chunk
      ∧ v.regs.frags.map (fun f => (f.id, f.mask, f.pc)) = w.regs.frags.map (fun f => (f.id, f.mask, f.pc))
      ∧ (v.frag? fid).map (fun f => f.park) ≠ some .run))
  ∧ (∀ (id fid t : Nat) (s : State) (w : Warp) (f : Frag), s.warp? id = some w → w.frag? fid = some f → f.park = .sleep t → w.mode = .run →
    t ≤ s.dev.wall.toNat →
    Runs (.sleepWake id fid) s [.warp { w with regs := w.regs.mapFrag fid (fun f => { f with
      park := .run, clock := clockJoin f.clock [], since := s.dev.wall.toNat }) }])
  ∧ (∀ (id : Nat) (s : State) (w : Warp) (f : Frag), s.warp? id = some w → lowFrag w = some f → w.timer ≠ 0 → w.hnd = false → w.mode = .run →
    partWorks s w.part = true → (∀ c ∈ s.order.commits, c.warp ≠ id) → w.timer.toNat ≤ s.dev.wall.toNat → w.chunk.start = none →
    Runs (.timerTrap id) s (inOrder [onWarp id (fun v => { v with timer := 0 }),
      takeCommitted id f.id f.pc { raise .timer with
        d18 := lowWord (s.dev.wall - w.timer), d19 := highWord (s.dev.wall - w.timer), fpc := some (w.endPc.getD (prevPc f.pc)) }] s))
  ∧ (∀ (id fid : Nat) (s : State) (w : Warp) (f : Frag) (addr : DWord) (realm : Nat), s.warp? id = some w → w.frag? fid = some f →
    partWorks s w.part = true → waitObject w f.park = some (addr, realm) →
    (trapOwed s id = false → watchdogOut s w.part f.since = true →
      Runs (.waitProgress (.fragment id fid)) s
        (takeTrap w.id f.id [] { raiseAt .waitProgress addr with realm := realm, fpc := if f.park = .join then none else some (prevPc f.pc) } s))
    ∧ (watchdogOut s w.part f.since = false → (∀ t, s.task? w.task = some t → t.phase ≠ 1) →
      exec (.waitProgress (.fragment id fid)) s = .next s))
  ∧ (∀ (id fid : Nat) (s : State) (w : Warp) (f : Frag) (t : Task), s.warp? id = some w → w.frag? fid = some f → partWorks s w.part = true →
    trapOwed s id = false → watchdogOut s w.part f.since = false → s.task? w.task = some t → t.phase = 1 → watchdogOut s w.part t.phaseAt = true →
    Runs (.waitProgress (.fragment id fid)) s (inOrder [onTask w.task (fun t => { t with phaseAt := s.dev.wall.toNat }),
      takeTrap w.id f.id [] (raise .waitProgress)] s))
  ∧ (∀ (id q : Nat) (s : State) (w : Warp) (f : Frag), s.warp? id = some w →
    w.regs.frags.find? (waitsOnQueue s w q) = some f → partWorks s w.part = true → trapOwed s id = false → watchdogOut s w.part f.since = true →
    Runs (.queueProgress id q) s (takeTrap id f.id [] (raiseD .queueProgress (BitVec.ofNat 32 q)) s))

/-- Engine commands (R250, R297, R298, R301 to R305, R312, R344, R346, R349, R351, R293, R244, R496). A command at work holds the translations of
its granule's pages; a granule of a copy lands at one position; a window starts once a runner is free, lands and releases its lock; each
completion advances the command's counter, where no chunk with priority holds it, and ends the command; a fault that an engine
reports stops it; a probe's slots are picked and WMARK follows the layers; an evicted partial goes to the base.
REPAIR's launches and an evicted partial. A probe that is done selects the valid slots whose deviation is above the threshold, writes their number and
list into the buffer, granule by granule, and advances the counter with the last; a layer that is done moves WMARK to it and advances the counter, and the last one leaves the
entries whole and ends the command (R346). A core's partial of a commutative range goes to its base (R244). The model's choices among it: a granule
that is not ready leaves the state (log 10), held translations (log 20), the flags of a probe (log 23), details of a repair (log 24), when a checkpoint's
granule is done (log 51), rounds of collectives (log 74). -/
def Obligations.EngineEvents : Prop :=
  (∀ (id : Nat) (s : State) (j : Job), s.job? id = some j →
  let k : Job := atWork s j
  let t : State := s.run (onJob id (fun _ => k) s)
  let works (us : State → List Upd) : List Upd := andThen (onJob id (fun _ => k)) us s
  let free (s : State) (j : Job) (c : CounterRef) : Prop := jobCounter s j = .ok c ∧ advanceHeld s j.part c = false
  let ends (c : CounterRef) (amount : Nat) : List Upd := inOrder [advance j.part j.path c amount (jobClock j), endJob j] s
  let windowOf (f : Window → Window) : State → List Upd :=
    onTask j.task (fun t => { t with windows := t.windows.map (fun x => if x.job = id then f x else x) })
  (∀ resp, jobReady s j = false → exec (.runnerGranule id resp) s = .next s)
  ∧ (∀ (resp : PeerResp) (bs : List (Byte × Bool)) (reads : List Place) (ps : List Piece), jobReady s j = true → j.kind = .rcopy →
    j.landed < j.total →
    copySource t k (min (128 - (j.dst + j.landed) % 128) (j.total - j.landed)) resp = .bytes bs reads →
    routes t k.owner { write := true, engine := true } (j.realmOf (wfield j.desc 5 2 2)) (BitVec.ofNat 64 (j.dst + j.landed)) bs.length = .ok ps →
    (∀ p ∈ ps, ∃ (a : Nat) (e : Option Nat), p.route = .mem a e) →
    let cells : List (Place × Byte) := ps.flatMap (fun p => match p.route with
      | .mem a _ => cellsFor (memPlace a) ((bs.drop p.at_).take p.len)
      | .peer .. => []
      | .ether .. => [])
    let marks : List (Place × Bool) := ps.flatMap (fun p => match p.route with
      | .mem a _ => marksFor (memPlace a) ((bs.drop p.at_).take p.len)
      | .peer .. => []
      | .ether .. => [])
    Runs (.runnerGranule id resp) s (works (landWrites k cells marks reads (progress j.id bs.length j.total))))
  ∧ (∀ resp, jobReady s j = true → j.kind = .topk → Runs (.runnerGranule id resp) s (works (fun t => topkGranule t k)))
  ∧ (∀ resp, jobReady s j = true → j.kind = .beammap → Runs (.runnerGranule id resp) s (works (fun t => beamGranule t k)))
  ∧ (∀ resp, jobReady s j = true → j.kind = .coll → Runs (.runnerGranule id resp) s (works (fun t => collGranule t k)))
  ∧ (∀ (resp : PeerResp) (a b : Nat), jobReady s j = true → j.kind = .kvcompact → j.landed + 1 = j.total →
    compactFrame t k (j.data.getD (4 * j.landed) 0) = .ok a → compactFrame t k (j.data.getD (4 * j.landed + 2) 0) = .ok b →
    let from_ := memPlace (a + j.data.getD (4 * j.landed + 1) 0)
    let bs := readPlaces t k.view from_ 128
    let to_ := memPlace (b + j.data.getD (4 * j.landed + 3) 0)
    ∃ after, (∀ u, after u = endJob k u) ∧ Runs (.runnerGranule id resp) s
      (works (landWrites k (cellsFor to_ bs) (marksFor to_ bs) (wordsOf from_ 128) after)))
  ∧ (∀ (resp : PeerResp) (st ap o : Nat), jobReady s j = true → j.kind = .ckpt → j.landed < j.total →
    let x := ckptPlace j j.landed
    let bs := readPlaces t k.view (memPlace x.1) 128
    routes t k.owner { write := true } x.2.1 (BitVec.ofNat 64 x.2.2) 128 = .ok [⟨0, 128, .peer st ap o⟩] →
    Runs (.runnerGranule id resp) s (works (inOrder [
      sendGranule k ⟨0, 128, .peer st ap o⟩ ((streamLine t (x.1 / 128) (bs.map (·.1))).zip (bs.map (·.2))), progress j.id 1 j.total])))
  ∧ (∀ (resp : PeerResp) (c : CounterRef), jobReady s j = true → j.kind = .ckpt → j.total ≤ j.landed → (∀ p ∈ s.net.peerPending, p.job ≠ j.id) →
    free t k c → Runs (.runnerGranule id resp) s (works (inOrder [advance j.part j.path c 1 (jobClock j), endJob k])))
  ∧ (∀ x, j.kind = .window → j.started = true → j.phase = 2 → partWorks s j.part = true → mayStart s j = true → jobWindow s j = some x → x.state = 1 →
    let source : List Lock := haloLocks s j s.model.nextId
    (source = [] → Runs (.windowCopyStart id) s (windowOf (fun x => { x with state := 2, landed := 0, fault := false }) s))
    ∧ (source ≠ [] → Runs (.windowCopyStart id) s (inOrder [windowOf (fun x => { x with state := 2, landed := 0, fault := false }),
      onOrder (fun o => { o with locks := o.locks.filter (fun l => l.holder != id || l.dest) ++ source }), useIds source.length] s)))
  ∧ (∀ x c, j.kind = .window → j.total ≤ j.landed → partWorks s j.part = true → jobWindow s j = some x → x.state = 2 → free s j c →
    Runs (.windowLanded id) s (inOrder [windowOf (fun x => { x with state := 3, landed := j.landed }), endJob j,
      advance j.part j.path c 1 (jobClock j)] s))
  ∧ (∀ c, j.kind = .rcopy → jobReady s j = true → j.total ≤ j.landed → (∀ p ∈ s.net.peerPending, p.job ≠ id) → free s j c →
    Runs (.rcopyComplete id) s (ends c j.amount.toNat))
  ∧ (∀ c, j.kind = .topk → jobReady s j = true → j.total ≤ j.landed → free s j c → Runs (.topkComplete id) s (ends c 1))
  ∧ (∀ c, j.kind = .coll → j.phase = 1 → collComplete? j = true → (collRange j).2 ≤ j.landed → partWorks s j.part = true → free s j c →
    Runs (.collComplete id) s (ends c 1))
  ∧ (∀ (code detail : Nat) (c : Cause), engineCause code = some c → j.sent = true →
    (∃ p, s.part? j.part = some p ∧ p.state = .running) →
    Runs (.engineCommandStop id code detail) s (stopJob j (raiseD c (BitVec.ofNat 32 detail)) s))
  ∧ (∀ (a : Nat) (e : Option Nat), j.kind = .beammap → jobReady s j = true → j.total ≤ j.landed →
    translate s j.owner { write := true, local_ := true } j.dst (BitVec.ofNat 64 j.src) 4 = .ok (.mem a e) →
    Runs (.beammapFlip id) s (landWrites j ((placesFrom (memPlace a) 4).zip (valBytes 4 (wordAt j.desc 0 ^^^ 1).toNat)) [] [] (endJob j) s))
  ∧ (j.kind = .cwb → j.sent = true → Runs (.cwbComplete id) s (inOrder [returnTag j.warp j.tag [] 0, dropJob id] s))
  ∧ (∀ m : CollMsg, j.kind = .coll → j.sent = true →
    (collMatches j m = false → Runs (.collMessage id m) s (stopJob j (raise .argRange) s))
    ∧ (collMatches j m = true → (∀ x ∈ j.msgs, x.rank ≠ m.rank) →
      Runs (.collMessage id m) s (onJob id (fun j => { j with msgs := j.msgs ++ [m] }) s)))
  ∧ (∀ rank, partWorks s j.part = true → collAwaits j rank = true → collLate s j = true →
    Runs (.collTimeout id rank) s (collAbort j .collTimeout rank s))
  ∧ (∀ rank, j.kind = .coll → j.sent = true → Runs (.collAbortMessage id rank) s (collAbort j .collTimeout rank s)))
  ∧ (∀ (id : Nat) (s : State) (j : Job) (ps : List Piece) (c : CounterRef), s.job? id = some j → j.kind = .repair → jobReady s j = true →
    repairLaunchDone s j = true → j.phase = 1 → jobCounter s j = .ok c → advanceHeld s j.part c = false →
    routes s j.owner { write := true, local_ := true } j.dst (wpair j.desc 4) (4 * (1 + 2 * j.total)) = .ok ps → bufferLocked s j ps = false →
    let at_ := ps.flatMap (fun p => match p.route with
      | .mem a _ => (List.range (p.len / 4)).map (fun i => a + 4 * i)
      | .peer .. => []
      | .ether .. => [])
    let word (i : Nat) : Nat := at_.getD i 0
    let thr : Word := (s.part? j.part).elim 0 (fun p => p.repthr)
    let picked := if j.landed = 0 then (List.range j.total).filter (fun r => (kvValid (kvEntry s j.view (j.data.getD (r / 64) 0))).testBit (r % 64)
      && (repairPicks (wordAt j.desc 9 == 1) thr (wordAt (viewWords s j.view (word (1 + r)) 1) 0)).1) else j.picks
    let fl : Flags := if j.landed = 0 then (repairChoices s j at_).foldl (fun m x => m ||| x.2.2) 0 else 0
    let out := (0, picked.length) :: picked.zipIdx.map (fun x => (1 + j.total + x.2, x.1))
    let lines := nub (out.map (fun x => word x.1 / 128))
    let here := out.filter (fun x => word x.1 / 128 == lines.getD j.landed 0)
    let puts (next : State → List Upd) : Prop :=
      Runs (.repairProbeDone id) s (landWrites j (here.flatMap (fun x => (placesFrom (memPlace (word x.1)) 4).zip (valBytes 4 x.2))) []
        (if j.landed = 0 then (List.range j.total).map (fun r => memPlace (word (1 + r))) else []) (andThen (gainFlags id fl) next) s)
    (j.landed + 1 < lines.length → puts (onJob id (fun j => { j with landed := j.landed + 1, picks := picked })))
    ∧ (lines.length ≤ j.landed + 1 → puts (andThen (advance j.part j.path c 1 (jobClock j))
        (onJob id (fun j => { j with phase := 2, tag := picked.length, landed := 0, picks := [] })))))
  ∧ (∀ (id : Nat) (s : State) (j : Job) (c : CounterRef), s.job? id = some j → j.kind = .repair → jobReady s j = true →
    repairLaunchDone s j = true → 3 ≤ j.phase → j.phase % 2 = 1 → jobCounter s j = .ok c → advanceHeld s j.part c = false →
    let count := advance j.part j.path c 1 (jobClock j)
    (j.phase / 2 + 1 < (wordAt j.desc 8).toNat → Runs (.repairLayerDone id) s
      (markEntries j (j.phase / 2) 1 (andThen count (onJob id (fun j => { j with phase := j.phase + 1 }))) s))
    ∧ ((wordAt j.desc 8).toNat ≤ j.phase / 2 + 1 → Runs (.repairLayerDone id) s
      (markEntries j (j.phase / 2) 1 (andThen count (fun t => markEntries j 0xFF 0 (endJob j) t)) s)))
  ∧ (∀ (range core elem : Nat) (s : State), core ≠ baseCore → ∃ o : Ordering_,
    Runs (.crPartialEvict range core elem) s [.order o] ∧ o = { s.order with ranges := o.ranges }
      ∧ o.ranges.length = s.order.ranges.length
      ∧ ∀ (i : Nat) (r : CRange), s.order.ranges[i]? = some r → ∃ q, o.ranges[i]? = some q
        ∧ q = { r with elems := q.elems } ∧ (r.id ≠ range ∨ r.live = false → q = r)
        ∧ (r.id = range → r.live = true → q.elems.length = r.elems.length ∧ ∀ (k : Nat) (e : CElem), r.elems[k]? = some e → ∃ x, q.elems[k]? = some x
          ∧ (e.addr ≠ elem → x = e)
          ∧ (∀ p, e.addr = elem → e.partials.find? (fun p => p.core == core) = some p →
            x = { e with partials := addPartial r { p with core := baseCore } (e.partials.filter (fun q => q.core != core)) })))

/-- The scheduler's steps: lists read, a launch made ready, tasks and spawned tasks started where its turn has come, records moved, launches
completed (R355, R358, R359, R362, R371, R373, R383); cores vacated and reopened, pre-empted warps stopped (R384 to R387); pruned warps stopped,
a retired path freed (R375, R378). Stated of an idempotent launch's task where a pre-empted warp stops. The model's choices among it: an event that is
not due leaves the state (log 10), a task's warps stop together (log 46), how far the order and the share reach (logs 47, 48), when a path retires
(log 56). -/
def Obligations.SchedulerEvents : Prop :=
  (∀ (uid : Nat) (s : State) (l : Launch) (p : Part), launchOfUid s uid = some l → s.part? l.part = some p → l.phase = .lists →
    partWorks s l.part = true → behindLock s l.uid = false →
    let race := firstRace (effective s l.part) s.order.accesses (listAccesses s l)
    (race = none → groupsBad p l.desc l.uid (readGroups s l) = false → Runs (.launchGroupListRead uid) s (inOrder [
      fun _ => [.launch { l with groups := readGroups s l, lists := [], phase := .waiting }], logAccesses (listAccesses s l),
      onOrder (fun o => { o with locks := o.locks.filter (fun k => !l.locks.contains k.id) })] s))
    ∧ (race = none → groupsBad p l.desc l.uid (readGroups s l) = true →
      Runs (.launchGroupListRead uid) s (refuseLaunch l (raiseIn .launchInvalid l.realm l.descOff) s))
    ∧ (∀ x, race = some x → Runs (.launchGroupListRead uid) s (refuseLaunch l (engineRace x l.issuerPc) s)))
  ∧ (∀ (uid : Nat) (s : State) (l : Launch), launchOfUid s uid = some l → l.phase = .waiting → partWorks s l.part = true →
    ((∀ d ∈ l.deps, d.target.toNat ≤ counterValue s d.addr) → Runs (.launchReady uid) s [.launch { l with
        phase := .ready
        readyAt := s.dev.wall.toNat
        clock := l.deps.foldl (fun c d => clockJoin c (counterClock s (.home d.addr) (counterValue s d.addr))) l.clock }])
    ∧ ((∃ d ∈ l.deps, counterValue s d.addr < d.target.toNat) → exec (.launchReady uid) s = .next s))
  ∧ (∀ (uid : Nat) (s : State) (l k : Launch) (p : Part) (xs : List (Nat × Nat)), launchOfUid s uid = some l → s.part? l.part = some p →
    schedulerPick s l.part = some (k, .comp xs) → k.uid = uid → k.precStarted = true →
    let k1 := { k with
      started := k.started ++ xs.map (·.1), precStarted := true, waiting := k.waiting.filter (fun g => !xs.any (fun x => x.1 == g)) }
    Runs (.taskStart uid) s (inOrder [fun _ => [.launch k1], fun t => (startAll false t p k1 (launchWpt k.desc) xs).getD []] s))
  ∧ (∀ (core : Nat) (s : State) (r : SpawnRec) (rest : List SpawnRec) (p : Part), spawnQueue s core = r :: rest →
    s.parts.find? (fun p => p.state != .absent && ownsCluster p (core / 4)) = some p → partWorks s p.num = true →
    (p.spawnArea.length < 1024 * (p.spawncap.toNat % 65536) → Runs (.spawnRecordMove core) s
      (inOrder [fun s => [.queues { s.queues with spawns := s.queues.spawns.map (fun x => if x.1 = core then (x.1, rest) else x) }],
        onPart p.num (fun q => { q with spawnArea := q.spawnArea ++ [r] })] s))
    ∧ (1024 * (p.spawncap.toNat % 65536) ≤ p.spawnArea.length → exec (.spawnRecordMove core) s = .next s))
  ∧ (∀ (part : Nat) (s : State) (p : Part) (l : Launch) (r : SpawnRec) (core : Nat) (qs : List Nat), s.part? part = some p →
    schedulerPick s part = some (l, .spawned r core qs) → Runs (.spawnedTaskStart part) s (inOrder [
      onPart l.part (fun q => { q with spawnArea := q.spawnArea.erase r }),
      startOne l { index := r.taskid.toNat, record := some r, core := core, quadrants := qs }] s))
  ∧ (∀ (uid : Nat) (s : State) (l : Launch), launchOfUid s uid = some l → launchDone s l = true → partWorks s l.part = true →
    advanceHeld s l.part l.counter = false → Runs (.launchComplete uid) s (inOrder [advance l.part l.path l.counter 1 (clockJoin l.clock l.endClock), forgetTree l,
      fun _ => [.dropLaunch l.part l.num]] s))
  ∧ (∀ (part : Nat) (s : State) (p : Part), s.part? part = some p → partWorks s part = true →
    (vacateBusy p = true → preempting s part = false → vacateHeld p ≤ vacateCount p →
      (vacateCount p ≤ (vacatedCores p).length → Runs (.vacate part) s (onPart part (vacateSet false false (vacatedCores p).length) s))
      ∧ (∀ x, (vacatedCores p).length < vacateCount p →
        ((vacateOrder s p).filter (fun x => mayVacate s x.1 x.2)).find? (fun x => poolHas p (coreSlots s part x.2)) = some x →
        Runs (.vacate part) s (inOrder [onPart part (vacateSet true false (vacatedCores p).length), vacateCore part x.2] s)))
    ∧ (vacateCount p < vacateHeld p →
      let keep := (sortBy (fun c => c) (vacatedCores p)).take (vacateCount p)
      Runs (.reopen part) s (inOrder [
        onPart part (fun q => vacateSet false false keep.length { q with vacated := q.vacated.filter (fun x => keep.contains x.1) }),
        forEach (nub ((p.vacated.filter (fun x => !keep.contains x.1)).map (·.2))) (fun uid => redraw uid [])] s)))
  ∧ (∀ (id : Nat) (s : State) (w : Warp) (t : Task) (l : Launch) (p : Part), s.warp? id = some w → s.task? w.task = some t →
    s.launchOf w = some l → s.part? w.part = some p → t.phase = 3 → partWorks s p.num = true → pruned s t.part t.path = false →
    (∀ v ∈ taskWarps s t.id, v.mode = .run ∧ restReady s v = true) → launchStateful l.desc = false →
    Runs (.preemptWarpStop id) s (inOrder ((taskWarps s t.id).map (fun v => removeWarp v.id)
      ++ [abortCopies t, resetBarriers l [t], onTask t.id (fun k => { k with phase := 4 })]) s))
  ∧ (∀ (id : Nat) (s : State) (w : Warp), s.warp? id = some w →
    (pruned s w.part w.path = true → w.hnd = false → Runs (.pruneWarpStop id) s (removeWarp id s))
    ∧ (pruned s w.part w.path = false → exec (.pruneWarpStop id) s = .next s))
  ∧ (∀ (part : Nat) (path : Path) (s : State) (x : Shoot), shootOf s part path = some x → x.live = false → pathInUse s part path = false →
    Runs (.shootRetireComplete part path) s (inOrder [onPart part (fun p => { p with shoots := p.shoots.filter (fun x => x.path != path) }),
      onOrder (fun o => { o with
        versions := o.versions.filter (fun v => !(v.part == part && v.station.isNone && v.tag == path))
        remaps := o.remaps.filter (fun r => !(r.part == part && r.station.isNone && r.path == path)) })] s))

/-- Records, handlers, the halt and soft errors. A record is written for the warp that trapped first, which is then parked on it (R469, R472);
a handler starts for the oldest record without one (R471); HALT_ACK stops the partition, with no record and no context where VALID is 0, and
ends a stop operation (R433, R473, R474, R477, R483); a dirty bank is copied (R480); errors count, poison or halt (R473, R488, R489); a cluster's budget is
taken over (R381). The model's choices among it: a cluster's clock step before its first period (log 5), collectives at a halt (log 53), the bytes of
the core state (log 54), and structure codes as inputs (log 55). -/
def Obligations.TrapAndHaltEvents : Prop :=
  (∀ (part : Nat) (s : State) (p : Part) (w : Warp) (ws : List Word) (later : List Nat) (idx : Nat), s.part? part = some p →
    p.state = .running → p.trapQueue = w.id :: later → w.id ≠ 0 → s.warp? w.id = some w → w.mode = .trapping ws → saveReady s w = true →
    ctxValid s p.num = true → freeTrapSlot p = some idx →
    Runs (.trapRecordWrite part) s (inOrder [onPart p.num (fun q => { q with trapQueue := later, bare := q.bare }),
      fun _ => [.warp { w.atRest with mode := .parked idx }],
      saveSlot w.id (placeSlot p w.core w.place) 1 (some (wpair ws 2)),
      putRecord p idx ws (some (placeSlot p w.core w.place))
        { idx := idx, warp := w.id, released := false, handler := 0, slot := BitVec.ofNat 64 (placeSlot p w.core w.place), hnd := w.hnd
          level := w.level
          miss := if wfield ws 0 26 6 = 11 then some (wfield ws 16 16 16, wpair ws 14, w.path) else none
          task := w.task }] s))
  ∧ (∀ (part : Nat) (s : State) (p : Part) (r : RecSlot), s.part? part = some p →
    p.records.find? (fun r => r.handler == 0 && !r.released) = some r → partWorks s part = true → handlersRunning s part < 16 →
    Runs (.handlerTaskStart part) s (startHandler p r s))
  ∧ (∀ (part : Nat) (s : State) (p : Part), s.part? part = some p → p.state = .running → p.haltLine = true → haltWaits s p = false →
    let ids := (s.warps.filter (fun w => w.part == part && w.inCore)).map (·.id)
    let ws := s.warps.filter (fun w => ids.contains w.id)
    let comesToRest (records contexts : List (State → List Upd)) (ends : State → List Upd) : Prop :=
      Runs (.haltAck part) s (inOrder ([forEach ids dropChunk, fun s => (s.warps.filter (fun w => ids.contains w.id)).map (fun w =>
          .warp { w.atRest with mode := if w.mode = .run then .halted else w.mode })]
        ++ records ++ [stopColls part, refuseArrivals part] ++ contexts
        ++ [onPart part (fun q => { q with state := .stopped, haltLine := false, dbgctl := q.dbgctl ||| 0x80000000 }), postNotice p, ends]) s)
    let contexts : List (State → List Upd) := [forEach ws (fun w => saveSlot w.id (placeSlot p w.core w.place) 2 none), saveCores part]
    (ctxValid s part = true → operation s ≠ some (3, part) → comesToRest [writeStops p] contexts (fun _ => []))
    ∧ (ctxValid s part = true → operation s = some (3, part) → comesToRest [writeStops p] contexts (endOperation 0))
    ∧ (ctxValid s part = false → operation s ≠ some (3, part) → comesToRest [] [] (fun _ => []))
    ∧ (ctxValid s part = false → operation s = some (3, part) → comesToRest [] [] (endOperation 0)))
  ∧ (∀ (id bank : Nat) (s : State) (w : Warp) (p : Part), s.warp? id = some w → w.chunk.start = none → w.mode = .run →
    partWorks s w.part = true → bank ∈ w.dirty → s.part? w.part = some p → p.ctxctl.getLsbD 0 = true → p.ctxctl.getLsbD 1 = true →
    Runs (.incrementalBankCopy id bank) s (saveBank id bank s))
  ∧ (∀ (part : Nat) (s : State) (p : Part), s.part? part = some p →
    Runs (.eccCorrected part) s [.part { p with eccnt := if p.eccnt = 0xFFFFFFFF then 0xFFFFFFFF else p.eccnt + 1 }])
  ∧ (∀ (part : Option Nat) (kind unit : Nat) (s : State), Runs (.machineCheck part kind unit) s (haltFor part .machineCheck kind unit s))
  ∧ (∀ (a : Nat) (s : State), a < memLimit → Runs (.eccUncorrectable (.memory a)) s [.order { s.order with
      poison := markWords s.order.poison [(memPlace (a / 8 * 8), true), (memPlace (a / 8 * 8 + 4), true)] }])
  ∧ (∀ (kind unit : Nat) (part : Option Nat) (s : State),
    Runs (.eccUncorrectable (.table kind unit part)) s (haltFor part .eccFatal kind unit s))
  ∧ (∀ (a : Nat) (s : State) (p : Part), s.parts.find? (fun p => p.state != .absent && ownsAddr p a) = some p →
    exec (.patrolScrub a false) s = .next s ∧ Runs (.patrolScrub a true) s (countEcc p.num s))
  ∧ (∀ (cluster budget : Nat) (hot cool : Bool) (s : State), cluster < 64 →
    let old := ((s.dev.heat.find? (fun h => h.cluster == cluster)).map (·.clock)).getD 16
    let clk := if hot then max 8 (old - 1) else if cool then min 16 (old + 1) else old
    Runs (.heatBudgetPeriod cluster budget hot cool) s
      ([.dev { s.dev with heat := upsert (fun h => h.cluster == cluster) ⟨cluster, some budget, clk⟩ s.dev.heat }]
        ++ (s.warps.filter (fun w => w.core / 4 == cluster)).map (fun w => .warp { w with ecounted := w.eclass })))

/-- Boot, the management responder and PARTCTL's operations. POWER_ON boots from the slot of the higher sequence number that verifies, or enters
the safe state (R459 to R462); a report carries a fresh nonce, and a signed reset under it restarts the device (R463); create, start, stop and
destroy do what PARTCTL asks, or answer why not (R433 to R435, R446, R475). The model's choices among it: memory survives a reset (log 43), a boot
without an image fails in phase 2 with a free code (log 3), order and STATUS of the operations (logs 41, 42), and a power-on of a device that is on
(log 10). -/
def Obligations.DeviceEvents : Prop :=
  (∀ (s : State), s.dev.booted = false → s.dev.safe = false →
    (∀ f, 1 ≤ f.phase → f.phase ≤ 7 → (f.phase ≤ 2 ∨ imageUsed s.dev ≠ none) → Runs (.powerOn (some f)) s
      [.dev { s.dev with bootstat := bootWord f.phase true (bootSlot s.dev f.phase) f.unit f.code, safe := true, image := bootImage s.dev f.phase
                         seqs := bootSeqs s.dev f.phase }])
    ∧ (imageUsed s.dev = none →
      let failed := { s with dev := { s.dev with bootstat := bootWord 2 true false 0 (Config.bootCode s.model.free), safe := true, image := []
                                                 seqs := bootSeqs s.dev 2 }
                             model := { s.model with free := s.model.free + 1 } }
      exec (.powerOn none) s = .next failed
      ∧ (∀ f, 2 < f.phase → f.phase ≤ 7 → exec (.powerOn (some f)) s = .next failed)
      ∧ (∀ phase unit, 2 < phase → phase ≤ 6 → exec (.bootPhaseTimeout phase unit) s = .next failed))
    ∧ (∀ slot img, imageUsed s.dev = some (slot, img) → Runs (.powerOn none) s (bootDone slot img s))
    ∧ (∀ phase unit, 1 ≤ phase → phase ≤ 6 → (phase ≤ 2 ∨ imageUsed s.dev ≠ none) → Runs (.bootPhaseTimeout phase unit) s
      [.dev { s.dev with bootstat := bootWord phase true (bootSlot s.dev phase) unit 0xFFFF, safe := true, image := bootImage s.dev phase
                         seqs := bootSeqs s.dev phase }]))
  ∧ (∀ (s : State) (fail : Option BootFail), s.dev.booted = true ∨ s.dev.safe = true → exec (.powerOn fail) s = .next s)
  ∧ (∀ s : State, exec .mgmtReport s = .next { s with
      net := { s.net with outbox := s.net.outbox ++ [.report (reportWords s (Config.nonce s.model.free))] }
      dev := { s.dev with nonce := some (Config.nonce s.model.free) }, model := { s.model with free := s.model.free + 1 } })
  ∧ (∀ (s : State) (nonce : DWord) (key : Nat) (sig : List Byte),
    (s.dev.nonce = some nonce → Config.resetSigned (keysSection s.dev) nonce key sig = true →
      ∃ t, exec (.mgmtReset nonce key sig) s = .next t ∧ t.warps = [] ∧ t.tasks = [] ∧ t.launches = []
        ∧ ((∀ l ∈ linesOfCells s.mem, lineKey s l = none) → t.mem = s.mem) ∧ t.parts = s.parts.map (fun p => Part.reset p.num)
        ∧ t.eng = State.reset.eng ∧ t.net = { State.reset.net with outbox := s.net.outbox } ∧ t.xl = State.reset.xl ∧ t.mat = State.reset.mat
        ∧ t.queues = State.reset.queues
        ∧ t.order = { State.reset.order with poison := s.order.poison.filter (fun p => p.space == .mem && p.owner == 0) }
        ∧ ∃ rs, t.dev = { State.reset.dev with slotA := s.dev.slotA, slotB := s.dev.slotB, rekeys := rs }
          ∧ ((∀ p ∈ s.parts, (wordAt p.desc 12).getLsbD 1 = false) → rs = s.dev.rekeys))
    ∧ (s.dev.nonce ≠ some nonce → exec (.mgmtReset nonce key sig) s = .next s))
  ∧ (∀ (s : State) (n : Nat) (p : Part), s.part? n = some p →
    (operation s = some (1, n) →
      let d := rootWords s (descAddress s) 32
      (createStatus s p d = 0 → Runs .partitionCreate s (inOrder [
        withKeys (fun _ => [.part { Part.reset n with state := .created, desc := d, descAddr := descAddress s }]), endOperation 0] s))
      ∧ (createStatus s p d ≠ 0 → Runs .partitionCreate s (endOperation (createStatus s p d) s)))
    ∧ (operation s = some (2, n) →
      (startStatus s p ≠ 0 → Runs .partitionStart s (endOperation (startStatus s p) s))
      ∧ (startStatus s p = 0 → p.state = .created → Runs .partitionStart s (inOrder [startControl p, endOperation 0] s))
      ∧ (startStatus s p = 0 → p.state = .stopped → Runs .partitionStart s (inOrder [restartPart p, endOperation 0] s)))
    ∧ (operation s = some (3, n) →
      (p.state = .running → Runs .partitionStop s (inOrder [fun _ => [.part { p with haltLine := true }], useIds 1,
        beginInval s.model.nextId n none 0 (2 ^ 64) none] s))
      ∧ (p.state ≠ .running → Runs .partitionStop s (endOperation 3 s)))
    ∧ (operation s = some (4, n) →
      (n ≠ 0 → p.state = .created ∨ p.state = .stopped →
        Runs .partitionDestroy s (inOrder [clearPart p, discardL2 p, withKeys (fun _ => [.part (Part.reset n)]), dropNotices n,
          endOperation 0] s))
      ∧ (n = 0 ∨ p.state = .running ∨ p.state = .absent → Runs .partitionDestroy s (endOperation 3 s))))
  ∧ (∀ (status : Nat) (s : State), endOperation status s = [.dev { s.dev with
      partctl := (s.dev.partctl &&& 0x00000F00) ||| BitVec.ofNat 32 (status * 2 ^ 16) }])

/-- Register writes as steps of their own: a level without access raises PRIV; a value no field takes RESERVED_FIELD, an area or a key slot that may
not be ARG_RANGE, the register keeping its value; a register that the level may only read stays (log 10); and else the register holds the value
(R13, R255, R429, R446, R447, R452, R476, R486, R489, R493). The model's choices among it: the fields of R433 and R447 with values for which no cause is
stated raise RESERVED_FIELD (log 87), and MBWSEL and APSEL hold 32 bits (log 88). -/
def Obligations.RegisterEvents : Prop := ∀ (id : Nat) (s : State) (w : Warp), s.warp? id = some w →
  let writes (num : Nat) (v : DWord) : Prop := sysRefused s w num = none ∧ sysWriteTrap s w num v = none
  (∀ (num : BitVec 12) (v : DWord) (t : TrapReq), sysRefused s w num.toNat = some t → Runs (.sysregWrite id num v) s (takeTrap id 0 [] t s))
  ∧ (∀ (num : BitVec 12) (v : DWord), writes num.toNat v → sysAccess num.toNat w.level = .both → sysWriteWaits s num.toNat = false →
    ¬(0x010 ≤ num.toNat ∧ num.toNat ≤ 0x013) → Runs (.sysregWrite id num v) s (sysWriteAt id num.toNat v s))
  ∧ (∀ (x : Word) (p : Part), writes 0x054 (x.setWidth 64) → s.part? (sysPart s w 0x054) = some p →
    let holds (a : List (Nat × Nat × Nat) × List (Nat × Nat × Nat)) : Prop := Runs (.ctxctlValidWrite id x) s
      [.part { p with ctxctl := x, trapOff := p.trapbase, ctxOff := p.ctxbase, trapArea := a.1, ctxArea := a.2 }]
    (x.getLsbD 0 = false → holds ([], [])) ∧ (∀ a, x.getLsbD 0 = true → areasFor s p x = some a → holds a))
  ∧ (∀ (num : BitVec 12) (v : DWord), sysRefused s w num.toNat = none → sysAccess num.toNat w.level = .both → sysBadValue num.toNat v = true →
    Runs (.sysregWrite id num v) s (takeTrap id 0 [] (raise .reservedField) s))
  ∧ (∀ (num : BitVec 12) (v : DWord), v &&& sysReserved num.toNat ≠ 0 → sysBadValue num.toNat v = true)
  ∧ (∀ (num : BitVec 12) (v : DWord) (p : Part), sysRefused s w num.toNat = none → sysAccess num.toNat w.level = .both →
    sysBadValue num.toNat v = false → s.part? (sysPart s w num.toNat) = some p →
    (num.toNat = 0x046 ∧ vspillBad s p v = true) ∨ (num.toNat = 0x054 ∧ v.getLsbD 0 = true ∧ areasFor s p (lowWord v) = none)
      ∨ (0x0D0 ≤ num.toNat ∧ num.toNat ≤ 0x0DF ∧ p.state = .running) →
    Runs (.sysregWrite id num v) s (takeTrap id 0 [] (argRange 0 0) s))
  ∧ (∀ (num : BitVec 12) (v : DWord), sysRefused s w num.toNat = none → sysAccess num.toNat w.level = .read →
    exec (.sysregWrite id num v) s = .next s)
  ∧ (∀ (v : DWord) (p : Part), writes 0x046 v → s.part? (sysPart s w 0x046) = some p → Runs (.vspillWrite id v) s [.part { p with vspill := v }])
  ∧ (∀ (i : Nat) (x : Word) (p : Part), i < 16 → writes (0x0D0 + i) (x.setWidth 64) → s.part? (partSelected s) = some p →
    Runs (.enckeyWrite id i x) s (withKeys (fun _ => [.part { p with enckey := p.enckey.set i x }]) s))
  ∧ (∀ (i : Nat) (x : Word), i < 8 → w.level = 2 → writes (0x0E8 + i) (x.setWidth 64) → sysWriteWaits s (0x0E8 + i) = false →
    Runs (.mbwinWrite id i x) s [.net { s.net with windows := s.net.windows.set (windowSelected s) ((windowWords s).set i x) }])
  ∧ (∀ (i : Nat) (x : Word), i < 4 → writes (0x0F4 + i) (x.setWidth 64) →
    let old := s.net.apertures.getD (aperSelected s) []
    let put : Upd := .net { s.net with apertures := s.net.apertures.set (aperSelected s) (old.set i x) }
    ((wordAt old 0).getLsbD 31 = false → Runs (.apentWrite id i x) s [put])
    ∧ ((wordAt old 0).getLsbD 31 = true → Runs (.apentWrite id i x) s (inOrder [fun _ => [put], useIds 1, addHolds id [.inval s.model.nextId],
      beginInval s.model.nextId (wfield old 0 28 3) (some (wfield old 0 0 16)) 0 (2 ^ 64) (some id)] s)))
  ∧ (∀ p : Part, sysRefused s w 0x056 = none → s.part? (sysPart s w 0x056) = some p → Runs (.ecccntRead id) s [.part { p with eccnt := 0 }])
  ∧ (∀ (n : Nat) (p : Part), s.part? n = some p → p.state = .running → Runs (.dbgctlHalt n) s
    [.part { p with haltLine := true, dbgctl := p.dbgctl &&& 0x80000002 }])

/-- Requests and messages of peers (R259, R280, R284, R452, R453): a request that fails a check is answered with the step; else it is served at
its home and answered; a foreign version becomes its parent's or is freed; an acknowledgment ends what waits for it. Step 7 answers where a
version finds no record and step 8 where a read's edition does not match (R255, R261; the model's choice, log 25); when mappings of commit messages
are freed, and the poison marks that data carry, are the model's reading (log 52). -/
def Obligations.PeerEvents : Prop :=
  (∀ (a : PeerAddr) (s : State) (step n : Nat), peerChecks s a .read n = .error step →
    ∀ ed, Runs (.peerReadRequest a ed n) s [.net { s.net with outbox := s.net.outbox ++ [.peerReply a.station (.error step)] }])
  ∧ (∀ (a : PeerAddr) (s : State) (n : Nat) (p : Part) (ps : List (Nat × Nat)), peerChecks s a .read n = .ok (p, ps) →
    Runs (.peerReadRequest a none n) s
      [.net { s.net with outbox := s.net.outbox ++ [.peerReply a.station (.data (bytesWords (peerBytes s a ps)) (peerBad s a ps))] }]
    ∧ (∀ ed, (∃ x ∈ ps, sealedAt s x.1 ≠ some ed) → Runs (.peerReadRequest a (some ed) n) s
      [.net { s.net with outbox := s.net.outbox ++ [.peerReply a.station (.error 8)] }])
    ∧ (∀ ed, (∀ x ∈ ps, sealedAt s x.1 = some ed) → Runs (.peerReadRequest a (some ed) n) s
      [.net { s.net with outbox := s.net.outbox ++ [.peerReply a.station (.data (bytesWords (peerBytes s a ps)) (peerBad s a ps))] }]))
  ∧ (∀ (a : PeerAddr) (s : State) (data : List (Byte × Bool)) (step : Nat), peerChecks s a .write data.length = .error step →
    Runs (.peerWriteRequest a data) s [.net { s.net with outbox := s.net.outbox ++ [.peerReply a.station (.error step)] }])
  ∧ (∀ (a : PeerAddr) (s : State) (data : List (Byte × Bool)) (p : Part) (ps : List (Nat × Nat)), peerChecks s a .write data.length = .ok (p, ps) →
    let cells := cellsOfPieces ps (data.map (·.1))
    let bad := ((cells.zip data).filter (fun x => x.2.2)).map (fun x => x.1.1.word)
    let t := s.run (freeMappings a.station s)
    (foreignPath t p.num a.station a.path = 0 → peerHeld t a p.num cells = false → Runs (.peerWriteRequest a data) s (inOrder [
      freeMappings a.station,
      applyCells ⟨p.num, 0, false, 0, none⟩ cells ((nub (cells.map (fun c => c.1.word))).map (fun w => (w, bad.contains w))),
      sendOut (.peerReply a.station (.data [] []))] s))
    ∧ (foreignPath t p.num a.station a.path ≠ 0 → (peerPut t a p.num cells bad = none → Runs (.peerWriteRequest a data) s
        (inOrder [freeMappings a.station, sendOut (.peerReply a.station (.error 7))] s))
      ∧ (∀ us, peerPut t a p.num cells bad = some us → Runs (.peerWriteRequest a data) s
        (inOrder [freeMappings a.station, fun _ => us, sendOut (.peerReply a.station (.data [] []))] s))))
  ∧ (∀ (a : PeerAddr) (op : PeerAtomic) (s : State) (p : Part) (ps : List (Nat × Nat)),
    let n := if op.w64 then 8 else 4
    let old := bytesVal (peerBytes s a ps)
    let r := atomResult op.denorm (if op.cas then none else some op.op) op.w64 old op.operand.toNat op.compare.toNat
    let cells := cellsOfPieces ps (valBytes n r.1)
    let t := s.run (freeMappings a.station s)
    let answer := sendOut (.peerReply a.station (.data (wordsOfVal (n / 4) old ++ [r.2.setWidth 32]) (peerBad s a ps)))
    (∀ step, peerChecks s a .atomic n = .error step →
      Runs (.peerAtomicRequest a op) s [.net { s.net with outbox := s.net.outbox ++ [.peerReply a.station (.error step)] }])
    ∧ (peerChecks s a .atomic n = .ok (p, ps) → foreignPath t p.num a.station a.path = 0 → peerHeld t a p.num cells = false →
      Runs (.peerAtomicRequest a op) s (inOrder [freeMappings a.station,
        applyCells ⟨p.num, 0, false, 0, none⟩ cells ((nub (cells.map (fun c => c.1.word))).map (fun w => (w, false))), answer] s))
    ∧ (peerChecks s a .atomic n = .ok (p, ps) → foreignPath t p.num a.station a.path ≠ 0 →
      (peerPut t a p.num cells [] = none → Runs (.peerAtomicRequest a op) s
        (inOrder [freeMappings a.station, sendOut (.peerReply a.station (.error 7))] s))
      ∧ (∀ us, peerPut t a p.num cells [] = some us → Runs (.peerAtomicRequest a op) s
        (inOrder [freeMappings a.station, fun _ => us, answer] s))))
  ∧ (∀ (st : Nat) (path : Path) (s : State), path ≠ 0 →
    Runs (.peerPruneMessage st path) s [.order { s.order with
      versions := s.order.versions.filter (fun v => !(v.station == some st && v.tag == path))
      poison := s.order.poison.filter (fun p => !(p.space == .mem && p.owner == foreignOwner st path))
      remaps := s.order.remaps.filter (fun r => !(r.station == some st && r.path == path)) }])
  ∧ (∀ (st : Nat) (path : Path) (s : State), path ≠ 0 → commitHeld s st path = false →
    let maps : List Remap := (List.range 8).map (fun part => ⟨part, some st, path, parentPath path, s.dev.wall.toNat⟩)
    Runs (.peerCommitMessage st path) s (inOrder [freeMappings st, forEach (List.range 8) (commitForeign st path), dropForeign st path,
      onOrder (fun o => { o with remaps := o.remaps.filter (fun r => !(r.station == some st && r.path == path)) ++ maps })] s))
  ∧ (∀ (st part : Nat) (path : Path) (s : State), foreignPath s part st (parentPath path) = 0 →
    let words := foreignWords s part st path
    s.run (commitForeign st path part s) = if words.isEmpty then s else
      s.run (applyCells ⟨part, 0, false, 0, none⟩ (words.flatMap (fun x => (placesFrom (memPlace (4 * x.1)) 4).zip (valBytes 4 x.2.toNat)))
        (words.map (fun x => (memPlace (4 * x.1), s.order.poison.contains { memPlace (4 * x.1) with owner := foreignOwner st path }))) s))
  ∧ (∀ (id : Nat) (s : State) (p : PeerPending), s.net.peerPending.find? (fun p => p.id == id) = some p →
    let gone := onNet (fun n => { n with peerPending := n.peerPending.filter (fun q => q.id != id) })
    exec (.peerStoreAck id .none) s = .next s
    ∧ Runs (.peerStoreAck id (.data [] [])) s (gone s)
    ∧ (∀ (ws : List Word) (bad : List Bool), (wordAt ws 0).setWidth 9 ≠ (0 : Flags) → Runs (.peerStoreAck id (.data ws bad)) s
      (inOrder [gone, onWarp p.warp (fun w => { w with drainFlags := w.drainFlags ++ [((wordAt ws 0).setWidth 9, p.pc)] })] s))
    ∧ (∀ step, p.job = 0 → s.job? 0 = none →
      Runs (.peerStoreAck id (.error step)) s (inOrder [gone, raiseLater p.warp p.who p.pc (peerFault step)] s))
    ∧ (∀ step j, s.job? p.job = some j → Runs (.peerStoreAck id (.error step)) s (inOrder [gone, stopJob j (peerFault step)] s)))

/-- Links and the host (R262, R447 to R449, R454, R456): a link down fails what waits for it at once; the host's writes, reads and SENDs take
their places at the ordering point, a SEND while its ring has room; there a message lands granule by granule, and at its end a read is answered
with the bytes as they are then; a request that no window allows is refused and counted. The model's choices among it: messages land granule by
granule at an ordering point (log 21), the NAK codes (log 59), what is not late leaves the state (log 10), and the limit of a message (log 109). -/
def Obligations.LinkAndHostEvents : Prop :=
  (∀ (st : Nat) (s : State), Runs (.linkDown st) s (inOrder [onNet (fun n => { n with down := nub (n.down ++ [st]) }),
    forEach (s.eng.jobs.filter (fun j => j.kind == .coll && j.sent && j.phase == 1)) (fun j t => match rankAt t j st with
      | some r => collAbort j .linkDown r t
      | none => []),
    forEach (s.eng.jobs.filter (fun j => j.kind != .coll && jobAwaits s j st)) (fun j => stopJob j (raiseD .linkDown (BitVec.ofNat 32 st))),
    failStores st (fun _ => true),
    forEach (s.warps.map (·.id)) (fun w => failWarp w st)] s))
  ∧ (∀ (st : Nat) (s : State), Runs (.linkReturn st) s [.net { s.net with down := s.net.down.filter (fun x => x != st) }])
  ∧ (∀ (id tag st : Nat) (s : State) (w : Warp) (e : TagEntry), s.warp? id = some w → tag ≠ 0 →
    w.regs.tags.find? (fun e => e.tag == tag && e.awaits == .peer && !e.returned && e.stations.head? == some st) = some e → e.own = false →
    (requestLate s st e.since = false → exec (.ualinkRequestTimeout id tag st) s = .next s) ∧ (requestLate s st e.since = true →
    Runs (.ualinkRequestTimeout id tag st) s (takeTrap id ((w.regs.frags.find? (fun f => f.mask &&& e.mask != 0)).elim 0 (·.id)) []
      { raiseD .linkDown (BitVec.ofNat 32 st) with fpc := some e.pc } s)))
  ∧ (∀ (id tag st : Nat) (s : State) (w : Warp) (e : TagEntry), s.warp? id = some w → tag ≠ 0 →
    w.regs.tags.find? (fun e => e.tag == tag && e.awaits == .peer && !e.returned && e.stations.head? == some st) = some e → e.own = true →
    requestLate s st e.since = true → Runs (.ualinkRequestTimeout id tag st) s (onWarp id (fun w => w.mapTags (fun x => if x.seq = e.seq then
      { x with raises := some { raiseD .linkDown (BitVec.ofNat 32 st) with ppc := some e.pc }, returned := true, lanes := [], stations := [] } else x)) s))
  ∧ (∀ (qpn rkey va : Nat) (data : HostData) (s : State), data.bytes.length ≤ messageLimit →
    (hostRange s qpn rkey va data.bytes.length true = none → Runs (.hostRdmaWrite qpn rkey va data) s (refuseHost qpn s))
    ∧ (∀ w ps c, hostRange s qpn rkey va data.bytes.length true = some (w, ps, c) → partWorks s (wfield w 0 28 3) = true →
      let gs := payloadGranules (cellsOfPieces ps data.bytes).length (cellsOfPieces ps data.bytes)
      Runs (.hostRdmaWrite qpn rkey va data) s (arriveMsg ⟨0, wfield w 0 28 3, qpn, gs, [], some c, 1, 0, []⟩ s))
    ∧ (∀ len, len ≤ messageLimit → hostRange s qpn rkey va len false = none → Runs (.hostRdmaRead qpn rkey va len) s (refuseHost qpn s))
    ∧ (∀ len w ps c, len ≤ messageLimit → hostRange s qpn rkey va len false = some (w, ps, c) → Runs (.hostRdmaRead qpn rkey va len) s
      (arriveMsg ⟨0, wfield w 0 28 3, qpn, [], ps, none, 0, 0, []⟩ s)))
  ∧ (∀ (qpn rkey va len : Nat) (words : List Word) (imm : Option Word) (data : HostData) (s : State), messageLimit < data.bytes.length →
    messageLimit < len → messageLimit < 4 * words.length →
    Runs (.hostRdmaWrite qpn rkey va data) s (sendOut (.hostReply qpn false nakInvalid []) s)
    ∧ Runs (.hostRdmaRead qpn rkey va len) s (sendOut (.hostReply qpn false nakInvalid []) s)
    ∧ Runs (.hostSendInbound qpn words imm) s (sendOut (.hostReply qpn false nakInvalid []) s))
  ∧ (∀ (qpn : Nat) (words : List Word) (imm : Option Word) (s : State), 4 * words.length ≤ messageLimit →
    (hostWindow s 1 qpn none = none → Runs (.hostSendInbound qpn words imm) s (refuseHost qpn s))
    ∧ (∀ w c ps, hostWindow s 1 qpn none = some w → ringOk s w = some (c, ps) → partWorks s (wfield w 0 28 3) = true →
      let part := wfield w 0 28 3
      let n := wfield w 0 16 4
      let used := ringUsed (ringOf s part n) + ringComing s part n
      let cells := ringCells ps (ringWords w) ((ringOf s part n).consumer + used) (words ++ imm.toList)
      (ringWords w < used + (words ++ imm.toList).length →
        Runs (.hostSendInbound qpn words imm) s (sendOut (.hostReply qpn false nakNotReady []) s))
      ∧ (used + (words ++ imm.toList).length ≤ ringWords w →
        Runs (.hostSendInbound qpn words imm) s
          (arriveMsg ⟨0, part, qpn, payloadGranules cells.length cells, [], some c, (words ++ imm.toList).length, n, words ++ imm.toList⟩ s))))
  ∧ (∀ (a : Arrival) (s : State), arrivalWaits s a = false →
    (a.granules = [] → a.words = [] → a.counter = none → landArrival a s = inOrder [dropArrival a.id,
      fun s => sendOut (.hostReply a.qpn true 0 (a.reads.flatMap (fun x => (List.range x.2).map (fun i => rootByte s (x.1 + i))))) s] s)
    ∧ (∀ c, a.granules = [] → a.words = [] → a.reads = [] → a.counter = some c → landArrival a s = inOrder [dropArrival a.id,
      counterAdd a.part c a.amount [], sendOut (.hostReply a.qpn true 0 [])] s)
    ∧ (∀ g rest, a.granules = g :: rest → piecesSealed s (granuleRange g) = false →
      (s.run (landArrival a s)).net.arrivals.find? (fun b => b.id == a.id)
        = (s.net.arrivals.find? (fun b => b.id == a.id)).map (fun b => { b with granules := rest })))
  ∧ (∀ (i n : Nat) (s : State) (w : List Word) (r : Ring) (x : Nat × Nat × Nat) (rest : List (Nat × Nat × Nat)) (c : Nat),
    s.net.windows[i]? = some w → s.net.rings.find? (fun r => r.part == wfield w 0 28 3 && r.num == wfield w 0 16 4) = some r →
    r.sends = x :: rest → x.1 = n → (wordAt w 0).getLsbD 31 = true → wfield w 0 26 2 = 2 → windowCount s w = some c →
    counterHeld s (wfield w 0 28 3) (.home c) = false → Runs (.hostSendAck i n) s (inOrder [onNet (fun k => { k with rings := k.rings.map (fun y =>
        if y.part = wfield w 0 28 3 ∧ y.num = wfield w 0 16 4 then { y with outbound := y.outbound.drop n, sends := rest } else y) }),
      counterAdd (wfield w 0 28 3) c n []] s))
  ∧ (∀ (qpn : Nat) (s : State), Runs (.hostAtomicVerb qpn) s [.net { s.net with outbox := s.net.outbox ++ [.hostReply qpn false nakInvalid []] }]
    ∧ Runs (.queuePairError qpn) s [.net { s.net with qpErrors := nub (s.net.qpErrors ++ [qpn]) }]
    ∧ Runs (.ecnMarking qpn) s [.net { s.net with ecn := nub (s.net.ecn ++ [qpn]) }])
  ∧ (∀ (port prio : Nat) (s : State),
    Runs (.priorityFlowControl port prio true) s [.net { s.net with paused := nub (s.net.paused ++ [(port, prio)]) }]
    ∧ Runs (.priorityFlowControl port prio false) s [.net { s.net with paused := s.net.paused.filter (fun x => x != (port, prio)) }])

/-! ### The machine as a whole -/

/-- Registers whose maps give their reset values and access. COLLTO holds 0x4E20: a time-out in µs, and at 0 only the watchdog applies (R319).
WDOG holds 0x7D0: a watchdog in ms on WALL, and at 0 every watchdog of its partition is off (R390). REPTHR holds 0x3DCC_CCCD (R345). User level
reads the three, supervisor level writes them. ECCCNT holds 0 and user level has no access; it counts up to 0xFFFF_FFFF, and its clearing
leaves 0 (R489). Each partition has its own. -/
def Obligations.ResetRegisters : Prop :=
  (∀ n, n < 8 → ∃ p : Part, State.reset.part? n = some p ∧ p.collto = 0x00004E20 ∧ p.repthr = 0x3DCCCCCD ∧ p.wdog = 0x000007D0 ∧ p.eccnt = 0)
  ∧ (∀ num, num = 0x041 ∨ num = 0x044 ∨ num = 0x040 → sysAccess num 0 = .read ∧ sysAccess num 1 = .both ∧ sysPerPart num = true)
  ∧ (sysAccess 0x056 0 = .none ∧ sysAccess 0x056 1 = .read ∧ sysPerPart 0x056 = true)
  ∧ (∀ (s : State) (w : Warp) (f : Frag) (p : Part) (l : Nat), w.level ≠ 2 → s.part? w.part = some p →
    sysValue s w f 0x041 l = p.collto.setWidth 64 ∧ sysValue s w f 0x044 l = p.repthr.setWidth 64
    ∧ sysValue s w f 0x040 l = p.wdog.setWidth 64 ∧ sysValue s w f 0x056 l = p.eccnt.setWidth 64)
  ∧ (∀ (s : State) (p : Part) (n since : Nat), s.part? n = some p →
    (p.wdog = 0 → watchdogOut s n since = false)
    ∧ (p.wdog ≠ 0 → (watchdogOut s n since = true ↔ p.wdog.toNat * 10 ^ 6 < s.dev.wall.toNat - since)))
  ∧ (∀ (s : State) (j : Job) (p : Part), s.part? j.part = some p →
    (p.collto = 0 → collLate s j = false)
    ∧ (p.collto ≠ 0 → (collLate s j = true ↔ p.collto.toNat * 10 ^ 3 < s.dev.wall.toNat - j.startedAt)))
  ∧ (∀ (s : State) (p : Part), s.part? p.num = some p → (p.eccnt = 0xFFFFFFFF → (s.run (countEcc p.num s)).part? p.num = some p)
    ∧ (p.eccnt ≠ 0xFFFFFFFF → (s.run (countEcc p.num s)).part? p.num = some { p with eccnt := p.eccnt + 1 })
    ∧ (s.run (clearEcc p.num s)).part? p.num = some { p with eccnt := 0 })

/-- A fetch line holds the 32-bit line word in its bytes 0 to 3 and the 80-bit word of slot k in bytes 4 + 10k to 13 + 10k, little-endian; a fetch reads
the 64 bytes of its line, which starts at an offset that is a multiple of 64 (R36).
In sequential flow slot k + 1 follows slot k, and slot 0 of the next line follows slot 5; it never checks TARGETS: a slot whose line's
translation, parities and line word are good and whose word decodes is the instruction that executes, whatever TARGETS holds (R43). -/
def Obligations.FetchAndFlow : Prop :=
  (∀ (line : List Byte) (i : Nat), line.length = 64 → i < 32 → (lineWord line).getLsbD i = (line.getD (i / 8) 0).getLsbD (i % 8))
  ∧ (∀ (line : List Byte) (k i : Nat), line.length = 64 → k < 6 → i < 80 →
    (lineSlot line k).getLsbD i = (line.getD (4 + 10 * k + i / 8) 0).getLsbD (i % 8))
  ∧ (∀ (s : State) (w : Warp) (pc : DWord) (a : Nat) (line : List Byte), fetchLine s w pc = .ok (a, line) → copyOf s w a = none →
    line.length = 64 ∧ line = lineAt s w.part w.path a
    ∧ ∃ x, translate s { w.who with own := [] } { fetch := true } w.crealm.toNat (BitVec.ofNat 64 (pc.toNat / 64 * 64)) 64 = .ok (.mem a x))
  ∧ (∀ pc : DWord, pc.toNat % 64 < 5 → (nextPc pc).toNat = pc.toNat + 1)
  ∧ (∀ pc : DWord, pc.toNat % 64 = 5 → nextPc pc = (pc &&& ~~~63) + 64)
  ∧ (∀ (s : State) (w : Warp) (f : Frag) (a : Nat) (line : List Byte) (i : Instr), wellPlaced f.pc = true →
    fetchLine s w f.pc = .ok (a, line) → lineBad line (f.pc.toNat % 8) = false → lineWordOk (lineWord line) = true →
    decode (lineSlot line (f.pc.toNat % 8)) = .ok i → fetchSlot s w f = .instr i a)

/-- A step runs the decoded instruction: where no turn of the agenda and no event comes first and the slot at the PC of the fragment that
issues next decodes to i, the step is exec of i in the state that the step has begun, with that fragment current; the fragment is
then current no longer, one that did not move its warp is marked as tried, and the second slot of a pair goes next (R40, R42, R70, R368, R369;
log 1). -/
def Obligations.StepRunsDecoded : Prop := ∀ (s : State) (w : Warp) (f : Frag) (a : Nat) (line : List Byte) (i : Instr),
  let b := beginStep s
  b.model.agenda = [] → nextEvent b = none → nextFragment b = some (w, f) → wellPlaced f.pc = true → fetchLine b w f.pc = .ok (a, line) →
  lineBad line (f.pc.toNat % 8) = false → lineWordOk (lineWord line) = true → decode (lineSlot line (f.pc.toNat % 8)) = .ok i →
  step s = match exec i (b.run [.cur (some (w.id, f.id))]) with
    | .next t => .next (if moved w (t.warp? w.id) then t.run [.cur none, .model { t.model with
          tried := [], paired := if linePair (lineWord line) (f.pc.toNat % 8) then some (w.id, f.id, nextPc f.pc) else none }]
        else t.run [.cur none, .model { t.model with tried := t.model.tried ++ [(w.id, f.id)] }])
    | .fault e => .fault e
    | .refused r => .refused r

/-- Words written out from the encoding tables and examples decode to the instructions they stand for (R77, and the examples of the encoding chapters). -/
def Obligations.DecodeWords : Prop :=
  let c : Ctl := { g := 0, gs := .always, stall := 0, alloc := 0, wait := 0, u := false, y := false, sw := false }
  decodeTableWord 80 0x00400000000000000000 = some (.nop c)
  ∧ decodeTableWord 80 0x10010081C01000004000 = some (.iadd { c with stall := 4 } false false 4 (.v 2) (.u 7))
  ∧ decodeTableWord 80 0x1880C00FF00000000000 = some (.movi c .plain 3 0x3FC00000)
  ∧ decodeTableWord 80 0x40C20081021010005000 = some (.ffma { c with stall := 5 } .f32 .rn 8 (.v 2) (.u 4) (.v 8))
  ∧ decodeTableWord 80 0x60810182000000006000 = some (.ivadd { c with stall := 6 } .if32 4 (.v 6) (.v 8))
  ∧ decodeTableWord 80 0x8200004080F800000004 = some (.mma { c with u := true } .bf16 .bf16 .f32 0 0 0 1 2 3)
  ∧ decodeTableWord 80 0xA0030001000201000400 = some (.ld { c with alloc := 2 } .b32 false 12 0 ⟨.v 4, 1, 0x010⟩)
  ∧ decodeTableWord 80 0xA401800101C4C0200200 = some (.atom { c with alloc := 1 } .add false .device 6 ⟨.v 4, 2, 2⟩ (.v 7))
  ∧ decodeTableWord 80 0x008000003FFFFFD68000 = some (.bra { c with g := 3, gs := .ifTrue } 0x3FFFFFD)
  ∧ decodeTableWord 80 0x00C002C0400000500000 = some (.br3 c 1 5 11)
  ∧ decodeTableWord 80 0xE0020102009200000200 = some (.kvld { c with alloc := 1 } false 1 8 4 8 2)
  ∧ decodeTableWord 80 0xFC810000000008500204 = some (.sread { c with alloc := 1, u := true } true 4 0x021)
  ∧ decodeTableWord 80 0 = some (.illegalOpcode 0) ∧ decodeTableWord 80 (2 ^ 80 - 1) = some (.illegalOpcode (BitVec.allOnes 80))

/-- Encoding and decoding agree, over every instruction of a slot: the word of a well-formed instruction decodes to it, and a word that decodes is
the word of the well-formed instruction it decodes to, so that no bit of a word is dropped (R46 to R54, R70). -/
def Obligations.EncodingRoundTrip : Prop :=
  (∀ (i : Instr) (w : Slot), i.wf = true → encode i = some w → decode w = .ok i)
  ∧ (∀ (w : Slot) (i : Instr), decode w = .ok i → i.wf = true ∧ encode i = some w)

/-- Every step keeps the invariant, from every state that has it: so does every instruction and every event by itself. -/
def Obligations.StepKeepsCoherent : Prop :=
  (∀ s t : State, Coherent s → step s = .next t → Coherent t) ∧ (∀ (i : Instr) (s t : State), Coherent s → exec i s = .next t → Coherent t)

/-- The state after reset has the invariant; nothing runs in it: no warp, no task, no launch, every partition absent, and the device not booted
(R434, R460). That partitions are absent before the boot's phases (log 3) and that memory lists nothing (log 2) are the model's choices. -/
def Obligations.ResetCoherent : Prop :=
  Coherent State.reset ∧ State.reset.warps = [] ∧ State.reset.tasks = [] ∧ State.reset.launches = [] ∧ State.reset.mem = []
    ∧ State.reset.dev.booted = false ∧ ∀ p ∈ State.reset.parts, p.state = .absent

/-- Taking a trap, discarding (R465, R466, R468, R473): the class is that of the cause (R464, R467), and halting while CTXCTL.VALID is 0 (R476,
R477); a cause of a handler task is HANDLER_FAULT, halting, with the original cause in DETAIL (R471). The warp stands at its chunk start with the record's words; the record names cause, class,
level, PCs, lanes, identity, address, details and WALL (the mask of cancelled tags and the slot are not part of this statement); the partition's queue of records has the warp, and its halt line is up where the
class is halting. A warp that has trapped takes no second trap. -/
def Obligations.TrapTaken : Prop := ∀ (s : State) (w : Warp) (f : Frag) (p : Part) (own : List Nat) (t0 : TrapReq), s.warp? w.id = some w →
  (w.mode ≠ .run → s.run (takeTrap w.id f.id own t0 s) = s)
  ∧ (w.mode = .run → w.frag? f.id = some f → s.part? w.part = some p → w.level < 4 → w.part < 8 → t0.sub < 256 →
    f.pid < 256 → w.launch < 512 → w.warpid < 16 → w.place < 64 → w.core < 256 → t0.realm < 65536 →
    let u := s.run (takeTrap w.id f.id own t0 s)
    let t : TrapReq := if w.hnd then { t0 with cause := .handlerFault, d17 := BitVec.ofNat 32 t0.cause.code } else t0
    let cls := if p.ctxctl.getLsbD 0 then t.cls else 1
    ∃ (v : Warp) (ws : List Word), u.warp? w.id = some v ∧ v.mode = .trapping ws ∧ ws.length = 32 ∧ v.chunk = Chunk.fresh
      ∧ v.regs = w.chunk.start.getD w.regs
      ∧ wfield ws 0 26 6 = t.cause.code ∧ wfield ws 0 24 2 = cls ∧ wfield ws 0 23 1 = (if t.ppc.isSome then 1 else 0)
      ∧ wfield ws 0 22 1 = (if t.eng then 1 else 0) ∧ wfield ws 0 20 2 = w.level ∧ wfield ws 0 19 1 = (if w.hnd then 1 else 0) ∧ wfield ws 0 8 11 = 0
      ∧ wfield ws 0 0 8 = t.sub ∧ wfield ws 1 16 16 = w.path.toNat ∧ wfield ws 1 3 13 = 0 ∧ wfield ws 1 0 3 = w.part
      ∧ wpair ws 2 = (if w.chunk.start.isSome then w.chunk.rpc else f.pc) ∧ wpair ws 4 = t.fpc.getD f.pc ∧ wpair ws 6 = t.ppc.getD 0
      ∧ wordAt ws 8 = t.lanes.getD f.mask ∧ wordAt ws 9 = f.mask ∧ wfield ws 10 0 8 = f.pid ∧ wordAt ws 11 = w.taskid
      ∧ wfield ws 12 29 3 = 0 ∧ wfield ws 12 20 9 = (if w.hnd then 0 else w.launch) ∧ wfield ws 12 16 4 = w.warpid ∧ wfield ws 12 14 2 = 0 ∧ wfield ws 12 8 6 = w.place
      ∧ wfield ws 12 0 8 = w.core ∧ wordAt ws 13 = w.spawnix ∧ wpair ws 14 = t.addr ∧ wfield ws 16 16 16 = t.realm ∧ wfield ws 16 0 16 = 0
      ∧ wordAt ws 17 = t.d17 ∧ wordAt ws 18 = t.d18 ∧ wordAt ws 19 = t.d19 ∧ wpair ws 20 = s.dev.wall
      ∧ ws.drop 24 = List.replicate 8 0
      ∧ u.part? w.part = some { p with trapQueue := p.trapQueue ++ [w.id], haltLine := p.haltLine || cls == 1 }
      ∧ u.mem = s.mem ∧ u.order.pos = s.order.pos ∧ ∀ k, k ≠ w.id → u.warp? k = s.warp? k)

/-- A chunk's stores become visible together (R230): when a chunk at the root that holds only stores takes its position, every byte of memory it stored
to holds the value it stored last, and every other byte holds what it held. The one exception is a trap handler's page-table entry for a fault
of a shoot, which goes to that shoot and not to the root (R332). -/
def Obligations.StoresBecomeVisible : Prop := ∀ (s : State) (w : Warp), s.warp? w.id = some w → positionReady s w = true →
  drainTrap w = none → positionTrap s w.drain = none → effective s w.part w.path = 0 → w.chunk.atoms = [] → w.chunk.after = [] →
  ∃ t, exec (.chunkPosition w.id) s = .next t ∧ ∀ a, a < memLimit →
    ((∀ ea path, missedEntry s w = some (ea, path) → effective s w.part path = 0 ∨ a < ea ∨ ea + 32 ≤ a) →
      rootByte t a = ((w.chunk.bytes.find? (fun x => x.1.space == .mem && x.1.addr == a)).map (·.2)).getD (rootByte s a))
    ∧ (∀ ea path, missedEntry s w = some (ea, path) → effective s w.part path ≠ 0 → ea ≤ a → a < ea + 32 → rootByte t a = rootByte s a)
end

