-- ==== Sys2Proof/Laws/Cells.lean ====
section
/-! SUPPORT. Reading after writing in the sparse stores, and the canonical form of memory. -/

namespace Sys2Proof.Machine

theorem cellGet_insert_same {w : Nat} (m : Sparse w) (k : Nat) (v : BitVec w) (h : ∀ c ∈ m, c.1 ≠ k) :
    cellGet (cellInsert m k v) k = v := by
  induction m with
  | nil => simp [cellInsert, cellGet]
  | cons c m ih =>
    obtain ⟨j, x⟩ := c
    have hj : j ≠ k := h (j, x) (by simp)
    simp only [cellInsert]
    split
    · simp [cellGet]
    · simp [cellGet, hj, ih (fun c hc => h c (by simp [hc]))]

theorem cellGet_insert_ne {w : Nat} (m : Sparse w) (k j : Nat) (v : BitVec w) (h : j ≠ k) :
    cellGet (cellInsert m k v) j = cellGet m j := by
  induction m with
  | nil => simp [cellInsert, cellGet, Ne.symm h]
  | cons c m ih =>
    obtain ⟨i, x⟩ := c
    simp only [cellInsert]
    split
    · simp [cellGet, Ne.symm h]
    · simp [cellGet, ih]

theorem cellGet_filter_same {w : Nat} (m : Sparse w) (k : Nat) : cellGet (m.filter (fun c => c.1 != k)) k = 0 := by
  induction m with
  | nil => rfl
  | cons c m ih =>
    obtain ⟨j, x⟩ := c
    by_cases h : j = k
    · simp [h, ih]
    · simp [h, cellGet, ih]

theorem cellGet_filter_ne {w : Nat} (m : Sparse w) (k j : Nat) (h : j ≠ k) :
    cellGet (m.filter (fun c => c.1 != k)) j = cellGet m j := by
  induction m with
  | nil => rfl
  | cons c m ih =>
    obtain ⟨i, x⟩ := c
    by_cases hi : i = k
    · subst hi; simp [ih, cellGet, Ne.symm h]
    · by_cases hj : i = j <;> simp [hi, hj, cellGet, ih, h]

/-- A store reads back. -/
@[simp] theorem cellGet_set_same {w : Nat} (m : Sparse w) (k : Nat) (v : BitVec w) : cellGet (cellSet m k v) k = v := by
  unfold cellSet
  split
  · rename_i h; rw [cellGet_filter_same, h]
  · exact cellGet_insert_same _ _ _ (by simp)

/-- A store leaves every other key alone. -/
theorem cellGet_set_ne {w : Nat} (m : Sparse w) (k j : Nat) (v : BitVec w) (h : j ≠ k) :
    cellGet (cellSet m k v) j = cellGet m j := by
  unfold cellSet
  split
  · exact cellGet_filter_ne _ _ _ h
  · rw [cellGet_insert_ne _ _ _ _ h, cellGet_filter_ne _ _ _ h]

/-- Both cases at once. -/
theorem cellGet_set {w : Nat} (m : Sparse w) (k j : Nat) (v : BitVec w) :
    cellGet (cellSet m k v) j = if j = k then v else cellGet m j := by
  split
  · rename_i h; subst h; exact cellGet_set_same _ _ _
  · rename_i h; exact cellGet_set_ne _ _ _ _ h

theorem cellsFrom_mono {w : Nat} {m : Sparse w} {lo hi : Nat} (h : cellsFrom hi m = true) (hl : lo ≤ hi) :
    cellsFrom lo m = true := by
  cases m with
  | nil => rfl
  | cons c m =>
    simp only [cellsFrom, Bool.and_eq_true, decide_eq_true_eq] at *
    exact ⟨⟨by omega, h.1.2⟩, h.2⟩

theorem cellsFrom_filter {w : Nat} (m : Sparse w) (k lo : Nat) (h : cellsFrom lo m = true) :
    cellsFrom lo (m.filter (fun c => c.1 != k)) = true := by
  induction m generalizing lo with
  | nil => rfl
  | cons c m ih =>
    simp only [cellsFrom, Bool.and_eq_true, decide_eq_true_eq] at h
    by_cases hk : c.1 = k
    · simp only [hk, bne_self_eq_false, Bool.false_eq_true, not_false_eq_true, List.filter_cons_of_neg]
      exact cellsFrom_mono (ih _ h.2) (by omega)
    · simp only [ne_eq, hk, not_false_eq_true, bne_iff_ne, List.filter_cons_of_pos, cellsFrom, Bool.and_eq_true, decide_eq_true_eq]
      exact ⟨h.1, ih _ h.2⟩

theorem cellsFrom_insert {w : Nat} (m : Sparse w) (k lo : Nat) (v : BitVec w) (h : cellsFrom lo m = true) (hk : lo ≤ k)
    (hv : v ≠ 0) (hn : ∀ c ∈ m, c.1 ≠ k) : cellsFrom lo (cellInsert m k v) = true := by
  induction m generalizing lo with
  | nil => simpa [cellInsert, cellsFrom, hk] using hv
  | cons c m ih =>
    obtain ⟨j, x⟩ := c
    simp only [cellsFrom, Bool.and_eq_true, decide_eq_true_eq] at h
    have hj : j ≠ k := hn (j, x) (by simp)
    simp only [cellInsert]
    split
    · simp only [cellsFrom, Bool.and_eq_true, decide_eq_true_eq]
      exact ⟨⟨hk, hv⟩, ⟨by omega, h.1.2⟩, h.2⟩
    · simp only [cellsFrom, Bool.and_eq_true, decide_eq_true_eq]
      exact ⟨h.1, ih _ h.2 (by omega) (fun c hc => hn c (by simp [hc]))⟩

/-- A store keeps keys rising and zeros unlisted. -/
theorem cellsFrom_set {w : Nat} (m : Sparse w) (k : Nat) (v : BitVec w) (h : cellsFrom 0 m = true) :
    cellsFrom 0 (cellSet m k v) = true := by
  unfold cellSet
  split
  · exact cellsFrom_filter _ _ _ h
  · exact cellsFrom_insert _ _ _ _ (cellsFrom_filter _ _ _ h) (Nat.zero_le _) (by assumption) (by simp)

theorem mem_cellInsert {w : Nat} {m : Sparse w} {k : Nat} {v : BitVec w} {c : Nat × BitVec w} (h : c ∈ cellInsert m k v) :
    c = (k, v) ∨ c ∈ m := by
  induction m with
  | nil => simpa [cellInsert] using h
  | cons d m ih =>
    simp only [cellInsert] at h
    split at h
    · simpa using h
    · rcases List.mem_cons.mp h with h | h
      · simp [h]
      · rcases ih h with h | h <;> simp [h]

theorem mem_cellSet {w : Nat} {m : Sparse w} {k : Nat} {v : BitVec w} {c : Nat × BitVec w} (h : c ∈ cellSet m k v) :
    c = (k, v) ∨ c ∈ m := by
  unfold cellSet at h
  split at h
  · exact .inr (List.mem_of_mem_filter h)
  · rcases mem_cellInsert h with h | h
    · exact .inl h
    · exact .inr (List.mem_of_mem_filter h)

/-- A byte write keeps the canonical form of memory. -/
theorem memPut_wf (m : Memory) (a : Nat) (v : Byte) (h : Memory.wf m = true) : Memory.wf (memPut m a v) = true := by
  unfold memPut
  split
  · rename_i ha
    simp only [Memory.wf, Bool.and_eq_true, List.all_eq_true, decide_eq_true_eq] at *
    refine ⟨cellsFrom_set m a v h.1, fun c hc => ?_⟩
    rcases mem_cellSet hc with rfl | hc
    · exact ha
    · exact h.2 c hc
  · exact h

theorem memPuts_wf (cells : List Host.Cell) (m : Memory) (h : Memory.wf m = true) :
    Memory.wf (cells.foldl (fun m c => memPut m c.1 c.2) m) = true := by
  induction cells generalizing m with
  | nil => exact h
  | cons c cs ih => exact ih _ (memPut_wf m c.1 c.2 h)

/-- What a byte write leaves at an address. -/
theorem cellGet_memPut (m : Memory) (a j : Nat) (v : Byte) :
    cellGet (memPut m a v) j = if a < memLimit ∧ j = a then v else cellGet m j := by
  unfold memPut
  split
  · rename_i h; rw [cellGet_set]; simp [h]
  · rename_i h; simp [h]

end Sys2Proof.Machine
end

