-- ==== Sys2Proof/Laws/State.lean ====
section
/-! SUPPORT. What each primitive update leaves in each component of the state, and how scripts run. -/

namespace Sys2Proof.Machine

@[simp] theorem run_nil (s : State) : s.run [] = s := rfl
@[simp] theorem run_cons (s : State) (u : Upd) (us : List Upd) : s.run (u :: us) = (u.apply s).run us := rfl
@[simp] theorem run_append (s : State) (us vs : List Upd) : s.run (us ++ vs) = (s.run us).run vs := by
  simp [State.run, List.foldl_append]

theorem inOrder_nil (s : State) : inOrder [] s = [] := rfl
theorem inOrder_cons (f : State → List Upd) (fs : List (State → List Upd)) (s : State) :
    inOrder (f :: fs) s = f s ++ inOrder fs (s.run (f s)) := rfl
@[simp] theorem run_andThen (f g : State → List Upd) (s : State) : s.run (andThen f g s) = (s.run (f s)).run (g (s.run (f s))) := by
  simp [andThen, inOrder]

@[simp] theorem bytes_mem (s : State) (x : List Host.Cell) : (Upd.apply s (.bytes x)).mem = x.foldl (fun m c => memPut m c.1 c.2) s.mem := rfl
@[simp] theorem bytes_dev (s : State) (x : List Host.Cell) : (Upd.apply s (.bytes x)).dev = s.dev := rfl
@[simp] theorem bytes_parts (s : State) (x : List Host.Cell) : (Upd.apply s (.bytes x)).parts = s.parts := rfl
@[simp] theorem bytes_launches (s : State) (x : List Host.Cell) : (Upd.apply s (.bytes x)).launches = s.launches := rfl
@[simp] theorem bytes_tasks (s : State) (x : List Host.Cell) : (Upd.apply s (.bytes x)).tasks = s.tasks := rfl
@[simp] theorem bytes_warps (s : State) (x : List Host.Cell) : (Upd.apply s (.bytes x)).warps = s.warps := rfl
@[simp] theorem bytes_order (s : State) (x : List Host.Cell) : (Upd.apply s (.bytes x)).order = s.order := rfl
@[simp] theorem bytes_xl (s : State) (x : List Host.Cell) : (Upd.apply s (.bytes x)).xl = s.xl := rfl
@[simp] theorem bytes_mat (s : State) (x : List Host.Cell) : (Upd.apply s (.bytes x)).mat = s.mat := rfl
@[simp] theorem bytes_eng (s : State) (x : List Host.Cell) : (Upd.apply s (.bytes x)).eng = s.eng := rfl
@[simp] theorem bytes_net (s : State) (x : List Host.Cell) : (Upd.apply s (.bytes x)).net = s.net := rfl
@[simp] theorem bytes_queues (s : State) (x : List Host.Cell) : (Upd.apply s (.bytes x)).queues = s.queues := rfl
@[simp] theorem bytes_model (s : State) (x : List Host.Cell) : (Upd.apply s (.bytes x)).model = s.model := rfl
@[simp] theorem bytes_cur (s : State) (x : List Host.Cell) : (Upd.apply s (.bytes x)).cur = s.cur := rfl

@[simp] theorem dev_mem (s : State) (x : Device) : (Upd.apply s (.dev x)).mem = s.mem := rfl
@[simp] theorem dev_dev (s : State) (x : Device) : (Upd.apply s (.dev x)).dev = x := rfl
@[simp] theorem dev_parts (s : State) (x : Device) : (Upd.apply s (.dev x)).parts = s.parts := rfl
@[simp] theorem dev_launches (s : State) (x : Device) : (Upd.apply s (.dev x)).launches = s.launches := rfl
@[simp] theorem dev_tasks (s : State) (x : Device) : (Upd.apply s (.dev x)).tasks = s.tasks := rfl
@[simp] theorem dev_warps (s : State) (x : Device) : (Upd.apply s (.dev x)).warps = s.warps := rfl
@[simp] theorem dev_order (s : State) (x : Device) : (Upd.apply s (.dev x)).order = s.order := rfl
@[simp] theorem dev_xl (s : State) (x : Device) : (Upd.apply s (.dev x)).xl = s.xl := rfl
@[simp] theorem dev_mat (s : State) (x : Device) : (Upd.apply s (.dev x)).mat = s.mat := rfl
@[simp] theorem dev_eng (s : State) (x : Device) : (Upd.apply s (.dev x)).eng = s.eng := rfl
@[simp] theorem dev_net (s : State) (x : Device) : (Upd.apply s (.dev x)).net = s.net := rfl
@[simp] theorem dev_queues (s : State) (x : Device) : (Upd.apply s (.dev x)).queues = s.queues := rfl
@[simp] theorem dev_model (s : State) (x : Device) : (Upd.apply s (.dev x)).model = s.model := rfl
@[simp] theorem dev_cur (s : State) (x : Device) : (Upd.apply s (.dev x)).cur = s.cur := rfl

@[simp] theorem part_mem (s : State) (x : Part) : (Upd.apply s (.part x)).mem = s.mem := rfl
@[simp] theorem part_dev (s : State) (x : Part) : (Upd.apply s (.part x)).dev = s.dev := rfl
@[simp] theorem part_parts (s : State) (x : Part) : (Upd.apply s (.part x)).parts = s.parts.map (fun q => if q.num = x.num then x else q) := rfl
@[simp] theorem part_launches (s : State) (x : Part) : (Upd.apply s (.part x)).launches = s.launches := rfl
@[simp] theorem part_tasks (s : State) (x : Part) : (Upd.apply s (.part x)).tasks = s.tasks := rfl
@[simp] theorem part_warps (s : State) (x : Part) : (Upd.apply s (.part x)).warps = s.warps := rfl
@[simp] theorem part_order (s : State) (x : Part) : (Upd.apply s (.part x)).order = s.order := rfl
@[simp] theorem part_xl (s : State) (x : Part) : (Upd.apply s (.part x)).xl = s.xl := rfl
@[simp] theorem part_mat (s : State) (x : Part) : (Upd.apply s (.part x)).mat = s.mat := rfl
@[simp] theorem part_eng (s : State) (x : Part) : (Upd.apply s (.part x)).eng = s.eng := rfl
@[simp] theorem part_net (s : State) (x : Part) : (Upd.apply s (.part x)).net = s.net := rfl
@[simp] theorem part_queues (s : State) (x : Part) : (Upd.apply s (.part x)).queues = s.queues := rfl
@[simp] theorem part_model (s : State) (x : Part) : (Upd.apply s (.part x)).model = s.model := rfl
@[simp] theorem part_cur (s : State) (x : Part) : (Upd.apply s (.part x)).cur = s.cur := rfl

@[simp] theorem launch_mem (s : State) (x : Launch) : (Upd.apply s (.launch x)).mem = s.mem := rfl
@[simp] theorem launch_dev (s : State) (x : Launch) : (Upd.apply s (.launch x)).dev = s.dev := rfl
@[simp] theorem launch_parts (s : State) (x : Launch) : (Upd.apply s (.launch x)).parts = s.parts := rfl
@[simp] theorem launch_launches (s : State) (x : Launch) : (Upd.apply s (.launch x)).launches = upsert (fun k => k.part == x.part && k.num == x.num) x s.launches := rfl
@[simp] theorem launch_tasks (s : State) (x : Launch) : (Upd.apply s (.launch x)).tasks = s.tasks := rfl
@[simp] theorem launch_warps (s : State) (x : Launch) : (Upd.apply s (.launch x)).warps = s.warps := rfl
@[simp] theorem launch_order (s : State) (x : Launch) : (Upd.apply s (.launch x)).order = s.order := rfl
@[simp] theorem launch_xl (s : State) (x : Launch) : (Upd.apply s (.launch x)).xl = s.xl := rfl
@[simp] theorem launch_mat (s : State) (x : Launch) : (Upd.apply s (.launch x)).mat = s.mat := rfl
@[simp] theorem launch_eng (s : State) (x : Launch) : (Upd.apply s (.launch x)).eng = s.eng := rfl
@[simp] theorem launch_net (s : State) (x : Launch) : (Upd.apply s (.launch x)).net = s.net := rfl
@[simp] theorem launch_queues (s : State) (x : Launch) : (Upd.apply s (.launch x)).queues = s.queues := rfl
@[simp] theorem launch_model (s : State) (x : Launch) : (Upd.apply s (.launch x)).model = s.model := rfl
@[simp] theorem launch_cur (s : State) (x : Launch) : (Upd.apply s (.launch x)).cur = s.cur := rfl

@[simp] theorem dropLaunch_mem (s : State) (p n : Nat) : (Upd.apply s (.dropLaunch p n)).mem = s.mem := rfl
@[simp] theorem dropLaunch_dev (s : State) (p n : Nat) : (Upd.apply s (.dropLaunch p n)).dev = s.dev := rfl
@[simp] theorem dropLaunch_parts (s : State) (p n : Nat) : (Upd.apply s (.dropLaunch p n)).parts = s.parts := rfl
@[simp] theorem dropLaunch_launches (s : State) (p n : Nat) : (Upd.apply s (.dropLaunch p n)).launches = s.launches.filter (fun k => !(k.part == p && k.num == n)) := rfl
@[simp] theorem dropLaunch_tasks (s : State) (p n : Nat) : (Upd.apply s (.dropLaunch p n)).tasks = s.tasks := rfl
@[simp] theorem dropLaunch_warps (s : State) (p n : Nat) : (Upd.apply s (.dropLaunch p n)).warps = s.warps := rfl
@[simp] theorem dropLaunch_order (s : State) (p n : Nat) : (Upd.apply s (.dropLaunch p n)).order = s.order := rfl
@[simp] theorem dropLaunch_xl (s : State) (p n : Nat) : (Upd.apply s (.dropLaunch p n)).xl = s.xl := rfl
@[simp] theorem dropLaunch_mat (s : State) (p n : Nat) : (Upd.apply s (.dropLaunch p n)).mat = s.mat := rfl
@[simp] theorem dropLaunch_eng (s : State) (p n : Nat) : (Upd.apply s (.dropLaunch p n)).eng = s.eng := rfl
@[simp] theorem dropLaunch_net (s : State) (p n : Nat) : (Upd.apply s (.dropLaunch p n)).net = s.net := rfl
@[simp] theorem dropLaunch_queues (s : State) (p n : Nat) : (Upd.apply s (.dropLaunch p n)).queues = s.queues := rfl
@[simp] theorem dropLaunch_model (s : State) (p n : Nat) : (Upd.apply s (.dropLaunch p n)).model = s.model := rfl
@[simp] theorem dropLaunch_cur (s : State) (p n : Nat) : (Upd.apply s (.dropLaunch p n)).cur = s.cur := rfl

@[simp] theorem task_mem (s : State) (x : Task) : (Upd.apply s (.task x)).mem = s.mem := rfl
@[simp] theorem task_dev (s : State) (x : Task) : (Upd.apply s (.task x)).dev = s.dev := rfl
@[simp] theorem task_parts (s : State) (x : Task) : (Upd.apply s (.task x)).parts = s.parts := rfl
@[simp] theorem task_launches (s : State) (x : Task) : (Upd.apply s (.task x)).launches = s.launches := rfl
@[simp] theorem task_tasks (s : State) (x : Task) : (Upd.apply s (.task x)).tasks = upsert (fun k => k.id == x.id) x s.tasks := rfl
@[simp] theorem task_warps (s : State) (x : Task) : (Upd.apply s (.task x)).warps = s.warps := rfl
@[simp] theorem task_order (s : State) (x : Task) : (Upd.apply s (.task x)).order = s.order := rfl
@[simp] theorem task_xl (s : State) (x : Task) : (Upd.apply s (.task x)).xl = s.xl := rfl
@[simp] theorem task_mat (s : State) (x : Task) : (Upd.apply s (.task x)).mat = s.mat := rfl
@[simp] theorem task_eng (s : State) (x : Task) : (Upd.apply s (.task x)).eng = s.eng := rfl
@[simp] theorem task_net (s : State) (x : Task) : (Upd.apply s (.task x)).net = s.net := rfl
@[simp] theorem task_queues (s : State) (x : Task) : (Upd.apply s (.task x)).queues = s.queues := rfl
@[simp] theorem task_model (s : State) (x : Task) : (Upd.apply s (.task x)).model = s.model := rfl
@[simp] theorem task_cur (s : State) (x : Task) : (Upd.apply s (.task x)).cur = s.cur := rfl

@[simp] theorem dropTask_mem (s : State) (x : Nat) : (Upd.apply s (.dropTask x)).mem = s.mem := rfl
@[simp] theorem dropTask_dev (s : State) (x : Nat) : (Upd.apply s (.dropTask x)).dev = s.dev := rfl
@[simp] theorem dropTask_parts (s : State) (x : Nat) : (Upd.apply s (.dropTask x)).parts = s.parts := rfl
@[simp] theorem dropTask_launches (s : State) (x : Nat) : (Upd.apply s (.dropTask x)).launches = s.launches := rfl
@[simp] theorem dropTask_tasks (s : State) (x : Nat) : (Upd.apply s (.dropTask x)).tasks = s.tasks.filter (fun k => k.id != x) := rfl
@[simp] theorem dropTask_warps (s : State) (x : Nat) : (Upd.apply s (.dropTask x)).warps = s.warps := rfl
@[simp] theorem dropTask_order (s : State) (x : Nat) : (Upd.apply s (.dropTask x)).order = s.order := rfl
@[simp] theorem dropTask_xl (s : State) (x : Nat) : (Upd.apply s (.dropTask x)).xl = s.xl := rfl
@[simp] theorem dropTask_mat (s : State) (x : Nat) : (Upd.apply s (.dropTask x)).mat = s.mat := rfl
@[simp] theorem dropTask_eng (s : State) (x : Nat) : (Upd.apply s (.dropTask x)).eng = s.eng := rfl
@[simp] theorem dropTask_net (s : State) (x : Nat) : (Upd.apply s (.dropTask x)).net = s.net := rfl
@[simp] theorem dropTask_queues (s : State) (x : Nat) : (Upd.apply s (.dropTask x)).queues = s.queues := rfl
@[simp] theorem dropTask_model (s : State) (x : Nat) : (Upd.apply s (.dropTask x)).model = s.model := rfl
@[simp] theorem dropTask_cur (s : State) (x : Nat) : (Upd.apply s (.dropTask x)).cur = s.cur := rfl

@[simp] theorem warp_mem (s : State) (x : Warp) : (Upd.apply s (.warp x)).mem = s.mem := rfl
@[simp] theorem warp_dev (s : State) (x : Warp) : (Upd.apply s (.warp x)).dev = s.dev := rfl
@[simp] theorem warp_parts (s : State) (x : Warp) : (Upd.apply s (.warp x)).parts = s.parts := rfl
@[simp] theorem warp_launches (s : State) (x : Warp) : (Upd.apply s (.warp x)).launches = s.launches := rfl
@[simp] theorem warp_tasks (s : State) (x : Warp) : (Upd.apply s (.warp x)).tasks = s.tasks := rfl
@[simp] theorem warp_warps (s : State) (x : Warp) : (Upd.apply s (.warp x)).warps = upsert (fun k => k.id == x.id) x s.warps := rfl
@[simp] theorem warp_order (s : State) (x : Warp) : (Upd.apply s (.warp x)).order = s.order := rfl
@[simp] theorem warp_xl (s : State) (x : Warp) : (Upd.apply s (.warp x)).xl = s.xl := rfl
@[simp] theorem warp_mat (s : State) (x : Warp) : (Upd.apply s (.warp x)).mat = s.mat := rfl
@[simp] theorem warp_eng (s : State) (x : Warp) : (Upd.apply s (.warp x)).eng = s.eng := rfl
@[simp] theorem warp_net (s : State) (x : Warp) : (Upd.apply s (.warp x)).net = s.net := rfl
@[simp] theorem warp_queues (s : State) (x : Warp) : (Upd.apply s (.warp x)).queues = s.queues := rfl
@[simp] theorem warp_model (s : State) (x : Warp) : (Upd.apply s (.warp x)).model = s.model := rfl
@[simp] theorem warp_cur (s : State) (x : Warp) : (Upd.apply s (.warp x)).cur = s.cur := rfl

@[simp] theorem dropWarp_mem (s : State) (x : Nat) : (Upd.apply s (.dropWarp x)).mem = s.mem := rfl
@[simp] theorem dropWarp_dev (s : State) (x : Nat) : (Upd.apply s (.dropWarp x)).dev = s.dev := rfl
@[simp] theorem dropWarp_parts (s : State) (x : Nat) : (Upd.apply s (.dropWarp x)).parts = s.parts := rfl
@[simp] theorem dropWarp_launches (s : State) (x : Nat) : (Upd.apply s (.dropWarp x)).launches = s.launches := rfl
@[simp] theorem dropWarp_tasks (s : State) (x : Nat) : (Upd.apply s (.dropWarp x)).tasks = s.tasks := rfl
@[simp] theorem dropWarp_warps (s : State) (x : Nat) : (Upd.apply s (.dropWarp x)).warps = s.warps.filter (fun k => k.id != x) := rfl
@[simp] theorem dropWarp_order (s : State) (x : Nat) : (Upd.apply s (.dropWarp x)).order = s.order := rfl
@[simp] theorem dropWarp_xl (s : State) (x : Nat) : (Upd.apply s (.dropWarp x)).xl = s.xl := rfl
@[simp] theorem dropWarp_mat (s : State) (x : Nat) : (Upd.apply s (.dropWarp x)).mat = s.mat := rfl
@[simp] theorem dropWarp_eng (s : State) (x : Nat) : (Upd.apply s (.dropWarp x)).eng = s.eng := rfl
@[simp] theorem dropWarp_net (s : State) (x : Nat) : (Upd.apply s (.dropWarp x)).net = s.net := rfl
@[simp] theorem dropWarp_queues (s : State) (x : Nat) : (Upd.apply s (.dropWarp x)).queues = s.queues := rfl
@[simp] theorem dropWarp_model (s : State) (x : Nat) : (Upd.apply s (.dropWarp x)).model = s.model := rfl
@[simp] theorem dropWarp_cur (s : State) (x : Nat) : (Upd.apply s (.dropWarp x)).cur = s.cur := rfl

@[simp] theorem order_mem (s : State) (x : Ordering_) : (Upd.apply s (.order x)).mem = s.mem := rfl
@[simp] theorem order_dev (s : State) (x : Ordering_) : (Upd.apply s (.order x)).dev = s.dev := rfl
@[simp] theorem order_parts (s : State) (x : Ordering_) : (Upd.apply s (.order x)).parts = s.parts := rfl
@[simp] theorem order_launches (s : State) (x : Ordering_) : (Upd.apply s (.order x)).launches = s.launches := rfl
@[simp] theorem order_tasks (s : State) (x : Ordering_) : (Upd.apply s (.order x)).tasks = s.tasks := rfl
@[simp] theorem order_warps (s : State) (x : Ordering_) : (Upd.apply s (.order x)).warps = s.warps := rfl
@[simp] theorem order_order (s : State) (x : Ordering_) : (Upd.apply s (.order x)).order = x := rfl
@[simp] theorem order_xl (s : State) (x : Ordering_) : (Upd.apply s (.order x)).xl = s.xl := rfl
@[simp] theorem order_mat (s : State) (x : Ordering_) : (Upd.apply s (.order x)).mat = s.mat := rfl
@[simp] theorem order_eng (s : State) (x : Ordering_) : (Upd.apply s (.order x)).eng = s.eng := rfl
@[simp] theorem order_net (s : State) (x : Ordering_) : (Upd.apply s (.order x)).net = s.net := rfl
@[simp] theorem order_queues (s : State) (x : Ordering_) : (Upd.apply s (.order x)).queues = s.queues := rfl
@[simp] theorem order_model (s : State) (x : Ordering_) : (Upd.apply s (.order x)).model = s.model := rfl
@[simp] theorem order_cur (s : State) (x : Ordering_) : (Upd.apply s (.order x)).cur = s.cur := rfl

@[simp] theorem xl_mem (s : State) (x : Translation) : (Upd.apply s (.xl x)).mem = s.mem := rfl
@[simp] theorem xl_dev (s : State) (x : Translation) : (Upd.apply s (.xl x)).dev = s.dev := rfl
@[simp] theorem xl_parts (s : State) (x : Translation) : (Upd.apply s (.xl x)).parts = s.parts := rfl
@[simp] theorem xl_launches (s : State) (x : Translation) : (Upd.apply s (.xl x)).launches = s.launches := rfl
@[simp] theorem xl_tasks (s : State) (x : Translation) : (Upd.apply s (.xl x)).tasks = s.tasks := rfl
@[simp] theorem xl_warps (s : State) (x : Translation) : (Upd.apply s (.xl x)).warps = s.warps := rfl
@[simp] theorem xl_order (s : State) (x : Translation) : (Upd.apply s (.xl x)).order = s.order := rfl
@[simp] theorem xl_xl (s : State) (x : Translation) : (Upd.apply s (.xl x)).xl = x := rfl
@[simp] theorem xl_mat (s : State) (x : Translation) : (Upd.apply s (.xl x)).mat = s.mat := rfl
@[simp] theorem xl_eng (s : State) (x : Translation) : (Upd.apply s (.xl x)).eng = s.eng := rfl
@[simp] theorem xl_net (s : State) (x : Translation) : (Upd.apply s (.xl x)).net = s.net := rfl
@[simp] theorem xl_queues (s : State) (x : Translation) : (Upd.apply s (.xl x)).queues = s.queues := rfl
@[simp] theorem xl_model (s : State) (x : Translation) : (Upd.apply s (.xl x)).model = s.model := rfl
@[simp] theorem xl_cur (s : State) (x : Translation) : (Upd.apply s (.xl x)).cur = s.cur := rfl

@[simp] theorem mat_mem (s : State) (x : Matrix) : (Upd.apply s (.mat x)).mem = s.mem := rfl
@[simp] theorem mat_dev (s : State) (x : Matrix) : (Upd.apply s (.mat x)).dev = s.dev := rfl
@[simp] theorem mat_parts (s : State) (x : Matrix) : (Upd.apply s (.mat x)).parts = s.parts := rfl
@[simp] theorem mat_launches (s : State) (x : Matrix) : (Upd.apply s (.mat x)).launches = s.launches := rfl
@[simp] theorem mat_tasks (s : State) (x : Matrix) : (Upd.apply s (.mat x)).tasks = s.tasks := rfl
@[simp] theorem mat_warps (s : State) (x : Matrix) : (Upd.apply s (.mat x)).warps = s.warps := rfl
@[simp] theorem mat_order (s : State) (x : Matrix) : (Upd.apply s (.mat x)).order = s.order := rfl
@[simp] theorem mat_xl (s : State) (x : Matrix) : (Upd.apply s (.mat x)).xl = s.xl := rfl
@[simp] theorem mat_mat (s : State) (x : Matrix) : (Upd.apply s (.mat x)).mat = x := rfl
@[simp] theorem mat_eng (s : State) (x : Matrix) : (Upd.apply s (.mat x)).eng = s.eng := rfl
@[simp] theorem mat_net (s : State) (x : Matrix) : (Upd.apply s (.mat x)).net = s.net := rfl
@[simp] theorem mat_queues (s : State) (x : Matrix) : (Upd.apply s (.mat x)).queues = s.queues := rfl
@[simp] theorem mat_model (s : State) (x : Matrix) : (Upd.apply s (.mat x)).model = s.model := rfl
@[simp] theorem mat_cur (s : State) (x : Matrix) : (Upd.apply s (.mat x)).cur = s.cur := rfl

@[simp] theorem eng_mem (s : State) (x : Engines) : (Upd.apply s (.eng x)).mem = s.mem := rfl
@[simp] theorem eng_dev (s : State) (x : Engines) : (Upd.apply s (.eng x)).dev = s.dev := rfl
@[simp] theorem eng_parts (s : State) (x : Engines) : (Upd.apply s (.eng x)).parts = s.parts := rfl
@[simp] theorem eng_launches (s : State) (x : Engines) : (Upd.apply s (.eng x)).launches = s.launches := rfl
@[simp] theorem eng_tasks (s : State) (x : Engines) : (Upd.apply s (.eng x)).tasks = s.tasks := rfl
@[simp] theorem eng_warps (s : State) (x : Engines) : (Upd.apply s (.eng x)).warps = s.warps := rfl
@[simp] theorem eng_order (s : State) (x : Engines) : (Upd.apply s (.eng x)).order = s.order := rfl
@[simp] theorem eng_xl (s : State) (x : Engines) : (Upd.apply s (.eng x)).xl = s.xl := rfl
@[simp] theorem eng_mat (s : State) (x : Engines) : (Upd.apply s (.eng x)).mat = s.mat := rfl
@[simp] theorem eng_eng (s : State) (x : Engines) : (Upd.apply s (.eng x)).eng = x := rfl
@[simp] theorem eng_net (s : State) (x : Engines) : (Upd.apply s (.eng x)).net = s.net := rfl
@[simp] theorem eng_queues (s : State) (x : Engines) : (Upd.apply s (.eng x)).queues = s.queues := rfl
@[simp] theorem eng_model (s : State) (x : Engines) : (Upd.apply s (.eng x)).model = s.model := rfl
@[simp] theorem eng_cur (s : State) (x : Engines) : (Upd.apply s (.eng x)).cur = s.cur := rfl

@[simp] theorem net_mem (s : State) (x : Net) : (Upd.apply s (.net x)).mem = s.mem := rfl
@[simp] theorem net_dev (s : State) (x : Net) : (Upd.apply s (.net x)).dev = s.dev := rfl
@[simp] theorem net_parts (s : State) (x : Net) : (Upd.apply s (.net x)).parts = s.parts := rfl
@[simp] theorem net_launches (s : State) (x : Net) : (Upd.apply s (.net x)).launches = s.launches := rfl
@[simp] theorem net_tasks (s : State) (x : Net) : (Upd.apply s (.net x)).tasks = s.tasks := rfl
@[simp] theorem net_warps (s : State) (x : Net) : (Upd.apply s (.net x)).warps = s.warps := rfl
@[simp] theorem net_order (s : State) (x : Net) : (Upd.apply s (.net x)).order = s.order := rfl
@[simp] theorem net_xl (s : State) (x : Net) : (Upd.apply s (.net x)).xl = s.xl := rfl
@[simp] theorem net_mat (s : State) (x : Net) : (Upd.apply s (.net x)).mat = s.mat := rfl
@[simp] theorem net_eng (s : State) (x : Net) : (Upd.apply s (.net x)).eng = s.eng := rfl
@[simp] theorem net_net (s : State) (x : Net) : (Upd.apply s (.net x)).net = x := rfl
@[simp] theorem net_queues (s : State) (x : Net) : (Upd.apply s (.net x)).queues = s.queues := rfl
@[simp] theorem net_model (s : State) (x : Net) : (Upd.apply s (.net x)).model = s.model := rfl
@[simp] theorem net_cur (s : State) (x : Net) : (Upd.apply s (.net x)).cur = s.cur := rfl

@[simp] theorem queues_mem (s : State) (x : Queues) : (Upd.apply s (.queues x)).mem = s.mem := rfl
@[simp] theorem queues_dev (s : State) (x : Queues) : (Upd.apply s (.queues x)).dev = s.dev := rfl
@[simp] theorem queues_parts (s : State) (x : Queues) : (Upd.apply s (.queues x)).parts = s.parts := rfl
@[simp] theorem queues_launches (s : State) (x : Queues) : (Upd.apply s (.queues x)).launches = s.launches := rfl
@[simp] theorem queues_tasks (s : State) (x : Queues) : (Upd.apply s (.queues x)).tasks = s.tasks := rfl
@[simp] theorem queues_warps (s : State) (x : Queues) : (Upd.apply s (.queues x)).warps = s.warps := rfl
@[simp] theorem queues_order (s : State) (x : Queues) : (Upd.apply s (.queues x)).order = s.order := rfl
@[simp] theorem queues_xl (s : State) (x : Queues) : (Upd.apply s (.queues x)).xl = s.xl := rfl
@[simp] theorem queues_mat (s : State) (x : Queues) : (Upd.apply s (.queues x)).mat = s.mat := rfl
@[simp] theorem queues_eng (s : State) (x : Queues) : (Upd.apply s (.queues x)).eng = s.eng := rfl
@[simp] theorem queues_net (s : State) (x : Queues) : (Upd.apply s (.queues x)).net = s.net := rfl
@[simp] theorem queues_queues (s : State) (x : Queues) : (Upd.apply s (.queues x)).queues = x := rfl
@[simp] theorem queues_model (s : State) (x : Queues) : (Upd.apply s (.queues x)).model = s.model := rfl
@[simp] theorem queues_cur (s : State) (x : Queues) : (Upd.apply s (.queues x)).cur = s.cur := rfl

@[simp] theorem model_mem (s : State) (x : Model) : (Upd.apply s (.model x)).mem = s.mem := rfl
@[simp] theorem model_dev (s : State) (x : Model) : (Upd.apply s (.model x)).dev = s.dev := rfl
@[simp] theorem model_parts (s : State) (x : Model) : (Upd.apply s (.model x)).parts = s.parts := rfl
@[simp] theorem model_launches (s : State) (x : Model) : (Upd.apply s (.model x)).launches = s.launches := rfl
@[simp] theorem model_tasks (s : State) (x : Model) : (Upd.apply s (.model x)).tasks = s.tasks := rfl
@[simp] theorem model_warps (s : State) (x : Model) : (Upd.apply s (.model x)).warps = s.warps := rfl
@[simp] theorem model_order (s : State) (x : Model) : (Upd.apply s (.model x)).order = s.order := rfl
@[simp] theorem model_xl (s : State) (x : Model) : (Upd.apply s (.model x)).xl = s.xl := rfl
@[simp] theorem model_mat (s : State) (x : Model) : (Upd.apply s (.model x)).mat = s.mat := rfl
@[simp] theorem model_eng (s : State) (x : Model) : (Upd.apply s (.model x)).eng = s.eng := rfl
@[simp] theorem model_net (s : State) (x : Model) : (Upd.apply s (.model x)).net = s.net := rfl
@[simp] theorem model_queues (s : State) (x : Model) : (Upd.apply s (.model x)).queues = s.queues := rfl
@[simp] theorem model_model (s : State) (x : Model) : (Upd.apply s (.model x)).model = x := rfl
@[simp] theorem model_cur (s : State) (x : Model) : (Upd.apply s (.model x)).cur = s.cur := rfl

@[simp] theorem cur_mem (s : State) (x : Option (Nat × Nat)) : (Upd.apply s (.cur x)).mem = s.mem := rfl
@[simp] theorem cur_dev (s : State) (x : Option (Nat × Nat)) : (Upd.apply s (.cur x)).dev = s.dev := rfl
@[simp] theorem cur_parts (s : State) (x : Option (Nat × Nat)) : (Upd.apply s (.cur x)).parts = s.parts := rfl
@[simp] theorem cur_launches (s : State) (x : Option (Nat × Nat)) : (Upd.apply s (.cur x)).launches = s.launches := rfl
@[simp] theorem cur_tasks (s : State) (x : Option (Nat × Nat)) : (Upd.apply s (.cur x)).tasks = s.tasks := rfl
@[simp] theorem cur_warps (s : State) (x : Option (Nat × Nat)) : (Upd.apply s (.cur x)).warps = s.warps := rfl
@[simp] theorem cur_order (s : State) (x : Option (Nat × Nat)) : (Upd.apply s (.cur x)).order = s.order := rfl
@[simp] theorem cur_xl (s : State) (x : Option (Nat × Nat)) : (Upd.apply s (.cur x)).xl = s.xl := rfl
@[simp] theorem cur_mat (s : State) (x : Option (Nat × Nat)) : (Upd.apply s (.cur x)).mat = s.mat := rfl
@[simp] theorem cur_eng (s : State) (x : Option (Nat × Nat)) : (Upd.apply s (.cur x)).eng = s.eng := rfl
@[simp] theorem cur_net (s : State) (x : Option (Nat × Nat)) : (Upd.apply s (.cur x)).net = s.net := rfl
@[simp] theorem cur_queues (s : State) (x : Option (Nat × Nat)) : (Upd.apply s (.cur x)).queues = s.queues := rfl
@[simp] theorem cur_model (s : State) (x : Option (Nat × Nat)) : (Upd.apply s (.cur x)).model = s.model := rfl
@[simp] theorem cur_cur (s : State) (x : Option (Nat × Nat)) : (Upd.apply s (.cur x)).cur = x := rfl

end Sys2Proof.Machine
end

