-- ==== Sys2Proof/Laws/Coherent.lean ====
section
/-! SUPPORT. Every update keeps a coherent state coherent. -/

namespace Sys2Proof.Machine

/-- Replacing by key keeps the keys without repeats. -/
theorem upsert_keys {α β : Type} (key : α → β) (same : α → Bool) (x : α) (l : List α) (hs : ∀ y, same y = true ↔ key y = key x)
    (h : (l.map key).Nodup) : ((upsert same x l).map key).Nodup := by
  have sub : ∀ m : List α, ∀ k ∈ (upsert same x m).map key, k = key x ∨ k ∈ m.map key := by
    intro m
    induction m with
    | nil => simp [upsert]
    | cons y m ih =>
      intro k hk
      unfold upsert at hk
      split at hk
      · simp only [List.map_cons, List.mem_cons] at hk ⊢; tauto
      · simp only [List.map_cons, List.mem_cons] at hk ⊢
        rcases hk with rfl | hk
        · simp
        · rcases ih k hk with h | h <;> simp [h]
  induction l with
  | nil => simp [upsert]
  | cons y l ih =>
    simp only [List.map_cons, List.nodup_cons] at h
    unfold upsert
    split
    · rename_i hy
      simp only [List.map_cons, List.nodup_cons]
      rw [← (hs y).mp hy]
      exact h
    · rename_i hy
      simp only [List.map_cons, List.nodup_cons]
      refine ⟨fun hk => ?_, ih h.2⟩
      rcases sub l _ hk with e | e
      · exact hy ((hs y).mpr e)
      · exact h.1 e

/-- One update keeps a coherent state coherent. -/
theorem coherent_apply (s : State) (u : Upd) (h : Coherent s) : Coherent (u.apply s) := by
  obtain ⟨hm, hp, hw, ht, hl⟩ := h
  cases u with
  | bytes c => exact ⟨memPuts_wf c s.mem hm, hp, hw, ht, hl⟩
  | part p =>
    refine ⟨hm, ?_, hw, ht, hl⟩
    rw [← hp]
    simp only [part_parts, List.map_map]
    refine List.map_congr_left fun q _ => ?_
    simp only [Function.comp_apply]
    split <;> simp_all
  | launch l =>
    exact ⟨hm, hp, hw, ht, upsert_keys (fun k => (k.part, k.num)) _ l _ (by simp) hl⟩
  | dropLaunch p n => exact ⟨hm, hp, hw, ht, hl.sublist (List.filter_sublist.map _)⟩
  | task t => exact ⟨hm, hp, hw, upsert_keys _ _ t _ (by simp) ht, hl⟩
  | dropTask i => exact ⟨hm, hp, hw, ht.sublist (List.filter_sublist.map _), hl⟩
  | warp w => exact ⟨hm, hp, upsert_keys _ _ w _ (by simp) hw, ht, hl⟩
  | dropWarp i => exact ⟨hm, hp, hw.sublist (List.filter_sublist.map _), ht, hl⟩
  | dev _ => exact ⟨hm, hp, hw, ht, hl⟩
  | order _ => exact ⟨hm, hp, hw, ht, hl⟩
  | xl _ => exact ⟨hm, hp, hw, ht, hl⟩
  | mat _ => exact ⟨hm, hp, hw, ht, hl⟩
  | eng _ => exact ⟨hm, hp, hw, ht, hl⟩
  | net _ => exact ⟨hm, hp, hw, ht, hl⟩
  | queues _ => exact ⟨hm, hp, hw, ht, hl⟩
  | model _ => exact ⟨hm, hp, hw, ht, hl⟩
  | cur _ => exact ⟨hm, hp, hw, ht, hl⟩

/-- A script keeps a coherent state coherent. -/
theorem coherent_run (us : List Upd) (s : State) (h : Coherent s) : Coherent (s.run us) := by
  induction us generalizing s with
  | nil => exact h
  | cons u us ih => exact ih _ (coherent_apply s u h)

end Sys2Proof.Machine
end

