-- ==== Sys2Proof/Laws/Decode.lean ====
section
/-! SUPPORT. The parts of a slot, put together and taken apart again: fields, bits of M, code tables, control fields. -/

namespace Sys2Proof

/-! ### Bits of joined and shifted values -/

theorem ext_high {n m : Nat} (x : BitVec n) (y : BitVec m) (lo w : Nat) (h : m ≤ lo) :
    (x ++ y).extractLsb' lo w = x.extractLsb' (lo - m) w := by
  apply BitVec.eq_of_getLsbD_eq; intro i hi
  simp only [BitVec.getLsbD_extractLsb', BitVec.getLsbD_append]
  have : ¬ lo + i < m := by omega
  simp only [this, if_false]; congr 2; omega

theorem ext_low {n m : Nat} (x : BitVec n) (y : BitVec m) (lo w : Nat) (h : lo + w ≤ m) :
    (x ++ y).extractLsb' lo w = y.extractLsb' lo w := by
  apply BitVec.eq_of_getLsbD_eq; intro i hi
  simp only [BitVec.getLsbD_extractLsb', BitVec.getLsbD_append]
  have : lo + i < m := by omega
  simp [this]

theorem ext_all {n : Nat} (x : BitVec n) : x.extractLsb' 0 n = x := by
  apply BitVec.eq_of_getLsbD_eq; intro i hi; simp [hi]

theorem rawOfSlot_slotOfRaw (r : RawSlot) : rawOfSlot (slotOfRaw r) = r := by
  rcases r with ⟨op, d, a, b, c, m, g, gs, st, al, wt, u, y, sw⟩
  simp only [rawOfSlot, slotOfRaw]
  congr 1 <;> (repeat (first | rw [ext_high (h := by omega)] | rw [ext_low (h := by omega)])) <;> exact ext_all _

theorem slot_op (r : RawSlot) : (slotOfRaw r).extractLsb' 70 10 = r.op := congrArg RawSlot.op (rawOfSlot_slotOfRaw r)

/-! fields in M -/

theorem ext_or {n : Nat} (x y : BitVec n) (lo w : Nat) : (x ||| y).extractLsb' lo w = x.extractLsb' lo w ||| y.extractLsb' lo w := by
  apply BitVec.eq_of_getLsbD_eq; intro i hi; simp [BitVec.getLsbD_extractLsb']; cases (decide (i < w)) <;> simp

theorem at_getLsbD (w : Nat) (v : BitVec w) (lo k : Nat) :
    (at_ w v lo).getLsbD k = (decide (k < 18) && decide (lo - 20 ≤ k) && v.getLsbD (k - (lo - 20))) := by
  simp only [at_, BitVec.getLsbD_shiftLeft, BitVec.getLsbD_setWidth]
  by_cases h1 : k < 18
  · have : k - (lo - 20) < 18 := by omega
    by_cases h2 : lo - 20 ≤ k
    · simp only [h1, h2, this, Nat.not_lt.mpr h2, decide_true, decide_false, Bool.not_false, Bool.true_and]
    · have h3 : k < lo - 20 := by omega
      simp only [h1, h2, h3, decide_true, decide_false, Bool.not_true, Bool.true_and, Bool.false_and]
  · simp only [h1, decide_false, Bool.false_and]

theorem at_inside (w' : Nat) (v : BitVec w') (lo' lo w : Nat) (h : lo' - 20 ≤ lo) (h2 : lo + w ≤ 18) :
    (at_ w' v lo').extractLsb' lo w = v.extractLsb' (lo - (lo' - 20)) w := by
  apply BitVec.eq_of_getLsbD_eq; intro i hi
  simp only [BitVec.getLsbD_extractLsb', at_getLsbD]
  have h3 : lo + i < 18 := by omega
  have h4 : lo' - 20 ≤ lo + i := by omega
  simp only [h3, h4, hi, decide_true, Bool.true_and]; congr 1; omega

theorem at_outside_lo (w' : Nat) (v : BitVec w') (lo' lo w : Nat) (h : lo + w ≤ lo' - 20) : (at_ w' v lo').extractLsb' lo w = 0 := by
  apply BitVec.eq_of_getLsbD_eq; intro i hi
  simp only [BitVec.getLsbD_extractLsb', at_getLsbD]
  have : ¬ lo' - 20 ≤ lo + i := by omega
  simp [this]

theorem at_outside_hi (w' : Nat) (v : BitVec w') (lo' lo w : Nat) (h : lo' - 20 + w' ≤ lo) : (at_ w' v lo').extractLsb' lo w = 0 := by
  apply BitVec.eq_of_getLsbD_eq; intro i hi
  simp only [BitVec.getLsbD_extractLsb', at_getLsbD]
  have : w' ≤ lo + i - (lo' - 20) := by omega
  simp [BitVec.getLsbD_of_ge v _ this]

theorem ext_past {n : Nat} (x : BitVec n) (lo w : Nat) (h : n ≤ lo) : x.extractLsb' lo w = 0 := by
  apply BitVec.eq_of_getLsbD_eq; intro i hi
  have : n ≤ lo + i := by omega
  simp [BitVec.getLsbD_of_ge x _ this]

theorem bitAt_bit (x : Bool) (lo k : Nat) (h : k < 18) (h2 : 20 ≤ lo) : (bitAt x lo).getLsbD k = (decide (k = lo - 20) && x) := by
  simp only [bitAt, at_getLsbD, h, decide_true, Bool.true_and]
  by_cases e : k = lo - 20
  · subst e; simp
  · by_cases l : lo - 20 ≤ k
    · have : k - (lo - 20) ≠ 0 := by omega
      simp [e, l, BitVec.getLsbD_ofBool, this]
    · simp [e, l]

theorem bitAt_inside (x : Bool) (lo' lo w : Nat) (h : lo' - 20 ≤ lo) (h2 : lo + w ≤ 18) :
    (bitAt x lo').extractLsb' lo w = (BitVec.ofBool x).extractLsb' (lo - (lo' - 20)) w := at_inside _ _ _ _ _ h h2

theorem bitAt_outside_lo (x : Bool) (lo' lo w : Nat) (h : lo + w ≤ lo' - 20) : (bitAt x lo').extractLsb' lo w = 0 := at_outside_lo _ _ _ _ _ h

/-! ### Control fields, registers and tables -/

theorem ctlOf_form (op : Nat) (c : Ctl) (d a b e : BitVec 8) (m : BitVec 18) : ctlOf (withCtl op c d a b e m) = some c := by
  rcases c with ⟨g, gs, st, al, wt, u, y, sw⟩
  cases gs <;> cases u <;> cases y <;> cases sw <;> rfl

theorem or_bit {n : Nat} (x y : BitVec n) (k : Nat) : (x ||| y).getLsbD k = (x.getLsbD k || y.getLsbD k) := by simp

/-- An instruction whose fields name it again decodes from its word. -/
theorem decode_encode (i : Instr) (r : RawSlot) (c : Ctl) (hw : i.wf = true) (he : encodeRaw i = some r) (hc : ctlOf r = some c)
    (ho : opAssigned r.op.toNat = true) (hd : candidate r c = some i) : (encode i).map decode = some (.ok i) := by
  have e : encode i = some (slotOfRaw r) := by simp [encode, he]
  simp [e, decode, slot_op, rawOfSlot_slotOfRaw, ho, hc, hd, hw]

theorem src_fld (s : Src) : srcOf (fldS s).n (fldS s).k = s := by cases s <;> rfl

theorem at_bit (w' : Nat) (v : BitVec w') (lo k : Nat) (h : k < 18) :
    (at_ w' v lo).getLsbD k = (decide (lo - 20 ≤ k) && v.getLsbD (k - (lo - 20))) := by simp only [at_getLsbD, h, decide_true, Bool.true_and]

/-! ### Code tables -/

@[simp] theorem gsOf_code (x : GuardSense) : gsOf (codeGs x) = some x := by cases x <;> rfl
@[simp] theorem rndOf_code (x : Rnd) : rndOf (codeRnd x) = some x := by cases x <;> rfl
@[simp] theorem ffmtOf_code (x : FFmt) : ffmtOf (codeFfmt x) = some x := by cases x <;> rfl
@[simp] theorem ifmtOf_code (x : IFmt) : ifmtOf (codeIfmt x) = some x := by cases x <;> rfl
@[simp] theorem pfmtOf_code (x : PFmt) : pfmtOf (codePfmt x) = some x := by cases x <;> rfl
@[simp] theorem ivfmtOf_code (x : IvFmt) : ivfmtOf (codeIvfmt x) = some x := by cases x <;> rfl
@[simp] theorem ccOf_code (x : CmpCode) : ccOf (codeCc x) = some x := by cases x <;> rfl
@[simp] theorem relOf_code (x : Rel) : relOf (codeRel x) = some x := by cases x <;> rfl
@[simp] theorem plopOf_code (x : PlopOp) : plopOf (codePlop x) = some x := by cases x <;> rfl
@[simp] theorem moviOf_code (x : MoviMode) : moviOf (codeMovi x) = some x := by cases x <;> rfl
@[simp] theorem efOf_code (x : EFmt) : efOf (codeEf x) = some x := by cases x <;> rfl
@[simp] theorem shflOf_code (x : ShflMode) : shflOf (codeShfl x) = some x := by cases x <;> rfl
@[simp] theorem voteOf_code (x : VoteMode) : voteOf (codeVote x) = some x := by cases x <;> rfl
@[simp] theorem redOf_code (x : RedOp) : redOf (codeRed x) = some x := by cases x <;> rfl
@[simp] theorem rngOf_code (x : RngOut) : rngOf (codeRng x) = some x := by cases x <;> rfl
@[simp] theorem matOf_code (x : MatFmt) : matOf (codeMat x) = some x := by cases x <;> rfl
@[simp] theorem accOf_code (x : AccMode) : accOf (codeAcc x) = some x := by cases x <;> rfl
@[simp] theorem acOf_code (x : AcFmt) : acOf (codeAc x) = some x := by cases x <;> rfl
@[simp] theorem tszOf_code (x : TileSz) : tszOf (codeTsz x) = some x := by cases x <;> rfl
@[simp] theorem szOf_code (x : Sz) : szOf (codeSz x) = some x := by cases x <;> rfl
@[simp] theorem scopeOf_code (x : Scope) : scopeOf (codeScope x) = some x := by cases x <;> rfl
@[simp] theorem atomOf_code (x : AtomOp) : atomOf (codeAtom x) = some x := by cases x <;> rfl
@[simp] theorem crOpOf_code (x : CrOp) : crOpOf (codeCrOp x) = some x := by cases x <;> rfl
@[simp] theorem crFmtOf_code (x : CrFmt) : crFmtOf (codeCrFmt x) = some x := by cases x <;> rfl
@[simp] theorem kvMaskOf_code (x : KvMaskOp) : kvMaskOf (codeKvMask x) = some x := by cases x <;> rfl
@[simp] theorem barcOf_code (x : BarcOp) : barcOf (codeBarc x) = some x := by cases x <;> rfl
@[simp] theorem barqOf_code (x : BarqOp) : barqOf (codeBarq x) = some x := by cases x <;> rfl
@[simp] theorem resumeOf_code (x : ResumeMode) : resumeOf (codeResume x) = some x := by cases x <;> rfl

/-! ### Fields that stand in several places -/

theorem pred_field (p : BitVec 3) : (p.setWidth 8).extractLsb' 0 3 = p := by
  apply BitVec.eq_of_getLsbD_eq; intro i hi
  have : i < 8 := by omega
  simp [hi, this]

theorem imm_join (x : Word) : (x.extractLsb' 24 8 ++ x.extractLsb' 16 8 ++ x.extractLsb' 0 16 : BitVec 32) = x := by
  apply BitVec.eq_of_getLsbD_eq; intro i hi
  simp only [BitVec.getLsbD_append, BitVec.getLsbD_extractLsb']
  split
  · simp; omega
  · split
    · have h : i - 16 < 8 := by assumption
      have : 16 + (i - 16) = i := by omega
      simp [h, this]
    · have h : i - 16 - 8 < 8 := by omega
      have : 24 + (i - 16 - 8) = i := by omega
      simp [h, this]

theorem off_join (x : BitVec 26) : (x.extractLsb' 18 8 ++ x.extractLsb' 0 18 : BitVec 26) = x := by
  apply BitVec.eq_of_getLsbD_eq; intro i hi
  simp only [BitVec.getLsbD_append, BitVec.getLsbD_extractLsb']
  split
  · simp; omega
  · have h : i - 18 < 8 := by omega
    have : 18 + (i - 18) = i := by omega
    simp [h, this]

theorem half_join (x : BitVec 16) : (x.extractLsb' 8 8 ++ x.extractLsb' 0 8 : BitVec 16) = x := by
  apply BitVec.eq_of_getLsbD_eq; intro i hi
  simp only [BitVec.getLsbD_append, BitVec.getLsbD_extractLsb']
  split
  · simp; omega
  · have h : i - 8 < 8 := by omega
    have : 8 + (i - 8) = i := by omega
    simp [h, this]

theorem cat_bit_high {n m : Nat} (x : BitVec n) (y : BitVec m) (k : Nat) (h : m ≤ k) : (x ++ y).getLsbD k = x.getLsbD (k - m) := by
  simp [BitVec.getLsbD_append, Nat.not_lt.mpr h]

theorem cat_bit_low {n m : Nat} (x : BitVec n) (y : BitVec m) (k : Nat) (h : k < m) : (x ++ y).getLsbD k = y.getLsbD k := by
  simp [BitVec.getLsbD_append, h]

theorem ofBool_bit (b : Bool) : (BitVec.ofBool b).getLsbD 0 = b := by simp

end Sys2Proof
end

