-- ==== Sys2Proof/Laws/Regs.lean ====
section
/-! SUPPORT. What register writes leave in a register file. -/

namespace Sys2Proof.Machine

/-! ### One write -/

theorem put_v_vreg (r : Regs) (n l : Nat) (x : Word) (p : Bool) (m k : Nat) (hl : l < 32) (hk : k < 32) :
    (r.put (.v n l x p)).vreg m k = if m = n ∧ k = l then x else r.vreg m k := by
  simp only [Regs.put, Regs.vreg, cellGet_set]
  by_cases h : m = n ∧ k = l
  · rw [if_pos h, if_pos (by omega)]
  · rw [if_neg h, if_neg (by omega)]

@[simp] theorem put_v_ureg (r : Regs) (n l : Nat) (x : Word) (p : Bool) (m : Nat) : (r.put (.v n l x p)).ureg m = r.ureg m := rfl
@[simp] theorem put_v_pred (r : Regs) (n l : Nat) (x : Word) (p : Bool) (m k : Nat) : (r.put (.v n l x p)).pred m k = r.pred m k := rfl

@[simp] theorem put_u_ureg (r : Regs) (n : Nat) (x : Word) (p : Bool) (m : Nat) :
    (r.put (.u n x p)).ureg m = if m = n then x else r.ureg m := by
  simp only [Regs.put, Regs.ureg, cellGet_set]

@[simp] theorem put_u_vreg (r : Regs) (n : Nat) (x : Word) (p : Bool) (m k : Nat) : (r.put (.u n x p)).vreg m k = r.vreg m k := rfl
@[simp] theorem put_u_pred (r : Regs) (n : Nat) (x : Word) (p : Bool) (m k : Nat) : (r.put (.u n x p)).pred m k = r.pred m k := rfl

theorem put_p_pred (r : Regs) (n l : Nat) (x : BitVec 2) (m k : Nat) (hl : l < 32) (hk : k < 32) :
    (r.put (.p n l x)).pred m k = if m = n ∧ k = l ∧ m ≠ 7 then x else r.pred m k := by
  unfold Regs.put
  by_cases h7 : n = 7
  · subst h7
    by_cases hm : m = 7 <;> simp [hm]
  · simp only [h7, if_false, Regs.pred]
    by_cases hm : m = 7
    · simp [hm]
    · simp only [hm, if_false, cellGet_set]
      by_cases h : m = n ∧ k = l
      · rw [if_pos (by omega), if_pos ⟨h.1, h.2, by omega⟩]
      · rw [if_neg (by omega), if_neg (by tauto)]

@[simp] theorem put_p_vreg (r : Regs) (n l : Nat) (x : BitVec 2) (m k : Nat) : (r.put (.p n l x)).vreg m k = r.vreg m k := by
  by_cases h : n = 7 <;> simp [Regs.put, h, Regs.vreg]
@[simp] theorem put_p_ureg (r : Regs) (n l : Nat) (x : BitVec 2) (m : Nat) : (r.put (.p n l x)).ureg m = r.ureg m := by
  by_cases h : n = 7 <;> simp [Regs.put, h, Regs.ureg]

/-! ### Writes that touch no matrix mask leave the special registers -/

/-- A register write that is no matrix mask write. -/
def RegWrite.plain (x : RegWrite) : Bool :=
  match x with
  | .v .. => true
  | .u .. => true
  | .p .. => true
  | .m .. => false

/-- Every field of a register file that plain writes leave. -/
theorem put_rest (r : Regs) (x : RegWrite) (h : x.plain = true) :
    (r.put x).mm = r.mm ∧ (r.put x).realm = r.realm ∧ (r.put x).fpstat = r.fpstat ∧ (r.put x).fpctl = r.fpctl
    ∧ (r.put x).role = r.role ∧ (r.put x).stream = r.stream ∧ (r.put x).draw = r.draw ∧ (r.put x).biscnt = r.biscnt
    ∧ (r.put x).spcnt = r.spcnt ∧ (r.put x).qbind = r.qbind ∧ (r.put x).frags = r.frags ∧ (r.put x).splits = r.splits
    ∧ (r.put x).tags = r.tags ∧ (r.put x).sib = r.sib := by
  cases x with
  | v => simp [Regs.put]
  | u => simp [Regs.put]
  | p n => by_cases h7 : n = 7 <;> simp [Regs.put, h7]
  | m => simp [RegWrite.plain] at h

@[simp] theorem putAll_nil (r : Regs) : r.putAll [] = r := rfl
@[simp] theorem putAll_cons (r : Regs) (x : RegWrite) (xs : List RegWrite) : r.putAll (x :: xs) = (r.put x).putAll xs := rfl
theorem putAll_append (r : Regs) (xs ys : List RegWrite) : r.putAll (xs ++ ys) = (r.putAll xs).putAll ys := by
  simp [Regs.putAll, List.foldl_append]

theorem putAll_rest (r : Regs) (xs : List RegWrite) (h : ∀ x ∈ xs, x.plain = true) :
    (r.putAll xs).mm = r.mm ∧ (r.putAll xs).realm = r.realm ∧ (r.putAll xs).fpstat = r.fpstat ∧ (r.putAll xs).fpctl = r.fpctl
    ∧ (r.putAll xs).role = r.role ∧ (r.putAll xs).stream = r.stream ∧ (r.putAll xs).draw = r.draw
    ∧ (r.putAll xs).biscnt = r.biscnt ∧ (r.putAll xs).spcnt = r.spcnt ∧ (r.putAll xs).qbind = r.qbind
    ∧ (r.putAll xs).frags = r.frags ∧ (r.putAll xs).splits = r.splits ∧ (r.putAll xs).tags = r.tags ∧ (r.putAll xs).sib = r.sib := by
  induction xs generalizing r with
  | nil => simp
  | cons x xs ih =>
    have h1 := put_rest r x (h x (by simp))
    have h2 := ih (r.put x) (fun y hy => h y (by simp [hy]))
    simp only [putAll_cons]
    exact ⟨h2.1.trans h1.1, h2.2.1.trans h1.2.1, h2.2.2.1.trans h1.2.2.1, h2.2.2.2.1.trans h1.2.2.2.1,
      h2.2.2.2.2.1.trans h1.2.2.2.2.1, h2.2.2.2.2.2.1.trans h1.2.2.2.2.2.1, h2.2.2.2.2.2.2.1.trans h1.2.2.2.2.2.2.1,
      h2.2.2.2.2.2.2.2.1.trans h1.2.2.2.2.2.2.2.1, h2.2.2.2.2.2.2.2.2.1.trans h1.2.2.2.2.2.2.2.2.1,
      h2.2.2.2.2.2.2.2.2.2.1.trans h1.2.2.2.2.2.2.2.2.2.1, h2.2.2.2.2.2.2.2.2.2.2.1.trans h1.2.2.2.2.2.2.2.2.2.2.1,
      h2.2.2.2.2.2.2.2.2.2.2.2.1.trans h1.2.2.2.2.2.2.2.2.2.2.2.1,
      h2.2.2.2.2.2.2.2.2.2.2.2.2.1.trans h1.2.2.2.2.2.2.2.2.2.2.2.2.1,
      h2.2.2.2.2.2.2.2.2.2.2.2.2.2.trans h1.2.2.2.2.2.2.2.2.2.2.2.2.2⟩

/-! ### Registers no write names keep their values -/

theorem putAll_vreg_ne (r : Regs) (xs : List RegWrite) (m k : Nat) (hk : k < 32)
    (h : ∀ x ∈ xs, ∀ n l val p, x = .v n l val p → l < 32 ∧ ¬(n = m ∧ l = k)) : (r.putAll xs).vreg m k = r.vreg m k := by
  induction xs generalizing r with
  | nil => rfl
  | cons x xs ih =>
    rw [putAll_cons, ih _ (fun y hy => h y (by simp [hy]))]
    cases x with
    | v n l val p =>
      have hx := h _ (by simp) n l val p rfl
      rw [put_v_vreg _ _ _ _ _ _ _ hx.1 hk, if_neg (by tauto)]
    | u => rfl
    | p => exact put_p_vreg ..
    | m => rfl

theorem putAll_ureg_ne (r : Regs) (xs : List RegWrite) (m : Nat)
    (h : ∀ x ∈ xs, ∀ n val p, x = .u n val p → n ≠ m) : (r.putAll xs).ureg m = r.ureg m := by
  induction xs generalizing r with
  | nil => rfl
  | cons x xs ih =>
    rw [putAll_cons, ih _ (fun y hy => h y (by simp [hy]))]
    cases x with
    | v => rfl
    | u n val p =>
      have hx := h _ (by simp) n val p rfl
      rw [put_u_ureg, if_neg (by tauto)]
    | p => exact put_p_ureg ..
    | m => rfl

theorem putAll_pred_ne (r : Regs) (xs : List RegWrite) (m k : Nat) (hk : k < 32)
    (h : ∀ x ∈ xs, ∀ n l val, x = .p n l val → l < 32 ∧ ¬(n = m ∧ l = k)) : (r.putAll xs).pred m k = r.pred m k := by
  induction xs generalizing r with
  | nil => rfl
  | cons x xs ih =>
    rw [putAll_cons, ih _ (fun y hy => h y (by simp [hy]))]
    cases x with
    | v => rfl
    | u => rfl
    | p n l val =>
      have hx := h _ (by simp) n l val rfl
      rw [put_p_pred _ _ _ _ _ _ hx.1 hk, if_neg (by tauto)]
    | m => rfl

/-! ### The last write of a register stands -/

theorem putAll_vreg_mem (r : Regs) (xs : List RegWrite) (m k : Nat) (val : Word) (hk : k < 32)
    (hx : ∃ p, RegWrite.v m k val p ∈ xs)
    (h : ∀ x ∈ xs, ∀ n l v p, x = .v n l v p → l < 32 ∧ (n = m → l = k → v = val)) : (r.putAll xs).vreg m k = val := by
  induction xs generalizing r with
  | nil => simp at hx
  | cons x xs ih =>
    rw [putAll_cons]
    by_cases hm : ∃ p, RegWrite.v m k val p ∈ xs
    · exact ih _ hm (fun y hy => h y (by simp [hy]))
    · obtain ⟨p, hp⟩ := hx
      rcases List.mem_cons.mp hp with rfl | hp
      · rw [putAll_vreg_ne _ _ _ _ hk, put_v_vreg _ _ _ _ _ _ _ hk hk, if_pos ⟨rfl, rfl⟩]
        intro y hy n l v q he
        have := h y (by simp [hy]) n l v q he
        refine ⟨this.1, fun hnl => hm ⟨q, ?_⟩⟩
        rw [← this.2 hnl.1 hnl.2, ← hnl.1, ← hnl.2, ← he]; exact hy
      · exact absurd ⟨p, hp⟩ hm

theorem putAll_pred_mem (r : Regs) (xs : List RegWrite) (m k : Nat) (val : BitVec 2) (hk : k < 32) (h7 : m ≠ 7)
    (hx : RegWrite.p m k val ∈ xs)
    (h : ∀ x ∈ xs, ∀ n l v, x = .p n l v → l < 32 ∧ (n = m → l = k → v = val)) : (r.putAll xs).pred m k = val := by
  induction xs generalizing r with
  | nil => simp at hx
  | cons x xs ih =>
    rw [putAll_cons]
    by_cases hm : RegWrite.p m k val ∈ xs
    · exact ih _ hm (fun y hy => h y (by simp [hy]))
    · rcases List.mem_cons.mp hx with rfl | hp
      · rw [putAll_pred_ne _ _ _ _ hk, put_p_pred _ _ _ _ _ _ hk hk, if_pos ⟨rfl, rfl, h7⟩]
        intro y hy n l v he
        have := h y (by simp [hy]) n l v he
        refine ⟨this.1, fun hnl => hm ?_⟩
        rw [← this.2 hnl.1 hnl.2, ← hnl.1, ← hnl.2, ← he]; exact hy
      · exact absurd hp hm

end Sys2Proof.Machine
end

