-- ==== Sys2Proof/Laws/Issue.lean ====
section
/-! SUPPORT. What an instruction that issues does, once for all register instructions: its results stand where Result.lands says. -/

namespace Sys2Proof.Machine

/-! ### Lanes -/

theorem lanesOf_lt {m : LaneMask} {l : Nat} (h : l ∈ lanesOf m) : l < 32 := by
  simp only [lanesOf, List.mem_filter, List.mem_range] at h; exact h.1

theorem execLanes_lt {c : Ctl} {r : Regs} {f : Frag} {l : Nat} (h : l ∈ execLanes c r f) : l < 32 := by
  simp only [execLanes, List.mem_filter, guardLanes] at h
  have := h.1
  split at this
  · exact lanesOf_lt (List.mem_of_mem_take this)
  · exact lanesOf_lt this

/-- What an open gate answers. -/
theorem gate_go {c : Ctl} {n : Need} {s : State} {w : Warp} {f : Frag} {g : Go} (h : gate c n s w f = .go g) :
    (∀ l ∈ g.lanes, l < 32) ∧ g.w.id = w.id ∧ mayIssue w f = true := by
  unfold gate at h
  split at h
  · cases h
  rename_i hm
  have hm' : mayIssue w f = true := by simpa using hm
  split at h
  · cases h
  split at h
  · cases h
  split at h
  · cases h
  dsimp only at h
  split at h
  · cases h
    refine ⟨by simp, ?_, hm'⟩
    dsimp only
    split <;> rfl
  split at h
  · cases h
  split at h
  · cases h
  · cases h
  · cases h
  split at h
  · cases h
    refine ⟨fun l hl => execLanes_lt hl, ?_, hm'⟩
    dsimp only
    split <;> split <;> rfl
  · cases h

/-! ### Results as register writes -/

/-- The register writes of a result. -/
def Result.writes (x : Result) : List RegWrite :=
  x.lanes.flatMap (fun l => (List.range x.k).map (fun j =>
    if x.uni then .u (x.d + j) (x.word l j) false else .v (x.d + j) l (x.word l j) false))
  ++ (match x.pred with
    | none => []
    | some p => x.plane.map (fun l => .p p l (bitsOfTri (x.tri l))))

/-- The lanes of a result exist. -/
def Result.inRange (x : Result) : Prop := (∀ l ∈ x.lanes, l < 32) ∧ (∀ l ∈ x.plane, l < 32)

theorem mem_writes {x : Result} {y : RegWrite} (h : y ∈ x.writes) :
    (∃ l ∈ x.lanes, ∃ j < x.k, y = if x.uni then .u (x.d + j) (x.word l j) false else .v (x.d + j) l (x.word l j) false)
    ∨ (∃ p, x.pred = some p ∧ ∃ l ∈ x.plane, y = .p p l (bitsOfTri (x.tri l))) := by
  simp only [Result.writes, List.mem_append, List.mem_flatMap, List.mem_map, List.mem_range] at h
  rcases h with ⟨l, hl, j, hj, rfl⟩ | h
  · exact .inl ⟨l, hl, j, hj, rfl⟩
  · split at h
    · simp at h
    · rename_i p hp
      simp only [List.mem_map] at h
      obtain ⟨l, hl, rfl⟩ := h
      exact .inr ⟨p, hp, l, hl, rfl⟩

theorem writes_plain (x : Result) : ∀ y ∈ x.writes, y.plain = true := by
  intro y hy
  rcases mem_writes hy with ⟨l, _, j, _, rfl⟩ | ⟨p, _, l, _, rfl⟩
  · split <;> rfl
  · rfl

/-- A register write that names no queue port, or any with z. -/
def RegWrite.held (z : Bool) (y : RegWrite) : Bool := match y with | .u n _ _ => decide (n < 56) || z | _ => true

theorem putAll_lastUniform (r : Regs) (xs ys : List RegWrite) (m : Nat) (val : Word) (p : Bool)
    (h : ∀ x ∈ ys, ∀ n v q, x = .u n v q → n ≠ m) : (r.putAll (xs ++ .u m val p :: ys)).ureg m = val := by
  rw [putAll_append, putAll_cons, putAll_ureg_ne _ _ _ h, put_u_ureg, if_pos rfl]

theorem getLast?_split {α : Type} {l : List α} {a : α} (h : l.getLast? = some a) : ∃ ys, l = ys ++ [a] := by
  rw [List.getLast?_eq_some_iff] at h; exact h

/-- The registers hold the result after its writes, those to queue ports left out or not. -/
theorem shows_filter (x : Result) (r : Regs) (hx : x.inRange) (z : Bool) :
    x.shows (r.putAll (x.writes.filter (RegWrite.held z))) := by
  refine ⟨fun hu l hl j hj => ?_, fun hu l hl j hj h56 => ?_, fun p hp l hl => ?_⟩
  · refine putAll_vreg_mem _ _ _ _ _ (hx.1 l hl) ⟨false, ?_⟩ ?_
    · simp only [List.mem_filter, RegWrite.held, and_true, Result.writes, List.mem_append, List.mem_flatMap, List.mem_map, List.mem_range]
      exact .inl ⟨l, hl, j, hj, by simp [hu]⟩
    · intro y hy n l' v p he
      rcases mem_writes (List.mem_of_mem_filter hy) with ⟨k, hk, i, hi, rfl⟩ | ⟨p', _, k, _, rfl⟩
      · rw [hu] at he
        simp only [Bool.false_eq_true, if_false, RegWrite.v.injEq] at he
        obtain ⟨rfl, rfl, rfl, rfl⟩ := he
        refine ⟨hx.1 _ hk, fun hn hl' => ?_⟩
        subst hl'
        congr 1; omega
      · simp at he
  · obtain ⟨ys, hys⟩ := getLast?_split hl
    have hsplit : x.writes = ys.flatMap (fun l => (List.range x.k).map (fun j =>
          if x.uni then RegWrite.u (x.d + j) (x.word l j) false else .v (x.d + j) l (x.word l j) false))
        ++ (List.range j).map (fun j => RegWrite.u (x.d + j) (x.word l j) false)
        ++ .u (x.d + j) (x.word l j) false :: ((List.range (x.k - j - 1)).map (fun i => RegWrite.u (x.d + (j + 1 + i)) (x.word l (j + 1 + i)) false)
        ++ (match x.pred with
            | none => []
            | some p => x.plane.map (fun l => .p p l (bitsOfTri (x.tri l))))) := by
      have hr : List.range x.k = List.range j ++ j :: (List.range (x.k - j - 1)).map (fun i => j + 1 + i) := by
        have : x.k = j + (1 + (x.k - j - 1)) := by omega
        conv_lhs => rw [this]
        rw [List.range_add, List.range_add]
        simp [List.map_map, Function.comp_def, Nat.add_assoc]
      simp only [Result.writes, hys, List.flatMap_append, List.flatMap_cons, List.flatMap_nil, List.append_nil, hu, if_true]
      rw [hr]
      simp [List.map_map, Function.comp_def]
    rw [hsplit, List.filter_append, List.filter_cons_of_pos (by simp [RegWrite.held, h56])]
    refine putAll_lastUniform _ _ _ _ _ _ ?_
    intro y hy n v q he
    have hy' := List.mem_of_mem_filter hy
    rw [List.mem_append] at hy'
    rcases hy' with hy' | hy'
    · simp only [List.mem_map, List.mem_range] at hy'
      obtain ⟨i, hi, rfl⟩ := hy'
      simp only [RegWrite.u.injEq] at he
      omega
    · split at hy'
      · simp at hy'
      · simp only [List.mem_map] at hy'
        obtain ⟨i, hi, rfl⟩ := hy'
        simp at he
  · by_cases h7 : p = 7
    · simp [Regs.pred, h7]
    · rw [if_neg h7]
      refine putAll_pred_mem _ _ _ _ _ (hx.2 l hl) h7 ?_ ?_
      · simp only [List.mem_filter, RegWrite.held, and_true, Result.writes, List.mem_append, hp, List.mem_map]
        exact .inr ⟨l, hl, rfl⟩
      · intro y hy n l' v he
        rcases mem_writes (List.mem_of_mem_filter hy) with ⟨k, hk, i, hi, rfl⟩ | ⟨p', hp', k, hk, rfl⟩
        · split at he <;> simp at he
        · simp only [RegWrite.p.injEq] at he
          obtain ⟨rfl, rfl, rfl⟩ := he
          exact ⟨hx.2 _ hk, fun _ hl' => by rw [hl']⟩

/-- The registers that are no destination keep their values. -/
theorem keeps_sub (x : Result) (r : Regs) (hx : x.inRange) (xs : List RegWrite) (hs : ∀ y ∈ xs, y ∈ x.writes) :
    x.keeps r (r.putAll xs) := by
  have hplain : ∀ y ∈ xs, y.plain = true := fun y hy => writes_plain x y (hs y hy)
  refine ⟨fun n l hl hn => ?_, fun n _ hn => ?_, fun p l hl hn => ?_, ?_⟩
  · refine putAll_vreg_ne _ _ _ _ hl (fun y hy m k v q he => ?_)
    rcases mem_writes (hs y hy) with ⟨i, hi, j, hj, rfl⟩ | ⟨p', _, i, _, rfl⟩
    · split at he
      · simp at he
      · rename_i hu
        simp only [RegWrite.v.injEq] at he
        obtain ⟨rfl, rfl, rfl, rfl⟩ := he
        refine ⟨hx.1 _ hi, fun hnl => hn ⟨by simpa using hu, ?_, by omega, by omega⟩⟩
        rw [← hnl.2]; exact hi
    · simp at he
  · refine putAll_ureg_ne _ _ _ (fun y hy m v q he => ?_)
    rcases mem_writes (hs y hy) with ⟨i, hi, j, hj, rfl⟩ | ⟨p', _, i, _, rfl⟩
    · split at he
      · rename_i hu
        simp only [RegWrite.u.injEq] at he
        obtain ⟨rfl, rfl, rfl⟩ := he
        exact fun hnl => hn ⟨hu, by omega, by omega⟩
      · simp at he
    · simp at he
  · refine putAll_pred_ne _ _ _ _ hl (fun y hy m k v he => ?_)
    rcases mem_writes (hs y hy) with ⟨i, hi, j, hj, rfl⟩ | ⟨p', hp', i, hi, rfl⟩
    · split at he <;> simp at he
    · simp only [RegWrite.p.injEq] at he
      obtain ⟨rfl, rfl, rfl⟩ := he
      refine ⟨hx.2 _ hi, fun hnl => hn ⟨by rw [hp', hnl.1], ?_⟩⟩
      rw [← hnl.2]; exact hi
  · have h := putAll_rest r xs hplain
    simp only [Regs.specials, h]

/-! ### Queue ports -/

theorem splitPushes_fst (w : Warp) (clk : Clock) (xs : List RegWrite) :
    (splitPushes w clk xs).1 = xs.filter (RegWrite.held false) := by
  induction xs with
  | nil => rfl
  | cons x xs ih =>
    have hc : splitPushes w clk (x :: xs) = (match x with
      | .u n val _ => if 56 ≤ n then
          (match boundQueue w (n - 56) with
           | none => splitPushes w clk xs
           | some q => ((splitPushes w clk xs).1, (q, val, clk) :: (splitPushes w clk xs).2))
          else (x :: (splitPushes w clk xs).1, (splitPushes w clk xs).2)
      | .v .. => (x :: (splitPushes w clk xs).1, (splitPushes w clk xs).2)
      | .p .. => (x :: (splitPushes w clk xs).1, (splitPushes w clk xs).2)
      | .m .. => (x :: (splitPushes w clk xs).1, (splitPushes w clk xs).2)) := rfl
    rw [hc]
    cases x with
    | u n val p =>
      by_cases h : 56 ≤ n
      · simp only [h, if_true]
        rw [List.filter_cons_of_neg (by simp [RegWrite.held]; omega), ← ih]
        split <;> rfl
      · simp only [h, if_false]
        rw [List.filter_cons_of_pos (by simp [RegWrite.held]; omega), ih]
    | v => rw [List.filter_cons_of_pos rfl, ← ih]
    | p => rw [List.filter_cons_of_pos rfl, ← ih]
    | m => rw [List.filter_cons_of_pos rfl, ← ih]

theorem splitPushes_snd (w : Warp) (clk : Clock) (xs : List RegWrite) :
    (splitPushes w clk xs).2 = xs.filterMap (fun y => match y with
      | .u n val _ => if 56 ≤ n then (boundQueue w (n - 56)).map (fun q => (q, val, clk)) else none
      | _ => none) := by
  induction xs with
  | nil => rfl
  | cons x xs ih =>
    have hc : splitPushes w clk (x :: xs) = (match x with
      | .u n val _ => if 56 ≤ n then
          (match boundQueue w (n - 56) with
           | none => splitPushes w clk xs
           | some q => ((splitPushes w clk xs).1, (q, val, clk) :: (splitPushes w clk xs).2))
          else (x :: (splitPushes w clk xs).1, (splitPushes w clk xs).2)
      | .v .. => (x :: (splitPushes w clk xs).1, (splitPushes w clk xs).2)
      | .p .. => (x :: (splitPushes w clk xs).1, (splitPushes w clk xs).2)
      | .m .. => (x :: (splitPushes w clk xs).1, (splitPushes w clk xs).2)) := rfl
    rw [hc]
    cases x with
    | u n val p =>
      by_cases h : 56 ≤ n
      · simp only [h, if_true, List.filterMap_cons]
        cases hb : boundQueue w (n - 56) <;> simp [ih]
      · simp only [h, if_false, List.filterMap_cons, ih]
    | v => simp [ih]
    | p => simp [ih]
    | m => simp [ih]

theorem writes_pushed (x : Result) (g : Go) : (splitPushes g.w g.f.clock x.writes).2 = x.pushed g := by
  rw [splitPushes_snd]
  simp only [Result.writes, List.filterMap_append, Result.pushed]
  have h2 : List.filterMap (fun y => match y with
      | RegWrite.u n val _ => if 56 ≤ n then (boundQueue g.w (n - 56)).map (fun q => (q, val, g.f.clock)) else none
      | _ => none) (match x.pred with
        | none => []
        | some p => x.plane.map (fun l => RegWrite.p p l (bitsOfTri (x.tri l)))) = [] := by
    cases x.pred with
    | none => rfl
    | some p => simp only [List.filterMap_map]; exact List.filterMap_eq_nil_iff.mpr (fun _ _ => rfl)
  rw [h2, List.append_nil, List.filterMap_flatMap]
  by_cases hu : x.uni
  · simp only [hu, if_true, List.filterMap_map, Function.comp_def]
  · simp only [hu, Bool.false_eq_true, if_false, List.filterMap_map, Function.comp_def]
    induction x.lanes with
    | nil => rfl
    | cons l ls ih => rw [List.flatMap_cons, ih]; simp

/-! ### Instructions whose effect is known -/

/-- The act does what the effect says, and raises nothing. -/
structure Gives (a : Act) (x : Effect) : Prop where
  trap : a.trap = none
  wait : a.wait = false
  endBefore : a.endBefore = false
  writes : a.writes = x.res.writes
  flags : a.allFlags = x.res.flags
  raises : a.raises = none
  awaits : a.awaits = x.awaits
  entry : a.entry = x.mark
  reads : a.reads = x.reads
  touches : a.touches = x.touches
  stores : a.stores = x.stores
  chunk : a.chunk = x.chunk
  stays : a.stays = x.stays
  ends : a.ends = x.ends
  after : a.after = x.after
  warp : a.warp = x.turn
  upds : a.upds = x.upds

theorem foldl_or_flags (xs : List (Nat × Flags)) (m : Flags) :
    xs.foldl (fun m x => m ||| x.2) m = m ||| xs.foldl (fun m x => m ||| x.2) 0 := by
  induction xs generalizing m with
  | nil => simp
  | cons x xs ih => simp only [List.foldl_cons]; rw [ih, ih (0 ||| x.2)]; simp [BitVec.or_assoc]

theorem trapping_or (c : Word) (a b : Flags) : trappingFlags c (a ||| b) = trappingFlags c a ||| trappingFlags c b := by
  ext i hi
  simp [trappingFlags, Bool.and_or_distrib_right]

theorem or_zero_left {w : Nat} {a b : BitVec w} (h : a ||| b = 0) : a = 0 := by
  ext i hi
  have := congrArg (fun v => v[i]) h
  simp only [BitVec.getElem_or] at this
  simp only [BitVec.ofNat_eq_ofNat, BitVec.getElem_zero, Bool.or_eq_false_iff] at this
  simpa using this.1

theorem trapping_mem {c : Word} {xs : List (Nat × Flags)} (h : trappingFlags c (xs.foldl (fun m x => m ||| x.2) 0) = 0) :
    ∀ x ∈ xs, trappingFlags c x.2 = 0 := by
  induction xs with
  | nil => simp
  | cons x xs ih =>
    simp only [List.foldl_cons] at h
    rw [foldl_or_flags, trapping_or, trapping_or] at h
    have h0 : trappingFlags c (0 : Flags) = 0 := by simp [trappingFlags]
    have hz : ∀ y : BitVec 5, 0 ||| y = y := fun y => by simp
    rw [h0, hz] at h
    have ha : trappingFlags c x.2 = 0 := or_zero_left h
    rw [ha, hz] at h
    intro y hy
    rcases List.mem_cons.mp hy with rfl | hy
    · exact ha
    · exact ih h y hy

theorem fpTrapReq_none {w : Warp} {a : Act} (h : trappingFlags w.regs.fpctl a.allFlags = 0) : fpTrapReq w a = none := by
  have : trappingLanes w a = [] := by
    simp only [trappingLanes, List.map_eq_nil_iff, List.filter_eq_nil_iff]
    intro x hx
    simp [trapping_mem h x hx]
  simp [fpTrapReq, this]

/-- The faces after a fragment has issued. -/
theorem passed_frags (frags : List Frag) (id : Nat) (st : Bool) (g : Frag → Frag)
    (hg : ∀ x : Frag, (g x).face = if st then x.face else { x with pc := nextPc x.pc }.face) :
    (frags.map (fun f => if f.id = id then g f else f)).map Frag.face
      = frags.map (fun x => if x.id = id ∧ st = false then { x with pc := nextPc x.pc }.face else x.face) := by
  rw [List.map_map]
  refine List.map_congr_left (fun x _ => ?_)
  simp only [Function.comp_apply]
  by_cases h : x.id = id <;> cases st <;> simp [h, hg]

theorem mapFrag_twice_face (frags : List Frag) (id : Nat) (st : Bool) (e g : Frag → Frag) (he : ∀ x : Frag, (e x).face = x.face)
    (hg : ∀ x : Frag, (g x).face = if st then x.face else { x with pc := nextPc x.pc }.face) :
    ((frags.map (fun f => if f.id = id then e f else f)).map (fun f => if f.id = id then g f else f)).map Frag.face
      = frags.map (fun x => if x.id = id ∧ st = false then { x with pc := nextPc x.pc }.face else x.face) := by
  rw [List.map_map, List.map_map]
  refine List.map_congr_left (fun x _ => ?_)
  simp only [Function.comp_apply]
  by_cases h : x.id = id
  · have h1 := he x
    simp only [Frag.face, Prod.mk.injEq] at h1
    have h2 := hg (e x)
    cases st <;> simp only [Frag.face, Prod.mk.injEq, if_true, Bool.false_eq_true, if_false] at h2 ⊢ <;> simp [h, h1, h2]
  · simp [h]

/-- A result stands in any register file with the same registers. -/
theorem shows_congr {x : Result} {r t : Regs} (h : x.shows r) (hv : t.v = r.v) (hu : t.u = r.u) (hp : t.p = r.p) : x.shows t := by
  simpa only [Result.shows, Regs.vreg, Regs.ureg, Regs.pred, hv, hu, hp] using h

theorem keeps_congr {x : Result} {q r t : Regs} (h : x.keeps q r) (hv : t.v = r.v) (hu : t.u = r.u) (hp : t.p = r.p)
    (hs : t.specials = r.specials) : x.keeps q t := by
  simpa only [Result.keeps, Regs.vreg, Regs.ureg, Regs.pred, hv, hu, hp, hs] using h

theorem putResults_fixed {c : Ctl} {n : Need} {now : Nat} {g : Go} {a : Act} {x : Effect} (w : Warp) (ha : Gives a x)
    (hne : g.lanes.isEmpty = false) (hlat : n.lat ≠ 0) : putResults c n now g a w =
      (let xs := splitPushes w g.f.clock x.res.writes
       let w1 := w.write xs.1
       { w1 with
         chunk := { w1.chunk with pushes := w1.chunk.pushes ++ xs.2 }
         regs := if xs.2.isEmpty then w1.regs else w1.regs.mapFrag g.f.id (Frag.nextEpoch w1.id)
         inflight := w1.inflight ++ [{ at_ := now + n.lat, vregs := vregsOf n.dsts, uregs := (uregsOf n.dsts).filter (fun r => r < 56),
                                       preds := n.pdsts.filter (fun p => p < 7), flags := x.res.flags }] }) := by
  simp [putResults, hlat, hne, ha.writes, ha.flags]

theorem putResults_plain {c : Ctl} {n : Need} {now : Nat} {g : Go} {a : Act} {x : Effect} (w : Warp) (ha : Gives a x)
    (hw : x.awaits ≠ .peer) (hlat : n.lat = 0) (hal : c.alloc = 0) : putResults c n now g a w =
      (let w1 := w.write x.res.writes
       { w1 with regs := { w1.regs with fpstat := fpstatOr w1.regs.fpstat x.res.flags } }) := by
  have h : (x.awaits == Await.peer) = false := by simpa using hw
  simp [putResults, hlat, hal, ha.writes, ha.flags, ha.awaits, h]

/-- The tag entry of a result. -/
def resultEntry (c : Ctl) (g : Go) (own : Bool) (x : Effect) : TagEntry :=
  { tag := c.alloc.toNat, seq := g.w.nextSeq, pc := g.f.pc, mask := maskOf g.lanes, returned := false, awaits := x.awaits,
    writes := x.res.writes, flags := x.res.flags, raises := none, own := own, dst := 0, duni := false, width := 0, lanes := [],
    stations := [], ext := 0, tiles := [], kv := [], since := 0 }

theorem putResults_tagged {c : Ctl} {n : Need} {now : Nat} {g : Go} {a : Act} {x : Effect} (w : Warp) (ha : Gives a x)
    (hne : g.lanes.isEmpty = false) (hfp : fpTrapReq g.w a = none) (hlat : n.lat = 0) (hal : c.alloc ≠ 0) :
    putResults c n now g a w = { w with regs := { w.regs with tags := w.regs.tags ++ [x.mark (resultEntry c g a.own x)] } } := by
  have hal' : ¬ c.alloc = 0#3 := hal
  simp [putResults, hlat, hal', ha.awaits, tagEntryOf, resultEntry, raisedTrap, hfp, ha.raises, ha.writes, ha.flags, ha.entry, hne]

theorem mem_nub {α : Type} [DecidableEq α] {l : List α} {a : α} (h : a ∈ l) : a ∈ nub l := by
  have key : ∀ (l acc : List α), (∀ b ∈ acc, b ∈ l.foldl (fun acc x => if acc.contains x then acc else acc ++ [x]) acc)
      ∧ (∀ b ∈ l, b ∈ l.foldl (fun acc x => if acc.contains x then acc else acc ++ [x]) acc) := by
    intro l
    induction l with
    | nil => simp
    | cons x l ih =>
      intro acc
      simp only [List.foldl_cons]
      have hacc := ih (if acc.contains x then acc else acc ++ [x])
      refine ⟨fun b hb => hacc.1 b ?_, fun b hb => ?_⟩
      · split <;> simp [hb]
      · rcases List.mem_cons.mp hb with rfl | hb
        · refine hacc.1 _ ?_
          split
          · rename_i hc; simpa using hc
          · simp
        · exact hacc.2 b hb
  exact (key l []).2 a h

/-- The chunk record of an instruction whose effect is known. -/
theorem recordChunk_of_gives {old w : Warp} {n : Need} {g : Go} {a : Act} {x : Effect} (ha : Gives a x) :
    ∃ k : Chunk, recordChunk old n g a w = x.chunk k ∧ k.bytes = x.stores.reverse ++ w.chunk.bytes
      ∧ k.after = w.chunk.after ++ x.after ∧ k.pushes = w.chunk.pushes
      ∧ (∀ p ∈ x.reads, p.word ∈ k.reads) ∧ (∀ p ∈ x.touches, p.word ∈ k.writes) ∧ (∀ b ∈ x.stores, b.1.word ∈ k.writes)
      ∧ (x.ends = true → k.phase = .ended) := by
  unfold recordChunk
  rw [ha.chunk]
  refine ⟨_, rfl, ?_, ?_, rfl, ?_, ?_, ?_, ?_⟩
  · rw [ha.stores]
  · rw [ha.after]
  · intro p hp
    rw [ha.reads]
    have : x.reads.isEmpty = false := by cases hx : x.reads <;> simp_all
    simp only [this]
    exact mem_nub (List.mem_append_right _ (List.mem_map.mpr ⟨p, hp, rfl⟩))
  · intro p hp
    rw [ha.touches, ha.stores]
    have : x.touches.isEmpty = false := by cases hx : x.touches <;> simp_all
    simp only [this, Bool.false_and]
    exact mem_nub (List.mem_append_right _ (List.mem_map.mpr ⟨p, List.mem_append_left _ hp, rfl⟩))
  · intro b hb
    rw [ha.touches, ha.stores]
    have : x.stores.isEmpty = false := by cases hx : x.stores <;> simp_all
    simp only [this, Bool.and_false]
    exact mem_nub (List.mem_append_right _ (List.mem_map.mpr ⟨b.1, List.mem_append_right _ (List.mem_map.mpr ⟨b, hb, rfl⟩), rfl⟩))
  · intro he
    have : a.ends = true := by rw [ha.ends]; exact he
    simp [endsAfter, this]

/-- The warp an instruction whose effect is known leaves. -/
theorem issued_of_gives {c : Ctl} {n : Need} {s : State} {old : Warp} {g : Go} {a : Act} {x : Effect}
    (ha : Gives a x) (hx : x.res.inRange) (hne : g.lanes.isEmpty = false) (hf : trappingFlags g.w.regs.fpctl x.res.flags = 0)
    (hw : n.lat = 0 → c.alloc = 0 → x.awaits ≠ .peer) (hp0 : n.lat = 0 → x.res.pushed g = []) :
    ∃ v, issued c n s old g a = x.turn v ∧ Passed g x v ∧ x.lands c n s.model.cycle g v := by
  have hpass : ∀ y : Frag, (passedSlot c s a y).face = if x.stays then y.face else { y with pc := nextPc y.pc }.face := fun y => by
    cases h : x.stays <;> simp [passedSlot, Frag.face, ha.stays, h]
  have hep : ∀ y : Frag, (Frag.nextEpoch g.w.id y).face = y.face := fun _ => rfl
  have hfp : fpTrapReq g.w a = none := fpTrapReq_none (by rw [ha.flags]; exact hf)
  have hrest := putAll_rest g.w.regs x.res.writes (writes_plain x.res)
  have hrest' := putAll_rest g.w.regs (x.res.writes.filter (RegWrite.held false))
    (fun y hy => writes_plain x.res y (List.mem_of_mem_filter hy))
  have hall : x.res.writes.filter (RegWrite.held true) = x.res.writes :=
    List.filter_eq_self.mpr (fun y _ => by cases y <;> simp [RegWrite.held])
  have hsh := shows_filter x.res g.w.regs hx false
  have hsh' := shows_filter x.res g.w.regs hx true
  rw [hall] at hsh'
  have hk := keeps_sub x.res g.w.regs hx (x.res.writes.filter (RegWrite.held false)) (fun y hy => List.mem_of_mem_filter hy)
  have hk' := keeps_sub x.res g.w.regs hx x.res.writes (fun y hy => hy)
  by_cases hlat : n.lat = 0
  · by_cases hal : c.alloc = 0
    · have hput := putResults_plain (c := c) (now := s.model.cycle) (g := g) g.w ha (hw hlat hal) hlat hal
      obtain ⟨k, hk1, hk2⟩ := recordChunk_of_gives (old := old) (n := n) (g := g)
        (w := { g.w.write x.res.writes with
          regs := { (g.w.write x.res.writes).regs with fpstat := fpstatOr (g.w.write x.res.writes).regs.fpstat x.res.flags } }) ha
      simp only [Effect.lands, hlat, hal, ne_eq, not_true_eq_false, if_false, if_true]
      simp only [issued, hput, ha.warp, hk1]
      refine ⟨_, rfl, ⟨rfl, ?_, ⟨k, rfl, hk2.1, hk2.2.1, ?_, hk2.2.2.2⟩, rfl, rfl⟩, shows_congr hsh' rfl rfl rfl,
        keeps_congr hk' rfl rfl rfl rfl, ?_, ?_, rfl⟩
      · simp only [Warp.write, Regs.mapFrag]
        rw [hrest.2.2.2.2.2.2.2.2.2.2.1]
        exact passed_frags _ _ _ _ hpass
      · rw [hp0 hlat, List.append_nil]; exact hk2.2.2.1
      · simp only [Warp.write, Regs.mapFrag, hrest.2.2.1]
      · simp only [Warp.write, Regs.mapFrag, hrest.2.2.2.2.2.2.2.2.2.2.2.2.1]
    · have hput := putResults_tagged (c := c) (now := s.model.cycle) (g := g) g.w ha hne hfp hlat hal
      obtain ⟨k, hk1, hk2⟩ := recordChunk_of_gives (old := old) (n := n) (g := g)
        (w := { g.w with regs := { g.w.regs with tags := g.w.regs.tags ++ [x.mark (resultEntry c g a.own x)] } }) ha
      simp only [Effect.lands, hlat, hal, ne_eq, not_true_eq_false, if_false]
      simp only [issued, hput, ha.warp, hk1]
      refine ⟨_, rfl, ⟨rfl, ?_, ⟨k, rfl, hk2.1, hk2.2.1, ?_, hk2.2.2.2⟩, rfl, rfl⟩, by trivial, by trivial, by trivial, by trivial,
        by trivial, by trivial, ⟨resultEntry c g a.own x, rfl, rfl, rfl, rfl, rfl, rfl, hsh', hk'⟩⟩
      · simp only [Regs.mapFrag]
        exact passed_frags _ _ _ _ hpass
      · rw [hp0 hlat, List.append_nil]; exact hk2.2.2.1
  · have hput := putResults_fixed (c := c) (now := s.model.cycle) (g := g) g.w ha hne hlat
    simp only [splitPushes_fst, writes_pushed] at hput
    simp only [Effect.lands, hlat, ne_eq, not_false_eq_true, if_true]
    obtain ⟨k, hk1, hk2⟩ := recordChunk_of_gives (old := old) (n := n) (g := g)
      (w := putResults c n s.model.cycle g a g.w) ha
    have hb : (putResults c n s.model.cycle g a g.w).chunk.bytes = g.w.chunk.bytes := by rw [hput]; rfl
    have haf : (putResults c n s.model.cycle g a g.w).chunk.after = g.w.chunk.after := by rw [hput]; rfl
    have hpu : (putResults c n s.model.cycle g a g.w).chunk.pushes = g.w.chunk.pushes ++ x.res.pushed g := by rw [hput]; rfl
    rw [hb, haf, hpu] at hk2
    simp only [issued, ha.warp, hk1]
    refine ⟨_, rfl, ?_⟩
    simp only [hput]
    by_cases hp : (x.res.pushed g).isEmpty = true
    · simp only [hp, if_true]
      refine ⟨⟨rfl, ?_, ⟨k, rfl, hk2⟩, rfl, rfl⟩, shows_congr hsh rfl rfl rfl, keeps_congr hk rfl rfl rfl rfl, ?_, ?_,
        ⟨_, _, _, _, _⟩, rfl, rfl, rfl⟩
      · simp only [Warp.write, Regs.mapFrag]
        rw [hrest'.2.2.2.2.2.2.2.2.2.2.1]
        exact passed_frags _ _ _ _ hpass
      · simp only [Warp.write, Regs.mapFrag, hrest'.2.2.1]
      · simp only [Warp.write, Regs.mapFrag, hrest'.2.2.2.2.2.2.2.2.2.2.2.2.1]
    · simp only [hp, Bool.false_eq_true, if_false]
      refine ⟨⟨rfl, ?_, ⟨k, rfl, hk2⟩, rfl, rfl⟩, shows_congr hsh rfl rfl rfl, keeps_congr hk rfl rfl rfl rfl, ?_, ?_,
        ⟨_, _, _, _, _⟩, rfl, rfl, rfl⟩
      · simp only [Warp.write, Regs.mapFrag]
        rw [hrest'.2.2.2.2.2.2.2.2.2.2.1]
        exact mapFrag_twice_face _ _ _ _ _ hep hpass
      · simp only [Warp.write, Regs.mapFrag, hrest'.2.2.1]
      · simp only [Warp.write, Regs.mapFrag, hrest'.2.2.2.2.2.2.2.2.2.2.2.2.1]

/-- What an instruction whose effect is known does. -/
theorem does_of_gives {i : Instr} {c : Ctl} {n : Need} {idle : Go → Act} {body : State → Go → Act} {ok : State → Go → Prop}
    {x : State → Go → Effect} (hi : ∀ s, exec i s = issueWith c n idle (body s) s)
    (hw : i.wf = true → ∀ s g, ok s g → n.lat = 0 → (c.alloc = 0 → (x s g).awaits ≠ .peer) ∧ (x s g).res.pushed g = [])
    (hr : i.wf = true → ∀ s g, (∀ l ∈ g.lanes, l < 32) → ok s g → Gives (body s g) (x s g) ∧ (x s g).res.inRange) : Does i c n ok x := by
  intro hwf s w f g hg hok hf
  have hgo := gate_go hg.go
  obtain ⟨ha, hx⟩ := hr hwf s g hgo.1 hok
  have hne : g.lanes.isEmpty = false := by simpa using hg.lanes
  have hroom : overLimit g.w.chunk (g.keys n) (body s g) = false := by
    have := hg.room
    simpa only [overLimit, ha.reads, ha.touches, ha.stores] using this
  have hfp : fpTrapReq g.w (body s g) = none := fpTrapReq_none (by rw [ha.flags]; exact hf)
  obtain ⟨v, hv, hv'⟩ := issued_of_gives (c := c) (n := n) (s := s) (old := w) ha hx hne hf
    (fun h => (hw hwf s g hok h).1) (fun h => (hw hwf s g hok h).2)
  refine ⟨v, ?_, hv'⟩
  rw [hi]
  simp only [issueWith, hg.cur, issueScript, hg.go, hne, Bool.false_eq_true, if_false, finish, ha.wait, ha.endBefore, hroom,
    Bool.or_self, ha.trap, raisedTrap, Option.map_none, hfp, ha.raises, Option.or_none, ite_self, ha.upds, andThen, inOrder, List.append_nil, hv, run_append]

/-! ### The common shapes -/

theorem orFlags_pairs (ls : List Nat) (f : Nat → Flags) :
    (ls.map (fun l => (l, f l))).foldl (fun m x => m ||| x.2) (0 : Flags) = orFlags ls f := by
  simp only [orFlags, List.foldl_map]

theorem not_port {n : BitVec 8} {k j : Nat} (h : uniDst n k = true) (hj : j < k) : n.toNat + j < 56 := by
  simp only [uniDst, Bool.and_eq_true, decide_eq_true_eq] at h
  omega

theorem pushed_nil {x : Result} {g : Go} (h : x.uni = true → ∀ j, j < x.k → x.d + j < 56) : x.pushed g = [] := by
  simp only [Result.pushed]
  split
  · rename_i hu
    refine List.flatMap_eq_nil_iff.mpr (fun l _ => List.filterMap_eq_nil_iff.mpr (fun j hj => ?_))
    have := h hu j (List.mem_range.mp hj)
    rw [if_neg (by omega)]
  · rfl

/-! ### No executing lane (R57), and FP_TRAP (R96) -/

/-- A gate that opens for no lane pops nothing. -/
theorem gate_idle {c : Ctl} {n : Need} {s : State} {w : Warp} {f : Frag} {g : Go} (h : gate c n s w f = .go g) (hl : g.lanes = []) :
    g.upds = [] := by
  unfold gate at h
  split at h
  · cases h
  split at h
  · cases h
  split at h
  · cases h
  split at h
  · cases h
  dsimp only at h
  split at h
  · cases h; rfl
  rename_i hne
  split at h
  · cases h
  split at h
  · cases h
  · cases h
  · cases h
  split at h
  · cases h
    dsimp only at hl
    rw [hl] at hne
    simp at hne
  · cases h

/-- The warp that an instruction without an executing lane leaves. -/
theorem issued_idle (c : Ctl) (n : Need) (s : State) (old : Warp) (g : Go) (hl : g.lanes = []) :
    Passed g {} (issued c n s old g {}) := by
  have hpass : ∀ y : Frag, (passedSlot c s {} y).face = if false then y.face else { y with pc := nextPc y.pc }.face := fun _ => rfl
  obtain ⟨w1, hw, h1, h2, h3, h4, h5⟩ : ∃ w1, putResults c n s.model.cycle g {} g.w = w1 ∧ w1.id = g.w.id ∧ w1.regs.frags = g.w.regs.frags
      ∧ w1.chunk = g.w.chunk ∧ w1.mode = g.w.mode ∧ w1.pending = g.w.pending := by
    refine ⟨_, rfl, ?_⟩
    by_cases h0 : n.lat = 0
    · by_cases ha : c.alloc = 0
      · simp [putResults, h0, ha, Warp.write, Regs.putAll]
      · have ha' : ¬ c.alloc = 0#3 := ha
        simp [putResults, h0, ha']
    · simp [putResults, h0, hl]
  simp only [issued, hw]
  refine ⟨h1, ?_, ⟨recordChunk old n g {} w1, rfl, ?_, ?_, ?_, by simp, by simp, by simp, by simp⟩, h4, h5⟩
  · simp only [Regs.mapFrag, h2, id]
    exact (passed_frags _ _ false _ hpass).trans (by simp only [and_true])
  · simp [recordChunk, h3]
  · simp [recordChunk, h3]
  · simp [recordChunk, h3, Result.pushed, Result.nothing]

/-- What an instruction that does nothing without an executing lane does then. -/
theorem passesIdle_of {i : Instr} {c : Ctl} {n : Need} {body : State → Go → Act} (hi : ∀ s, exec i s = issue c n (body s) s) :
    PassesIdle i c n := by
  intro _ s w f g hc hg hl ho
  have hk : g.keys n = [] := by simp [Go.keys, hl]
  have hrt : raisedTrap c n g {} = none := by simp [raisedTrap, fpTrapReq, trappingLanes]
  refine ⟨issued c n s w g {}, ?_, issued_idle c n s w g hl, ?_⟩
  · rw [hi]
    simp only [issue, issueWith, hc, issueScript, hg, hl, List.isEmpty_nil, if_true, finish, hk, ho, Bool.or_self, hrt, Option.or_none, ite_self,
      gate_idle hg hl, List.nil_append, andThen, inOrder, List.append_nil, Bool.false_eq_true, if_false]
  · by_cases h0 : n.lat = 0
    · by_cases ha : c.alloc = 0
      · simp [issued, putResults, h0, ha, hl, Regs.mapFrag, Regs.specials, recordChunk, Warp.write, Regs.putAll, Act.allFlags, fpstatOr]
      · have ha' : ¬ c.alloc = 0#3 := ha
        simp [issued, putResults, h0, ha', hl, Regs.mapFrag, Regs.specials, recordChunk, tagEntryOf, hrt, Act.allFlags]
    · simp [issued, putResults, h0, hl, Regs.mapFrag, Regs.specials, recordChunk]

/-- What an instruction whose lanes raise flags does where one of them traps. -/
theorem trapsOnFlags_of {i : Instr} {c : Ctl} {n : Need} {body : State → Go → Act} {ok : Go → Prop} {fl : Go → Nat → Flags}
    (hi : ∀ s, exec i s = issue c n (body s) s)
    (hb : i.wf = true → ∀ s g, ok g → ∃ ws, body s g = { writes := ws, flags := g.lanes.map (fun l => (l, fl g l)) }) :
    TrapsOnFlags i c n ok fl := by
  intro hwf s w f g hg hok all ls t hls
  obtain ⟨ws, hbody⟩ := hb hwf s g hok
  have hne : g.lanes.isEmpty = false := by simpa using hg.lanes
  have hroom : overLimit g.w.chunk (g.keys n) (body s g) = false := by
    have := hg.room
    rw [hbody]; simpa only [overLimit] using this
  have hall : (body s g).allFlags = all := by rw [hbody]; exact orFlags_pairs g.lanes (fl g)
  have htl : trappingLanes g.w (body s g) = ls := by
    rw [hbody]; simp [trappingLanes, List.filter_map, Function.comp_def, ls]
  have hrt : raisedTrap c n g (body s g) = some t := by
    obtain ⟨l, r, hlr⟩ := List.exists_cons_of_ne_nil hls
    rw [hlr] at htl
    simp [raisedTrap, fpTrapReq, htl, hall, t, hlr]
  have h1 : (body s g).trap = none := by rw [hbody]
  have h2 : (body s g).wait = false := by rw [hbody]
  have h3 : (body s g).endBefore = false := by rw [hbody]
  have h4 : (body s g).upds = fun _ => [] := by rw [hbody]
  have h5 : (body s g).awaits = .unit := by rw [hbody]
  have h6 : (body s g).warp = id := by rw [hbody]
  have h7 : (body s g).entry = id := by rw [hbody]
  have hrun : exec i s = .next (s.run (finish c n s w g (body s g))) := by
    rw [hi]; simp only [issue, issueWith, hg.cur, issueScript, hg.go, hne, Bool.false_eq_true, if_false]
  have hgo := (gate_go hg.go).2.1
  refine ⟨fun h => ?_, fun h0 ha => ?_⟩
  · have hc : (n.lat != 0 || decide (c.alloc = 0)) = true := by simpa using h
    rw [hrun]
    simp only [finish, h1, h2, h3, hroom, Bool.or_self, Bool.false_eq_true, if_false, hrt, Option.some_or, hc, if_true]
  · have hc : (n.lat != 0 || decide (c.alloc = 0)) = false := by simpa using ⟨h0, ha⟩
    have ha' : ¬ c.alloc = 0#3 := ha
    refine ⟨issued c n s w g (body s g), tagEntryOf c g (body s g) (some { t with ppc := some g.f.pc }), ?_, ?_⟩
    · rw [hrun]
      simp only [finish, h1, h2, h3, hroom, Bool.or_self, Bool.false_eq_true, if_false, hc, h4, andThen, inOrder, List.append_nil]
    · simp [issued, putResults, h0, ha', h5, h6, h7, hrt, Regs.mapFrag, tagEntryOf]

/-! ### Instructions that compute a result -/

/-- An instruction that computes a result and does nothing else. -/
theorem computes_of_body {i : Instr} {c : Ctl} {n : Need} {body : Go → Act} {r : Go → Result}
    (hi : ∀ s, exec i s = issue c n body s)
    (hp : i.wf = true → n.lat = 0 → ∀ g, (r g).uni = true → ∀ j, j < (r g).k → (r g).d + j < 56)
    (hb : i.wf = true → ∀ g, body g = { writes := (r g).writes, flags := (body g).flags } ∧ (body g).allFlags = (r g).flags)
    (hr : ∀ g, (∀ l ∈ g.lanes, l < 32) → (r g).inRange) : Computes i c n r := by
  refine does_of_gives (body := fun _ => body) hi (fun hwf s g _ hl => ⟨fun _ => by simp, pushed_nil (hp hwf hl g)⟩)
    (fun hwf s g hl _ => ⟨?_, hr g hl⟩)
  have h := hb hwf g
  rw [h.1]
  exact ⟨rfl, rfl, rfl, rfl, by rw [← h.2]; rfl, rfl, rfl, rfl, rfl, rfl, rfl, rfl, rfl, rfl, rfl, rfl, rfl⟩

theorem putWord_writes (u : Bool) (d : BitVec 8) (g : Go) (f : Nat → Word) :
    putWord u d.toNat g.lanes f = (Result.ofWord u d g f).writes := by
  simp only [putWord, Result.ofWord, Result.ofWords, Result.writes, List.append_nil]
  simp [List.range_succ, ← List.map_eq_flatMap]

theorem putPair_writes (u : Bool) (d : BitVec 8) (g : Go) (f : Nat → DWord) :
    putPair u d.toNat g.lanes f = (Result.ofPair u d g f).writes := by
  simp [putPair, Result.ofPair, Result.ofWords, Result.writes, List.range_succ]

theorem putPred_writes (p : BitVec 3) (g : Go) (f : Nat → Tri) (fl : Flags) :
    putPred p.toNat g.lanes f = (Result.ofPred p g f fl).writes := by
  simp [putPred, Result.ofPred, Result.writes]

theorem list_eq_range {α : Type} (a : α) (xs : List α) : xs = (List.range xs.length).map (fun j => xs.getD j a) := by
  apply List.ext_getElem
  · simp
  · intro i h1 h2
    simp [List.getElem?_eq_getElem h1]

theorem zipIdx_eq_range {α : Type} (a : α) (xs : List α) : xs.zipIdx = (List.range xs.length).map (fun j => (xs.getD j a, j)) := by
  apply List.ext_getElem
  · simp
  · intro i h1 h2
    have h3 : i < xs.length := by simpa using h1
    simp [List.getElem?_eq_getElem h3]

theorem putWords_writes (u : Bool) (d : BitVec 8) (k : Nat) (g : Go) (f : Nat → List Word) (fl : Flags)
    (hk : ∀ l ∈ g.lanes, (f l).length = k) :
    putWords u d.toNat g.lanes f = (Result.ofWords u d k g (fun l j => (f l).getD j 0) fl).writes := by
  simp only [putWords, Result.ofWords, Result.writes, List.append_nil]
  refine List.flatMap_congr (fun l hl => ?_)
  rw [zipIdx_eq_range 0 (f l), hk l hl, List.map_map]
  rfl

/-- An instruction of one word a lane. -/
theorem computesWord_of {i : Instr} {c : Ctl} {lat : Nat} {d : BitVec 8} {srcs : List Field} {f f' : Go → Nat → Word}
    (hi : ∀ s, exec i s = aluWord c lat d srcs f s) (hf : ∀ g l, f g l = f' g l)
    (hd : i.wf = true → lat = 0 → c.u = true → d.toNat < 56) : ComputesWord i c lat d srcs f' := by
  obtain rfl : f = f' := funext fun g => funext fun l => hf g l
  refine computes_of_body (body := fun g => { writes := putWord c.u d.toNat g.lanes (f g) }) hi ?_ ?_ ?_
  · intro hwf hl g hu j hj
    have := hd hwf hl hu
    simp only [Result.ofWord, Result.ofWords] at hj ⊢
    omega
  · intro _ g
    exact ⟨by rw [putWord_writes], rfl⟩
  · intro g hl
    exact ⟨hl, by simp [Result.ofWord, Result.ofWords]⟩

/-- An instruction of one pair a lane. -/
theorem computesPair_of {i : Instr} {c : Ctl} {lat : Nat} {d : BitVec 8} {srcs : List Field} {f f' : Go → Nat → DWord}
    (hi : ∀ s, exec i s = aluPair c lat d srcs f s) (hf : ∀ g l, f g l = f' g l)
    (hd : i.wf = true → lat = 0 → c.u = true → d.toNat + 1 < 56) : ComputesPair i c lat d srcs f' := by
  obtain rfl : f = f' := funext fun g => funext fun l => hf g l
  refine computes_of_body (body := fun g => { writes := putPair c.u d.toNat g.lanes (f g) }) hi ?_ ?_ ?_
  · intro hwf hl g hu j hj
    have := hd hwf hl hu
    simp only [Result.ofPair, Result.ofWords] at hj ⊢
    omega
  · intro _ g
    exact ⟨by rw [putPair_writes], rfl⟩
  · intro g hl
    exact ⟨hl, by simp [Result.ofPair, Result.ofWords]⟩

/-- An instruction of one predicate. -/
theorem computesPred_of {i : Instr} {c : Ctl} {lat : Nat} {pd : BitVec 3} {srcs : List Field} {ps : List Nat} {f f' : Go → Nat → Tri}
    (hi : ∀ s, exec i s = aluPred c lat pd srcs ps f s) (hf : ∀ g l, f g l = f' g l) :
    ComputesPred i c lat pd srcs ps f' := by
  obtain rfl : f = f' := funext fun g => funext fun l => hf g l
  refine computes_of_body (body := fun g => { writes := putPred pd.toNat g.lanes (f g) }) hi ?_ ?_ ?_
  · intro _ _ g hu
    simp [Result.ofPred] at hu
  · intro _ g
    exact ⟨by rw [putPred_writes], rfl⟩
  · intro g hl
    exact ⟨by simp [Result.ofPred], hl⟩

/-- An instruction of k words a lane with flags. -/
theorem computesFlags_of {i : Instr} {c : Ctl} {lat k : Nat} {d : BitVec 8} {srcs : List Field}
    {f f' : Go → Nat → List Word × Flags} (hi : ∀ s, exec i s = aluFlags c lat d k srcs f s) (hf : ∀ g l, f g l = f' g l)
    (hk : i.wf = true → ∀ g l, (f g l).1.length = k)
    (hd : i.wf = true → lat = 0 → c.u = true → d.toNat + k ≤ 56) : ComputesFlags i c lat d k srcs f' := by
  obtain rfl : f = f' := funext fun g => funext fun l => hf g l
  refine computes_of_body (body := fun g => {
      writes := putWords c.u d.toNat g.lanes (fun l => (f g l).1)
      flags := g.lanes.map (fun l => (l, (f g l).2)) }) hi ?_ ?_ ?_
  · intro hwf hl g hu j hj
    have := hd hwf hl hu
    simp only [Result.ofWords] at hj ⊢
    omega
  · intro hwf g
    exact ⟨by rw [putWords_writes c.u d k g _ (orFlags g.lanes (fun l => (f g l).2)) (fun l _ => hk hwf g l)], orFlags_pairs _ _⟩
  · intro g hl
    exact ⟨hl, by simp [Result.ofWords]⟩

end Sys2Proof.Machine
end

