-- ==== Sys2Proof/Tests/Slice0.lean ====
section
/-! SUPPORT. Tests: ill-formed terms that WellFormed refuses, words written out from the encoding tables, and for each statement with
hypotheses a state and operands that meet them. Expected values come from the rules and their examples. -/

namespace Sys2Proof.Machine

set_option maxRecDepth 100000
set_option Elab.async false

/-! ### A small machine -/

/-- Control fields: always, no tag; with tag t1; the uniform forms of both. -/
def cv : Ctl := { g := 0, gs := .always, stall := 0, alloc := 0, wait := 0, u := false, y := false, sw := false }
def ct : Ctl := { cv with alloc := 1 }
def cu : Ctl := { cv with u := true }
def cut : Ctl := { cu with alloc := 1 }

/-- A control program's warp in partition 0 about to issue, one lane active, in a line of NOPs that may all be entered (R37); 1 GiB of realm 0 is
mapped onto itself: the device has booted, and the control program has started as startControl starts it (log 3). -/
def demo : State :=
  let r := State.reset
  let line := valBytes 4 0xFC1F8000 ++ (List.replicate 6 0x00400000000000000000).flatMap (valBytes 10)
  let cells := cellsAt 0x1000 line ++ dwordCells 0x10000 (0x1E000000 + 0x10 * 2 ^ 32) ++ dwordCells 0x100000 (0x200000 + 9 + 3 * 2 ^ 52)
    ++ dwordCells 0x200000 (13 + 3 * 2 ^ 52)
  let s : State := { r with
    mem := cells.filter (fun c => c.2 != 0)
    dev := { r.dev with booted := true }
    parts := r.parts.map (fun p => if p.num = 0 then { placePart with state := .running } else p)
    model := { r.model with nextId := 4 }
    cur := some (3, 0) }
  let l := { bareLaunch 0 (controlDesc placePart) 0 1 (noWarp 0 2 false) with order := s.order.pos, readyAt := s.dev.wall.toNat }
  let x : Start := { task := 2, warpid := 0, core := 0, quadrant := 0, place := 0, pc := 0x1000, mask := 1, taskid := 0, spawnix := 0, uregs := [],
                     vregs := [], path := 0, clock := [] }
  { s with launches := [l], tasks := [startTask l 2 0 0 false 1 0 0], warps := [startWarp s l 2 3 x] }

/-- The machine with its warp, its task, its partition changed. -/
def withW (g : Warp → Warp) (s : State) : State := { s with warps := s.warps.map g }
def withT (g : Task → Task) (s : State) : State := { s with tasks := s.tasks.map g }
def withP (g : Part → Part) (s : State) : State := { s with parts := s.parts.map (fun p => if p.num = 0 then g p else p) }
/-- Memory with words from an address on: bytes in address order, zeros unlisted. -/
def withMem (a : Nat) (ws : List Word) (s : State) : State :=
  { s with mem := s.mem.filter (fun c => decide (c.1 < a)) ++ (((wordsBytes ws).zipIdx.map (fun x => (a + x.2, x.1))).filter (fun c => c.2 != 0)
      ++ s.mem.filter (fun c => decide (a + 4 * ws.length ≤ c.1))) }

/-- Uniform registers from register a on; lane 0 of vector registers from register a on. -/
def withU (a : Nat) (xs : List Word) (s : State) : State :=
  withW (fun w => { w with regs := { w.regs with u := xs.zipIdx.foldl (fun m x => cellSet m (a + x.2) x.1) w.regs.u } }) s
def withV (a : Nat) (xs : List Word) (s : State) : State :=
  withW (fun w => { w with regs := { w.regs with v := xs.zipIdx.foldl (fun m x => cellSet m (32 * (a + x.2)) x.1) w.regs.v } }) s

/-- The warp of the demo machine. -/
def demoWarp : Warp := demo.warps.head (by decide +kernel)

/-- What the instruction about to issue sees; nothing where the gate does not let it through. -/
def goAt (c : Ctl) (n : Need) (s : State) : Go :=
  let stop : Go := ⟨demoWarp, ⟨0, 0, 0, 0, 0, 0, false, .run, 0, false, none, []⟩, [], [], []⟩
  match s.current with
  | none => stop
  | some (w, f) =>
    match gate c n s w f with
    | .go g => g
    | .wait _ => stop
    | .endChunk => stop
    | .trap .. => stop

/-- The gate is open, lane 0 executes, the chunk is fresh, no floating-point trap is enabled. -/
def ready (c : Ctl) (n : Need) (s : State) : Bool :=
  decide ((goAt c n s).lanes = [0]) && (goAt c n s).w.chunk.count == 0 && (goAt c n s).w.regs.fpctl == 0

theorem trapping_zero (x : Flags) : trappingFlags 0 x = 0 := by
  simp [trappingFlags]

/-- The gate is open, lane 0 executes, the chunk is fresh. -/
def opens (c : Ctl) (n : Need) (s : State) : Bool := decide ((goAt c n s).lanes = [0]) && (goAt c n s).w.chunk.count == 0

theorem opens_issues {c : Ctl} {n : Need} {s : State} (x : Effect) (h : opens c n s = true) : ∃ w f, Issues c n s w f (goAt c n s) x := by
  simp only [opens, Bool.and_eq_true, decide_eq_true_eq, beq_iff_eq] at h
  obtain ⟨hl, hc⟩ := h
  have key : ∃ w f, s.current = some (w, f) ∧ gate c n s w f = .go (goAt c n s) := by
    unfold goAt at hl ⊢
    split at hl
    · simp at hl
    · rename_i w f hs
      refine ⟨w, f, hs, ?_⟩
      split at hl <;> simp_all
  obtain ⟨w, f, hs, hg⟩ := key
  exact ⟨w, f, hs, hg, by simp [hl], by simp [overLimit, hc]⟩

theorem ready_issues {c : Ctl} {n : Need} {s : State} (x : Effect) (h : ready c n s = true) :
    ∃ w f, Issues c n s w f (goAt c n s) x ∧ (goAt c n s).w.regs.fpctl = 0 := by
  simp only [ready, Bool.and_eq_true, beq_iff_eq] at h
  obtain ⟨w, f, hi⟩ := opens_issues (c := c) (n := n) (s := s) x (by simpa [opens] using h.1)
  exact ⟨w, f, hi, h.2⟩

/-- exec answers a next state. -/
def AnswersNext (i : Instr) (s : State) : Prop := ∃ t, exec i s = .next t

/-- A statement of what an instruction does meets its hypotheses in a state: it says then that exec answers a next state. -/
theorem completes {i : Instr} {c : Ctl} {n : Need} {ok : State → Go → Prop} {x : State → Go → Effect} (h : Does i c n ok x) (s : State)
    (hw : i.wf = true) (hr : ready c n s = true) (hok : ok s (goAt c n s)) : AnswersNext i s := by
  obtain ⟨w, f, hi, hf⟩ := ready_issues (x s (goAt c n s)) hr
  obtain ⟨v, hv, -⟩ := h hw s w f _ hi hok (by rw [hf]; exact trapping_zero _)
  exact ⟨_, hv⟩

/-- Instructions that issue in a state with lane 0 active, with their control fields and needs: the hypotheses of Does where its condition
asks nothing more. -/
def issuesAll (s : State) (l : List (Instr × Ctl × Need)) : Bool := l.all (fun x => x.1.wf && ready x.2.1 x.2.2 s)

theorem one_lane {c : Ctl} {n : Need} {s : State} {P : Nat → Prop} (h : (goAt c n s).lanes = [0]) (p : P 0) :
    ∀ l ∈ (goAt c n s).lanes, P l := by
  intro l hl
  rw [h] at hl
  simp only [List.mem_singleton] at hl
  subst hl
  exact p

/-- A place that an access reaches here, free, and what holds of it. -/
theorem spot_here {x : Xl Spot} {P : Place → Prop} [DecidablePred P]
    (h : (match x with
      | .ok (.at_ p _ .free _) => decide (P p)
      | .ok (.at_ _ _ _ _) => false
      | .ok (.peer ..) => false
      | .error _ => false) = true) : ∃ p e t, x = .ok (.at_ p e .free t) ∧ P p := by
  split at h
  · exact ⟨_, _, _, rfl, by simpa using h⟩
  all_goals cases h

/-- An answer that is given, and what holds of it. -/
theorem ok_and {α : Type} {x : Xl α} {P : α → Prop} [DecidablePred P]
    (h : (match x with
      | .ok a => decide (P a)
      | .error _ => false) = true) : ∃ a, x = .ok a ∧ P a := by
  split at h
  · exact ⟨_, rfl, by simpa using h⟩
  · cases h

/-- An answer that is given. -/
theorem ok_is {α : Type} {x : Xl α} (h : (match x with
      | .ok _ => true
      | .error _ => false) = true) : ∃ a, x = .ok a := by
  split at h
  · exact ⟨_, rfl⟩
  · cases h

/-- A place that an access reaches here, free. -/
theorem spot_is {x : Xl Spot} (h : (match x with
      | .ok (.at_ _ _ .free _) => true
      | .ok (.at_ _ _ _ _) => false
      | .ok (.peer ..) => false
      | .error _ => false) = true) : ∃ p e t, x = .ok (.at_ p e .free t) := by
  split at h
  · exact ⟨_, _, _, rfl⟩
  all_goals cases h

/-- A word that an atomic reaches here, and what holds of it. -/
theorem word_here {x : Xl AtomSpot} {P : Place → Prop} [DecidablePred P]
    (h : (match x with
      | .ok (.word p _) => decide (P p)
      | .ok (.contrib ..) => false
      | .ok (.peer ..) => false
      | .error _ => false) = true) : ∃ p q, x = .ok (.word p q) ∧ P p := by
  split at h
  · exact ⟨_, _, rfl, by simpa using h⟩
  all_goals cases h

/-- An answer, what holds of it, and what it then gives. -/
theorem ok_some {α β : Type} {x : Xl α} {P : α → Prop} {f : α → Option β} [DecidablePred P]
    (h : (match x with
      | .ok a => decide (P a) && (f a).isSome
      | .error _ => false) = true) : ∃ a b, x = .ok a ∧ P a ∧ f a = some b := by
  split at h
  · rename_i a
    simp only [Bool.and_eq_true, decide_eq_true_eq, Option.isSome_iff_exists] at h
    obtain ⟨b, hb⟩ := h.2
    exact ⟨a, b, rfl, h.1, hb⟩
  · cases h

/-- The answer, or another where none is given. -/
def okOf {α : Type} (x : Xl α) (d : α) : α :=
  match x with
  | .ok a => a
  | .error _ => d

theorem ok_of {α : Type} {x : Xl α} {d : α} (h : (match x with
      | .ok _ => true
      | .error _ => false) = true) : x = .ok (okOf x d) := by
  split at h
  · rfl
  · cases h

/-- The answer given. -/
theorem ok_eq {α : Type} [DecidableEq α] {x : Xl α} {b : α} (h : (match x with
      | .ok a => decide (a = b)
      | .error _ => false) = true) : x = .ok b := by
  split at h
  · simp only [decide_eq_true_eq] at h
    rw [h]
  · cases h

/-- What is there. -/
theorem got {α : Type} {o : Option α} (h : o.isSome = true) : o = some (o.get h) := by simp

/-! ### Instructions whose statement asks only that they issue -/

def r1 : Src := .v 2
def r2 : Src := .v 3
def q1 : Src := .v 4
def s1 : List Field := [srcField r1 1]
def s2 : List Field := [srcField r1 1, srcField r2 1]
def s3 : List Field := [srcField r1 1, srcField r2 1, srcField (.v 5) 1]
def d1 : List Field := [dstField false 8 1]
def d2 : List Field := [dstField false 8 2]
def p1 : Need := { needs d1 s1 4 with preds := [1] }

theorem witness_integer : issuesAll demo [
    (.iadd cv false false 8 r1 r2, cv, needs d1 s2 4), (.isub cv true true 8 r1 r2, cv, needs d1 s2 4),
    (.iaddImm cv false false 8 2 5, cv, needs d1 [dstField false 2 1] 4), (.isubImm cv false true 8 2 5, cv, needs d1 [dstField false 2 1] 4),
    (.iaddc cv 8 r1 r2 1, cv, { needs d1 s2 4 with preds := [1], pdsts := [1] }),
    (.isubb cv 8 r1 r2 1, cv, { needs d1 s2 4 with preds := [1], pdsts := [1] }),
    (.imul cv 8 r1 r2, cv, needs d1 s2 5), (.imulImm cv 8 2 7, cv, needs d1 [dstField false 2 1] 5), (.imulh cv false 8 r1 r2, cv, needs d1 s2 5),
    (.imad cv true false 8 r1 r2 (.v 5), cv, needs d1 s3 5), (.imadw cv false 8 r1 r2 q1, cv, needs d2 [srcField r1 1, srcField r2 1, srcField q1 2] 5),
    (.idiv ct false 8 r1 r2, ct, needs d1 s2 0), (.irem ct true 8 r1 r2, ct, needs d1 s2 0),
    (.imin cv false 8 r1 r2, cv, needs d1 s2 4), (.imax cv true 8 r1 r2, cv, needs d1 s2 4),
    (.iminImm cv false 8 2 7, cv, needs d1 [dstField false 2 1] 4), (.imaxImm cv false 8 2 7, cv, needs d1 [dstField false 2 1] 4),
    (.iabs cv true 8 r1, cv, needs d1 s1 4), (.ineg cv false 8 r1, cv, needs d1 s1 4), (.isad cv false 8 r1 r2 (.v 5), cv, needs d1 s3 5)]
    = true := by decide +kernel

theorem witness_bits_logic : issuesAll demo [
    (.popc cv 8 r1, cv, needs d1 s1 4), (.clz cv 8 r1, cv, needs d1 s1 4), (.ctz cv 8 r1, cv, needs d1 s1 4), (.brev cv 8 r1, cv, needs d1 s1 4),
    (.bfe cv true 8 r1 r2, cv, needs d1 s2 4), (.bfi cv 8 r1 r2 (.v 5), cv, needs d1 s3 4),
    (.and cv 8 r1 r2, cv, needs d1 s2 4), (.or cv 8 r1 r2, cv, needs d1 s2 4), (.xor cv 8 r1 r2, cv, needs d1 s2 4), (.andn cv 8 r1 r2, cv, needs d1 s2 4),
    (.shl cv 8 r1 r2, cv, needs d1 s2 4), (.shr cv 8 r1 r2, cv, needs d1 s2 4), (.sar cv 8 r1 r2, cv, needs d1 s2 4), (.rol cv 8 r1 r2, cv, needs d1 s2 4),
    (.shf cv true 8 r1 r2 (.v 5), cv, needs d1 s3 4)] = true
  ∧ (let n := needs d1 [dstField false 2 1] 4
    issuesAll demo [(.andImm cv 8 2 5, cv, n), (.orImm cv 8 2 5, cv, n), (.xorImm cv 8 2 5, cv, n), (.andnImm cv 8 2 5, cv, n),
      (.shlImm cv 8 2 5, cv, n), (.shrImm cv 8 2 5, cv, n), (.sarImm cv 8 2 32, cv, n), (.rolImm cv 8 2 33, cv, n)] = true) := by decide +kernel

theorem witness_moves_predicates : issuesAll demo [
    (.lea cv 2 false 8 q1 r1, cv, needs d2 [srcField q1 2, srcField r1 1] 4),
    (.mov cv false 8 r1, cv, needs d1 s1 4), (.mov cv true 8 q1, cv, needs d2 [srcField q1 2] 4),
    (.movi cv .plain 8 5, cv, needs d1 [] 4), (.movi cv .sx 8 5, cv, needs d2 [] 4), (.movi cu .hi 8 5, cu, needs [dstField true 8 2] [] 4),
    (.sel cv true 8 r1 r2 1, cv, { needs d1 s2 4 with preds := [1] }),
    (.cmpi cv .lt false 2 r1 r2, cv, { needs [] s2 4 with pdsts := [2] }),
    (.plop cv .xor 2 1 3, cv, { needs [] [] 4 with preds := [1, 3], pdsts := [2] }),
    (.plop cv .not 2 1 0, cv, { needs [] [] 4 with preds := [1], pdsts := [2] }),
    (.ptov cv 8 1, cv, { needs d1 [] 4 with preds := [1] }), (.vtop cv true 2 r1, cv, { needs [] s1 4 with pdsts := [2] })] = true := by decide +kernel

theorem witness_float : issuesAll demo [
    (.fadd cv .f32 .rn 8 r1 r2, cv, needs d1 s2 (fpLat .f32)), (.fsub cv .f16x2 .rz 8 r1 r2, cv, needs d1 s2 (fpLat .f16x2)),
    (.fmul cv .bf16 .rn 8 r1 r2, cv, needs d1 s2 (fpLat .bf16)), (.ffma cv .f32 .dyn 8 r1 r2 (.v 5), cv, needs d1 s3 (fpLat .f32)),
    (.fsqrt ct .f64 .rn 8 q1, ct, needs d2 [srcField q1 2] 0), (.fdiv ct .f32 .rn 8 r1 r2, ct, needs d1 s2 0),
    (.fmin cv .f32 false 8 r1 r2, cv, needs d1 s2 (fpLat .f32)), (.fmax cv .f32 true 8 r1 r2, cv, needs d1 s2 (fpLat .f32)),
    (.fcmp cv .f32 .lt 2 r1 r2, cv, { needs [] s2 (fpLat .f32) with pdsts := [2] }), (.fclass cv .f32 8 r1, cv, needs d1 s1 (fpLat .f32)),
    (.frnd cv .f32 .rn false 8 r1, cv, needs d1 s1 (fpLat .f32)), (.fscale cv .f32 .rn 8 r1 r2, cv, needs d1 s2 (fpLat .f32)),
    (.fgetexp cv .f32 8 r1, cv, needs d1 s1 (fpLat .f32)), (.frcp ct .f32 8 r1, ct, needs d1 s1 0), (.frsq ct .f32 8 r1, ct, needs d1 s1 0),
    (.fex2 ct .f32 8 r1, ct, needs d1 s1 0), (.flg2 ct .f32 8 r1, ct, needs d1 s1 0), (.fsin ct .f32 8 r1, ct, needs d1 s1 0),
    (.fcos ct .f32 8 r1, ct, needs d1 s1 0), (.ftanh ct .f32 8 r1, ct, needs d1 s1 0)] = true := by decide +kernel

theorem witness_conversions : issuesAll demo [
    (.fcvt cv .f64 .f32 .rn 0 8 r1, cv, needs d2 [srcField r1 1] 7), (.ftoi cv .s32 .f32 .rz 0 8 r1, cv, needs d1 s1 5),
    (.itof cv .f16 .s32 .rn 1 8 r1, cv, needs d1 [srcField r1 1, dstField false 8 1] 5),
    (.cvtsr cv .bf16 .f32 1 8 r1 r2, cv, needs d1 (s2 ++ [dstField false 8 1]) 5),
    (.qmx ct .e4m3 false 8 r1, ct, needs d1 s1 0), (.dqmx ct .e4m3 false .rn 8 r1 r2, ct, needs d1 s2 0),
    (.qgb ct true false 8 r1 r2, ct, { needs d1 s2 0 with carry := [1] }), (.qgb ct false false 8 r1 r2, ct, needs d1 s2 0),
    (.dqgb ct false .rn 8 r1 r2 (.v 5), ct, needs d1 s3 0)] = true := by decide +kernel

theorem witness_lanes_streams : issuesAll demo [
    (.shfl ct .idx false 8 r1 r2 1, ct, { needs d1 s2 0 with pdsts := [1] }),
    (.shfl ct .idx true 8 r1 (.u 3) 1, ct, { needs [dstField true 8 1] [srcField r1 1, srcField (.u 3) 1] 0 with pdsts := [1] }),
    (.lpush ct 8 r1 r2 1, ct, { needs d1 s2 0 with pdsts := [1] }),
    (.vote ct .all false 2 1, ct, { needs [] [] 0 with preds := [1], pdsts := [2] }),
    (.vote ct .ballot true 8 1, ct, { needs [dstField true 8 1] [] 0 with preds := [1] }),
    (.matchLanes ct 8 r1 1, ct, { needs d1 s1 0 with pdsts := [1] }),
    (.redux ct .add false 8 r1, ct, needs d1 s1 0), (.redux ct .add true 8 r1, ct, needs [dstField true 8 1] s1 0), (.scan ct .add true 8 r1, ct, needs d1 s1 0),
    (.partset cv 2, cv, needs [] [] 0), (.rng ct .x4 8 r1, ct, needs [dstField false 8 4] s1 0), (.rngkey cv q1, cv, needs [] [srcField q1 2] 0),
    (.rngskip ct 8 r1, ct, needs d1 s1 0)] = true := by decide +kernel

/-! ### Intervals: well formed operands whose results have elements -/

/-- Points 1.0 in v4 and v5, the interval [1, 1] in v4:v5 and v6:v7 (R84). -/
def demoIv : State := withV 4 [0x3F800000, 0x3F800000, 0x3F800000, 0x3F800000] demo


/-- Where a statement says only that an instruction completes, the states above meet its hypotheses too. -/
theorem witness_completes (h : Obligations.FloatArithmetic) (k : Obligations.LaneExchange) :
    AnswersNext (.frcp ct .f32 8 r1) demo ∧ AnswersNext (.fmin cv .f32 false 8 r1 r2) demo ∧ AnswersNext (.redux ct .add false 8 r1) demo := by
  have go : ∀ {i c n}, Completes i c n → i.wf = true → ready c n demo = true → AnswersNext i demo := fun h hw hr => by
    obtain ⟨w, f, hi, hf⟩ := ready_issues {} hr
    obtain ⟨t, -, ht, -⟩ := h hw demo w f _ hi (fun fl => by rw [hf]; exact trapping_zero fl)
    exact ⟨t, ht⟩
  exact ⟨go ((h ct .f32 .rn 8 r1 r2 r1).2.2.2.2.2.2.2.2.2.2.2.2 _ (by simp)) (by decide) (by decide +kernel),
    go ((h cv .f32 .rn 8 r1 r2 r1).2.2.2.2.2.2.1 false).1 (by decide) (by decide +kernel),
    go ((k ct 8 r1 r2 0 0).2.2.2.2.2.2.2.2.1 .add false) (by decide) (by decide +kernel)⟩

theorem witness_intervals (h : Obligations.IntervalArithmetic) :
    AnswersNext (.ivadd cv .if32 8 (.v 4) (.v 6)) demoIv ∧ AnswersNext (.ivsub cv .if32 8 (.v 4) (.v 6)) demoIv
    ∧ AnswersNext (.ivmul cv .if32 8 (.v 4) (.v 6)) demoIv ∧ AnswersNext (.ivfma cv .if32 8 (.v 4) (.v 6) (.v 4)) demoIv
    ∧ AnswersNext (.ivsqr cv .if32 8 (.v 4)) demoIv ∧ AnswersNext (.ivabs cv .if32 8 (.v 4)) demoIv
    ∧ AnswersNext (.ivmin cv .if32 8 (.v 4) (.v 6)) demoIv ∧ AnswersNext (.ivmax cv .if32 8 (.v 4) (.v 6)) demoIv
    ∧ AnswersNext (.ivisect cv .if32 8 (.v 4) (.v 6)) demoIv ∧ AnswersNext (.ivhull cv .if32 8 (.v 4) (.v 6)) demoIv
    ∧ AnswersNext (.ivdiv ct .if32 8 (.v 4) (.v 6)) demoIv ∧ AnswersNext (.ivsqrt ct .if32 8 (.v 4)) demoIv
    ∧ AnswersNext (.ivrcp ct .if32 8 (.v 4)) demoIv ∧ AnswersNext (.ivexp ct .if32 8 (.v 4)) demoIv ∧ AnswersNext (.ivlog ct .if32 8 (.v 4)) demoIv := by
  obtain ⟨h1, h2, h3, _, h5, h6, _, _, _, _, h11, h12, h13, h14, h15⟩ := h cv .if32 8 (.v 4) (.v 6) (.v 4)
  obtain ⟨_, _, _, k4, _, _, k7, k8, k9, k10, _⟩ := h ct .if32 8 (.v 4) (.v 6) (.v 4)
  refine ⟨?_, ?_, ?_, ?_, ?_, ?_, ?_, ?_, ?_, ?_, ?_, ?_, ?_, ?_, ?_⟩
  · exact completes h1 demoIv (by decide +kernel) (by decide +kernel) (by decide +kernel)
  · exact completes h2 demoIv (by decide +kernel) (by decide +kernel) (by decide +kernel)
  · exact completes h3 demoIv (by decide +kernel) (by decide +kernel) (by decide +kernel)
  · exact completes h5 demoIv (by decide +kernel) (by decide +kernel) (by decide +kernel)
  · exact completes h6 demoIv (by decide +kernel) (by decide +kernel) (by decide +kernel)
  · exact completes h11 demoIv (by decide +kernel) (by decide +kernel) (by decide +kernel)
  · exact completes h12 demoIv (by decide +kernel) (by decide +kernel) (by decide +kernel)
  · exact completes h13 demoIv (by decide +kernel) (by decide +kernel) (by decide +kernel)
  · exact completes h14 demoIv (by decide +kernel) (by decide +kernel) (by decide +kernel)
  · exact completes h15 demoIv (by decide +kernel) (by decide +kernel) (by decide +kernel)
  · exact completes k4 demoIv (by decide +kernel) (by decide +kernel) (by decide +kernel)
  · exact completes k7 demoIv (by decide +kernel) (by decide +kernel) (by decide +kernel)
  · exact completes k8 demoIv (by decide +kernel) (by decide +kernel) (by decide +kernel)
  · exact completes k9 demoIv (by decide +kernel) (by decide +kernel) (by decide +kernel)
  · exact completes k10 demoIv (by decide +kernel) (by decide +kernel) (by decide +kernel)

theorem witness_interval_points (h : Obligations.IntervalPoints) :
    AnswersNext (.ivset cv .if32 .f32 8 (.v 4)) demoIv ∧ AnswersNext (.ivmk cv .if32 .f32 8 (.v 4) (.v 5)) demoIv
    ∧ AnswersNext (.ivsplit cv .if32 true 8 (.v 4) (.v 5)) demoIv ∧ AnswersNext (.ivlo cv .if32 .f32 8 (.v 4)) demoIv
    ∧ AnswersNext (.ivhi cv .if32 .f32 8 (.v 4)) demoIv ∧ AnswersNext (.ivmid cv .if32 .f32 8 (.v 4)) demoIv
    ∧ AnswersNext (.ivwid cv .if32 .f32 8 (.v 4)) demoIv ∧ AnswersNext (.ivcmp cv .if32 .eq 2 (.v 4) (.v 6)) demoIv
    ∧ AnswersNext (.ivin cv .if32 .f32 2 (.v 4) (.v 6)) demoIv := by
  obtain ⟨h1, -, -, h4, h5, h6, h7, -, -⟩ := h cv .if32 .f32 8 (.v 4) (.v 5)
  obtain ⟨-, h2, h3, -, -, -, -, -, -⟩ := h cv .if32 .f32 8 (.v 4) (.v 5)
  obtain ⟨-, -, -, -, -, -, -, h8, h9⟩ := h cv .if32 .f32 8 (.v 4) (.v 6)
  refine ⟨?_, ?_, ?_, ?_, ?_, ?_, ?_, ?_, ?_⟩
  · exact completes h1 demoIv (by decide +kernel) (by decide +kernel) (by decide +kernel)
  · exact completes h2 demoIv (by decide +kernel) (by decide +kernel) (by decide +kernel)
  · exact completes (h3 true) demoIv (by decide +kernel) (by decide +kernel) (by decide +kernel)
  · exact completes h4 demoIv (by decide +kernel) (by decide +kernel) (by decide +kernel)
  · exact completes h5 demoIv (by decide +kernel) (by decide +kernel) (by decide +kernel)
  · exact completes h6 demoIv (by decide +kernel) (by decide +kernel) (by decide +kernel)
  · exact completes h7 demoIv (by decide +kernel) (by decide +kernel) (by decide +kernel)
  · exact completes (h8 .eq 2) demoIv (by decide +kernel) (by decide +kernel) (by decide +kernel)
  · exact completes (h9 2) demoIv (by decide +kernel) (by decide +kernel) (by decide +kernel)

/-- Queue port 0 is bound to the spawn queue with entry displacement 6 (R412). -/
def demoSpawn : State := withW (fun w => { w with regs := { w.regs with qbind := w.regs.qbind.set 0 0x10000006 } }) demoIv

theorem witness_bisect (h : Obligations.IntervalBisect) : AnswersNext (.ivbis ct .if32 0 8 1 (.v 4)) demoSpawn :=
  completes (h ct .if32 0 1 8 (.v 4)) demoSpawn (by decide +kernel) (by decide +kernel) (by decide +kernel)

/-! ### Control flow -/

theorem witness_branches (h : Obligations.Branches) :
    AnswersNext (.bra cv 2) demo ∧ AnswersNext (.br3 cv 1 2 3) demo ∧ AnswersNext (.brx cv (.v 4)) (withV 4 [2] demo)
    ∧ AnswersNext (.call ct 8 2) demo ∧ AnswersNext (.ret cv (.v 4)) (withV 4 [0x1003] demo) := by
  obtain ⟨h1, h2, -, -, -⟩ := h.1 cv 1 2 3 8 (.v 4)
  obtain ⟨-, -, h3, -, h5⟩ := h.1 cv 1 2 3 8 (.v 4)
  obtain ⟨-, -, -, h4, -⟩ := h.1 ct 1 2 3 8 (.v 4)
  refine ⟨?_, ?_, ?_, ?_, ?_⟩
  · exact completes h1 demo (by decide +kernel) (by decide +kernel) ⟨by decide +kernel, by decide +kernel⟩
  · exact completes h2 demo (by decide +kernel) (by decide +kernel) ⟨by decide +kernel, by decide +kernel⟩
  · exact completes h3 (withV 4 [2] demo) (by decide +kernel) (by decide +kernel) ⟨by decide +kernel, by decide +kernel⟩
  · exact completes h4 demo (by decide +kernel) (by decide +kernel) ⟨by decide +kernel, by decide +kernel⟩
  · exact completes h5 (withV 4 [0x1003] demo) (by decide +kernel) (by decide +kernel) ⟨by decide +kernel, by decide +kernel⟩

/-- Slot 2 of the demo line as a target: every lane of the fragment executes. -/
theorem witness_branch_moves (h : Obligations.Branches) : AnswersNext (.bra cv 2) demo := by
  obtain ⟨w, f, hi, -⟩ := ready_issues (c := cv) (n := needs [] [] 0) (s := demo) {} (by decide +kernel)
  obtain ⟨v, hv, -⟩ := h.2 cv 2 demo w f _ 0x1002 (by decide +kernel) hi (by decide +kernel) (by decide +kernel) (by decide +kernel) (by decide +kernel)
  exact ⟨_, hv⟩

/-- Fragment 0 has path number 1: it stands inside a split (R396). -/
def demoSplit : State := withW (fun w => { w with regs := { w.regs with
  frags := w.regs.frags.map (fun f => { f with pid := 1 }), splits := [⟨1, 3, 0⟩] } }) demo

theorem witness_control (h : Obligations.ControlInstructions) :
    AnswersNext (.nop cv) demo ∧ AnswersNext (.yield cv) demo ∧ AnswersNext (.join cv) demo ∧ AnswersNext (.join cv) demoSplit ∧ AnswersNext (.drain cv) demo
    ∧ AnswersNext (.exit cv) demo ∧ AnswersNext (.sleep cv 5) demo ∧ AnswersNext (.chend cv) demo ∧ AnswersNext (.fence cv .warp) demo
    ∧ AnswersNext (.fence cv .task) demo ∧ AnswersNext (.fence cv .die) demo ∧ AnswersNext (.fence cv .device) demo := by
  obtain ⟨h1, h2, h3, h4, h5⟩ := h.1 cv
  obtain ⟨k1, k2, k3, -, -, -⟩ := h.2.1 cv 5 .warp
  refine ⟨?_, ?_, ?_, ?_, ?_, ?_, ?_, ?_, ?_, ?_, ?_, ?_⟩
  · exact completes h1 demo (by decide +kernel) (by decide +kernel) trivial
  · exact completes h2 demo (by decide +kernel) (by decide +kernel) trivial
  · exact completes h3 demo (by decide +kernel) (by decide +kernel) (by decide +kernel)
  · exact completes h4 demoSplit (by decide +kernel) (by decide +kernel) (by decide +kernel)
  · exact completes h5 demo (by decide +kernel) (by decide +kernel) ⟨by decide +kernel, by decide +kernel⟩
  · exact completes k1 demo (by decide +kernel) (by decide +kernel) trivial
  · exact completes k2 demo (by decide +kernel) (by decide +kernel) trivial
  · exact completes k3 demo (by decide +kernel) (by decide +kernel) trivial
  · exact completes ((h.2.1 cv 5 .warp).2.2.2.1 (by decide)) demo (by decide +kernel) (by decide +kernel) trivial
  · exact completes ((h.2.1 cv 5 .task).2.2.2.2.1 (by decide) (by decide)) demo (by decide +kernel) (by decide +kernel) (by decide +kernel)
  · exact completes ((h.2.1 cv 5 .die).2.2.2.2.1 (by decide) (by decide)) demo (by decide +kernel) (by decide +kernel) (by decide +kernel)
  · exact completes ((h.2.1 cv 5 .device).2.2.2.2.2 (by decide)) demo (by decide +kernel) (by decide +kernel) (by decide +kernel)

/-- The gate opens and no lane executes: p1 is false in lane 0. -/
theorem idles {i : Instr} {c : Ctl} {n : Need} {s : State} (h : PassesIdle i c n) (hw : i.wf = true)
    (ho : (match s.current with
      | none => false
      | some (w, f) => match gate c n s w f with
        | .go g => decide (g.lanes = []) && !overLimit g.w.chunk [] {}
        | .wait _ => false
        | .endChunk => false
        | .trap .. => false) = true) : AnswersNext i s := by
  split at ho
  · cases ho
  rename_i w f hc
  split at ho
  · rename_i g hg
    simp only [Bool.and_eq_true, decide_eq_true_eq, Bool.not_eq_true'] at ho
    obtain ⟨v, hv, -⟩ := h hw s w f g hc hg ho.1 ho.2
    exact ⟨_, hv⟩
  all_goals cases ho

/-- Control fields with guard p1, which holds false in every lane; with tag t1 too. -/
def cp : Ctl := { cv with g := 1, gs := .ifTrue }
def cpt : Ctl := { cp with alloc := 1 }

theorem witness_idle (h : Obligations.ControlInstructions) :
    AnswersNext (.iadd cp false false 12 (.v 2) (.v 3)) demo ∧ AnswersNext (.fadd cp .f32 .rn 12 (.v 2) (.v 3)) demo
    ∧ AnswersNext (.fdiv cpt .f32 .rn 12 (.v 2) (.v 3)) demo ∧ AnswersNext (.ivadd cp .if32 12 (.v 2) (.v 4)) demo
    ∧ AnswersNext (.ld cpt .b32 false 12 0 ⟨.v 8, 0, 0⟩) demo ∧ AnswersNext (.st cp .b32 ⟨.v 8, 0, 0⟩ (.v 4)) demo ∧ AnswersNext (.bra cp 2) demo := by
  obtain ⟨h1, h2, -, -, -, h6, h7⟩ := h.2.2 cp false false .f32 .rn .if32 .b32 12 0 (.v 2) (.v 3) ⟨.v 8, 0, 0⟩ 2
  obtain ⟨-, -, h3, -, h5, -, -⟩ := h.2.2 cpt false false .f32 .rn .if32 .b32 12 0 (.v 2) (.v 3) ⟨.v 8, 0, 0⟩ 2
  obtain ⟨-, -, -, h4, -, -, -⟩ := h.2.2 cp false false .f32 .rn .if32 .b32 12 0 (.v 2) (.v 4) ⟨.v 8, 0, 0⟩ 2
  obtain ⟨-, -, -, -, -, k6, -⟩ := h.2.2 cp false false .f32 .rn .if32 .b32 12 0 (.v 4) (.v 3) ⟨.v 8, 0, 0⟩ 2
  exact ⟨idles h1 (by decide +kernel) (by decide +kernel), idles h2 (by decide +kernel) (by decide +kernel),
    idles h3 (by decide +kernel) (by decide +kernel), idles h4 (by decide +kernel) (by decide +kernel),
    idles h5 (by decide +kernel) (by decide +kernel), idles k6 (by decide +kernel) (by decide +kernel),
    idles h7 (by decide +kernel) (by decide +kernel)⟩


/-! ### Memory: v4:v5 holds an offset in realm 0, v6 an index, the task has 64 KiB of scratchpad and 64 KiB of tile store -/

def demoMem : State := withT (fun t => { t with scrk := 64, tilek := 64 }) (withU 8 [0x2000, 0, 5] (withV 4 [0x2000, 0, 3] demo))

theorem witness_loads (h : Obligations.LoadInstructions) :
    AnswersNext (.ld ct .b32 false 12 0 ⟨.v 4, 0, 1⟩) demoMem ∧ AnswersNext (.ldu cut .b256 false 16 0 ⟨.u 8, 0, 0⟩) demoMem
    ∧ AnswersNext (.lds ct .b128 12 ⟨.v 6, 0⟩) (withV 6 [0xFFF0] demoMem) ∧ AnswersNext (.gather ct .u16 false 12 6 ⟨.u 8, 0, 0⟩) demoMem
    ∧ AnswersNext (.ivld ct .if32 12 ⟨.v 4, 0, 0⟩) demoMem := by
  refine ⟨?_, ?_, ?_, ?_, ?_⟩
  · exact completes (h ct .b32 false false .if32 12 0 0 ⟨.v 4, 0, 1⟩ ⟨.v 4, 0⟩).1 _ (by decide +kernel) (by decide +kernel)
      (one_lane (by decide +kernel) (spot_here (by decide +kernel)))
  · exact completes (h cut .b256 false false .if32 16 0 0 ⟨.u 8, 0, 0⟩ ⟨.v 4, 0⟩).2.1 _ (by decide +kernel) (by decide +kernel)
      (one_lane (by decide +kernel) (spot_here (by decide +kernel)))
  · exact completes (h ct .b128 false false .if32 12 0 0 ⟨.v 4, 0, 0⟩ ⟨.v 6, 0⟩).2.2.1 _ (by decide +kernel) (by decide +kernel)
      (one_lane (by decide +kernel) (spot_here (by decide +kernel)))
  · exact completes (h ct .u16 false false .if32 12 6 0 ⟨.u 8, 0, 0⟩ ⟨.v 6, 0⟩).2.2.2.1 _ (by decide +kernel) (by decide +kernel)
      (one_lane (by decide +kernel) (spot_here (by decide +kernel)))
  · exact completes (h ct .u16 false false .if32 12 6 0 ⟨.v 4, 0, 0⟩ ⟨.v 6, 0⟩).2.2.2.2 _ (by decide +kernel) (by decide +kernel)
      (one_lane (by decide +kernel) (spot_here (by decide +kernel)))

theorem witness_stores (h : Obligations.StoreInstructions) :
    AnswersNext (.st cv .b64 ⟨.v 4, 0, 1⟩ (.v 12)) demoMem ∧ AnswersNext (.sts cv .b32 ⟨.v 6, 0⟩ (.v 12)) (withV 6 [0xFFFC] demoMem)
    ∧ AnswersNext (.scatter cv .u8 true 6 12 ⟨.u 8, 0, 0⟩) demoMem ∧ AnswersNext (.ivst cv .if32 ⟨.v 4, 0, 0⟩ (.v 12)) demoMem
    ∧ AnswersNext (.pref cv true ⟨.v 4, 0, 0⟩) demoMem := by
  refine ⟨?_, ?_, ?_, ?_, ?_⟩
  · exact completes (h cv .b64 true true .if32 6 12 (.v 12) ⟨.v 4, 0, 1⟩ ⟨.v 6, 0⟩).1 _ (by decide +kernel) (by decide +kernel)
      ⟨trivial, by decide +kernel, one_lane (by decide +kernel) (spot_is (by decide +kernel))⟩
  · exact completes (h cv .b32 true true .if32 6 12 (.v 12) ⟨.v 4, 0, 1⟩ ⟨.v 6, 0⟩).2.1 _ (by decide +kernel) (by decide +kernel)
      ⟨trivial, by decide +kernel, one_lane (by decide +kernel) (spot_is (by decide +kernel))⟩
  · exact completes (h cv .u8 true true .if32 6 12 (.v 12) ⟨.u 8, 0, 0⟩ ⟨.v 6, 0⟩).2.2.1 _ (by decide +kernel) (by decide +kernel)
      ⟨trivial, by decide +kernel, one_lane (by decide +kernel) (spot_is (by decide +kernel))⟩
  · exact completes (h cv .u8 true true .if32 6 12 (.v 12) ⟨.v 4, 0, 0⟩ ⟨.v 6, 0⟩).2.2.2.1 _ (by decide +kernel) (by decide +kernel)
      ⟨by decide +kernel, by decide +kernel, one_lane (by decide +kernel) (spot_is (by decide +kernel))⟩
  · exact completes ((h cv .u8 true true .if32 6 12 (.v 12) ⟨.v 4, 0, 0⟩ ⟨.v 6, 0⟩).2.2.2.2 (prefNeed ⟨.v 4, 0, 0⟩ demoMem)) demoMem (by decide +kernel) (by decide +kernel) rfl

theorem witness_atomics (h : Obligations.ValueAtomics) :
    AnswersNext (.atom ct .fadd false .task 12 ⟨.v 4, 0, 0⟩ (.v 6)) demoMem ∧ AnswersNext (.atom ct .exch false .system 12 ⟨.v 4, 0, 0⟩ (.v 6)) demoMem
    ∧ AnswersNext (.acas ct false .die 12 ⟨.v 4, 0, 0⟩ (.v 6)) demoMem := by
  refine ⟨?_, ?_, ?_⟩
  · exact completes (h ct .fadd false .task 12 ⟨.v 4, 0, 0⟩ (.v 6)).1 _ (by decide +kernel) (by decide +kernel)
      ⟨one_lane (by decide +kernel) (word_here (by decide +kernel)), by decide +kernel⟩
  · exact completes (h ct .exch false .system 12 ⟨.v 4, 0, 0⟩ (.v 6)).1 _ (by decide +kernel) (by decide +kernel)
      ⟨one_lane (by decide +kernel) (word_here (by decide +kernel)), by decide +kernel⟩
  · exact completes (h ct .exch false .die 12 ⟨.v 4, 0, 0⟩ (.v 6)).2 _ (by decide +kernel) (by decide +kernel)
      ⟨one_lane (by decide +kernel) (word_here (by decide +kernel)), by decide +kernel⟩

/-- A deterministic launch's warp at the first instruction of its chunk: its wave has come (R240). -/
def demoWave : State := withW (fun w => { w with detctl := 1 }) { demoMem with launches := demoMem.launches.map (fun l => { l with det := true }) }

theorem witness_wave_atomic (h : Obligations.ValueAtomics) :
    demoWave.warps.all (fun w => w.det) = true ∧ AnswersNext (.atom ct .add false .warp 12 ⟨.v 4, 0, 0⟩ (.v 6)) demoWave
    ∧ AnswersNext (.atom ct .add false .task 12 ⟨.v 4, 0, 0⟩ (.v 6)) demoWave :=
  ⟨by decide +kernel,
   completes (h ct .add false .warp 12 ⟨.v 4, 0, 0⟩ (.v 6)).1 _ (by decide +kernel) (by decide +kernel)
    ⟨one_lane (by decide +kernel) (word_here (by decide +kernel)), by decide +kernel⟩,
   completes (h ct .add false .task 12 ⟨.v 4, 0, 0⟩ (.v 6)).1 _ (by decide +kernel) (by decide +kernel)
    ⟨one_lane (by decide +kernel) (word_here (by decide +kernel)), by decide +kernel⟩⟩

/-- The word at the offset lies in a range declared as integer sums. -/
def demoSum : State := { demoMem with order := { demoMem.order with ranges := [⟨7, 0, 0, 0x2000, .add, .s32, 0, false, 0, true, [⟨0x2000, []⟩]⟩] } }

theorem witness_reductions (h : Obligations.Reductions) :
    AnswersNext (.red cv .add false .device ⟨.v 4, 0, 0⟩ (.v 6)) demoMem ∧ AnswersNext (.red cv .add false .core ⟨.v 4, 0, 0⟩ (.v 6)) demoMem
    ∧ AnswersNext (.red cv .add false .device ⟨.v 4, 0, 0⟩ (.v 6)) demoSum := by
  refine ⟨?_, ?_, ?_⟩
  · exact completes (h cv .add false .device ⟨.v 4, 0, 0⟩ (.v 6)) _ (by decide +kernel) (by decide +kernel)
      ⟨one_lane (by decide +kernel) (ok_is (by decide +kernel)), by decide +kernel, by decide +kernel⟩
  · exact completes (h cv .add false .core ⟨.v 4, 0, 0⟩ (.v 6)) _ (by decide +kernel) (by decide +kernel)
      ⟨one_lane (by decide +kernel) (ok_is (by decide +kernel)), by decide +kernel, by decide +kernel⟩
  · exact completes (h cv .add false .device ⟨.v 4, 0, 0⟩ (.v 6)) _ (by decide +kernel) (by decide +kernel)
      ⟨one_lane (by decide +kernel) (ok_is (by decide +kernel)), by decide +kernel, by decide +kernel⟩

/-- The reduction contributes to the range, and stores nothing. -/
theorem test_red_contributes : (match exec (.red cv .add false .device ⟨.v 4, 0, 0⟩ (.v 6)) demoSum with
    | .next t => t.warps.all (fun w => w.chunk.contribs.map (fun x => (x.range, x.elem, x.value)) == [(7, 0x2000, 3)] && w.chunk.bytes == [])
    | .fault _ => false
    | .refused _ => false) = true := by decide +kernel

/-- u8:u9 holds offset 0x2000, u10 a length of 128, u11 exponent 0; u12:u13 a page's offset, u14 64 KiB. -/
def demoRange : State := withU 8 [0x2000, 0, 128, 0, 0x20000, 0, 0x10000] demoMem

/-- One live range at offset 0x2000 of realm 0. -/
def demoDeclared : State := { demoRange with order := { demoRange.order with ranges := [⟨7, 0, 0, 0x2000, .add, .s32, 0, false, 0, true, []⟩] } }

theorem witness_ranges (h : Obligations.RangesCountersEditions) :
    AnswersNext (.crdecl cu .add .f32 0 8 10 11) demoRange ∧ AnswersNext (.crrel cu 0 8) demoDeclared ∧ AnswersNext (.cntinc cu .device 0 8 10) demoRange
    ∧ AnswersNext (.cntinc cu .core 0 8 10) demoRange ∧ AnswersNext (.cntrd cut 0 16 8) demoRange ∧ AnswersNext (.seal cu 0 12 14 10) demoRange
    ∧ AnswersNext (.unseal cu 0 12 14) demoRange := by
  refine ⟨?_, ?_, ?_, ?_, ?_, ?_, ?_⟩
  · exact completes (h cu .add .f32 .device 0 8 10 0 11).1 _ (by decide +kernel) (by decide +kernel)
      ⟨by decide +kernel, by decide +kernel, by decide +kernel, by decide +kernel, by decide +kernel, by decide +kernel, by decide +kernel,
        ok_some (by decide +kernel)⟩
  · exact completes ((h cu .add .f32 .device 0 8 10 0 11).2.1 7) demoDeclared (by decide +kernel) (by decide +kernel)
      ⟨by decide +kernel, by decide +kernel, ok_is (by decide +kernel), ⟨7, 0, 0, 0x2000, .add, .s32, 0, false, 0, true, []⟩, by decide +kernel, rfl⟩
  · exact completes ((h cu .add .f32 .device 0 8 10 0 11).2.2.1 (.home 0x2000)) _ (by decide +kernel) (by decide +kernel) (by decide +kernel)
  · exact completes ((h cu .add .f32 .core 0 8 10 0 11).2.2.1 (.home 0x2000)) _ (by decide +kernel) (by decide +kernel) (by decide +kernel)
  · exact completes ((h cut .add .f32 .core 0 8 10 16 11).2.2.2.1 0x2000) _ (by decide +kernel) (by decide +kernel) (by decide +kernel)
  · exact completes ((h cu .add .f32 .core 0 12 14 16 10).2.2.2.2.1 [2]) _ (by decide +kernel) (by decide +kernel) (by decide +kernel)
  · exact completes ((h cu .add .f32 .core 0 12 14 16 10).2.2.2.2.2 [2]) _ (by decide +kernel) (by decide +kernel) (by decide +kernel)

/-- u8:u9 holds offset 0x2000, u10 a length: 128 bytes, or none. -/
theorem witness_cache (h : Obligations.CacheMaintenance) :
    AnswersNext (.cinv cu .device ⟨.u 8, 0, 0⟩ 10) demoRange ∧ AnswersNext (.cwb cu ⟨.u 8, 0, 0⟩ 11) demoRange ∧ AnswersNext (.cwb cut ⟨.u 8, 0, 0⟩ 10) demoRange := by
  refine ⟨?_, ?_, ?_⟩
  · exact completes (h cu .device ⟨.u 8, 0, 0⟩ 10 [⟨0, 128, .mem 0x2000 none⟩]).1 _ (by decide +kernel) (by decide +kernel) (by decide +kernel)
  · exact completes (h cu .device ⟨.u 8, 0, 0⟩ 11 []).2.1 _ (by decide +kernel) (by decide +kernel) (by decide +kernel)
  · exact completes (h cut .device ⟨.u 8, 0, 0⟩ 10 [⟨0, 128, .mem 0x2000 none⟩]).2.2 _ (by decide +kernel) (by decide +kernel) (by decide +kernel)

/-! ### Tile store and matrix engine: u8 and u9 hold tile offsets 0 and 0x8000, u10 a generation word -/

def demoTile : State := withU 8 [0, 0x8000, 0, 2] demoMem

/-- Granules 0 and 1 of the carve map are set (R192). -/
def demoCarved : State := withT (fun t => { t with carve := [(0, 3)] }) demoTile

theorem witness_tile_store (h : Obligations.TileStore) :
    AnswersNext (.talloc cut 16 11) demoTile ∧ AnswersNext (.tfree cu 8 11) demoCarved ∧ AnswersNext (.tfree cu 8 10) demoTile
    ∧ AnswersNext (.tld cv .b16 (.u 9) ⟨.v 4, 0, 0⟩) demoTile ∧ AnswersNext (.tst cv .b4 (.v 6) ⟨.v 4, 0, 0⟩) (withV 6 [0x100] demoTile) := by
  refine ⟨?_, ?_, ?_, ?_, ?_⟩
  · exact completes (h cut .b4 16 11 0 (.u 9) ⟨.v 4, 0, 0⟩).1 _ (by decide +kernel) (by decide +kernel) (by decide +kernel)
  · exact completes (h cu .b4 16 8 11 (.u 9) ⟨.v 4, 0, 0⟩).2.1 demoCarved (by decide +kernel) (by decide +kernel)
      ⟨by decide +kernel, by decide +kernel, .inr (by decide +kernel)⟩
  · exact completes (h cu .b4 16 8 10 (.u 9) ⟨.v 4, 0, 0⟩).2.1 _ (by decide +kernel) (by decide +kernel)
      ⟨by decide +kernel, by decide +kernel, .inl (by decide +kernel)⟩
  · exact completes (h cv .b16 16 8 10 (.u 9) ⟨.v 4, 0, 0⟩).2.2.1 _ (by decide +kernel) (by decide +kernel)
      ⟨by decide +kernel, one_lane (by decide +kernel) ⟨memPlace 0x2000, none, some (0, 0), by decide +kernel⟩⟩
  · exact completes (h cv .b4 16 8 10 (.v 6) ⟨.v 4, 0, 0⟩).2.2.2 _ (by decide +kernel) (by decide +kernel)
      ⟨⟨by decide +kernel, one_lane (by decide +kernel) ⟨memPlace 0x2000, none, some (0, 0), by decide +kernel⟩⟩, by decide +kernel⟩

/-- The tile store is ready, as a check. -/
def tileReady (s : State) (g : Go) (imgs touched : List Img) : Bool :=
  decide (tilePending g.w = none) && !rowUnitBusy s g.w && decide (imageShape s g.w imgs = none)
  && (match imageLocks s g.w touched with
    | .ok hs => hs.all (fun h => decide (h = LockHit.free))
    | .error _ => false)
  && touched.all (fun i => i.write || decide (tilePoison s g.w i.off i.size = none))

theorem tile_ready {s : State} {g : Go} {imgs touched : List Img} (h : tileReady s g imgs touched = true) : TileReady s g imgs touched := by
  simp only [tileReady, Bool.and_eq_true, decide_eq_true_eq, Bool.not_eq_true'] at h
  obtain ⟨⟨⟨⟨h1, h0⟩, h2⟩, h3⟩, h4⟩ := h
  refine ⟨h1, h0, h2, ?_, fun i hi hw => ?_⟩
  · split at h3
    · rename_i hs e
      exact ⟨hs, e, by simpa using h3⟩
    · cases h3
  · have := List.all_eq_true.mp h4 i hi
    simpa [hw] using this

theorem witness_matrix_rows (h : Obligations.MatrixRows) :
    AnswersNext (.mzero cu .f32 8) demoTile ∧ AnswersNext (.maccr ct .f32 12 8 11) demoTile ∧ AnswersNext (.maccw cv .bf16 8 11 12) demoTile
    ∧ AnswersNext (.mcvt cut .bf16 false .rn true 0 8 9) demoTile ∧ AnswersNext (.mrowmax ct 1 12 9 14) demoTile
    ∧ AnswersNext (.mrowexp ct false 0 1 12 8 9 10) demoTile ∧ AnswersNext (.mrowexp ct true 0 1 12 8 9 0) demoTile ∧ AnswersNext (.mstat cut 0 16) demoTile := by
  refine ⟨?_, ?_, ?_, ?_, ?_, ?_, ?_, ?_⟩
  · exact completes (h cu .f32 .bf16 false false false .rn 0 0 0 16 8 9 0).1 _ (by decide +kernel) (by decide +kernel) (tile_ready (by decide +kernel))
  · exact completes (h ct .f32 .bf16 false false false .rn 0 0 0 12 8 11 0).2.1 _ (by decide +kernel) (by decide +kernel)
      ⟨by decide +kernel, tile_ready (by decide +kernel), by decide +kernel⟩
  · exact completes (h cv .bf16 .bf16 false false false .rn 0 0 0 12 8 11 12).2.2.1 _ (by decide +kernel) (by decide +kernel)
      ⟨by decide +kernel, tile_ready (by decide +kernel)⟩
  · exact completes (h cut .f32 .bf16 false true false .rn 0 0 0 12 8 9 0).2.2.2.1 _ (by decide +kernel) (by decide +kernel) (tile_ready (by decide +kernel))
  · exact completes (h ct .f32 .bf16 false true false .rn 0 1 0 12 9 9 14).2.2.2.2.1 _ (by decide +kernel) (by decide +kernel) (tile_ready (by decide +kernel))
  · exact completes (h ct .f32 .bf16 false true false .rn 0 1 0 12 8 9 10).2.2.2.2.2.1 _ (by decide +kernel) (by decide +kernel) (tile_ready (by decide +kernel))
  · exact completes (h ct .f32 .bf16 false true true .rn 0 1 0 12 8 9 0).2.2.2.2.2.1 _ (by decide +kernel) (by decide +kernel) (tile_ready (by decide +kernel))
  · exact completes (h cut .f32 .bf16 false true true .rn 0 1 0 16 8 9 0).2.2.2.2.2.2 _ (by decide +kernel) (by decide +kernel) trivial

theorem witness_matrix_commands (h : Obligations.MatrixCommands) :
    AnswersNext (.mbq cu .bf16 true 8 11) demoTile ∧ AnswersNext (.mma cu .bf16 .bf16 .f32 0 0 0 8 9 10) demoTile
    ∧ AnswersNext (.mma cu .bf16 .bf16 .bf16sr 0 0 11 8 9 10) demoTile ∧ AnswersNext (.mmask cu true 3 11) demoTile := by
  refine ⟨?_, ?_, ?_, ?_⟩
  · exact completes (h.1 cu .bf16 .bf16 .bf16 .f32 true 0 0 0 8 11 0).1 _ (by decide +kernel) (by decide +kernel) (by decide +kernel)
  · exact completes (h.1 cu .bf16 .bf16 .bf16 .f32 true 0 0 0 8 9 10).2 _ (by decide +kernel) (by decide +kernel) (by decide +kernel)
  · exact completes (h.1 cu .bf16 .bf16 .bf16 .bf16sr true 0 0 11 8 9 10).2 _ (by decide +kernel) (by decide +kernel) (by decide +kernel)
  · obtain ⟨w, f, hi, -⟩ := ready_issues (c := cu) (n := { needs [] [uniField 11 1] 0 with mdsts := [3] }) (s := demoTile) {} (by decide +kernel)
    obtain ⟨v, hv, -⟩ := h.2 cu true 3 11 demoTile w f _ (by decide +kernel) hi
    exact ⟨_, hv⟩

/-! ### Engine commands -/

/-- WBIND's descriptor in u16 to u23: four rows of 64 bytes at 0x2000, no counter, into scratchpad offset 0 (R300); u24 to u27 a follow-on pass. -/
def demoBind : State := withU 16 [0x2000, 0, 0x160, 0x00040040, 64, 0, 0, 0, 0, 0x8000, 0, 0] demoTile

/-- The same into the tile store, behind what the pass uses. -/
def demoBindMma : State := withU 16 [0x2000, 0, 0x160, 0x00040040, 64, 0x8000F000, 0, 0, 0, 0x4000, 0, 0] demoTile

theorem witness_bind (h : Obligations.WindowBind) : AnswersNext (.wbind cu false 16 0) demoBind ∧ AnswersNext (.wbind cu true 16 24) demoBindMma := by
  constructor
  · exact completes (h cu false 16 0 [⟨0, 256, .mem 0x2000 none⟩] .none) demoBind (by decide +kernel) (by decide +kernel)
      ⟨demoBind.tasks.head (by decide +kernel), by decide +kernel⟩
  · exact completes (h cu true 16 24 [⟨0, 256, .mem 0x2000 none⟩] .none) demoBindMma (by decide +kernel) (by decide +kernel)
      ⟨demoBindMma.tasks.head (by decide +kernel), by decide +kernel⟩

/-- The task has a bound window at scratchpad offset 0. -/
def demoWindow : State := withT (fun t => { t with windows := [⟨0, 1, 256, [], 0, 0, .none, [], 0, false, 3, 0, 0⟩] }) demoTile

theorem witness_windows (h : Obligations.WindowCommands) :
    AnswersNext (.wkick cu 8) demoWindow ∧ AnswersNext (.wdrop cu 8) demoWindow ∧ AnswersNext (.wstat cut 16 8) demoWindow := by
  have named : ∃ t x, demoWindow.task? 2 = some t ∧ x ∈ t.windows ∧ x.word = 0 ∧ (x.state ≠ 0 ∨ x.binder = 3) :=
    ⟨demoWindow.tasks.head (by decide +kernel), ⟨0, 1, 256, [], 0, 0, .none, [], 0, false, 3, 0, 0⟩, by decide +kernel⟩
  have unlanded : (demoWindow.task? 2).all (fun t => t.windows.all (fun x => x.state != 3)) = true := by decide +kernel
  refine ⟨?_, ?_, ?_⟩
  · refine completes (h cu 16 8).1 demoWindow (by decide +kernel) (by decide +kernel) ⟨⟨by decide +kernel, named⟩, fun t ht x hx _ h3 => ?_⟩
    have hk : (goAt cu (needs [] [uniField 8 1] 0) demoWindow).w.task = 2 := by decide +kernel
    rw [hk] at ht
    simp only [ht, Option.all_some, List.all_eq_true] at unlanded
    exact absurd h3 (by simpa using unlanded x hx)
  · exact completes (h cu 16 8).2.1 demoWindow (by decide +kernel) (by decide +kernel) ⟨by decide +kernel, named⟩
  · exact completes (h cut 16 8).2.2 demoWindow (by decide +kernel) (by decide +kernel) trivial

/-- u16 to u23: RCOPY of 256 bytes from 0x2000 to 0x3000 (R311). -/
def demoCopy : State := withU 16 [0x2000, 0, 0x3000, 0, 256, 0x400, 0, 0] demo
/-- TOPK of one row of 4 FP32 scores, one winner, from 0x2000 to 0x3000 (R350). -/
def demoTopk : State := withU 16 [0x2000, 0, 4, 0x00300001, 0x3000, 0, 0, 0] demo
/-- COLL of 32 FP32 elements at 0x2000, rank 0 of 2, its member table at 0x3000 (R315). -/
def demoColl : State := withU 16 [0x2000, 0, 32, 0, 0x00020000, 0x3000, 0, 0] demo

theorem witness_engines (h : Obligations.EngineCommands) :
    AnswersNext (.rcopy cu 16 8) demoCopy ∧ AnswersNext (.topk cu 16) demoTopk ∧ AnswersNext (.coll cu 16) demoColl := by
  refine ⟨?_, ?_, ?_⟩
  · exact completes (h cu false 16 8 [⟨0, 256, .mem 0x2000 none⟩] [⟨0, 256, .mem 0x3000 none⟩] .none).1 demoCopy (by decide +kernel) (by decide +kernel)
      (by decide +kernel)
  · exact completes (h cu false 16 8 [⟨0, 16, .mem 0x2000 none⟩] [⟨0, 8, .mem 0x3000 none⟩] .none).2.1 demoTopk (by decide +kernel) (by decide +kernel)
      (by decide +kernel)
  · exact completes (h cu false 16 8 [⟨0, 128, .mem 0x2000 none⟩] [⟨0, 16, .mem 0x3000 none⟩] .none).2.2.1 demoColl (by decide +kernel) (by decide +kernel)
      (by decide +kernel)

/-- Realm 1 names a peer and may be written (R436); u16 to u23: memory unit 0 goes to it, no counter (R496). -/
def demoCkpt : State := withMem 0x10010 [0x24000000, 0, 0, 0] (withU 16 [1, 0, 0x00010008, 0, 0, 0, 0, 0] demo)

theorem witness_ckpt (h : Obligations.EngineCommands) : AnswersNext (.ckpt cu false 16) demoCkpt :=
  completes (h cu false 16 0 [] [] .none).2.2.2 demoCkpt (by decide +kernel) (by decide +kernel) (by decide +kernel)

/-! ### Synchronisation, work creation, system instructions -/

def demoSync : State := withU 8 [0x2000, 0, 5, 0, 0x00030002, 0] demo

theorem witness_barriers (h : Obligations.Barriers) :
    AnswersNext (.bar cv true 0) demoSync ∧ AnswersNext (.barq ct .arrive true 0 16) demoSync ∧ AnswersNext (.barq cv .wait true 0 16) demoSync
    ∧ AnswersNext (.barc cu .init 2 12) demoSync ∧ AnswersNext (.barc cu .arrive 2 10) demoSync ∧ AnswersNext (.barc cu .wait 2 10) demoSync
    ∧ AnswersNext (.barc cut .gen 2 16) demoSync ∧ AnswersNext (.cwait cu 0 true 8 10 2) demoSync ∧ AnswersNext (.cwait cu 0 false 8 10 0) demoSync := by
  refine ⟨?_, ?_, ?_, ?_, ?_, ?_, ?_, ?_, ?_⟩
  · exact completes (h cv true true 0 16 8 10 2 0 2 (.task 2) none).1 demoSync (by decide +kernel) (by decide +kernel)
      ⟨by decide +kernel, by decide +kernel, by decide +kernel⟩
  · exact completes (h ct true true 0 16 8 10 2 0 2 (.task 2) none).2.1 demoSync (by decide +kernel) (by decide +kernel)
      ⟨by decide +kernel, by decide +kernel, by decide +kernel⟩
  · exact completes (h cv true true 0 16 8 10 2 0 2 (.task 2) none).2.2.1 demoSync (by decide +kernel) (by decide +kernel)
      ⟨by decide +kernel, by decide +kernel, by decide +kernel⟩
  · exact completes (h cu true true 0 12 8 10 2 0 2 (.task 2) none).2.2.2.1 demoSync (by decide +kernel) (by decide +kernel) (by decide +kernel)
  · exact completes (h cu true true 0 10 8 10 2 0 2 (.task 2) none).2.2.2.2.1 demoSync (by decide +kernel) (by decide +kernel) (by decide +kernel)
  · exact completes (h cu true true 0 10 8 10 2 0 2 (.task 2) none).2.2.2.2.2.1 demoSync (by decide +kernel) (by decide +kernel) trivial
  · exact completes (h cut true true 0 16 8 10 2 0 2 (.task 2) none).2.2.2.2.2.2.1 demoSync (by decide +kernel) (by decide +kernel) trivial
  · exact completes (h cu true true 0 16 8 10 2 0 2 (.task 2) (some 0x1002)).2.2.2.2.2.2.2 demoSync (by decide +kernel) (by decide +kernel)
      ⟨⟨.home 0x2000, by decide +kernel⟩, by simp, fun _ => ⟨0x1002, by decide +kernel⟩⟩
  · exact completes (h cu true false 0 16 8 10 2 0 0 (.task 2) none).2.2.2.2.2.2.2 demoSync (by decide +kernel) (by decide +kernel)
      ⟨⟨.home 0x2000, by decide +kernel⟩, fun _ => rfl, by simp⟩

/-- A launch descriptor of one task at 0x4000, its offset in u8:u9; queue port 0 bound to the spawn queue. -/
def demoLaunch : State := withW (fun w => { w with regs := { w.regs with qbind := w.regs.qbind.set 0 0x10000006 } })
  (withMem 0x4000 (controlDesc placePart) (withU 8 [0x4000, 0, 1, 0x1000] demo))

theorem witness_work (h : Obligations.WorkCreation) :
    AnswersNext (.spawn cu 0 0 10) demoLaunch ∧ AnswersNext (.launch cu 0 8) demoLaunch ∧ AnswersNext (.resolve cut 16 11 10) demoLaunch
    ∧ AnswersNext (.role cu 2) demoLaunch := by
  refine ⟨?_, ?_, ?_, ?_⟩
  · exact completes (h cu 0 0 0 2 16 8 10 0 ⟨[], 0, [], [], [], [], .none, none, []⟩).1 demoLaunch (by decide +kernel) (by decide +kernel)
      ⟨by decide +kernel, ⟨demoLaunch.launches.head (by decide +kernel), by decide +kernel⟩, by decide +kernel, by decide +kernel⟩
  · let n := needs [] [uniField 8 2] 0
    refine completes (h cu 0 0 0 2 16 8 10 1 (okOf (launchRead demoLaunch (warpIssuer demoLaunch (goAt cu n demoLaunch).w (goAt cu n demoLaunch).f 0)
      ((goAt cu n demoLaunch).rd2 0 0 0) demoLaunch.model.nextId) ⟨[], 0, [], [], [], [], .none, none, []⟩)).2.1 demoLaunch
      (by decide +kernel) (by decide +kernel) ⟨⟨by decide +kernel, ok_of (by decide +kernel), by decide +kernel⟩,
        fun _ => ⟨demoLaunch.parts.head (by decide +kernel), by decide +kernel⟩⟩
  · exact completes (h cut 0 0 0 2 16 11 10 0 ⟨[], 0, [], [], [], [], .none, none, []⟩).2.2.2.1 demoLaunch (by decide +kernel) (by decide +kernel)
      (by decide +kernel)
  · exact completes (h cu 0 0 0 2 16 11 10 0 ⟨[], 0, [], [], [], [], .none, none, []⟩).2.2.2.2 demoLaunch (by decide +kernel) (by decide +kernel) trivial

theorem witness_shoot (h : Obligations.WorkCreation) : AnswersNext (.shoot cut 0 16 8 10) demoLaunch := by
  let n := needs [dstField true 16 1] [uniField 8 2, uniField 10 1] 0
  refine completes (h cut 0 0 0 2 16 8 10 1 (okOf (launchRead demoLaunch (warpIssuer demoLaunch (goAt cut n demoLaunch).w (goAt cut n demoLaunch).f 0)
    ((goAt cut n demoLaunch).rd2 0 0 0) demoLaunch.model.nextId) ⟨[], 0, [], [], [], [], .none, none, []⟩)).2.2.1 demoLaunch
    (by decide +kernel) (by decide +kernel) ⟨⟨by decide +kernel, ok_of (by decide +kernel), by decide +kernel⟩,
      fun _ => ⟨demoLaunch.parts.head (by decide +kernel), by decide +kernel⟩⟩

/-- The task was pre-empted: its launch keeps its warp's context slot 5 (R387). Breakpoints are enabled. -/
def demoSaved : State :=
  let s := withP (fun p => { p with dbgctl := 2 }) demo
  { s with launches := s.launches.map (fun l => { l with saved := [⟨0, none, [3], [some 5], [], [], ⟨none, 0, [], [], []⟩, []⟩] }) }

theorem witness_system (h : Obligations.SystemInstructions) :
    AnswersNext (.trap cv 7) demo ∧ AnswersNext (.brk cv 7) demoSaved ∧ AnswersNext (.brk cv 7) demo ∧ AnswersNext (.resume cu .self 0) demoSaved
    ∧ AnswersNext (.resume cu .warp 8) demo ∧ AnswersNext (.resume cu .kill 8) demo ∧ AnswersNext (.tlbinv cu true true 0 0 0) demo
    ∧ AnswersNext (.tlbinv cu false false 0 8 10) (withU 8 [0x20000, 0, 0x10000, 0] demo) ∧ AnswersNext (.pwrhint cv 3) demo := by
  refine ⟨?_, ?_, ?_, ?_, ?_, ?_, ?_, ?_, ?_⟩
  · exact completes (h.1 cv 7 8 10 0 true 3 5).1 demo (by decide +kernel) (by decide +kernel) trivial
  · exact completes (h.1 cv 7 8 10 0 true 3 5).2.1 demoSaved (by decide +kernel) (by decide +kernel)
      ⟨by decide +kernel, demoSaved.parts.head (by decide +kernel), by decide +kernel⟩
  · refine completes (h.1 cv 7 8 10 0 true 3 5).2.2.1 demo (by decide +kernel) (by decide +kernel) (.inr ?_)
    have e : demo.part? (goAt cv (needs [] [] 0) demo).w.part = some (demo.parts.head (by decide +kernel)) := by decide +kernel
    intro p hp
    rw [e] at hp
    cases hp
    decide +kernel
  · exact completes (h.1 cu 7 0 10 0 true 3 5).2.2.2.1 demoSaved (by decide +kernel) (by decide +kernel) (by decide +kernel)
  · exact completes ((h.1 cu 7 8 10 0 true 3 5).2.2.2.2.1 .warp (by decide)) demo (by decide +kernel) (by decide +kernel) (by decide +kernel)
  · exact completes ((h.1 cu 7 8 10 0 true 3 5).2.2.2.2.1 .kill (by decide)) demo (by decide +kernel) (by decide +kernel) (by decide +kernel)
  · exact completes (h.1 cu 7 0 0 0 true 3 5).2.2.2.2.2.1 demo (by decide +kernel) (by decide +kernel) (by decide +kernel)
  · exact completes (h.1 cu 7 8 10 0 false 3 5).2.2.2.2.2.2.1 _ (by decide +kernel) (by decide +kernel) (by decide +kernel)
  · exact completes (h.1 cv 7 8 10 0 false 3 5).2.2.2.2.2.2.2 demo (by decide +kernel) (by decide +kernel) trivial

theorem witness_illegal (h : Obligations.SystemInstructions) : AnswersNext (.illegalOpcode 0) demo := by
  have e : ∃ w f, demo.current = some (w, f) := ⟨_, _, (ready_issues (c := cv) (n := needs [] [] 0) {} (by decide +kernel)).choose_spec.choose_spec.1.cur⟩
  obtain ⟨w, f, e⟩ := e
  exact ⟨_, h.2 0 demo w f e⟩

theorem witness_registers (h : Obligations.SystemRegisters) :
    AnswersNext (.sread cut false 16 0x001) demo ∧ AnswersNext (.sread cut false 16 0x056) demo ∧ AnswersNext (.swrite cu false 0x001 8) demo
    ∧ AnswersNext (.swrite cu false 0x012 8) demo ∧ AnswersNext (.swrite cu false 0x040 8) demo := by
  refine ⟨?_, ?_, ?_, ?_, ?_⟩
  · exact completes (h cut false 16 8 0x001).1 demo (by decide +kernel) (by decide +kernel) (by decide +kernel)
  · exact completes (h cut false 16 8 0x056).1 demo (by decide +kernel) (by decide +kernel) (by decide +kernel)
  · exact completes (h cu false 16 8 0x001).2.1 demo (by decide +kernel) (by decide +kernel) (by decide +kernel)
  · exact completes ((h cu false 16 8 0x012).2.2.1 (by decide) (by decide)) demo (by decide +kernel) (by decide +kernel) (by decide +kernel)
  · exact completes ((h cu false 16 8 0x040).2.2.2 (by decide)) demo (by decide +kernel) (by decide +kernel) (by decide +kernel)

/-- The same warp at user level. -/
def demoUser : State := withW (fun w => { w with level := 0 }) demo

theorem witness_privilege (h : Obligations.Privilege) :
    AnswersNext (.resume cu .warp 8) demoUser ∧ AnswersNext (.tlbinv cu false true 0 0 0) demoUser ∧ AnswersNext (.ckpt cu false 16) demoUser
    ∧ AnswersNext (.sread cut false 16 0x056) demoUser ∧ AnswersNext (.swrite cu false 0x056 8) demoUser := by
  obtain ⟨w1, f1, i1, -⟩ := ready_issues (c := cu) (n := needs [] [uniField 8 1] 0) (s := demoUser) {} (by decide +kernel)
  obtain ⟨w2, f2, i2, -⟩ := ready_issues (c := cu) (n := needs [] [] 0) (s := demoUser) {} (by decide +kernel)
  obtain ⟨w3, f3, i3, -⟩ := ready_issues (c := cu) (n := needs [] [uniField 16 8] 0) (s := demoUser) {} (by decide +kernel)
  obtain ⟨w4, f4, i4, -⟩ := ready_issues (c := cut) (n := needs [dstField true 16 1] [] 0) (s := demoUser) {} (by decide +kernel)
  refine ⟨⟨_, (h cu false false false 16 8 10 0 0x056 .warp demoUser w1 f1 _).1 (by decide) (by decide +kernel) i1⟩,
    ⟨_, (h cu false false true 16 0 0 0 0x056 .warp demoUser w2 f2 _).2.1 (.inl (by decide +kernel)) i2⟩,
    ⟨_, (h cu false false false 16 16 10 0 0x056 .warp demoUser w3 f3 _).2.2.1 (.inl (by decide +kernel)) i3⟩,
    ⟨_, (h cut false false false 16 8 10 0 0x056 .warp demoUser w4 f4 _).2.2.2.1 (by decide +kernel) i4⟩,
    ⟨_, (h cu false false false 16 8 10 0 0x056 .warp demoUser w1 f1 _).2.2.2.2 (by decide +kernel) i1⟩⟩

/-- The same warp at supervisor level. -/
def demoSuper : State := withW (fun w => { w with level := 1 }) demo

theorem witness_other_level (h : Obligations.Privilege) :
    AnswersNext (.tlbinv cu true true 0 0 0) demoSuper ∧ AnswersNext (.ckpt cu true 16) demoSuper := by
  obtain ⟨w1, f1, i1, -⟩ := ready_issues (c := cu) (n := needs [] [] 0) (s := demoSuper) {} (by decide +kernel)
  obtain ⟨w2, f2, i2, -⟩ := ready_issues (c := cu) (n := needs [] [uniField 16 8] 0) (s := demoSuper) {} (by decide +kernel)
  exact ⟨⟨_, (h cu false true true 16 0 0 0 0x056 .warp demoSuper w1 f1 _).2.1 (.inr ⟨rfl, by decide +kernel⟩) i1⟩,
    ⟨_, (h cu false true false 16 16 10 0 0x056 .warp demoSuper w2 f2 _).2.2.1 (.inr ⟨rfl, by decide +kernel⟩) i2⟩⟩

/-- v4:v5 is the reversed interval [1, -1]; v6:v7 is [1, 1]; v8:v9 is the offset 2. -/
def demoBad : State := withV 4 [0x3F800000, 0xBF800000, 0x3F800000, 0x3F800000, 2, 0] demo

theorem witness_operand_traps (h : Obligations.OperandTraps) :
    AnswersNext (.ivadd cv .if32 12 (.v 4) (.v 6)) demoBad ∧ AnswersNext (.ld ct .b32 false 12 0 ⟨.v 8, 0, 0⟩) demoBad
    ∧ AnswersNext (.st cv .b32 ⟨.v 8, 0, 0⟩ (.v 4)) demoBad ∧ AnswersNext (.bra cv (-0x181)) demo := by
  obtain ⟨w1, f1, i1, -⟩ := ready_issues (c := cv) (n := needs [dstField false 12 2] [srcField (.v 4) 2, srcField (.v 6) 2] 6) (s := demoBad) {} (by decide +kernel)
  obtain ⟨w2, f2, i2, -⟩ := ready_issues (c := ct) (n := needs [dstField false 12 1] [srcField (.v 8) 2] 0) (s := demoBad) {} (by decide +kernel)
  obtain ⟨w3, f3, i3, -⟩ := ready_issues (c := cv) (n := { needs [] [srcField (.v 8) 2, srcField (.v 4) 1] 0 with carry := [1] }) (s := demoBad) {} (by decide +kernel)
  obtain ⟨w4, f4, i4, -⟩ := ready_issues (c := cv) (n := needs [] [] 0) (s := demo) {} (by decide +kernel)
  refine ⟨⟨_, (h.1 cv .if32 12 (.v 4) (.v 6) demoBad w1 f1 _ (by decide) i1).1 (by decide +kernel)⟩,
    ⟨_, (h.2.1 ct .b32 12 0 (.v 4) ⟨.v 8, 0, 0⟩ demoBad w2 f2 _ (by decide +kernel)).1 i2⟩,
    ⟨_, (h.2.1 cv .b32 12 0 (.v 4) ⟨.v 8, 0, 0⟩ demoBad w3 f3 _ (by decide +kernel)).2 i3⟩,
    ⟨_, h.2.2.1 cv (-0x181) demo w4 f4 _ (by decide +kernel) i4 (by decide +kernel)⟩⟩

/-- v4:v5 is the canonical empty interval, v6:v7 is [1, 1]. -/
def demoEmpty : State := withV 4 (ivWords .if32 (emptyBounds (ivBound .if32)) ++ [0x3F800000, 0x3F800000]) demo

/-- The fragment stands in the last slot of all. -/
def demoTop : State := withW (fun w => { w with regs := { w.regs with frags := w.regs.frags.map (fun f => { f with pc := 0xFFFFFFFFFFFFFFC5 }) } }) demo

/-- The line behind the demo line holds zeros: none of its slots is a target. -/
theorem witness_target_traps (h : Obligations.OperandTraps) :
    AnswersNext (.ivadd cv .if32 12 (.v 4) (.v 6)) demoEmpty ∧ AnswersNext (.bra cv 1) demoTop ∧ AnswersNext (.bra cv 6) demo := by
  obtain ⟨w1, f1, i1, -⟩ := ready_issues (c := cv) (n := needs [dstField false 12 2] [srcField (.v 4) 2, srcField (.v 6) 2] 6) (s := demoEmpty) {}
    (by decide +kernel)
  obtain ⟨w2, f2, i2, -⟩ := ready_issues (c := cv) (n := needs [] [] 0) (s := demoTop) {} (by decide +kernel)
  obtain ⟨w3, f3, i3, -⟩ := ready_issues (c := cv) (n := needs [] [] 0) (s := demo) {} (by decide +kernel)
  refine ⟨⟨_, (h.1 cv .if32 12 (.v 4) (.v 6) demoEmpty w1 f1 _ (by decide) i1).2 (by decide +kernel) (by decide +kernel) (by decide +kernel)⟩,
    ⟨_, (h.2.2.2.1 cv 1 demoTop w2 f2 _ (by decide +kernel) i2).1 (by decide +kernel)⟩,
    ⟨_, (h.2.2.2.1 cv 6 demo w3 f3 _ (by decide +kernel) i3).2.1 0x1040 _ (ok_eq (by decide +kernel)) (got (by decide +kernel))⟩⟩

/-- FPCTL enables every trap; v4 holds a signalling NaN, v6:v7 the interval from 1 to the next number. -/
def demoFp : State :=
  withW (fun w => { w with regs := { w.regs with fpctl := 0x1F0 } }) (withV 4 [0x7F800001, 0x3F800000, 0x3F800000, 0x3F800001] demo)

theorem flags_trap {i : Instr} {c : Ctl} {n : Need} {ok : Go → Prop} {fl : Go → Nat → Flags} (h : TrapsOnFlags i c n ok fl) (s : State)
    (hw : i.wf = true) (ho : opens c n s = true) (hok : ok (goAt c n s))
    (hf : (goAt c n s).lanes.filter (fun l => trappingFlags (goAt c n s).w.regs.fpctl (fl (goAt c n s) l) != 0) ≠ []) : AnswersNext i s := by
  obtain ⟨w, f, hi⟩ := opens_issues (c := c) (n := n) (s := s) {} ho
  obtain ⟨h1, h2⟩ := h hw s w f _ hi hok hf
  by_cases hl : n.lat ≠ 0 ∨ c.alloc = 0
  · exact ⟨_, h1 hl⟩
  · obtain ⟨v, e, hv, -⟩ := h2 (by simpa using fun k => hl (.inl k)) (fun k => hl (.inr k))
    exact ⟨_, hv⟩

theorem witness_flag_traps (h : Obligations.OperandTraps) :
    AnswersNext (.fadd cv .f32 .rn 12 (.v 4) (.v 5)) demoFp ∧ AnswersNext (.fsub cv .f32 .rn 12 (.v 4) (.v 5)) demoFp
    ∧ AnswersNext (.fmul cv .f32 .rn 12 (.v 4) (.v 5)) demoFp ∧ AnswersNext (.ffma cv .f32 .rn 12 (.v 4) (.v 5) (.v 5)) demoFp
    ∧ AnswersNext (.fsqrt ct .f32 .rn 12 (.v 4)) demoFp ∧ AnswersNext (.fdiv ct .f32 .rn 12 (.v 4) (.v 5)) demoFp
    ∧ AnswersNext (.fcvt cv .f32 .f32 .rn 0 12 (.v 4)) demoFp ∧ AnswersNext (.ivmid cv .if32 .f32 12 (.v 6)) demoFp := by
  obtain ⟨h1, h2, h3, h4, -, -, h7, -⟩ := h.2.2.2.2 cv .f32 .f32 .f32 .rn .if32 .f32 0 12 (.v 4) (.v 5) (.v 5)
  obtain ⟨-, -, -, -, h5, h6, -, -⟩ := h.2.2.2.2 ct .f32 .f32 .f32 .rn .if32 .f32 0 12 (.v 4) (.v 5) (.v 5)
  obtain ⟨-, -, -, -, -, -, -, h8⟩ := h.2.2.2.2 cv .f32 .f32 .f32 .rn .if32 .f32 0 12 (.v 6) (.v 5) (.v 5)
  exact ⟨flags_trap h1 demoFp (by decide +kernel) (by decide +kernel) trivial (by decide +kernel),
    flags_trap h2 demoFp (by decide +kernel) (by decide +kernel) trivial (by decide +kernel),
    flags_trap h3 demoFp (by decide +kernel) (by decide +kernel) trivial (by decide +kernel),
    flags_trap h4 demoFp (by decide +kernel) (by decide +kernel) trivial (by decide +kernel),
    flags_trap h5 demoFp (by decide +kernel) (by decide +kernel) trivial (by decide +kernel),
    flags_trap h6 demoFp (by decide +kernel) (by decide +kernel) trivial (by decide +kernel),
    flags_trap (h7 (by decide)) demoFp (by decide +kernel) (by decide +kernel) trivial (by decide +kernel),
    flags_trap h8 demoFp (by decide +kernel) (by decide +kernel) (by decide +kernel) (by decide +kernel)⟩

/-! ### The KV cache -/

/-- Two KV regions of 2 layers and 4 pages in realm 0: the pages of the first hold tokens 0 and 1 in BF16, those of the second are empty
(R323 to R327). The third descriptor names the first region's pages and a beam table of 2 beams and 128 tokens at 0x8000 (R348). -/
def demoKv : State :=
  let d (off beams : Nat) : List Word := [BitVec.ofNat 32 off, 0, 0x00040102, 0, 0, 0, BitVec.ofNat 32 beams, 0, 0, 0, 0, 0, 0, 0, 0, 0]
  let entry (k : Nat) : List Word := [3, 0, 0, 0, 0, 0, 0, BitVec.ofNat 32 (16 * (0x400 + 16 * k))]
  let s := withP (fun p => { p with kvpool := 0x00100000 }) demo
  withMem 0x200008 [0x300009, 0x300000] (withMem 0x300000 [0x310009, 0x700000] (withMem 0x310000 ((List.range 8).flatMap entry)
    (withMem 0x3000 (d 0x40000000 0 ++ d 0x40080000 0 ++ d 0x40000000 0x8000) (withMem 0x8000 [0x00010200] (withMem 0x9000 [0x00000001]
    (withV 6 [3] (withU 8 [0x3000, 0, 0x00010001, 0, 0x3040, 0, 0x00010000, 0] s)))))))

/-- The same with a slot selector: layer 1, group 0, channels from 0 on. -/
def demoSel : State := withU 8 [0x3000, 0, 0x00000001, 0] demoKv

/-- What a lane of KVLD, a lane of KVAPPEND, a page selector, an entry list give there. -/
def demoSlots (n : Need) : List (Nat × KvSlot × List (Nat × Nat)) :=
  let g := goAt ct n demoSel
  okOf (eachLane g.lanes (fun l => kvldLane demoSel g.w 0 (descWords g 1 4) 8 (g.rd 0 0 l).toNat)) []
def demoAppends (n : Need) : List (Nat × KvSlot) :=
  let g := goAt cv n demoSel
  okOf (eachLane g.lanes (fun l => kvAppendSlot demoSel g.w 0 (descWords g 1 4) (g.rd 0 0 l).toNat)) []
def demoPages (n : Need) (whole : Bool) (s : State) : KvRange :=
  let g := goAt cu n s
  okOf (kvPageRange s g.w 0 (descWords g 0 4) whole) ⟨[], 0, 0, []⟩
def demoLeaves (n : Need) (s : State) (write : Bool) (d : List Word) (cols : List (Nat × Nat)) (first k : Nat) : List KvLeaf :=
  okOf (kvEntries s (goAt cu n s).w write 0 d cols first k) []

def slotNeed : Need := { needs [dstField false 12 4] [srcField (.v 6) 1, uniField 8 4] 0 with pdsts := [2] }
def appendNeed : Need := { needs [] [srcField (.v 6) 1, uniField 8 4, srcField (.v 12) 4] 0 with carry := [2] }

theorem witness_kvld (h : Obligations.KvSlots) : AnswersNext (.kvld ct false 0 12 6 8 2) demoSel := by
  refine completes (h ct false false false 0 12 6 8 12 2 (demoSlots slotNeed) []).1 demoSel (by decide +kernel) (by decide +kernel) ⟨ok_of (x := eachLane _ _) (d := []) ?_, ?_⟩
  all_goals decide +kernel

theorem witness_kvappend (h : Obligations.KvSlots) : AnswersNext (.kvappend cv true false 0 6 8 12) demoSel := by
  refine completes (h cv false true false 0 12 6 8 12 2 [] (demoAppends appendNeed)).2 demoSel (by decide +kernel) (by decide +kernel) ⟨ok_of (x := eachLane _ _) (d := []) ?_, ?_⟩
  all_goals decide +kernel

theorem kv_open {s : State} {w : Warp} {ls : List KvLeaf}
    (h : ls.all (fun l => !kvRpend l.e && !meetsLock s w.part l.ea (l.ea + 32) false && !meetsDeclared s l.ea (l.ea + 32)
      && (sealedAt s l.ea).isNone) = true) : KvOpen s w ls := by
  intro l hl
  simpa [Option.isNone_iff_eq_none, and_assoc] using List.all_eq_true.1 h l hl

theorem kv_readable {s : State} {w : Warp} {ls : List KvLeaf} (h : ls.all (fun l => !kvRpend l.e && !readLocked s w.part (kvPlaces l.ea)) = true) :
    KvReadable s w ls := by
  intro l hl
  simpa using List.all_eq_true.1 h l hl

def maskNeed : Need := needs [] [uniField 8 4, uniField 12 2] 0
def maskRange : KvRange := demoPages maskNeed false demoKv

theorem witness_kvmask (h : Obligations.KvEntries) : AnswersNext (.kvmask cu .set 0 8 12) demoKv := by
  refine completes ((h.1 cu .set 0 8 12).1 (demoLeaves maskNeed demoKv true maskRange.d maskRange.cols maskRange.first maskRange.count) _) demoKv (by decide +kernel) (by decide +kernel)
    ⟨⟨maskRange, ok_of (x := kvPageRange demoKv _ _ _ _) (d := ⟨[], 0, 0, []⟩) ?_, ok_of (x := kvEntries demoKv _ _ _ _ _ _ _) (d := []) ?_, kv_open ?_⟩,
      ?_, rfl⟩
  all_goals decide +kernel

def demoFmt : State := withU 16 [0x04000500] demoKv

def fmtNeed : Need := needs [] [uniField 8 4, uniField 16 1] 0
def fmtRange : KvRange := demoPages fmtNeed false demoFmt

theorem witness_kvfmt (h : Obligations.KvEntries) : AnswersNext (.kvfmt cu 0 8 16) demoFmt := by
  refine completes ((h.1 cu .set 0 8 16).2.1 (demoLeaves fmtNeed demoFmt true fmtRange.d fmtRange.cols fmtRange.first fmtRange.count) _) demoFmt (by decide +kernel) (by decide +kernel)
    ⟨⟨fmtRange, ⟨ok_of (x := kvPageRange demoFmt _ _ _ _) (d := ⟨[], 0, 0, []⟩) ?_, ok_of (x := kvEntries demoFmt _ _ _ _ _ _ _) (d := []) ?_, kv_open ?_⟩, ?_⟩,
      ?_, ?_, ?_, ?_, ?_, ?_, rfl⟩
  all_goals decide +kernel

def demoProv : State := withU 16 [7, 9] demoKv

def provNeed : Need := needs [] [uniField 8 4, uniField 16 2] 0
def provRange : KvRange := demoPages provNeed false demoProv

theorem witness_kvprov (h : Obligations.KvEntries) : AnswersNext (.kvprov cu 0 8 16) demoProv := by
  refine completes ((h.1 cu .set 0 8 16).2.2 (demoLeaves provNeed demoProv true provRange.d provRange.cols provRange.first provRange.count) _) demoProv (by decide +kernel) (by decide +kernel)
    ⟨⟨provRange, ok_of (x := kvPageRange demoProv _ _ _ _) (d := ⟨[], 0, 0, []⟩) ?_, ok_of (x := kvEntries demoProv _ _ _ _ _ _ _) (d := []) ?_, kv_open ?_⟩,
      ?_, rfl⟩
  all_goals decide +kernel

/-- The selectors swapped: the empty region first, one page. -/
def demoShare : State := withU 8 [0x3040, 0, 0x00010000, 0, 0x3000, 0, 0x00000000, 0] demoKv
def shareNeed : Need := needs [] [uniField 8 4, uniField 12 4] 0
def shareRange : KvRange := demoPages shareNeed true demoShare
def shareSource : List Word × Nat :=
  okOf (kvSource demoShare (goAt cu shareNeed demoShare).w 0 (descWords (goAt cu shareNeed demoShare) 1 4) shareRange.d shareRange.count) ([], 0)
def shareSrc : List KvLeaf := demoLeaves shareNeed demoShare false shareSource.1 shareRange.cols shareSource.2 shareRange.count

theorem share_range : kvPageRange demoShare (goAt cu shareNeed demoShare).w 0 (descWords (goAt cu shareNeed demoShare) 0 4) true = .ok shareRange :=
  ok_of (d := ⟨[], 0, 0, []⟩) (by decide +kernel)
theorem share_source : kvSource demoShare (goAt cu shareNeed demoShare).w 0 (descWords (goAt cu shareNeed demoShare) 1 4) shareRange.d shareRange.count
    = .ok (shareSource.1, shareSource.2) := ok_of (d := ([], 0)) (by decide +kernel)
theorem share_src : kvEntries demoShare (goAt cu shareNeed demoShare).w false 0 shareSource.1 shareRange.cols shareSource.2 shareRange.count
    = .ok shareSrc := ok_of (d := []) (by decide +kernel)

theorem witness_kvshare (h : Obligations.KvSharing) : AnswersNext (.kvshare cu 0 8 12) demoShare := by
  refine completes ((h cu false 0 8 12).1 _ _) demoShare (by decide +kernel) (by decide +kernel)
    ⟨shareRange, shareSource.1, shareSource.2, demoLeaves shareNeed demoShare true shareRange.d shareRange.cols shareRange.first shareRange.count,
      shareSrc, ⟨?_, share_range, share_source⟩, ?_, ok_of (x := kvEntries demoShare _ _ _ _ _ _ _) (d := []) ?_, share_src, kv_open ?_, kv_readable ?_, ?_, ?_,
      ok_of (x := kvUnshared demoShare _ _) (d := ()) ?_, rfl, rfl⟩
  all_goals decide +kernel

/-- Answers that are all given. -/
theorem all_some {α β : Type} {f : α → Option (List β)} {l : List α} (h : l.all (fun x => (f x).isSome) = true) :
    l.map f = (l.map (fun x => (f x).getD [])).map some := by
  rw [List.map_map]
  refine List.map_congr_left (fun x hx => ?_)
  obtain ⟨y, hy⟩ := Option.isSome_iff_exists.1 (List.all_eq_true.1 h x hx)
  simp [hy]

theorem witness_graft (h : Obligations.KvSharing) : AnswersNext (.graft cu true 0 8 12) demoShare := by
  refine completes ((h cu true 0 8 12).2 _ _) demoShare (by decide +kernel) (by decide +kernel)
    ⟨shareRange, shareSource.1, shareSource.2, demoLeaves shareNeed demoShare true shareRange.d shareRange.cols shareRange.first
      (kvPps shareRange.d - shareRange.first), shareSrc, _, ⟨?_, share_range, share_source⟩, ?_,
      ok_of (x := kvEntries demoShare _ _ _ _ _ _ _) (d := []) ?_, share_src, kv_open ?_, kv_readable ?_, ?_, ?_, ok_of (x := kvUnshared demoShare _ _) (d := ()) ?_,
      all_some ?_, rfl, rfl⟩
  all_goals decide +kernel

/-- The first region's first two pages; a repair descriptor in u16 on; a beam selector, the permutation and its T. -/
def demoTokens : State := withU 8 [0x3000, 0, 0x00020000, 0, 0, 0, 0, 0, 0, 0, 0, 0, 0x20000, 0, 0x30000, 0, 0x3080, 0, 0, 0, 0x9000, 0, 5] demoKv

def compactNeed : Need := needs [] [uniField 8 4] 0
def compactGot : KvRange × List (List KvLeaf) × List (List Nat) :=
  okOf (compactPlan demoTokens (goAt cu compactNeed demoTokens).w 0 (descWords (goAt cu compactNeed demoTokens) 0 4)) (⟨[], 0, 0, []⟩, [], [])
def repairNeed : Need := needs [] [uniField 8 4, uniField 16 8] 0
def repairGot : KvRange × List KvLeaf × CounterRef :=
  let g := goAt cu repairNeed demoTokens
  okOf (repairPlan demoTokens g.w 0 (descWords g 0 4) (descWords g 1 8)) (⟨[], 0, 0, []⟩, [], .none)
def beamNeed : Need := needs [] [uniField 24 4, uniField 28 2, uniField 30 1] 0
def beamGot : DWord × Word × List Nat × List Piece × List Piece :=
  let g := goAt cu beamNeed demoTokens
  okOf (beamPlan demoTokens g.w 0 (descWords g 0 4) (g.rd2 1 0 0) (g.rd 2 0 0).toNat) (0, 0, [], [], [])

theorem witness_kvcompact (h : Obligations.KvCommands) : AnswersNext (.kvcompact cu 0 8) demoTokens := by
  refine completes (h cu 0 8 16 30 compactGot.1 compactGot.2.1 compactGot.2.2 [] .none 0 0 [] [] []).1 demoTokens
    (by decide +kernel) (by decide +kernel) ⟨ok_of (x := compactPlan demoTokens _ _ _) (d := (⟨[], 0, 0, []⟩, [], [])) ?_, ?_⟩
  all_goals decide +kernel

theorem witness_repair (h : Obligations.KvCommands) : AnswersNext (.repair cu 0 8 16) demoTokens := by
  refine completes (h cu 0 8 16 30 repairGot.1 [] [] repairGot.2.1 repairGot.2.2 0 0 [] [] []).2.1 demoTokens
    (by decide +kernel) (by decide +kernel) ⟨ok_of (x := repairPlan demoTokens _ _ _ _) (d := (⟨[], 0, 0, []⟩, [], .none)) ?_, ?_⟩
  all_goals decide +kernel

theorem witness_beammap (h : Obligations.KvCommands) : AnswersNext (.beammap cu 0 24 28 30) demoTokens := by
  refine completes (h cu 0 24 28 30 ⟨[], 0, 0, []⟩ [] [] [] .none beamGot.1 beamGot.2.1 beamGot.2.2.1 beamGot.2.2.2.1 beamGot.2.2.2.2).2.2 demoTokens
    (by decide +kernel) (by decide +kernel) ⟨ok_of (x := beamPlan demoTokens _ _ _ _ _) (d := (0, 0, [], [], [])) ?_, ?_⟩
  all_goals decide +kernel

/-! ### Events: states in which what starts a step holds -/

theorem runs {i : Instr} {s : State} {us : List Upd} (h : Runs i s us) : AnswersNext i s := ⟨_, h⟩

theorem stays {i : Instr} {s : State} (h : exec i s = .next s) : AnswersNext i s := ⟨_, h⟩


/-- The state after an instruction. -/
def after (i : Instr) (s : State) : State :=
  match exec i s with
  | .next t => t
  | .fault _ => s
  | .refused _ => s

/-- Warp 3 of the demo machine, its fragment 0; the machine's partition. -/
theorem warp_there : (demo.warp? 3).isSome = true := by decide +kernel

/-- A pending tag t1 that a unit still works for. -/
def demoTag : TagEntry :=
  { tag := 1, seq := 9, pc := 0x1000, mask := 1, returned := false, awaits := .unit, writes := [], flags := 0,
    raises := none, own := false, dst := 12, duni := false, width := 1, lanes := [], stations := [], ext := 0, tiles := [], kv := [],
    since := 0 }

def withTag (e : TagEntry) (s : State) : State := withW (fun w => { w with regs := { w.regs with tags := [e] } }) s
def withChunk (f : Chunk → Chunk) (s : State) : State := withW (fun w => { w with chunk := f w.chunk }) s

/-- A warp whose chunk has started, with one instruction in it; one that has ended. -/
def demoChunk : State := withW (fun w => { w with chunk := { w.chunk with start := some w.regs, count := 1 } }) demo
def demoEnded : State := withChunk (fun c => { c with phase := .ended }) demoChunk

/-- A KVLD waits under t1 for the page of layer 1, which no repair holds any more (R336). -/
def demoGather : State :=
  withTag { demoTag with awaits := .kv, lanes := [0], width := 4, tiles := [(3, 0)], kv := [0, 0, 2, 0x3000, 0, 1, 0] } demoSel

/-- A peer's answer is awaited for lane 0. -/
def demoPeer : State := withTag { demoTag with awaits := .peer, lanes := [0], stations := [5] } demo

/-- A tag whose translation has failed (R266). -/
def demoLate : State := withTag { demoTag with awaits := .late, raises := some (raise .xlateMiss) } demo

/-- The trap of a late translation is taken by the warp that issued the instruction. -/
theorem test_late_trap : ((after (.tagReturn 3 1 .none) demoLate).warp? 3).any (fun w => match w.mode with
    | .trapping ws => wfield ws 0 26 6 == 11
    | _ => false) = true := by decide +kernel

theorem witness_core_events (h : Obligations.CoreEvents) :
    AnswersNext (.lineRefetch 0 0x1000) demo
    ∧ AnswersNext (.fixedLatencyWriteback 3) (withW (fun w => { w with inflight := [⟨0, [12], [], [], 1⟩] }) demo)
    ∧ AnswersNext (.switchMarkerResume 3) (withW (fun w => { w with holds := [.switch] }) demo)
    ∧ AnswersNext (.chunkLimitEnd 3) (withChunk (fun c => { c with count := 512 }) demoChunk)
    ∧ AnswersNext (.walkComplete ⟨0, 0, 0, 0⟩ 0 0x20000) demo ∧ AnswersNext (.translationParityError 0) demo := by
  obtain ⟨h1, h2, -, h4, h5, h6, h7, -⟩ := h
  refine ⟨runs (h1 0 0x1000 demo), runs (h2 3 _ _ (got (by decide +kernel)) (by decide +kernel)),
    runs (h4 3 (withW (fun w => { w with holds := [.switch] }) demo) _ (got (by decide +kernel)) ?_ ?_ ?_ ?_),
    runs (h5 3 _ _ (got (by decide +kernel)) (by decide +kernel) (by decide +kernel)), ?_, runs (h7 0 demo)⟩
  on_goal 5 => refine runs (h6 0 0 0 0 0 0x20000 demo (demo.parts.head (by decide +kernel)) 0 (2 ^ 30) true true true ?_ ?_ ?_ ?_ ?_ ?_)
  all_goals decide +kernel

theorem witness_tag_returns (h : Obligations.CoreEvents) :
    AnswersNext (.tagReturn 3 1 (.data [] [])) (withTag demoTag demo) ∧ AnswersNext (.tagReturn 3 1 (.data [7] [])) demoPeer
    ∧ AnswersNext (.tagReturn 3 1 .none) demoLate ∧ AnswersNext (.tagReturn 3 1 (.error 5)) demoPeer := by
  obtain ⟨-, -, h3, -⟩ := h
  refine ⟨runs ((h3 3 1 _ _ _ _ (got (by decide +kernel)) (got (by decide +kernel))).1 (by decide +kernel)),
    runs ((h3 3 1 _ _ _ _ (got (by decide +kernel)) (got (by decide +kernel))).2.2.1 0 [] [7] [] (by decide +kernel) (by decide +kernel)
      (by decide +kernel) (by decide +kernel) rfl),
    runs ((h3 3 1 _ _ _ _ (got (by decide +kernel)) (got (by decide +kernel))).2.1 (raise .xlateMiss) (by decide +kernel) (by decide +kernel)), ?_⟩
  obtain ⟨t, -, -, -, -, r⟩ := (h3 3 1 (.error 5) demoPeer _ _ (got (by decide +kernel)) (got (by decide +kernel))).2.2.2 0 [] 5
    (by decide +kernel) (by decide +kernel) (by decide +kernel) (by decide) rfl
  exact runs r

theorem witness_invalidations (h : Obligations.CoreEvents) :
    AnswersNext (.invalidationAck 9) { demo with xl := { demo.xl with invals := [⟨9, 0, some 0, 0, 1, none⟩] } }
    ∧ AnswersNext (.entryChangeAck 9) { demo with xl := { demo.xl with changes := [⟨9, 0, some 0, 0, 1, some 3⟩] } }
    ∧ AnswersNext (.kvldWaitGather 3 1) demoGather := by
  obtain ⟨-, -, -, -, -, -, -, h8, h9, h10⟩ := h
  refine ⟨runs (h8 9 _ _ (got (by decide +kernel)) ?_), runs (h9 9 _ _ (got (by decide +kernel)) ?_), ?_⟩
  · decide +kernel
  · decide +kernel
  · obtain ⟨v, r, -⟩ := h10 3 1 demoGather (demoGather.warps.head (by decide +kernel))
      (((demoGather.warps.head (by decide +kernel)).regs.tags).head (by decide +kernel))
      (okOf (gatherable demoGather (demoGather.warps.head (by decide +kernel))
        (((demoGather.warps.head (by decide +kernel)).regs.tags).head (by decide +kernel))) [])
      (by decide +kernel) (by decide +kernel) (ok_of (x := gatherable _ _ _) (d := []) (by decide +kernel)) (by decide +kernel)
    exact runs r

/-- An MMA that waits for its grant, its chunk committed, its four quarters held; the second: one quarter of another format. -/
def demoEntry (bad : Bool) : State :=
  let s := after (.mma cu .bf16 .bf16 .f32 0 0 0 8 9 10) demoTile
  { s with mat := { s.mat with
      entries := s.mat.entries.map (fun e => { e with committed := true })
      quarters := s.mat.entries.flatMap (fun e => (entryQuarters e).map (fun q =>
        ⟨q.1, e.set, if bad && q.1 == 1 then .s8 else e.bf, e.gen, e.launch, List.replicate 16 0, []⟩)) } }

def demoGranted : State := { demoEntry false with mat := { (demoEntry false).mat with
  entries := (demoEntry false).mat.entries.map (fun e => { e with granted := true }) } }

/-- A copy of a quarter whose chunk has committed. -/
def demoQuarter : State := { demoTile with mat := { demoTile.mat with copies :=
  [⟨9, 0, 0, .bf16, 2, 1, 2, 3, 0, true, 0, 0, 0x1000, 0, (demo.warps.head (by decide +kernel)).ident, 0, 0, []⟩] } }

theorem witness_chunk_events (h : Obligations.ChunkAndMatrixEvents) :
    AnswersNext (.chunkPosition 3) demo ∧ AnswersNext (.chunkPosition 3) (withW (fun w => { w with pending := [raise .argRange] }) demoEnded)
    ∧ AnswersNext (.chunkPosition 3) (withChunk (fun c => { c with after := [.barcInit 0 1 1], contribs := [] })
        (withT (fun t => { t with cbars := [⟨1, 1, 1, 0, [], []⟩] }) demoEnded))
    ∧ AnswersNext (.chunkPosition 3) demoEnded
    ∧ AnswersNext (.commitComplete 4) { demo with order := { demo.order with
        commits := [⟨4, 3, 0, 1, 2, (demo.warps.head (by decide +kernel)).ident, 0x1000, [], [], [], []⟩] } } := by
  obtain ⟨h1, h2, -⟩ := h
  refine ⟨stays ((h1 3 demo _ (got (by decide +kernel))).1 (by decide +kernel)), ?_, ?_,
    runs ((h1 3 _ _ (got (by decide +kernel))).2.2.2 (by decide +kernel) (by decide +kernel) (by decide +kernel)),
    runs ((h2 4 _ _ (got (by decide +kernel))).1 (by decide +kernel))⟩
  · exact runs ((h1 3 _ _ (got (by decide +kernel))).2.1 (raise .argRange) _ (by decide +kernel) rfl)
  · exact runs ((h1 3 _ _ (got (by decide +kernel))).2.2.1 _ (by decide +kernel) (by decide +kernel) (got (by decide +kernel)))

/-- Warp 3 asks for its turn for a wave atomic. -/
def asking (i : Instr) (s : State) : State := withW (fun w => { w with waveAsk := some (0, i) }) s

theorem witness_wave_execute (h : Obligations.ChunkAndMatrixEvents) :
    AnswersNext (.waveAtomicExecute 3) (asking (.talloc cut 16 11) demoTile) ∧ AnswersNext (.waveAtomicExecute 3) (asking (.tfree cu 8 11) demoTile)
    ∧ AnswersNext (.waveAtomicExecute 3) (asking (.atom ct .add false .task 12 ⟨.v 4, 0, 0⟩ (.v 6)) demoWave) := by
  obtain ⟨-, -, h3, -⟩ := h
  refine ⟨runs ((h3 3 0 _ _ _ _ (got (by decide +kernel)) ?_ (got (by decide +kernel)) ?_ ?_).1 cut 16 11 rfl),
    runs ((h3 3 0 _ _ _ _ (got (by decide +kernel)) ?_ (got (by decide +kernel)) ?_ ?_).2.1 cu 8 11 rfl),
    runs ((h3 3 0 _ _ _ _ (got (by decide +kernel)) ?_ (got (by decide +kernel)) ?_ ?_).2.2 ct .add false .task 12 ⟨.v 4, 0, 0⟩ (.v 6) rfl)⟩
  all_goals decide +kernel

theorem witness_matrix_events (h : Obligations.ChunkAndMatrixEvents) :
    AnswersNext (.mmaGrant 0) (demoEntry false) ∧ AnswersNext (.mmaGrant 0) (demoEntry true)
    ∧ (∃ e, demoGranted.entry? e.id = some e ∧ AnswersNext (.passComplete e.id) demoGranted) ∧ AnswersNext (.quarterCopy 9) demoQuarter := by
  obtain ⟨-, -, -, h4, h5, h6⟩ := h
  refine ⟨?_, ?_, ⟨demoGranted.mat.entries.head (by decide +kernel), by decide +kernel, ?_⟩, ?_⟩
  · refine runs ((h4 0 _ _ (got (by decide +kernel))).1 ?_)
    decide +kernel
  · refine runs ((h4 0 _ _ (got (by decide +kernel))).2 ?_)
    decide +kernel
  · exact runs ((h5 _ demoGranted _ (got (by decide +kernel)) (by decide +kernel)).1 (by decide +kernel))
  · obtain ⟨q, r⟩ := (h6 9 demoQuarter _ (got (by decide +kernel)) (by decide +kernel)).1 (by decide +kernel)
    exact runs r.2.2.2.2.2.2.2.2

/-- The launch is deterministic, and another warp of its tree has written the word first, unordered with what comes (R264). -/
def raced (as : State → List Access) (s : State) : State :=
  let d : State := { s with launches := s.launches.map (fun l => { l with det := true }) }
  let other (a : Access) : Access := { a with thread := a.thread + 1000, warp := 77, key := { a.key with taskid := 99 }, stamp := 5, write := true }
  { d with order := { d.order with accesses := ((as d).head?.toList).map other } }

/-- A pass of one element, and a copy of the smallest image, each after another warp's write. -/
def racedPass : State := raced (fun s => s.mat.entries.flatMap (passAccesses s)) { demoGranted with mat := { demoGranted.mat with
  entries := demoGranted.mat.entries.map (fun e => { e with rowMask := 1, colMask := 1, kv := 1 }) } }
def racedCopy : State := raced (fun s => s.mat.copies.flatMap (fun c => tileAccesses s c.launch c.warp c.who c.path c.pc c.thread c.stamp c.clock
  (wordsOf ⟨.tile, c.task, c.tile⟩ (matImage c.fmt 16)) []))
  { demoQuarter with mat := { demoQuarter.mat with copies := demoQuarter.mat.copies.map (fun c => { c with fmt := .mxfp4 }) } }

/-- Two commits of warp 3, of which the later counts. -/
def demoCounting : State := { demo with order := { demo.order with commits :=
  [⟨3, 3, 0, 1, 2, (demo.warps.head (by decide +kernel)).ident, 0x1000, [], [], [], []⟩,
   ⟨4, 3, 0, 1, 2, (demo.warps.head (by decide +kernel)).ident, 0x1000, [], [], [.count (.home 0x2000) 1 [] false], []⟩] } }

theorem witness_races (h : Obligations.ChunkAndMatrixEvents) :
    (∃ e, racedPass.entry? e.id = some e ∧ AnswersNext (.passComplete e.id) racedPass) ∧ AnswersNext (.quarterCopy 9) racedCopy
    ∧ AnswersNext (.commitComplete 4) demoCounting := by
  obtain ⟨-, h2, -, -, h5, h6⟩ := h
  refine ⟨⟨racedPass.mat.entries.head (by decide +kernel), by decide +kernel, ?_⟩, ?_, ?_⟩
  · exact runs ((h5 _ racedPass _ (got (by decide +kernel)) (by decide +kernel)).2 _ (got (by decide +kernel)))
  · exact runs ((h6 9 racedCopy _ (got (by decide +kernel)) (by decide +kernel)).2 _ (got (by decide +kernel)))
  · exact stays ((h2 4 demoCounting _ (got (by decide +kernel))).2 (by decide +kernel))

/-- WALL has gone far. -/
def late (s : State) : State := { s with dev := { s.dev with wall := 0x10000000000 } }

/-- Fragment 0 parked. -/
def parkedAt (k : Park) (s : State) : State := withW (fun w => { w with regs := { w.regs with frags := w.regs.frags.map (fun f => { f with park := k }) } }) s

def demoCwait (target : DWord) : State := parkedAt (.counter 0 0x2000 target none (target == 0) 0) demo

theorem witness_cwait (h : Obligations.WaitEvents) :
    AnswersNext (.cwaitWake 3 0 none) (demoCwait 0) ∧ AnswersNext (.cwaitWake 3 0 none) (demoCwait 5) := by
  have a : (demoCwait 0).warp? 3 = some _ := got (by decide +kernel)
  have b : (demoCwait 5).warp? 3 = some _ := got (by decide +kernel)
  refine ⟨?_, ?_⟩
  · refine runs ((h.1 3 0 none _ _ _ 0x2000 0 none true a ?_ (got (by decide +kernel)) ?_).1 ?_) <;> decide +kernel
  · obtain ⟨v, r, -⟩ := (h.1 3 0 none _ _ _ 0x2000 5 none false b (by decide +kernel) (got (by decide +kernel)) (by decide +kernel)).2 (by decide +kernel)
    exact runs r

theorem witness_sleep (h : Obligations.WaitEvents) : AnswersNext (.sleepWake 3 0) (parkedAt (.sleep 0) demo) := by
  have a : (parkedAt (.sleep 0) demo).warp? 3 = some _ := got (by decide +kernel)
  refine runs (h.2.1 3 0 0 _ _ _ a (got (by decide +kernel)) ?_ ?_ ?_) <;> decide +kernel

def demoTimer : State := late (withW (fun w => { w with timer := 5 }) demo)

theorem witness_timer (h : Obligations.WaitEvents) : AnswersNext (.timerTrap 3) demoTimer := by
  have a : demoTimer.warp? 3 = some _ := got (by decide +kernel)
  have f : lowFrag ((demoTimer.warp? 3).get (by decide +kernel)) = some _ := got (by decide +kernel)
  refine runs (h.2.2.1 3 demoTimer _ _ a f ?_ ?_ ?_ ?_ ?_ ?_ ?_) <;> decide +kernel

/-- q0 is the core queue 0, which is empty; the fragment has been tried and waits for an element. -/
def demoQueue : State :=
  let s := withW (fun w => { w with regs := { w.regs with
    qbind := w.regs.qbind.set 0 0x20000000, frags := w.regs.frags.map (fun f => { f with ask := some (.queue 0) }) } }) (late demo)
  { s with model := { s.model with tried := [(3, 0)] } }

/-- The task's save handler has run too long. -/
def demoSaving : State :=
  let s := withT (fun t => { t with phase := 1 }) (late demo)
  withW (fun w => { w with regs := { w.regs with frags := w.regs.frags.map (fun f => { f with since := 0x10000000000 }) } }) s

theorem witness_watchdogs (h : Obligations.WaitEvents) :
    AnswersNext (.waitProgress (.fragment 3 0)) (late (parkedAt (.cbWait 2 0) demo))
    ∧ AnswersNext (.waitProgress (.fragment 3 0)) (parkedAt (.cbWait 2 0) demo) ∧ AnswersNext (.waitProgress (.fragment 3 0)) demoSaving
    ∧ AnswersNext (.queueProgress 3 0) demoQueue := by
  obtain ⟨-, -, -, h4, h5, h6⟩ := h
  have a : (late (parkedAt (.cbWait 2 0) demo)).warp? 3 = some _ := got (by decide +kernel)
  have b : (parkedAt (.cbWait 2 0) demo).warp? 3 = some _ := got (by decide +kernel)
  have e : demoSaving.warp? 3 = some _ := got (by decide +kernel)
  have q : demoQueue.warp? 3 = some _ := got (by decide +kernel)
  have early : (((parkedAt (.cbWait 2 0) demo).task? 2).all (fun t => t.phase != 1)) = true := by decide +kernel
  have two : (((parkedAt (.cbWait 2 0) demo).warp? 3).get (by decide +kernel)).task = 2 := by decide +kernel
  refine ⟨?_, ?_, ?_, ?_⟩
  · refine runs ((h4 3 0 _ _ _ 2 0 a (got (by decide +kernel)) ?_ ?_).1 ?_ ?_) <;> decide +kernel
  · refine stays ((h4 3 0 _ _ _ 2 0 b (got (by decide +kernel)) ?_ ?_).2 ?_ (fun t ht => ?_))
    · decide +kernel
    · decide +kernel
    · decide +kernel
    · rw [two] at ht
      rw [ht] at early
      exact bne_iff_ne.1 early
  · refine runs (h5 3 0 _ _ _ (demoSaving.tasks.head (by decide +kernel)) e (got (by decide +kernel)) ?_ ?_ ?_ ?_ ?_ ?_) <;> decide +kernel
  · refine runs (h6 3 0 _ _ _ q (got (by decide +kernel)) ?_ ?_ ?_) <;> decide +kernel

/-! ### Engines: commands that have left -/

/-- The command in flight, sent and changed further. -/
def sentJob (f : Job → Job) (s : State) : State := { s with eng := { jobs := s.eng.jobs.map (fun j => f { j with sent := true }) } }
/-- Its identity. -/
def jobId (s : State) : Nat := ((s.eng.jobs.head?).map (·.id)).getD 0

def copyJob : State := sentJob id (after (.rcopy cu 16 8) demoCopy)
def topkJob : State := sentJob id (after (.topk cu 16) demoTopk)
def collJob : State := sentJob (fun j => { j with phase := 1 }) (after (.coll cu 16) demoColl)
def compactJob : State := sentJob (fun j => { j with landed := j.total - 1 }) (after (.kvcompact cu 0 8) demoTokens)
def beamJob : State := sentJob id (after (.beammap cu 0 24 28 30) demoTokens)
def ckptJob : State := sentJob id (after (.ckpt cu false 16) demoCkpt)
def repairJob (phase : Nat) : State := sentJob (fun j => { j with phase := phase }) (after (.repair cu 0 8 16) demoTokens)
/-- The same command with everything landed. -/
def landed (s : State) : State := sentJob (fun j => { j with landed := j.total }) s

/-- The bytes a granule takes, where it takes some. -/
def granuleBytes (g : Granule) : List (Byte × Bool) × List Place :=
  match g with
  | .bytes bs reads => (bs, reads)
  | .wait => ([], [])
  | .ask _ => ([], [])
  | .fault _ => ([], [])

theorem granule_got {g : Granule} (h : (granuleBytes g).1.length = 128) : g = .bytes (granuleBytes g).1 (granuleBytes g).2 := by
  cases g <;> simp_all [granuleBytes]

theorem witness_granules (h : Obligations.EngineEvents) :
    AnswersNext (.runnerGranule (jobId copyJob) .none) copyJob := by
  have j : copyJob.job? (jobId copyJob) = some _ := got (by decide +kernel)
  refine runs ((h.1 _ copyJob _ j).2.1 .none _ _ [⟨0, 128, .mem 0x3000 none⟩] (by decide +kernel) (by decide +kernel)
    (by decide +kernel) (granule_got (by decide +kernel)) (by decide +kernel) ?_)
  intro p hp
  simp only [List.mem_singleton] at hp
  exact ⟨0x3000, none, by rw [hp]⟩

theorem witness_granules_more (h : Obligations.EngineEvents) :
    AnswersNext (.runnerGranule (jobId topkJob) .none) topkJob ∧ AnswersNext (.runnerGranule (jobId beamJob) .none) beamJob
    ∧ AnswersNext (.runnerGranule (jobId collJob) .none) collJob ∧ AnswersNext (.runnerGranule (jobId ckptJob) .none) ckptJob
    ∧ AnswersNext (.runnerGranule (jobId ckptJob) .none) (landed ckptJob)
    ∧ AnswersNext (.runnerGranule (jobId copyJob) .none) (after (.rcopy cu 16 8) demoCopy) := by
  have h1 := h.1
  have a : topkJob.job? (jobId topkJob) = some _ := got (by decide +kernel)
  have b : beamJob.job? (jobId beamJob) = some _ := got (by decide +kernel)
  have d : collJob.job? (jobId collJob) = some _ := got (by decide +kernel)
  have e : ckptJob.job? (jobId ckptJob) = some _ := got (by decide +kernel)
  have f : (landed ckptJob).job? (jobId ckptJob) = some _ := got (by decide +kernel)
  have k : (after (.rcopy cu 16 8) demoCopy).job? (jobId copyJob) = some _ := got (by decide +kernel)
  refine ⟨?_, ?_, ?_, ?_, ?_, ?_⟩
  · refine runs ((h1 _ _ _ a).2.2.1 .none ?_ ?_) <;> decide +kernel
  · refine runs ((h1 _ _ _ b).2.2.2.1 .none ?_ ?_) <;> decide +kernel
  · refine runs ((h1 _ _ _ d).2.2.2.2.1 .none ?_ ?_) <;> decide +kernel
  · refine runs ((h1 _ _ _ e).2.2.2.2.2.2.1 .none 0 0 0 ?_ ?_ ?_ ?_) <;> decide +kernel
  · refine runs ((h1 _ _ _ f).2.2.2.2.2.2.2.1 .none .none ?_ ?_ ?_ ?_ ?_) <;> decide +kernel
  · exact stays ((h1 _ _ _ k).1 .none (by decide +kernel))

theorem witness_compact (h : Obligations.EngineEvents) : AnswersNext (.runnerGranule (jobId compactJob) .none) compactJob := by
  have j : compactJob.job? (jobId compactJob) = some _ := got (by decide +kernel)
  obtain ⟨f, -, r⟩ := (h.1 _ _ _ j).2.2.2.2.2.1 .none _ _ (by decide +kernel) (by decide +kernel) (by decide +kernel)
    (ok_of (d := 0) (by decide +kernel)) (ok_of (d := 0) (by decide +kernel))
  exact runs r

/-- A window whose copy starts, and one whose copy has landed. -/
def windowJob (phase state landed : Nat) : State :=
  let s := withT (fun t => { t with windows := [⟨0, state, 256, [], 9, 9, .none, [], 0, false, 3, 0, 0⟩] }) copyJob
  { s with eng := { jobs := s.eng.jobs.map (fun j => { j with id := 9, kind := .window, started := true, phase := phase, landed := landed }) } }

theorem witness_engine_windows (h : Obligations.EngineEvents) :
    AnswersNext (.windowCopyStart 9) (windowJob 2 1 0) ∧ AnswersNext (.windowLanded 9) (windowJob 2 2 256) := by
  have a : (windowJob 2 1 0).job? 9 = some _ := got (by decide +kernel)
  have b : (windowJob 2 2 256).job? 9 = some _ := got (by decide +kernel)
  refine ⟨?_, ?_⟩
  · refine runs (((h.1 9 _ _ a).2.2.2.2.2.2.2.2.1 ⟨0, 1, 256, [], 9, 9, .none, [], 0, false, 3, 0, 0⟩ ?_ ?_ ?_ ?_ ?_ ?_ ?_).1 ?_) <;> decide +kernel
  · refine runs ((h.1 9 _ _ b).2.2.2.2.2.2.2.2.2.1 ⟨0, 2, 256, [], 9, 9, .none, [], 0, false, 3, 0, 0⟩ .none ?_ ?_ ?_ ?_ ?_ ?_) <;> decide +kernel

/-- The other member's message of the demo's round, and one of another rank. -/
def demoMsg (rank : Nat) : CollMsg := ⟨rank, 0, 0, 0, 32, 2, 0, List.replicate 32 0, []⟩
def collDone : State := sentJob (fun j => { j with msgs := [demoMsg 1], landed := j.total }) collJob
def cwbJob : State := sentJob (fun j => { j with kind := .cwb }) copyJob

theorem witness_engine_ends (h : Obligations.EngineEvents) :
    AnswersNext (.rcopyComplete (jobId copyJob)) (landed copyJob) ∧ AnswersNext (.topkComplete (jobId topkJob)) (landed topkJob)
    ∧ AnswersNext (.collComplete (jobId collJob)) collDone ∧ AnswersNext (.engineCommandStop (jobId copyJob) 12 0) copyJob
    ∧ AnswersNext (.beammapFlip (jobId beamJob)) (landed beamJob) ∧ AnswersNext (.cwbComplete (jobId copyJob)) cwbJob := by
  have h1 := h.1
  have a : (landed copyJob).job? (jobId copyJob) = some _ := got (by decide +kernel)
  have b : (landed topkJob).job? (jobId topkJob) = some _ := got (by decide +kernel)
  have d : collDone.job? (jobId collJob) = some _ := got (by decide +kernel)
  have e : copyJob.job? (jobId copyJob) = some _ := got (by decide +kernel)
  have f : (landed beamJob).job? (jobId beamJob) = some _ := got (by decide +kernel)
  have k : cwbJob.job? (jobId copyJob) = some _ := got (by decide +kernel)
  refine ⟨?_, ?_, ?_, ?_, ?_, ?_⟩
  · refine runs ((h1 _ _ _ a).2.2.2.2.2.2.2.2.2.2.1 .none ?_ ?_ ?_ ?_ ?_) <;> decide +kernel
  · refine runs ((h1 _ _ _ b).2.2.2.2.2.2.2.2.2.2.2.1 .none ?_ ?_ ?_ ?_) <;> decide +kernel
  · refine runs ((h1 _ _ _ d).2.2.2.2.2.2.2.2.2.2.2.2.1 (.local 0x3000) ?_ ?_ ?_ ?_ ?_ ?_) <;> decide +kernel
  · exact runs ((h1 _ _ _ e).2.2.2.2.2.2.2.2.2.2.2.2.2.1 12 0 .xlateProt rfl (by decide +kernel)
      ⟨copyJob.parts.head (by decide +kernel), by decide +kernel, by decide +kernel⟩)
  · refine runs ((h1 _ _ _ f).2.2.2.2.2.2.2.2.2.2.2.2.2.2.1 0x8000 none ?_ ?_ ?_ ?_) <;> decide +kernel
  · refine runs ((h1 _ _ _ k).2.2.2.2.2.2.2.2.2.2.2.2.2.2.2.1 ?_ ?_) <;> decide +kernel

theorem witness_coll_events (h : Obligations.EngineEvents) :
    AnswersNext (.collMessage (jobId collJob) (demoMsg 0)) collJob ∧ AnswersNext (.collMessage (jobId collJob) (demoMsg 1)) collJob
    ∧ AnswersNext (.collTimeout (jobId collJob) 1) (late collJob) ∧ AnswersNext (.collAbortMessage (jobId collJob) 1) collJob := by
  have a : collJob.job? (jobId collJob) = some _ := got (by decide +kernel)
  have b : (late collJob).job? (jobId collJob) = some _ := got (by decide +kernel)
  have k := (h.1 (jobId collJob) collJob _ a).2.2.2.2.2.2.2.2.2.2.2.2.2.2.2.2
  refine ⟨?_, ?_, ?_, ?_⟩
  · refine runs ((k.1 (demoMsg 0) ?_ ?_).1 ?_) <;> decide +kernel
  · refine runs ((k.1 (demoMsg 1) ?_ ?_).2 ?_ ?_) <;> decide +kernel
  · refine runs ((h.1 _ _ _ b).2.2.2.2.2.2.2.2.2.2.2.2.2.2.2.2.2.1 1 ?_ ?_ ?_) <;> decide +kernel
  · refine runs (k.2.2 1 ?_ ?_) <;> decide +kernel

/-- A probe that is done has picked every record and written n granules of its list. -/
def probePicked (n : Nat) : State := sentJob (fun j => { j with landed := n, picks := List.range j.total }) (repairJob 1)

theorem witness_repair_probe (h : Obligations.EngineEvents) : AnswersNext (.repairProbeDone (jobId (probePicked 99))) (probePicked 99) := by
  have j : (probePicked 99).job? (jobId (probePicked 99)) = some _ := got (by decide +kernel)
  have r := (h.2.1 _ _ _ _ (.local 0x30000) j (by decide +kernel) (by decide +kernel) (by decide +kernel) (by decide +kernel) (by decide +kernel)
    (by decide +kernel) (ok_of (d := []) (by decide +kernel)) (by decide +kernel)).2 (by decide +kernel)
  exact runs r

theorem witness_repair_list (h : Obligations.EngineEvents) : AnswersNext (.repairProbeDone (jobId (probePicked 1))) (probePicked 1) := by
  have j : (probePicked 1).job? (jobId (probePicked 1)) = some _ := got (by decide +kernel)
  have r := (h.2.1 _ _ _ _ (.local 0x30000) j (by decide +kernel) (by decide +kernel) (by decide +kernel) (by decide +kernel) (by decide +kernel)
    (by decide +kernel) (ok_of (d := []) (by decide +kernel)) (by decide +kernel)).1 (by decide +kernel)
  exact runs r

/-- The same command for three layers. -/
def repairMore : State := sentJob (fun j => { j with desc := j.desc.set 8 3 }) (repairJob 3)

theorem witness_repair_layers (h : Obligations.EngineEvents) :
    AnswersNext (.repairLayerDone (jobId repairMore)) repairMore ∧ AnswersNext (.repairLayerDone (jobId (repairJob 3))) (repairJob 3)
    ∧ AnswersNext (.crPartialEvict 0 0 0) demo := by
  have a : repairMore.job? (jobId repairMore) = some _ := got (by decide +kernel)
  have b : (repairJob 3).job? (jobId (repairJob 3)) = some _ := got (by decide +kernel)
  refine ⟨?_, ?_, ?_⟩
  · refine runs ((h.2.2.1 _ _ _ (.local 0x30000) a ?_ ?_ ?_ ?_ ?_ ?_ ?_).1 ?_) <;> decide +kernel
  · refine runs ((h.2.2.1 _ _ _ (.local 0x30000) b ?_ ?_ ?_ ?_ ?_ ?_ ?_).2 ?_) <;> decide +kernel
  · obtain ⟨o, r, -⟩ := h.2.2.2 0 0 0 demo (by decide)
    exact runs r

/-! ### The scheduler -/

/-- A second launch of one task on cluster 0, beside the control program. -/
def demoWork (f : Launch → Launch) : State :=
  { demo with launches := demo.launches ++ demo.launches.map (fun l => f { l with
    num := 1, uid := 900, control := false, phase := .ready, started := [], precStarted := true
    desc := ((controlDesc placePart).set 18 1).set 19 0 }) }

/-- A component to start of launch 900. -/
def picksComp (x : Option (Launch × Starts)) : Bool :=
  match x with
  | some (k, .comp _) => k.uid == 900 && k.precStarted
  | some (_, .spawned ..) => false
  | none => false

theorem picks_comp {x : Option (Launch × Starts)} (h : picksComp x = true) :
    ∃ k xs, x = some (k, .comp xs) ∧ k.uid = 900 ∧ k.precStarted = true := by
  unfold picksComp at h
  split at h
  · rename_i k xs
    simp only [Bool.and_eq_true, beq_iff_eq] at h
    exact ⟨k, xs, rfl, h.1, h.2⟩
  all_goals cases h

/-- A spawned task to start. -/
def picksSpawned (x : Option (Launch × Starts)) : Bool :=
  match x with
  | some (_, .spawned ..) => true
  | some (_, .comp _) => false
  | none => false

theorem picks_spawned {x : Option (Launch × Starts)} (h : picksSpawned x = true) : ∃ k r c qs, x = some (k, .spawned r c qs) := by
  unfold picksSpawned at h
  split at h
  · rename_i k r c qs
    exact ⟨k, r, c, qs, rfl⟩
  all_goals cases h

/-- A record of one warp spawned for launch 1 (R168). -/
def demoRecord : SpawnRec := ⟨1, 0, 1, 1, 5, 1, [], none, [], 0, 3, []⟩

theorem witness_launch_steps (h : Obligations.SchedulerEvents) :
    AnswersNext (.launchGroupListRead 900) (demoWork (fun l => { l with phase := .lists }))
    ∧ AnswersNext (.launchGroupListRead 900) (withMem 0x2000 [5, 2] (demoWork (fun l => { l with phase := .lists, groups := [⟨0, []⟩], lists := [(0, 0x2000, 8)] })))
    ∧ AnswersNext (.launchReady 900) (demoWork (fun l => { l with phase := .waiting }))
    ∧ AnswersNext (.launchReady 900) (demoWork (fun l => { l with phase := .waiting, deps := [⟨0x2000, 5⟩] }))
    ∧ AnswersNext (.taskStart 900) (demoWork id) := by
  obtain ⟨h1, h2, h3, -⟩ := h
  refine ⟨?_, ?_, ?_, ?_, ?_⟩
  · exact runs ((h1 900 (demoWork (fun l => { l with phase := .lists })) _ _ (got (by decide +kernel)) (got (by decide +kernel)) (by decide +kernel)
      (by decide +kernel) (by decide +kernel)).1 (by decide +kernel) (by decide +kernel))
  · exact runs ((h1 900 (withMem 0x2000 [5, 2] (demoWork (fun l => { l with phase := .lists, groups := [⟨0, []⟩], lists := [(0, 0x2000, 8)] }))) _ _
      (got (by decide +kernel)) (got (by decide +kernel)) (by decide +kernel) (by decide +kernel) (by decide +kernel)).2.1 (by decide +kernel) (by decide +kernel))
  · exact runs ((h2 900 (demoWork (fun l => { l with phase := .waiting })) _ (got (by decide +kernel)) (by decide +kernel) (by decide +kernel)).1
      (by decide +kernel))
  · exact stays ((h2 900 (demoWork (fun l => { l with phase := .waiting, deps := [⟨0x2000, 5⟩] })) _ (got (by decide +kernel)) (by decide +kernel)
      (by decide +kernel)).2 (by decide +kernel))
  · obtain ⟨k, xs, hp, hu, hs⟩ := picks_comp (x := schedulerPick (demoWork id) (((launchOfUid (demoWork id) 900).get (by decide +kernel)).part))
      (by decide +kernel)
    exact runs (h3 900 (demoWork id) _ k _ xs (got (by decide +kernel)) (got (by decide +kernel)) hp hu hs)

/-- The list of a launch that another warp has written, unordered with the launch. -/
def racedList : State := raced (fun s => s.launches.flatMap (listAccesses s))
  (withMem 0x2000 [5, 2] (demoWork (fun l => { l with phase := .lists, groups := [⟨0, []⟩], lists := [(0, 0x2000, 8)] })))

theorem witness_list_race (h : Obligations.SchedulerEvents) : AnswersNext (.launchGroupListRead 900) racedList :=
  runs ((h.1 900 racedList _ _ (got (by decide +kernel)) (got (by decide +kernel)) (by decide +kernel) (by decide +kernel) (by decide +kernel)).2.2 _
    (got (by decide +kernel)))

theorem witness_spawns (h : Obligations.SchedulerEvents) :
    AnswersNext (.spawnRecordMove 0) { demo with queues := { demo.queues with spawns := [(0, [demoRecord])] } }
    ∧ AnswersNext (.spawnRecordMove 0) (withP (fun p => { p with spawncap := 0 }) { demo with queues := { demo.queues with spawns := [(0, [demoRecord])] } })
    ∧ AnswersNext (.spawnedTaskStart 0) (withP (fun p => { p with spawnArea := [demoRecord] }) (demoWork (fun l => { l with started := [0] })))
    ∧ AnswersNext (.launchComplete 900) (demoWork (fun l => { l with started := [0] })) := by
  obtain ⟨-, -, -, h4, h5, h6, -⟩ := h
  refine ⟨?_, ?_, ?_, ?_⟩
  · exact runs ((h4 0 _ demoRecord [] _ (by decide +kernel) (got (by decide +kernel)) (by decide +kernel)).1 (by decide +kernel))
  · exact stays ((h4 0 (withP (fun p => { p with spawncap := 0 }) { demo with queues := { demo.queues with spawns := [(0, [demoRecord])] } })
      demoRecord [] _ (by decide +kernel) (got (by decide +kernel)) (by decide +kernel)).2 (by decide +kernel))
  · obtain ⟨k, r, c, qs, hp⟩ := picks_spawned
      (x := schedulerPick (withP (fun p => { p with spawnArea := [demoRecord] }) (demoWork (fun l => { l with started := [0] }))) 0) (by decide +kernel)
    exact runs (h5 0 _ _ k r c qs (got (by decide +kernel)) hp)
  · exact runs (h6 900 (demoWork (fun l => { l with started := [0] })) _ (got (by decide +kernel)) (by decide +kernel) (by decide +kernel)
      (by decide +kernel))

/-- VACATE with BUSY set, HELD, COUNT. -/
def vacating (held count : Nat) (s : State) : State :=
  withP (fun p => { p with vacate := BitVec.ofNat 32 (2 ^ 31 + held * 2 ^ 16 + count), ctxctl := 0x00000101, vacated := if held = 0 then [] else [(3, 900)] }) s

/-- The demo's task as a compute launch's, which may be made to give up its core. -/
def demoVictim : State := vacating 0 1 { demo with launches := demo.launches.map (fun l => { l with control := false, phase := .ready }) }

/-- Something found, and what it is. -/
theorem found {α : Type} {p : α → Bool} {l : List α} (h : (l.find? p).isSome = true) : l.find? p = some ((l.find? p).get h) := by simp

theorem witness_vacate (h : Obligations.SchedulerEvents) :
    AnswersNext (.vacate 0) (vacating 0 0 demo) ∧ AnswersNext (.vacate 0) demoVictim ∧ AnswersNext (.reopen 0) (vacating 1 0 demo) := by
  obtain ⟨-, -, -, -, -, -, h7, -⟩ := h
  have a : (vacating 0 0 demo).part? 0 = some _ := got (by decide +kernel)
  have b : demoVictim.part? 0 = some _ := got (by decide +kernel)
  have d : (vacating 1 0 demo).part? 0 = some _ := got (by decide +kernel)
  refine ⟨?_, ?_, ?_⟩
  · refine runs (((h7 0 _ _ a ?_).1 ?_ ?_ ?_).1 ?_) <;> decide +kernel
  · refine runs (((h7 0 _ _ b (by decide +kernel)).1 (by decide +kernel) (by decide +kernel) (by decide +kernel)).2 _ (by decide +kernel)
      (found (by decide +kernel)))
  · refine runs ((h7 0 _ _ d ?_).2 ?_) <;> decide +kernel

/-- A shoot of path 0x1000. -/
def demoShoot (live : Bool) : State := withP (fun p => { p with shoots := [⟨0x1000, live, false, [], []⟩] }) demo

theorem witness_stops (h : Obligations.SchedulerEvents) :
    AnswersNext (.preemptWarpStop 3) (withT (fun t => { t with phase := 3 }) demo)
    ∧ AnswersNext (.pruneWarpStop 3) (withW (fun w => { w with path := 0x1000 }) (demoShoot false)) ∧ AnswersNext (.pruneWarpStop 3) demo
    ∧ AnswersNext (.shootRetireComplete 0 0x1000) (demoShoot false) := by
  obtain ⟨-, -, -, -, -, -, -, h8, h9, h10⟩ := h
  refine ⟨?_, ?_, ?_, ?_⟩
  · exact runs (h8 3 (withT (fun t => { t with phase := 3 }) demo) _ _ _ _ (got (by decide +kernel)) (got (by decide +kernel)) (got (by decide +kernel))
      (got (by decide +kernel)) (by decide +kernel) (by decide +kernel) (by decide +kernel) (by decide +kernel) (by decide +kernel))
  · exact runs ((h9 3 (withW (fun w => { w with path := 0x1000 }) (demoShoot false)) _ (got (by decide +kernel))).1 (by decide +kernel) (by decide +kernel))
  · exact stays ((h9 3 demo _ (got (by decide +kernel))).2 (by decide +kernel))
  · exact runs (h10 0 0x1000 (demoShoot false) _ (got (by decide +kernel)) (by decide +kernel) (by decide +kernel))

/-! ### Records, the halt, errors -/

/-- Warp 3 has trapped, and the partition can write records; the partition halting; a record that waits for its handler. -/
def demoTrapped : State :=
  withP (fun p => { p with trapQueue := [3], ctxctl := 0x00000101 }) (withW (fun w => { w with mode := .trapping (List.replicate 32 0) }) demo)
def demoHalting : State := withP (fun p => { p with haltLine := true, ctxctl := 0x00000101 }) demo
def demoHandler : State := withP (fun p => { p with records := [⟨0, 3, false, 0, 0, false, 2, none, 2⟩] }) demo
def demoDirty : State := withP (fun p => { p with ctxctl := 0x00000103 }) (withW (fun w => { w with dirty := [0] }) demo)

theorem witness_trap_events (h : Obligations.TrapAndHaltEvents) :
    AnswersNext (.trapRecordWrite 0) demoTrapped ∧ AnswersNext (.handlerTaskStart 0) demoHandler ∧ AnswersNext (.haltAck 0) demoHalting
    ∧ AnswersNext (.incrementalBankCopy 3 0) demoDirty := by
  obtain ⟨h1, h2, h3, h4, -⟩ := h
  refine ⟨?_, ?_, ?_, ?_⟩
  · have p : demoTrapped.part? 0 = some _ := got (by decide +kernel)
    have k : freeTrapSlot ((demoTrapped.part? 0).get (by decide +kernel)) = some _ := got (by decide +kernel)
    refine runs (h1 0 _ _ (demoTrapped.warps.head (by decide +kernel)) (List.replicate 32 0) [] _ p ?_ ?_ ?_ ?_ ?_ ?_ ?_ k) <;> decide +kernel
  · exact runs (h2 0 demoHandler _ _ (got (by decide +kernel)) (got (by decide +kernel)) (by decide +kernel) (by decide +kernel))
  · have p : demoHalting.part? 0 = some _ := got (by decide +kernel)
    refine runs ((h3 0 _ _ p ?_ ?_ ?_).1 ?_ ?_) <;> decide +kernel
  · have w : demoDirty.warp? 3 = some _ := got (by decide +kernel)
    have p : demoDirty.part? ((demoDirty.warp? 3).get (by decide +kernel)).part = some _ := got (by decide +kernel)
    refine runs (h4 3 0 _ _ _ w ?_ ?_ ?_ ?_ p ?_ ?_) <;> decide +kernel

/-- The same without areas, and with a stop operation under way. -/
def haltingPlain : State := withP (fun p => { p with ctxctl := 0 }) demoHalting
def stopping (s : State) : State := { s with dev := { s.dev with partctl := 0x80000003 } }

theorem witness_halts (h : Obligations.TrapAndHaltEvents) :
    AnswersNext (.haltAck 0) (stopping demoHalting) ∧ AnswersNext (.haltAck 0) haltingPlain ∧ AnswersNext (.haltAck 0) (stopping haltingPlain) := by
  obtain ⟨-, -, h3, -⟩ := h
  have a : (stopping demoHalting).part? 0 = some _ := got (by decide +kernel)
  have b : haltingPlain.part? 0 = some _ := got (by decide +kernel)
  have d : (stopping haltingPlain).part? 0 = some _ := got (by decide +kernel)
  refine ⟨?_, ?_, ?_⟩
  · refine runs ((h3 0 _ _ a ?_ ?_ ?_).2.1 ?_ ?_) <;> decide +kernel
  · refine runs ((h3 0 _ _ b ?_ ?_ ?_).2.2.1 ?_ ?_) <;> decide +kernel
  · refine runs ((h3 0 _ _ d ?_ ?_ ?_).2.2.2 ?_ ?_) <;> decide +kernel

theorem witness_errors (h : Obligations.TrapAndHaltEvents) :
    AnswersNext (.eccCorrected 0) demo ∧ AnswersNext (.machineCheck (some 0) 1 2) demo ∧ AnswersNext (.eccUncorrectable (.memory 0x2000)) demo
    ∧ AnswersNext (.eccUncorrectable (.table 3 0 (some 0))) demo ∧ AnswersNext (.patrolScrub 0x2000 false) demo ∧ AnswersNext (.patrolScrub 0x2000 true) demo
    ∧ AnswersNext (.heatBudgetPeriod 63 100 true false) demo := by
  obtain ⟨-, -, -, -, h5, h6, h7, h8, h9, h10⟩ := h
  refine ⟨runs (h5 0 demo _ (got (by decide +kernel))), runs (h6 (some 0) 1 2 demo), runs (h7 0x2000 demo (by decide +kernel)), runs (h8 3 0 (some 0) demo),
    stays (h9 0x2000 demo _ (got (by decide +kernel))).1, runs (h9 0x2000 demo _ (got (by decide +kernel))).2, runs (h10 63 100 true false demo (by decide))⟩

/-! ### The device -/

theorem witness_boot (h : Obligations.DeviceEvents) :
    AnswersNext (.powerOn (some ⟨1, 2, 3⟩)) State.reset ∧ AnswersNext (.powerOn none) State.reset ∧ AnswersNext (.bootPhaseTimeout 2 4) State.reset
    ∧ AnswersNext (.powerOn none) demo ∧ AnswersNext .mgmtReport demo ∧ AnswersNext (.mgmtReset 0 0 []) demo := by
  obtain ⟨h1, h2, h3, h4, -⟩ := h
  have k := h1 State.reset (by decide +kernel) (by decide +kernel)
  refine ⟨runs (k.1 ⟨1, 2, 3⟩ (by decide) (by decide) (.inl (by decide))), ?_, runs (k.2.2.2 2 4 (by decide) (by decide) (.inl (by decide))), stays (h2 demo none (by decide +kernel)), ⟨_, h3 demo⟩,
    stays ((h4 demo 0 0 []).2 (by decide +kernel))⟩
  exact ⟨_, (k.2.1 (by decide +kernel)).1⟩

/-- An image slot with the header of R459, every section empty behind it. -/
def demoImage : List Byte := valBytes 4 0x49435647 ++ valBytes 4 1 ++ List.replicate 8 0 ++ valBytes 4 512
  ++ (List.range 5).flatMap (fun _ => valBytes 4 512 ++ valBytes 4 0) ++ List.replicate 452 0

/-- If that image verifies, power-on boots from it; if a signature is good, a management reset under the nonce restarts the device. -/
theorem witness_image (h : Obligations.DeviceEvents)
    (v : Config.imageVerifies (demoImage.take 416) ((List.range 5).map (imageSection demoImage)) ((demoImage.drop 416).take 96) = true)
    (g : Config.resetSigned none 7 0 [] = true) :
    AnswersNext (.powerOn none) { State.reset with dev := { State.reset.dev with slotA := demoImage } }
    ∧ AnswersNext (.mgmtReset 7 0 []) { demo with dev := { demo.dev with nonce := some 7, image := [] } } := by
  obtain ⟨h1, -, -, h4, -⟩ := h
  constructor
  · refine runs ((h1 { State.reset with dev := { State.reset.dev with slotA := demoImage } } (by decide +kernel) (by decide +kernel)).2.2.1 false demoImage ?_)
    have a : decide (512 ≤ demoImage.length) = true := by decide +kernel
    have b : decide (imageField demoImage 0 4 = 0x49435647) = true := by decide +kernel
    have c : decide (imageField demoImage 4 4 = 1) = true := by decide +kernel
    have d : (imageField demoImage 8 8 < imageField State.reset.dev.slotB 8 8) = False := by decide +kernel
    have e : decide (imageField demoImage 16 4 ≤ demoImage.length ∧ imageField demoImage 16 4 ≤ flashSlotBytes) = true := by decide +kernel
    have k : sectionsOk demoImage (imageField demoImage 16 4) = true := by decide +kernel
    simp only [imageUsed, d, decide_false, Bool.false_eq_true, if_false, List.find?_cons, imageGood, a, b, c, e, k, v, Bool.and_self]
  · obtain ⟨t, r, -⟩ := (h4 { demo with dev := { demo.dev with nonce := some 7, image := [] } } 7 0 []).1 rfl g
    exact ⟨t, r⟩

/-- A PARTCTL operation under way, on a partition in a state. -/
def operating (op n : Nat) (f : Part → Part) (s : State) : State :=
  { s with dev := { s.dev with partctl := BitVec.ofNat 32 (2 ^ 31 + n * 2 ^ 8 + op) }, parts := s.parts.map (fun p => if p.num = n then f p else p) }

/-- The manager holds cluster 0 and memory unit 0; a descriptor at 0x4000 asks for cluster 1 and unit 1 (R431). -/
def demoCreate : State :=
  let d (k : Nat) (base : Word) : List Word := [BitVec.ofNat 32 k, 0, BitVec.ofNat 32 k, 0, 0, 0, BitVec.ofNat 32 k, 0, BitVec.ofNat 32 k, 0, 0, 0,
    0x00041000, base, 0x40, 0, 0x1000, 0, 0] ++ List.replicate 13 0
  let s := operating 1 1 id (withP (fun p => { p with desc := d 1 1 }) (withMem 0x4000 (d 2 0x40000) demo))
  { s with dev := { s.dev with pdesclo := 0x4000 } }

theorem witness_create (h : Obligations.DeviceEvents) : AnswersNext .partitionCreate demoCreate ∧ AnswersNext .partitionCreate (operating 1 1 id demo) := by
  obtain ⟨-, -, -, -, h5, -⟩ := h
  exact ⟨runs (((h5 demoCreate 1 _ (got (by decide +kernel))).1 (by decide +kernel)).1 (by decide +kernel)),
    runs (((h5 (operating 1 1 id demo) 1 _ (got (by decide +kernel))).1 (by decide +kernel)).2 (by decide +kernel))⟩

theorem witness_start_stop (h : Obligations.DeviceEvents) :
    AnswersNext .partitionStart (operating 2 0 id demo) ∧ AnswersNext .partitionStart (operating 2 0 (fun p => { p with state := .created }) demo)
    ∧ AnswersNext .partitionStart (operating 2 0 (fun p => { p with state := .stopped }) demo)
    ∧ AnswersNext .partitionStop (operating 3 0 id demo) ∧ AnswersNext .partitionStop (operating 3 1 id demo)
    ∧ AnswersNext .partitionDestroy (operating 4 1 (fun p => { p with state := .created }) demo) ∧ AnswersNext .partitionDestroy (operating 4 0 id demo) := by
  obtain ⟨-, -, -, -, h5, -⟩ := h
  refine ⟨?_, ?_, ?_, ?_, ?_, ?_, ?_⟩
  · exact runs (((h5 (operating 2 0 id demo) 0 _ (got (by decide +kernel))).2.1 (by decide +kernel)).1 (by decide +kernel))
  · exact runs (((h5 (operating 2 0 (fun p => { p with state := .created }) demo) 0 _ (got (by decide +kernel))).2.1 (by decide +kernel)).2.1
      (by decide +kernel) (by decide +kernel))
  · exact runs (((h5 (operating 2 0 (fun p => { p with state := .stopped }) demo) 0 _ (got (by decide +kernel))).2.1 (by decide +kernel)).2.2
      (by decide +kernel) (by decide +kernel))
  · exact runs (((h5 (operating 3 0 id demo) 0 _ (got (by decide +kernel))).2.2.1 (by decide +kernel)).1 (by decide +kernel))
  · exact runs (((h5 (operating 3 1 id demo) 1 _ (got (by decide +kernel))).2.2.1 (by decide +kernel)).2 (by decide +kernel))
  · exact runs (((h5 (operating 4 1 (fun p => { p with state := .created }) demo) 1 _ (got (by decide +kernel))).2.2.2 (by decide +kernel)).1
      (by decide +kernel) (by decide +kernel))
  · exact runs (((h5 (operating 4 0 id demo) 0 _ (got (by decide +kernel))).2.2.2 (by decide +kernel)).2 (by decide +kernel))

/-- PARTCTL selects partition 1, which has been created. -/
def demoKeyed : State :=
  { demo with dev := { demo.dev with partctl := 0x100 }, parts := demo.parts.map (fun p => if p.num = 1 then { p with state := .created } else p) }

/-- Aperture 0 opens realm 0 to every station, writable and for atomics; realm 0 may be reached by peers (R452). -/
def demoAperture : State :=
  let s := withMem 0x10000 [0x1F000000, 0x10] demo
  { s with net := { s.net with apertures := s.net.apertures.set 0 [0x8C000000, 0, 0, 0x000FFC00] } }

theorem witness_register_events (h : Obligations.RegisterEvents) :
    AnswersNext (.sysregWrite 3 0x056 0) demoUser ∧ AnswersNext (.sysregWrite 3 0x041 9) demo ∧ AnswersNext (.ctxctlValidWrite 3 0) demo
    ∧ AnswersNext (.vspillWrite 3 0) demo ∧ AnswersNext (.enckeyWrite 3 15 7) demoKeyed
    ∧ AnswersNext (.mbwinWrite 3 7 1) demo ∧ (AnswersNext (.apentWrite 3 3 1) demo ∧ AnswersNext (.apentWrite 3 3 1) demoAperture) ∧ AnswersNext (.ecccntRead 3) demo ∧ AnswersNext (.dbgctlHalt 0) demo := by
  have k := h 3 demo _ (got (by decide +kernel))
  refine ⟨?_, ?_, ?_, ?_, ?_, ?_, ?_, ?_, ?_⟩
  · exact runs ((h 3 demoUser _ (got (by decide +kernel))).1 0x056 0 _ (got (by decide +kernel)))
  · exact runs (k.2.1 0x041 9 ⟨by decide +kernel, by decide +kernel⟩ (by decide +kernel) (by decide +kernel) (by decide +kernel))
  · exact runs ((k.2.2.1 0 _ ⟨by decide +kernel, by decide +kernel⟩ (got (by decide +kernel))).1 (by decide))
  · exact runs (k.2.2.2.2.2.2.2.1 0 _ ⟨by decide +kernel, by decide +kernel⟩ (got (by decide +kernel)))
  · exact runs ((h 3 demoKeyed _ (got (by decide +kernel))).2.2.2.2.2.2.2.2.1 15 7 _ (by decide)
      ⟨by decide +kernel, by decide +kernel⟩ (got (by decide +kernel)))
  · exact runs (k.2.2.2.2.2.2.2.2.2.1 7 1 (by decide) (by decide +kernel) ⟨by decide +kernel, by decide +kernel⟩ (by decide +kernel))
  · have o := h 3 demoAperture _ (got (by decide +kernel))
    exact ⟨runs ((k.2.2.2.2.2.2.2.2.2.2.1 3 1 (by decide) ⟨by decide +kernel, by decide +kernel⟩).1 (by decide +kernel)),
      runs ((o.2.2.2.2.2.2.2.2.2.2.1 3 1 (by decide) ⟨by decide +kernel, by decide +kernel⟩).2 (by decide +kernel))⟩
  · exact runs (k.2.2.2.2.2.2.2.2.2.2.2.1 _ (by decide +kernel) (got (by decide +kernel)))
  · exact runs (k.2.2.2.2.2.2.2.2.2.2.2.2 0 _ (got (by decide +kernel)) (by decide +kernel))

/-- A partition without cores, whose areas are small. -/
def demoNoCore : State := withP (fun p => { p with desc := p.desc.zipIdx.map (fun x => if x.2 < 2 then 0 else x.1) }) demo

/-- CTXCTL.VALID set; FPCTL with a reserved bit; a key of a running partition; a register that is only read. -/
theorem witness_register_writes (h : Obligations.RegisterEvents) :
    AnswersNext (.ctxctlValidWrite 3 1) demoNoCore ∧ (AnswersNext (.sysregWrite 3 0x012 4) demo ∧ sysBadValue 0x012 4 = true)
    ∧ AnswersNext (.sysregWrite 3 0x0D0 7) demo ∧ AnswersNext (.sysregWrite 3 0x001 7) demo := by
  have k := h 3 demo _ (got (by decide +kernel))
  have e : sysBadValue 0x012 4 = true := k.2.2.2.2.1 0x012 4 (by decide)
  refine ⟨?_, ⟨?_, e⟩, ?_, ?_⟩
  · exact runs (((h 3 demoNoCore _ (got (by decide +kernel))).2.2.1 1 _ ⟨by decide +kernel, by decide +kernel⟩ (got (by decide +kernel))).2 _ (by decide)
      (got (by decide +kernel)))
  · exact runs (k.2.2.2.1 0x012 4 (by decide +kernel) (by decide +kernel) e)
  · exact runs (k.2.2.2.2.2.1 0x0D0 7 _ (by decide +kernel) (by decide +kernel) (by decide +kernel) (got (by decide +kernel))
      (.inr (.inr ⟨by decide, by decide, by decide +kernel⟩)))
  · exact stays (k.2.2.2.2.2.2.1 0x001 7 (by decide +kernel) (by decide +kernel))

/-! ### Peers, links, the host -/

def demoAddr : PeerAddr := ⟨5, 0, 0, 0x2000⟩

/-- Whether the checks pass; what they find. -/
def passes (x : Except Nat (Part × List (Nat × Nat))) : Bool :=
  match x with
  | .ok _ => true
  | .error _ => false
def passed (x : Except Nat (Part × List (Nat × Nat))) : Part × List (Nat × Nat) :=
  match x with
  | .ok y => y
  | .error _ => (Part.reset 0, [])
theorem passes_ok {x : Except Nat (Part × List (Nat × Nat))} (h : passes x = true) : x = .ok ((passed x).1, (passed x).2) := by
  cases x
  · cases h
  · rfl

def demoAdd : PeerAtomic := ⟨.add, false, false, 3, 0, false⟩

theorem witness_peer_requests (h : Obligations.PeerEvents) :
    AnswersNext (.peerReadRequest demoAddr none 4) demo ∧ AnswersNext (.peerReadRequest demoAddr none 4) demoAperture
    ∧ AnswersNext (.peerReadRequest demoAddr (some 9) 4) demoAperture ∧ AnswersNext (.peerWriteRequest demoAddr [(1, false)]) demo
    ∧ AnswersNext (.peerWriteRequest demoAddr [(1, false)]) demoAperture ∧ AnswersNext (.peerAtomicRequest demoAddr demoAdd) demoAperture := by
  obtain ⟨h1, h2, h3, h4, h5, -⟩ := h
  refine ⟨runs (h1 demoAddr demo 1 4 (by decide +kernel) none), runs (h2 demoAddr demoAperture 4 _ _ (passes_ok (by decide +kernel))).1,
    runs ((h2 demoAddr demoAperture 4 _ _ (passes_ok (by decide +kernel))).2.1 9 (by decide +kernel)),
    runs (h3 demoAddr demo [(1, false)] 1 (by decide +kernel)), ?_, ?_⟩
  · have k := h4 demoAddr demoAperture [(1, false)] _ _ (passes_ok (by decide +kernel))
    refine runs (k.1 ?_ ?_) <;> decide +kernel
  · exact runs ((h5 demoAddr demoAdd demoAperture _ _).2.1 (passes_ok (by decide +kernel)) (by decide +kernel) (by decide +kernel))

/-- The same of a path that no message has mapped; a partition whose memory can hold no version of it. -/
def demoForeign : PeerAddr := { demoAddr with path := 0x1000 }

/-- The page that the peer reads, sealed in edition 9. -/
def demoSealed : State := { demoAperture with order := { demoAperture.order with editions := [⟨0x2000 / 2 ^ 16, 9, true⟩] } }

/-- A read of the edition that stands; an atomic that fails a check, and one under a path that no message has mapped. -/
theorem witness_peer_answers (h : Obligations.PeerEvents) :
    AnswersNext (.peerReadRequest demoAddr (some 9) 4) demoSealed ∧ AnswersNext (.peerAtomicRequest demoAddr demoAdd) demo
    ∧ AnswersNext (.peerAtomicRequest demoForeign demoAdd) demoAperture := by
  obtain ⟨-, h2, -, -, h5, -⟩ := h
  refine ⟨runs ((h2 demoAddr demoSealed 4 _ _ (passes_ok (by decide +kernel))).2.2 9 (by decide +kernel)),
    runs ((h5 demoAddr demoAdd demo (Part.reset 0) []).1 1 (by decide +kernel)), ?_⟩
  have k := (h5 demoForeign demoAdd demoAperture _ _).2.2 (passes_ok (by decide +kernel)) (by decide +kernel)
  refine Option.rec (motive := fun x => _ = x → _) (fun e => runs (k.1 e)) (fun us e => runs (k.2 us e)) _ rfl

theorem witness_foreign_writes (h : Obligations.PeerEvents) :
    AnswersNext (.peerWriteRequest demoForeign [(1, false)]) demoAperture := by
  have k := (h.2.2.2.1 demoForeign demoAperture [(1, false)] _ _ (passes_ok (by decide +kernel))).2 (by decide +kernel)
  rcases e : peerPut (demoAperture.run (freeMappings demoForeign.station demoAperture)) demoForeign
    (passed (peerChecks demoAperture demoForeign .write 1)).1.num (cellsOfPieces (passed (peerChecks demoAperture demoForeign .write 1)).2 [1]) [] with _ | us
  · exact runs (k.1 e)
  · exact runs (k.2 us e)

/-- A store of warp 3 to a peer, and one of a command, that no peer has acknowledged. -/
def demoPending : State := { copyJob with net := { copyJob.net with
  peerPending := [⟨7, 0, 5, 3, 1, 2, (copyJob.warps.head (by decide +kernel)).ident, 0x1000, 0⟩,
    ⟨8, jobId copyJob, 5, 0, 1, 2, (copyJob.warps.head (by decide +kernel)).ident, 0x1000, 0⟩] } }

theorem witness_peer_messages (h : Obligations.PeerEvents) :
    AnswersNext (.peerPruneMessage 5 0x1000) demo ∧ AnswersNext (.peerCommitMessage 5 0x1000) demo ∧ AnswersNext (.peerStoreAck 7 .none) demoPending
    ∧ AnswersNext (.peerStoreAck 7 (.data [] [])) demoPending ∧ AnswersNext (.peerStoreAck 7 (.data [1] [])) demoPending
    ∧ AnswersNext (.peerStoreAck 7 (.error 4)) demoPending ∧ AnswersNext (.peerStoreAck 8 (.error 4)) demoPending := by
  obtain ⟨-, -, -, -, -, h6, h7, -, h8⟩ := h
  have k := h8 7 demoPending _ (got (by decide +kernel))
  exact ⟨runs (h6 5 0x1000 demo (by decide)), runs (h7 5 0x1000 demo (by decide) (by decide +kernel)), stays k.1, runs k.2.1, runs (k.2.2.1 [1] [] (by decide)),
    runs (k.2.2.2.1 4 (by decide +kernel) (by decide +kernel)), runs ((h8 8 demoPending _ (got (by decide +kernel))).2.2.2.2 4 _ (got (by decide +kernel)))⟩

/-- A tag of warp 3 waits for station 5: an instruction's, and a chunk-ending one's. -/
def demoAsk (own : Bool) : State := withTag { demoTag with awaits := .peer, own := own, lanes := [0], stations := [5] } demo

/-- Window 0: 128 bytes of realm 0 at 0x2000 with key 7, or a ring of 32 words in either direction; queue pair 5, CNT at 0x3000 (R447). -/
def demoHost (kind : Nat) (f : Ring → Ring) : State := { demo with net := { demo.net with
  windows := demo.net.windows.set 0 [BitVec.ofNat 32 (2 ^ 31 + kind * 2 ^ 26), 7, 0x2000, 0, 1, 0x3000, 0, 5], rings := [f ⟨0, 0, [], 0, [], 0, []⟩] } }

theorem witness_links (h : Obligations.LinkAndHostEvents) :
    AnswersNext (.linkDown 5) demo ∧ AnswersNext (.linkReturn 5) demo
    ∧ (AnswersNext (.ualinkRequestTimeout 3 1 5) (demoAsk false) ∧ AnswersNext (.ualinkRequestTimeout 3 1 5) (late (demoAsk false)))
    ∧ AnswersNext (.ualinkRequestTimeout 3 1 5) (late (demoAsk true)) ∧ AnswersNext (.hostAtomicVerb 5) demo ∧ AnswersNext (.queuePairError 5) demo
    ∧ AnswersNext (.ecnMarking 5) demo ∧ AnswersNext (.priorityFlowControl 0 3 true) demo ∧ AnswersNext (.priorityFlowControl 0 3 false) demo := by
  obtain ⟨h1, h2, h3, h4, -, -, -, -, -, h8, h9⟩ := h
  have a := h3 3 1 5 (demoAsk false) _ _ (got (by decide +kernel)) (by decide) (got (by decide +kernel)) (by decide +kernel)
  have b := h3 3 1 5 (late (demoAsk false)) _ _ (got (by decide +kernel)) (by decide) (got (by decide +kernel)) (by decide +kernel)
  exact ⟨runs (h1 5 demo), runs (h2 5 demo), ⟨stays (a.1 (by decide +kernel)), runs (b.2 (by decide +kernel))⟩,
    runs (h4 3 1 5 (late (demoAsk true)) _ _ (got (by decide +kernel)) (by decide) (got (by decide +kernel)) (by decide +kernel) (by decide +kernel)),
    runs (h8 5 demo).1, runs (h8 5 demo).2.1, runs (h8 5 demo).2.2, runs (h9 0 3 demo).1, runs (h9 0 3 demo).2⟩

theorem witness_host (h : Obligations.LinkAndHostEvents) :
    AnswersNext (.hostRdmaWrite 5 8 0 ⟨[1], none⟩) (demoHost 0 id) ∧ AnswersNext (.hostRdmaWrite 5 7 0 ⟨[1], none⟩) (demoHost 0 id)
    ∧ AnswersNext (.hostRdmaRead 5 7 120 9) (demoHost 0 id) ∧ AnswersNext (.hostRdmaRead 5 7 120 8) (demoHost 0 id)
    ∧ AnswersNext (.hostSendInbound 5 [1] none) demo
    ∧ AnswersNext (.hostSendInbound 5 [1] none) (demoHost 1 (fun r => { r with inbound := List.replicate 32 ⟨0, none⟩ }))
    ∧ AnswersNext (.hostSendInbound 5 [1] none) (demoHost 1 (fun r => { r with inbound := List.replicate 31 ⟨0, none⟩ }))
    ∧ AnswersNext (.hostSendAck 0 2) (demoHost 2 (fun r => { r with outbound := [1, 2], sends := [(2, 3, 1)] })) := by
  obtain ⟨-, -, -, -, h5, -, h6, -, h7, -⟩ := h
  refine ⟨?_, ?_, ?_, ?_, ?_, ?_, ?_, ?_⟩
  · exact runs ((h5 5 8 0 ⟨[1], none⟩ (demoHost 0 id) (by decide)).1 (by decide +kernel))
  · exact runs ((h5 5 7 0 ⟨[1], none⟩ (demoHost 0 id) (by decide)).2.1 _ _ _ (got (by decide +kernel)) (by decide +kernel))
  · exact runs ((h5 5 7 120 ⟨[], none⟩ (demoHost 0 id) (by decide)).2.2.1 9 (by decide) (by decide +kernel))
  · exact runs ((h5 5 7 120 ⟨[], none⟩ (demoHost 0 id) (by decide)).2.2.2 8 _ _ _ (by decide) (got (by decide +kernel)))
  · exact runs ((h6 5 [1] none demo (by decide)).1 (by decide +kernel))
  · exact runs (((h6 5 [1] none (demoHost 1 (fun r => { r with inbound := List.replicate 32 ⟨0, none⟩ })) (by decide)).2 _ _ _ (got (by decide +kernel)) (got (by decide +kernel))
      (by decide +kernel)).1 (by decide +kernel))
  · exact runs (((h6 5 [1] none (demoHost 1 (fun r => { r with inbound := List.replicate 31 ⟨0, none⟩ })) (by decide)).2 _ _ _ (got (by decide +kernel)) (got (by decide +kernel))
      (by decide +kernel)).2 (by decide +kernel))
  · exact runs (h7 0 2 (demoHost 2 (fun r => { r with outbound := [1, 2], sends := [(2, 3, 1)] })) _ _ (2, 3, 1) [] _ (got (by decide +kernel))
      (got (by decide +kernel)) (by decide +kernel) rfl (by decide +kernel) (by decide +kernel) (got (by decide +kernel)) (by decide +kernel))

/-- A message beyond the size that is supported. -/
theorem witness_host_size (h : Obligations.LinkAndHostEvents) :
    AnswersNext (.hostRdmaWrite 5 7 0 ⟨List.replicate (messageLimit + 1) 0, none⟩) demo
    ∧ AnswersNext (.hostRdmaRead 5 7 0 (messageLimit + 1)) demo ∧ AnswersNext (.hostSendInbound 5 (List.replicate (messageLimit + 1) 0) none) demo := by
  generalize e : messageLimit = n
  have k := h.2.2.2.2.2.1 5 7 0 (n + 1) (List.replicate (n + 1) 0) none ⟨List.replicate (n + 1) 0, none⟩ demo
    (by rw [e, List.length_replicate]; omega) (by rw [e]; omega) (by rw [e, List.length_replicate]; omega)
  exact ⟨runs k.1, runs k.2.1, runs k.2.2⟩

/-- A message of one granule of one byte at the ordering point of partition 0. -/
def demoArrival : Arrival := ⟨9, 0, 5, [[(memPlace 0x2000, 1)]], [], some 0x3000, 1, 0, []⟩
def demoArrivals : State := { demoHost 0 id with net := { (demoHost 0 id).net with arrivals := [demoArrival] } }

theorem witness_arrival (h : Obligations.LinkAndHostEvents) :
    (demoArrivals.run (landArrival demoArrival demoArrivals)).net.arrivals.find? (fun b => b.id == 9) = some { demoArrival with granules := [] }
    ∧ landArrival { demoArrival with granules := [] } demoArrivals = inOrder [dropArrival 9, counterAdd 0 0x3000 1 [], sendOut (.hostReply 5 true 0 [])] demoArrivals
    ∧ (landArrival { demoArrival with granules := [], counter := none, reads := [(0x2000, 8)] } demoArrivals).length = 2 := by
  obtain ⟨-, -, -, -, -, -, -, hl, -⟩ := h
  refine ⟨?_, ?_, ?_⟩
  · exact ((hl demoArrival demoArrivals (by decide +kernel)).2.2 _ _ rfl (by decide +kernel)).trans (by decide +kernel)
  · exact (hl { demoArrival with granules := [] } demoArrivals (by decide +kernel)).2.1 _ rfl rfl rfl rfl
  · rw [(hl { demoArrival with granules := [], counter := none, reads := [(0x2000, 8)] } demoArrivals (by decide +kernel)).1 rfl rfl rfl]
    decide +kernel

/-! ### The whole machine -/

theorem witness_reset_registers :
    (demo.part? 0).isSome = true ∧ (demoUser.warps.any (fun w => decide (w.level ≠ 2) && (demoUser.part? w.part).isSome)) = true
    ∧ (State.reset.parts.any (fun p => decide (p.wdog ≠ 0) && decide (p.collto ≠ 0) && decide (p.eccnt ≠ 0xFFFFFFFF))) = true
    ∧ ((withP (fun p => { p with wdog := 0, collto := 0, eccnt := 0xFFFFFFFF }) demo).parts.any
        (fun p => decide (p.wdog = 0) && decide (p.collto = 0) && decide (p.eccnt = 0xFFFFFFFF))) = true := by
  decide +kernel

/-- The machine with IADD v4, v2, s7 placed, as the next step begins. -/
def demoPlaced : State := beginStep (placeWord State.reset 0x10010081C01000004000)
def placedWarp : Warp := ((nextFragment demoPlaced).get (by decide +kernel)).1
def placedFrag : Frag := ((nextFragment demoPlaced).get (by decide +kernel)).2
def placedLine : Nat × List Byte := okOf (fetchLine demoPlaced placedWarp placedFrag.pc) (0, [])

theorem placed_line : fetchLine demoPlaced placedWarp placedFrag.pc = .ok (placedLine.1, placedLine.2) := ok_of (d := (0, [])) (by decide +kernel)

theorem placed_slot : wellPlaced placedFrag.pc = true ∧ lineBad placedLine.2 (placedFrag.pc.toNat % 8) = false ∧ lineWordOk (lineWord placedLine.2) = true
    ∧ copyOf demoPlaced placedWarp placedLine.1 = none
    ∧ (match decode (lineSlot placedLine.2 (placedFrag.pc.toNat % 8)) with
      | .ok i => decide (i = .iadd { cv with stall := 4 } false false 4 (.v 2) (.u 7))
      | .error _ => false) = true := by
  decide +kernel

theorem decode_ok {x : Except DecErr Instr} {i : Instr} (h : (match x with
    | .ok j => decide (j = i)
    | .error _ => false) = true) : x = .ok i := by
  split at h
  · simp only [decide_eq_true_eq] at h
    rw [h]
  · cases h

theorem witness_fetch (h : Obligations.FetchAndFlow) :
    (∃ i a, fetchSlot demoPlaced placedWarp placedFrag = .instr i a) ∧ placedLine.2 = lineAt demoPlaced placedWarp.part placedWarp.path placedLine.1
    ∧ (nextPc 0x1004).toNat = 0x1005 ∧ nextPc 0x1005 = 0x1040 := by
  obtain ⟨p1, p2, p3, p4, p5⟩ := placed_slot
  obtain ⟨-, -, h3, h4, h5, h6⟩ := h
  exact ⟨⟨_, _, h6 demoPlaced placedWarp placedFrag _ _ _ p1 placed_line p2 p3 (decode_ok p5)⟩, (h3 demoPlaced placedWarp placedFrag.pc _ _ placed_line p4).2.1,
    h4 0x1004 (by decide), h5 0x1005 (by decide)⟩

theorem placed_turn : demoPlaced.model.agenda = [] ∧ (nextEvent demoPlaced).isNone = true := by decide +kernel

theorem placed_next : nextFragment demoPlaced = some (placedWarp, placedFrag) := got (by decide +kernel)

/-- The hypotheses of StepRunsDecoded hold as the next step begins: it runs the placed IADD. -/
theorem witness_step (h : Obligations.StepRunsDecoded) : ∃ x, step (placeWord State.reset 0x10010081C01000004000) = x := by
  obtain ⟨p1, p2, p3, p4, p5⟩ := placed_slot
  obtain ⟨q1, q2⟩ := placed_turn
  exact ⟨_, h (placeWord State.reset 0x10010081C01000004000) placedWarp placedFrag placedLine.1 placedLine.2 _ q1 (Option.isNone_iff_eq_none.1 q2)
    placed_next p1 placed_line p2 p3 (decode_ok p5)⟩

theorem witness_encoding (h : Obligations.EncodingRoundTrip) :
    (∃ w, encode (.iadd { cv with stall := 4 } false false 4 (.v 2) (.u 7)) = some w ∧ decode w = .ok (.iadd { cv with stall := 4 } false false 4 (.v 2) (.u 7)))
    ∧ encode (.nop cv) = some 0x00400000000000000000 :=
  ⟨⟨_, got (by decide +kernel), h.1 _ _ (by decide +kernel) (got (by decide +kernel))⟩,
    (h.2 0x00400000000000000000 (.nop cv) (decode_ok (by decide +kernel))).2⟩

/-- A state that has the invariant, in which a step goes on, and an instruction. -/
theorem placed_coherent : Coherent (placeWord State.reset 0x10010081C01000004000) := by
  unfold Coherent
  decide +kernel

theorem next_there {x : Host.Outcome State Fault Refusal} (h : (match x with
    | .next _ => true
    | .fault _ => false
    | .refused _ => false) = true) : ∃ t, x = .next t := by
  cases x
  · exact ⟨_, rfl⟩
  all_goals cases h

theorem witness_coherent (h : Obligations.StepKeepsCoherent) :
    (∃ t, step (placeWord State.reset 0x10010081C01000004000) = .next t ∧ Coherent t)
    ∧ ∃ t, exec (.linkDown 5) (placeWord State.reset 0x10010081C01000004000) = .next t ∧ Coherent t := by
  obtain ⟨t, ht⟩ := next_there (x := step (placeWord State.reset 0x10010081C01000004000)) (by decide +kernel)
  obtain ⟨u, hu⟩ := next_there (x := exec (.linkDown 5) (placeWord State.reset 0x10010081C01000004000)) (by decide +kernel)
  exact ⟨⟨t, ht, h.1 _ t placed_coherent ht⟩, ⟨u, hu, h.2 _ _ u placed_coherent hu⟩⟩

/-- Warp 3 runs a handler task. -/
def handlerDemo : State := withW (fun w => { w with hnd := true }) demo

/-- Warp 3 traps: as it runs, as it runs a handler, and once it has trapped. -/
theorem witness_trap (h : Obligations.TrapTaken) :
    (∃ v ws, (demo.run (takeTrap 3 0 [] (raise .argRange) demo)).warp? 3 = some v ∧ v.mode = .trapping ws)
    ∧ (∃ v ws, (handlerDemo.run (takeTrap 3 0 [] (raise .argRange) handlerDemo)).warp? 3 = some v ∧ v.mode = .trapping ws
      ∧ wfield ws 0 26 6 = Cause.handlerFault.code)
    ∧ demoTrapped.run (takeTrap 3 0 [] (raise .argRange) demoTrapped) = demoTrapped := by
  refine ⟨?_, ?_, ?_⟩
  · let w := demo.warps.head (by decide +kernel)
    have small : w.level < 4 ∧ w.part < 8 ∧ w.launch < 512 ∧ w.warpid < 16 ∧ w.place < 64 ∧ w.core < 256 := by decide +kernel
    obtain ⟨s1, s2, s3, s4, s5, s6⟩ := small
    obtain ⟨v, ws, h1, h2, -⟩ := (h demo w (w.regs.frags.head (by decide +kernel)) (demo.parts.head (by decide +kernel)) [] (raise .argRange) (by decide +kernel)).2
      (by decide +kernel) (by decide +kernel) (by decide +kernel) s1 s2 (by decide) (by decide +kernel) s3 s4 s5 s6 (by decide)
    exact ⟨v, ws, h1, h2⟩
  · let w := handlerDemo.warps.head (by decide +kernel)
    have small : w.level < 4 ∧ w.part < 8 ∧ w.launch < 512 ∧ w.warpid < 16 ∧ w.place < 64 ∧ w.core < 256 := by decide +kernel
    have hnd : w.hnd = true := by decide +kernel
    obtain ⟨s1, s2, s3, s4, s5, s6⟩ := small
    obtain ⟨v, ws, h1, h2, -, -, -, h3, -⟩ := (h handlerDemo w (w.regs.frags.head (by decide +kernel)) (handlerDemo.parts.head (by decide +kernel)) []
      (raise .argRange) (by decide +kernel)).2 (by decide +kernel) (by decide +kernel) (by decide +kernel) s1 s2 (by decide) (by decide +kernel) s3 s4 s5 s6 (by decide)
    rw [if_pos hnd] at h3
    exact ⟨v, ws, h1, h2, h3⟩
  · exact (h demoTrapped (demoTrapped.warps.head (by decide +kernel)) ((demoTrapped.warps.head (by decide +kernel)).regs.frags.head (by decide +kernel))
      (demoTrapped.parts.head (by decide +kernel)) [] (raise .argRange) (by decide +kernel)).1 (by decide +kernel)

/-- A chunk at the root that has ended holds two stores to one byte, the later first. -/
def demoStored : State := withChunk (fun c => { c with bytes := [(memPlace 0x2000, 7), (memPlace 0x2000, 6)] }) demoEnded

theorem witness_visible (h : Obligations.StoresBecomeVisible) : ∃ t, exec (.chunkPosition 3) demoStored = .next t ∧ rootByte t 0x2000 = 7 := by
  let w := demoStored.warps.head (by decide +kernel)
  have hw : demoStored.warp? w.id = some w := by decide +kernel
  obtain ⟨t, ht, hb⟩ := h demoStored w hw (by decide +kernel) (by decide +kernel) (by decide +kernel) (by decide +kernel) rfl rfl
  refine ⟨t, ht, ?_⟩
  rw [(hb 0x2000 (by decide)).1 (fun ea path e => by rw [show missedEntry demoStored w = none from by decide +kernel] at e; cases e)]
  decide +kernel

/-- A handler's chunk stores to the entry that a warp under a shoot missed, and beside it. -/
def demoMissed : State :=
  let s := withT (fun t => { t with handler := some 0 }) (withP (fun p => { p with records := [⟨0, 9, false, 1, 0, false, 1, some (0, 0x40000000, 0x1000), 2⟩] })
    (withMem 0x200008 [0x300009, 0x300000] (withMem 0x300000 [0x310009, 0x700000] (withMem 0x310000 [3, 0, 0, 0, 0, 0, 0, 0x4000] handlerDemo))))
  withW (fun w => { w with chunk := { w.chunk with start := some w.regs, count := 1, bytes := [(memPlace 0x310004, 7), (memPlace 0x2000, 6)], phase := .ended } }) s

/-- The entry's byte goes to the shoot, the other to the root. -/
theorem witness_missed_entry (h : Obligations.StoresBecomeVisible) :
    ∃ t, exec (.chunkPosition 3) demoMissed = .next t ∧ rootByte t 0x310004 = 0 ∧ rootByte t 0x2000 = 6 := by
  let w := demoMissed.warps.head (by decide +kernel)
  have hw : demoMissed.warp? w.id = some w := by decide +kernel
  have m : missedEntry demoMissed w = some (0x310000, 0x1000) := by decide +kernel
  obtain ⟨t, ht, hb⟩ := h demoMissed w hw (by decide +kernel) (by decide +kernel) (by decide +kernel) (by decide +kernel) (by decide +kernel) (by decide +kernel)
  refine ⟨t, ht, ?_, ?_⟩
  · rw [(hb 0x310004 (by decide)).2 _ _ m (by decide +kernel) (by decide) (by decide)]
    decide +kernel
  · rw [(hb 0x2000 (by decide)).1 (fun ea path e => by
      rw [m] at e
      cases e
      exact .inr (.inl (by decide)))]
    decide +kernel

/-! ### Words of every family, from the encoding tables; lines -/

/-- An instruction word from its fields (R46): OP, D, A, B, C, M in bits 37:20, and the control bits 19:0. -/
def fields (op d a b c m ctl : Nat) : Nat := op * 2 ^ 70 + d * 2 ^ 62 + a * 2 ^ 54 + b * 2 ^ 46 + c * 2 ^ 38 + m * 2 ^ 20 + ctl

/-- The words of the examples of R77 and of the program chapters, from their fields. -/
theorem test_fields : fields 0x040 4 2 7 0 (2 ^ 16) (4 * 2 ^ 12) = 0x10010081C01000004000
    ∧ fields 0x103 8 2 4 8 (2 ^ 16 + 2 ^ 8) (5 * 2 ^ 12) = 0x40C20081021010005000 := by decide +kernel

theorem test_words_control_arithmetic :
    decodeTableWord 80 (fields 0x008 0 0 0 0 0 0) = some (.exit cv)
    ∧ decodeTableWord 80 0x20008080000008004000 = some (.iaddImm { cv with stall := 4 } false false 2 2 32)
    ∧ decodeTableWord 80 (fields 0x050 9 3 0 0 (2 ^ 17) 0) = some (.popc cv 9 (.u 3))
    ∧ decodeTableWord 80 (fields 0x05E 9 3 4 5 (2 ^ 15) 0) = some (.shf cv false 9 (.v 3) (.v 4) (.u 5))
    ∧ decodeTableWord 80 0x19004081401200004000 = some (.cmpi { cv with stall := 4 } .lt false 1 (.v 2) (.u 5))
    ∧ decodeTableWord 80 (fields 0x130 20 10 0 0 (7 * 2 ^ 11 + 1 * 2 ^ 4 + 2 * 2 ^ 1) 0x5000) = some (.fcvt { cv with stall := 5 } .e4m3 .f32 .rn 2 20 (.v 10)) := by
  decide +kernel

theorem test_words_lanes_matrix_memory :
    decodeTableWord 80 (fields 0x1C0 9 3 4 2 (3 * 2 ^ 13) 0x200) = some (.shfl ct .xor false 9 (.v 3) (.v 4) 2)
    ∧ decodeTableWord 80 0x8200004080F800000004 = some (.mma cu .bf16 .bf16 .f32 0 0 0 1 2 3)
    ∧ decodeTableWord 80 0xA1420080001200000220 = some (.gather { ct with wait := 4 } .b32 false 8 2 ⟨.u 0, 1, 0⟩)
    ∧ decodeTableWord 80 0xA4800002825A40000004 = some (.red cu .add false .task ⟨.u 10, 1, 0⟩ (.u 9)) := by
  decide +kernel

theorem test_words_engines_kv_system :
    decodeTableWord 80 (fields 0x349 0 8 10 0 (3 * 2 ^ 16 + 2 * 2 ^ 13 + 6 * 2 ^ 9) 4) = some (.cntinc cu .device 2 8 10)
    ∧ decodeTableWord 80 0xE1000004C03200000004 = some (.kvfmt cu 1 0 19)
    ∧ decodeTableWord 80 (fields 0x3C2 0 16 0 0 (2 ^ 17 + 2 ^ 14 + 2 ^ 5) 0) = some (.barq cv .wait true 0 16)
    ∧ decodeTableWord 80 (fields 0x3D0 0 0 10 0 (2 ^ 16 + 3 * 2 ^ 12 + 1 * 2 ^ 8) 4) = some (.spawn cu 3 1 10)
    ∧ decodeTableWord 80 0xFC808000000000000600 = some (.sread { cv with alloc := 3 } false 2 0) := by
  decide +kernel

/-- Reserved bits, a reserved tag and a guard without a sense are refused (R47, R55, R61, R70). -/
theorem test_decode_refuses :
    decodeTableWord 80 (0x00400000000000000000 + 2 ^ 20) = none ∧ decodeTableWord 80 (0x00400000000000000000 + 7 * 2 ^ 9) = none
    ∧ decodeTableWord 80 (0x00400000000000000000 + 2 ^ 17) = none ∧ decodeTableWord 80 (fields 0x1C6 0 0 0 0 (5 * 2 ^ 12) 0) = none := by
  decide +kernel

/-- The line of R77: its word and its six slots; one bit flipped in slot 2 fails that slot's parity. -/
def exampleLine : List Byte :=
  valBytes 4 0x041E4000 ++ [0x10010081C01000004000, 0xA0030001000201000400, 0x10034301C01000000010, 0x008000003FFFFFD68000,
    0x00400000000000000000, 0x00400000000000000000].flatMap (valBytes 10)

theorem test_line : lineWordOk (lineWord exampleLine) = true ∧ (List.range 6).all (fun k => !lineBad exampleLine k) = true
    ∧ lineSlot exampleLine 3 = 0x008000003FFFFFD68000 ∧ lineBad (exampleLine.set 24 0x11) 2 = true := by
  decide +kernel

/-! ### Ill-formed terms, one for each check -/

theorem test_wf_control : [Instr.nop { cv with alloc := 7 }, .nop { cv with g := 3 }, .nop { cv with alloc := 1 }, .nop cu, .join { cv with gs := .ifTrue },
    .call cv 4 0, .call ct 5 0, .ret cv (.v 3), .brx cu (.v 3), .brx cv (.u 64), .call cut 55 0].all (fun i => !i.wf) = true := by decide +kernel

theorem test_wf_arithmetic : [Instr.iadd cu false false 64 (.u 1) (.u 2), .iaddc cu 4 (.u 1) (.u 2) 0, .imadw cv false 5 (.v 1) (.v 2) (.v 4),
    .imadw cv false 4 (.v 1) (.v 2) (.v 5), .idiv cv false 4 (.v 1) (.v 2), .iaddImm cu false false 4 64 0, .mov cv true 5 (.v 2), .movi cv .sx 5 0,
    .plop cv .not 1 2 3, .fadd cv .e4m3 .rn 4 (.v 1) (.v 2), .fadd cv .f64 .rn 4 (.v 2) (.v 5), .fcmp cv .f16x2 .lt 1 (.v 2) (.v 3), .fsin ct .f64 4 (.v 2),
    .fcvt cv .f32 .f32 .rn 1 4 (.v 1), .fcvt cv .bf16 .f32 .rn 2 4 (.v 1), .fcvt cv .f16x2 .f32 .rn 0 4 (.v 1), .cvtsr cv .f32 .f32 0 4 (.v 1) (.v 2),
    .qmx cut .e4m3 false 4 (.u 1)].all (fun i => !i.wf) = true := by decide +kernel

theorem test_wf_intervals_lanes : [Instr.ivadd cv .if64 4 (.v 8) (.v 12), .ivadd ct .if32 4 (.v 6) (.v 8), .ivadd cv .if32 4 (.v 7) (.v 8), .ivexp ct .if64 4 (.v 8),
    .ivcmp cu .if32 .lt 1 (.u 2) (.u 4), .ivld cut .if32 4 ⟨.u 2, 0, 0⟩, .shfl ct .xor true 4 (.v 1) (.v 2) 0, .vote ct .any false 8 1, .partset cv 5,
    .rng ct .x4 5 (.v 1), .rngkey cv (.v 3), .scan cv .add false 4 (.v 1)].all (fun i => !i.wf) = true := by decide +kernel

theorem test_wf_matrix_memory : [Instr.talloc cut 56 1, .mma cu .bf16 .s8 .f32 0 0 0 1 2 3, .mma cu .s8 .u8 .f32 0 0 0 1 2 3, .mma cu .bf16 .bf16 .f32 0 0 5 1 2 3,
    .mma cv .bf16 .bf16 .f32 0 0 0 1 2 3, .mmask cu false 3 11, .maccr ct .f32 5 1 2, .mcvt cut .mxfp4 false .rn false 0 1 2, .mrowexp ct true 0 0 4 1 2 3,
    .ld ct .b256 false 8 0 ⟨.v 4, 0, 0⟩, .ld ct .b32 false 8 3 ⟨.v 4, 0, 0⟩, .ld ct .b32 false 8 0 ⟨.v 5, 0, 0⟩, .st cv .s8 ⟨.v 4, 0, 0⟩ (.v 1), .ldu ct .b32 false 8 0 ⟨.u 4, 0, 0⟩,
    .gather ct .b32 false 8 6 ⟨.v 4, 0, 0⟩, .red cv .exch false .task ⟨.v 4, 0, 0⟩ (.v 1), .cinv cu .system ⟨.u 4, 0, 0⟩ 1].all (fun i => !i.wf) = true := by
  decide +kernel

theorem test_wf_engines_system : [Instr.wbind cu false 56 0, .wbind cu false 8 4, .rcopy cu 12 1, .cntinc cu .device 0 9 1, .seal cu 0 8 64 1, .kvld ct false 0 5 1 4 0,
    .kvappend cv false false 0 1 4 5, .kvmask cu .set 0 4 9, .bar cv true 3, .bar cu false 3, .barc cu .gen 1 4, .barc cut .gen 1 55, .barq ct .wait false 0 4,
    .cwait cu 0 false 4 6 1, .resume cu .self 1, .resume cu .warp 64, .sread ct true 4 0x000, .sread ct false 4 0x009, .swrite cv false 0x040 1,
    .tlbinv cu false true 1 0 0, .illegalOpcode (BitVec.ofNat 80 (0x001 * 2 ^ 70))].all (fun i => !i.wf) = true := by decide +kernel

/-! ### Values from the manual's examples, one step each -/

/-- Lane 0 of a vector register after an instruction of the demo warp. -/
def vAfter (i : Instr) (s : State) (r : Nat) : Word := ((after i s).warp? 3).elim 0 (fun w => cellGet w.regs.v (32 * r))
/-- A predicate's lane 0. -/
def pAfter (i : Instr) (s : State) (p : Nat) : BitVec 2 := ((after i s).warp? 3).elim 3 (fun w => cellGet w.regs.p (32 * p))

/-- A field that ends in 1s, sign-extended; a funnel shift both ways (the examples of R123). -/
theorem test_bits : vAfter (.bfe cv true 12 (.v 4) (.v 5)) (withV 4 [0x00000F50, 0x00000408] demo) 12 = 0xFFFFFFFF
    ∧ vAfter (.shf cv true 12 (.v 4) (.v 5) (.v 6)) (withV 4 [0x12345678, 0x9ABCDEF0, 8] demo) 12 = 0x789ABCDE := by decide +kernel

/-- Saturation to the unsigned range, and a source that is also the destination (R120). -/
theorem test_iadd : vAfter (.iadd cv true true 4 (.v 4) (.v 5)) (withV 4 [0xFFFFFFFF, 2] demo) 4 = 0xFFFFFFFF
    ∧ vAfter (.isub cv false false 4 (.v 5) (.v 4)) (withV 4 [3, 2] demo) 4 = 0xFFFFFFFF := by decide +kernel

/-- The third FCVT of the packing example keeps the bytes written before it (R143). -/
theorem test_fcvt : vAfter (.fcvt cv .e4m3 .f32 .rn 2 20 (.v 10)) (withV 20 [0x0000803C] (withV 10 [0x43960000] demo)) 20 = 0x0079803C := by decide +kernel

/-- The exponents of 1.5 and of the least subnormal (the examples of R141). -/
theorem test_fgetexp : vAfter (.fgetexp cv .f32 12 (.v 4)) (withV 4 [0x3FC00000] demo) 12 = 0
    ∧ vAfter (.fgetexp cv .f32 12 (.v 4)) (withV 4 [1] demo) 12 = 0xFFFFFF6B := by decide +kernel

/-- The outward rounding example of IVADD, both bounds. -/
theorem test_ivadd : (let s := withV 6 [0x3F800000, 0x3F800000, 0x33800000, 0x33800000] demo
    (vAfter (.ivadd cv .if32 4 (.v 6) (.v 8)) s 4, vAfter (.ivadd cv .if32 4 (.v 6) (.v 8)) s 5)) = (0x3F800000, 0x3F800001) := by decide +kernel

/-- Undecided and false is false, undecided or false is undecided (the examples of R129). -/
theorem test_plop : (let s := withW (fun w => { w with regs := { w.regs with p := cellSet (cellSet w.regs.p (32 * 1) (bitsOfTri .undecided)) (32 * 2) (bitsOfTri .no) } }) demo
    (pAfter (.plop cv .and 3 1 2) s 3, pAfter (.plop cv .or 3 1 2) s 3)) = (bitsOfTri .no, bitsOfTri .undecided) := by decide +kernel

end Sys2Proof.Machine
end

section
/-! PROOFS. Branches, calls and returns: one transfer serves all five (R394, R401 to R405). -/

namespace Sys2Proof.Machine

/-! ### One transfer -/

theorem mem_of_mem_nub {α : Type} [DecidableEq α] {l : List α} {a : α} (h : a ∈ nub l) : a ∈ l := by
  have key : ∀ l acc : List α, a ∈ l.foldl (fun acc x => if acc.contains x then acc else acc ++ [x]) acc → a ∈ acc ∨ a ∈ l := by
    intro l
    induction l with
    | nil => exact fun acc ha => .inl ha
    | cons x l ih =>
      intro acc ha
      rw [List.foldl_cons] at ha
      rcases ih _ ha with h | h
      · split at h
        · exact .inl h
        · rcases List.mem_append.mp h with h | h
          · exact .inl h
          · exact .inr (List.mem_singleton.mp h ▸ List.mem_cons_self)
      · exact .inr (List.mem_cons_of_mem _ h)
  simpa using key l [] h

/-- The lanes that go names a PC for. -/
def takersOf (go : Nat → Option (Xl DWord)) (g : Go) : List Nat := g.lanes.filter (fun l => (go l).isSome)

/-- Where go sends a lane. -/
def destOf (go : Nat → Option (Xl DWord)) (g : Go) (l : Nat) : DWord :=
  match go l with
  | some (.ok t) => t
  | some (.error _) => nextPc g.f.pc
  | none => nextPc g.f.pc

/-- Where a lane of the fragment goes on (R394, R401). -/
def nextOf (c : Ctl) (go : Nat → Option (Xl DWord)) (g : Go) (l : Nat) : DWord :=
  if c.u then (if takersOf go g = [] then nextPc g.f.pc else destOf go g ((takersOf go g).headD 0))
  else if l ∈ takersOf go g then destOf go g l else nextPc g.f.pc

/-- Every lane that leaves has a target that passes its check (R45). -/
def TargetsPass (go : Nat → Option (Xl DWord)) (s : State) (g : Go) : Prop :=
  ∀ l ∈ takersOf go g, go l = some (.ok (destOf go g l)) ∧ targetTrap s g.w (destOf go g l) = none

theorem targetsTrap_none {go : Nat → Option (Xl DWord)} {s : State} {g : Go} (h : TargetsPass go s g) :
    targetsTrap s g.w (nub ((takersOf go g).map (destOf go g))) = none := by
  refine List.findSome?_eq_none_iff.mpr (fun pc hpc => ?_)
  obtain ⟨l, hl, rfl⟩ := List.mem_map.mp (mem_of_mem_nub hpc)
  exact (h l hl).2

/-- A transfer whose targets pass and whose split has room. -/
theorem transfer_of_pass {c : Ctl} {s : State} {g : Go} {go : Nat → Option (Xl DWord)} {out : List Nat → List RegWrite}
    {r : Warp × List Nat} (h : TargetsPass go s g) (hs : splitFrag s g.w g.f (nextOf c go g) = some r) :
    transfer c s g go out =
      { writes := out ((takersOf go g).filter (fun l => l ∈ r.2))
        stays := true
        warp := fun w => (splitFrag s w g.f (nextOf c go g)).elim w (·.1) } := by
  have next : nextOf c go g = fun l =>
      if c.u then (if (takersOf go g).isEmpty then nextPc g.f.pc else destOf go g ((takersOf go g).headD 0))
      else if (takersOf go g).contains l then destOf go g l else nextPc g.f.pc := by
    funext l
    simp [nextOf]
  rw [next] at hs ⊢
  unfold transfer
  dsimp only
  split
  next t ht =>
    obtain ⟨l, hl, hlt⟩ := List.exists_of_findSome?_eq_some ht
    rw [(h l hl).1] at hlt
    cases hlt
  next =>
    split
    next t ht => cases (targetsTrap_none h).symm.trans ht
    next =>
      split
      next hn => cases hs.symm.trans hn
      next w' left hl =>
        obtain rfl : r = (w', left) := Option.some.inj (hs.symm.trans hl)
        have elim (w : Warp) (o : Option (Warp × List Nat)) : (match o with
            | none => w
            | some (w', _) => w') = o.elim w (·.1) := by cases o <;> rfl
        simp only [Act.mk.injEq, List.contains_eq_mem, true_and, and_true]
        exact ⟨rfl, funext fun w => elim w _⟩

/-- The link words of the lanes that leave (R404). -/
def linkWrites (c : Ctl) (link : Option (BitVec 8)) (g : Go) (ls : List Nat) : List RegWrite :=
  link.elim [] (fun d => putPair c.u d.toNat ls (fun _ => nextPc g.f.pc))

/-- What a transfer does: the lanes that leave take the link, and the fragment moves or splits. -/
def transferEffect (c : Ctl) (link : Option (BitVec 8)) (go : Go → Nat → Option (Xl DWord)) (s : State) (g : Go) : Effect where
  res := match link with
    | none => .nothing
    | some d => { Result.ofPair c.u d g (fun _ => nextPc g.f.pc) with
        lanes := (takersOf (go g) g).filter (fun l => l ∈ (splitFrag s g.w g.f (nextOf c (go g) g)).elim [] (·.2)) }
  stays := true
  turn := fun w => (splitFrag s w g.f (nextOf c (go g) g)).elim w (·.1)

theorem transfers_iff {i : Instr} {c : Ctl} {n : Need} {link : Option (BitVec 8)} {go : Go → Nat → Option (Xl DWord)} :
    Transfers i c n link go ↔ Does i c n
      (fun s g => TargetsPass (go g) s g ∧ (splitFrag s g.w g.f (nextOf c (go g) g)).isSome = true) (transferEffect c link go) := by
  cases link <;> rfl

/-- The act of a transfer with passing targets and room is its effect. -/
theorem transfer_gives {c : Ctl} {link : Option (BitVec 8)} {go : Go → Nat → Option (Xl DWord)} {s : State} {g : Go}
    (hpass : TargetsPass (go g) s g) (hroom : (splitFrag s g.w g.f (nextOf c (go g) g)).isSome = true) :
    Gives (transfer c s g (go g) (linkWrites c link g)) (transferEffect c link go s g) := by
  obtain ⟨r, hr⟩ := Option.isSome_iff_exists.mp hroom
  rw [transfer_of_pass hpass hr]
  refine ⟨rfl, rfl, rfl, ?_, ?_, rfl, rfl, rfl, rfl, rfl, rfl, rfl, rfl, rfl, rfl, rfl, rfl⟩
  · cases link with
    | none => rfl
    | some d =>
      simp only [transferEffect, hr]
      exact putPair_writes c.u d { g with lanes := (takersOf (go g) g).filter (fun l => l ∈ r.2) } (fun _ => nextPc g.f.pc)
  · cases link <;> rfl

theorem transferEffect_inRange {c : Ctl} {link : Option (BitVec 8)} {go : Go → Nat → Option (Xl DWord)} {s : State} {g : Go}
    (hl : ∀ l ∈ g.lanes, l < 32) : (transferEffect c link go s g).res.inRange := by
  cases link with
  | none => simp [transferEffect, Result.inRange, Result.nothing]
  | some d => exact ⟨fun l hl' => hl l (List.mem_of_mem_filter (List.mem_of_mem_filter hl')), by simp [transferEffect, Result.ofPair, Result.ofWords]⟩

/-- An instruction that issues a transfer of its lanes, with the link it names. -/
theorem transfers_of {i : Instr} {c : Ctl} {n : Need} {link : Option (BitVec 8)} {go : Go → Nat → Option (Xl DWord)}
    (hi : ∀ s, exec i s = issue c n (fun g => transfer c s g (go g) (linkWrites c link g)) s)
    (hd : i.wf = true → ∀ d ∈ link, c.u = true → d.toNat + 1 < 56) : Transfers i c n link go := by
  refine transfers_iff.mpr (does_of_gives (body := fun s g => transfer c s g (go g) (linkWrites c link g)) hi
    (fun hwf s g _ _ => ⟨fun _ => by simp [transferEffect], ?_⟩) (fun _ s g hl hok => ⟨transfer_gives hok.1 hok.2, transferEffect_inRange hl⟩))
  cases link with
  | none => exact pushed_nil (fun hu => by cases hu)
  | some d =>
    refine pushed_nil (fun hu j hj => ?_)
    have := hd hwf d rfl hu
    simp only [transferEffect, Result.ofPair, Result.ofWords] at hj ⊢
    omega

/-! ### The five instructions -/

theorem uniDst_of_dstT {u : Bool} {d : BitVec 8} {k : Nat} (h : dstT u d k = true) (hu : u = true) : uniDst d k = true := by
  rwa [dstT, if_pos hu] at h

theorem bra_transfers (c : Ctl) (off : BitVec 26) :
    Transfers (.bra c off) c (needs [] [] 0) none (fun g _ => some (offsetTarget g.f.pc off.toInt)) :=
  transfers_of (fun _ => rfl) (by simp)

theorem br3_transfers (c : Ctl) (p : BitVec 3) (off : BitVec 26) (off2 : BitVec 16) :
    Transfers (.br3 c p off off2) c { needs [] [] 0 with preds := [p.toNat] } none (fun g l =>
      if g.tri p.toNat l = .yes then some (offsetTarget g.f.pc off.toInt)
      else if g.tri p.toNat l = .undecided then some (offsetTarget g.f.pc off2.toInt) else none) := by
  refine transfers_of (fun s => ?_) (by simp)
  change execBr3 c p off off2 s = _
  unfold execBr3
  congr 2
  funext g
  congr 1
  funext l
  cases g.tri p.toNat l <;> rfl

theorem brx_transfers (c : Ctl) (a : Src) :
    Transfers (.brx c a) c (needs [] [srcField a 1] 0) none (fun g l => some (offsetTarget g.f.pc (g.rd 0 0 l).toInt)) :=
  transfers_of (fun _ => rfl) (by simp)

theorem call_transfers (c : Ctl) (d : BitVec 8) (off : BitVec 26) :
    Transfers (.call c d off) c (needs [dstField c.u d 2] [] 0) (some d) (fun g _ => some (offsetTarget g.f.pc off.toInt)) := by
  refine transfers_of (fun _ => rfl) (fun hwf e he hu => ?_)
  cases he
  have hd : needTag c = true ∧ dstT c.u d 2 = true := Bool.and_eq_true_iff.mp hwf
  exact not_port (uniDst_of_dstT hd.2 hu) (by omega)

theorem ret_transfers (c : Ctl) (a : Src) :
    Transfers (.ret c a) c (needs [] [srcField a 2] 0) none (fun g l => some (.ok (g.rd2 0 0 l))) :=
  transfers_of (fun _ => rfl) (by simp)

/-! ### A branch that every lane of its fragment takes -/

theorem execLanes_sub {c : Ctl} {r : Regs} {f : Frag} {l : Nat} (h : l ∈ execLanes c r f) : l ∈ lanesOf f.mask := by
  simp only [execLanes, List.mem_filter, guardLanes] at h
  obtain ⟨h, -⟩ := h
  split at h
  · exact List.mem_of_mem_take h
  · exact h

/-- The executing lanes are lanes of the fragment. -/
theorem gate_lanes {c : Ctl} {n : Need} {s : State} {w : Warp} {f : Frag} {g : Go} (h : gate c n s w f = .go g) :
    ∀ l ∈ g.lanes, l ∈ lanesOf g.f.mask := by
  unfold gate at h
  split at h
  · cases h
  split at h
  · cases h
  split at h
  · cases h
  split at h
  · cases h
  dsimp only at h
  split at h
  · cases h
    simp
  split at h
  · cases h
  split at h
  · cases h
  · cases h
  · cases h
  split at h
  · cases h
    exact fun l hl => execLanes_sub hl
  · cases h

theorem nub_map_const {α β : Type} [DecidableEq β] {ls : List α} {f : α → β} {t : β} (h : ∀ l ∈ ls, f l = t) (hne : ls ≠ []) :
    nub (ls.map f) = [t] := by
  have key : ∀ k, (List.replicate k t).foldl (fun acc x => if acc.contains x then acc else acc ++ [x]) [t] = [t] := by
    intro k
    induction k with
    | zero => rfl
    | succ k ih => simpa [List.replicate_succ] using ih
  obtain ⟨l, rest, rfl⟩ := List.exists_cons_of_ne_nil hne
  rw [List.map_eq_replicate_iff.mpr h]
  exact key _

/-- The warp with one of its fragments at another PC. -/
def Warp.moveFrag (w : Warp) (id : Nat) (t : DWord) : Warp := { w with regs := w.regs.mapFrag id (fun x => { x with pc := t }) }

/-- Lanes that all go to one PC stay one fragment, which moves there (R394). -/
theorem splitFrag_const (s : State) (w : Warp) {f : Frag} {next : Nat → DWord} {t : DWord} (h : ∀ l ∈ lanesOf f.mask, next l = t)
    (hne : lanesOf f.mask ≠ []) :
    splitFrag s w f next = some (w.moveFrag f.id t, lanesOf f.mask) := by
  have one : groupsOf (lanesOf f.mask) next = [(t, lanesOf f.mask)] := by
    rw [groupsOf, nub_map_const h hne, List.map_singleton, List.filter_eq_self.mpr (fun l hl => by simp [h l hl])]
  simp only [splitFrag, one, Warp.moveFrag]

/-- The linear slot number of a PC that names a slot names that PC (R44). -/
theorem ofLinear_linear {t : DWord} (h : wellPlaced t = true) : ofLinear (linear t) = some t := by
  have h6 : t.toNat % 64 < 6 := by simpa [wellPlaced] using h
  have hlt := t.isLt
  have hlin : linear t = t.toNat / 64 * 6 + t.toNat % 64 := by unfold linear; omega
  rw [ofLinear, if_pos (by omega), Int.toNat_natCast, hlin]
  congr 1
  apply BitVec.eq_of_toNat_eq
  rw [BitVec.toNat_ofNat]
  omega

/-- A branch all of whose lanes go to t sends the whole fragment there. -/
theorem nextOf_const {c : Ctl} {g : Go} {t : DWord} (hne : g.lanes ≠ []) (hall : g.lanes = lanesOf g.f.mask ∨ c.u = true) :
    ∀ l ∈ lanesOf g.f.mask, nextOf c (fun _ => some (.ok t)) g l = t := by
  have htake : takersOf (fun _ => some (.ok t)) g = g.lanes := by simp [takersOf]
  intro l hl
  simp only [nextOf, htake, destOf, hne, if_false]
  rcases hall with h | h
  · simp [h, hl]
  · simp [h]

/-- A face with the PC t, if it is that of the fragment id. -/
def movedFace (id : Nat) (t : DWord) (y : Nat × LaneMask × DWord × Nat × BitVec 3 × Park) : Nat × LaneMask × DWord × Nat × BitVec 3 × Park :=
  if y.1 = id then (y.1, y.2.1, t, y.2.2.2) else y

theorem moved_face (id : Nat) (t : DWord) (x : Frag) : Frag.face (if x.id = id then { x with pc := t } else x) = movedFace id t x.face := by
  by_cases hx : x.id = id <;> simp [Frag.face, movedFace, hx]

/-- A fragment that moves leaves its siblings' faces as they were. -/
theorem moveFrag_faces {v w : Warp} (id : Nat) (t : DWord) (h : v.regs.frags.map Frag.face = w.regs.frags.map Frag.face) :
    (v.moveFrag id t).regs.frags.map Frag.face
      = w.regs.frags.map (fun x => if x.id = id then { x with pc := t }.face else x.face) := by
  calc (v.moveFrag id t).regs.frags.map Frag.face
      = (v.regs.frags.map Frag.face).map (movedFace id t) := by
        simp only [Warp.moveFrag, Regs.mapFrag, List.map_map, Function.comp_def, moved_face]
    _ = w.regs.frags.map (fun x => movedFace id t x.face) := by rw [h, List.map_map]; rfl

/-- A result leaves the special registers, whenever it comes. -/
theorem specials_of_lands {x : Effect} {c : Ctl} {n : Need} {now : Nat} {g : Go} {v : Warp} (h : x.lands c n now g v) :
    v.regs.specials = g.w.regs.specials := by
  unfold Effect.lands at h
  split at h
  · obtain ⟨-, ⟨-, -, -, hs⟩, -⟩ := h
    exact hs
  split at h
  · obtain ⟨-, ⟨-, -, -, hs⟩, -⟩ := h
    exact hs
  · obtain ⟨-, -, -, -, hs, -⟩ := h
    exact hs

/-- A branch that every lane of its fragment takes moves the fragment and splits nothing (R394, R401). -/
theorem bra_moves_fragment (c : Ctl) (off : BitVec 26) (s : State) (w : Warp) (f : Frag) (g : Go) (t : DWord)
    (hwf : (Instr.bra c off).wf = true) (hi : Issues c (needs [] [] 0) s w f g {}) (hall : g.lanes = lanesOf g.f.mask ∨ c.u = true)
    (hpl : wellPlaced t = true) (ht : (linear t : Int) = linear g.f.pc + off.toInt) (hpass : targetTrap s g.w t = none) :
    ∃ v, exec (.bra c off) s = .next (s.run (g.upds ++ [.warp v])) ∧ v.regs.splits = g.w.regs.splits
      ∧ v.regs.frags.map Frag.face = g.w.regs.frags.map (fun x => if x.id = g.f.id then { x with pc := t }.face else x.face) := by
  obtain ⟨l, hl⟩ := List.exists_mem_of_ne_nil _ hi.lanes
  have hne : lanesOf g.f.mask ≠ [] := List.ne_nil_of_mem (gate_lanes hi.go l hl)
  have target : offsetTarget g.f.pc off.toInt = .ok t := by rw [offsetTarget, ← ht, ofLinear_linear hpl]
  have moves (v : Warp) : splitFrag s v g.f (nextOf c (fun _ => some (offsetTarget g.f.pc off.toInt)) g)
      = some (v.moveFrag g.f.id t, lanesOf g.f.mask) := by
    rw [target]
    exact splitFrag_const s v (nextOf_const hi.lanes hall) hne
  have pass : TargetsPass (fun _ => some (offsetTarget g.f.pc off.toInt)) s g := by
    rw [target]
    exact fun _ _ => ⟨rfl, hpass⟩
  obtain ⟨v, hv, hp, hlands⟩ := transfers_iff.mp (bra_transfers c off) hwf s w f g ⟨hi.cur, hi.go, hi.lanes, hi.room⟩
    ⟨pass, Option.isSome_of_eq_some (moves g.w)⟩ (show trappingFlags _ 0 = 0 by simp [trappingFlags])
  have moved : (transferEffect c none (fun g _ => some (offsetTarget g.f.pc off.toInt)) s g).turn v = v.moveFrag g.f.id t := by
    simp only [transferEffect, moves, Option.elim_some]
  rw [moved] at hv
  have specials := specials_of_lands hlands
  simp only [Regs.specials, Prod.mk.injEq] at specials
  refine ⟨v.moveFrag g.f.id t, hv, ?_, moveFrag_faces _ _ ?_⟩
  · simp only [Warp.moveFrag, Regs.mapFrag, specials]
  · exact hp.frags.trans (List.map_congr_left (fun y _ => if_neg (by simp [transferEffect])))

/-- Settles O18: a transfer with passing targets and room is one effect for all five, and a split into one group is a move. -/
theorem branches : Obligations.Branches := by
  unfold Obligations.Branches
  exact ⟨fun c p off off2 d a => ⟨bra_transfers c off, br3_transfers c p off off2, brx_transfers c a, call_transfers c d off, ret_transfers c a⟩,
    bra_moves_fragment⟩

end Sys2Proof.Machine
end

section
/-! PROOFS. SREAD and SWRITE (R13, R429, R493). -/

namespace Sys2Proof.Machine

/-! ### SREAD -/

/-- What SREAD gives: the register's value in every lane, a pair for a 64-bit register. -/
def sreadResult (c : Ctl) (x2 : Bool) (d : BitVec 8) (g : Go) (v : Nat → DWord) : Result :=
  if x2 then .ofPair c.u d g v else .ofWord c.u d g (fun l => lowWord (v l))

theorem sreadResult_writes (c : Ctl) (x2 : Bool) (d : BitVec 8) (g : Go) (v : Nat → DWord) :
    (sreadResult c x2 d g v).writes
      = if x2 then putPair c.u d.toNat g.lanes v else putWord c.u d.toNat g.lanes (fun l => lowWord (v l)) := by
  cases x2
  · exact (putWord_writes c.u d g _).symm
  · exact (putPair_writes c.u d g v).symm

theorem sreadResult_inRange {c : Ctl} {x2 : Bool} {d : BitVec 8} {g : Go} {v : Nat → DWord} (h : ∀ l ∈ g.lanes, l < 32) :
    (sreadResult c x2 d g v).inRange := by
  cases x2 <;> exact ⟨h, by simp [sreadResult, Result.ofPair, Result.ofWord, Result.ofWords]⟩

theorem sreadResult_pushed {c : Ctl} {x2 : Bool} {d : BitVec 8} {num : BitVec 12} (g : Go) (v : Nat → DWord)
    (h : (Instr.sread c x2 d num).wf = true) : (sreadResult c x2 d g v).pushed g = [] := by
  have hwf : (needTag c && dstT c.u d (if x2 then 2 else 1) && decide (sysregWide num.toNat = some x2)) = true := h
  simp only [Bool.and_eq_true] at hwf
  obtain ⟨⟨-, hd⟩, -⟩ := hwf
  cases x2 with
  | false => exact pushed_nil (fun hu _ hj => not_port (uniDst_of_dstT hd hu) hj)
  | true => exact pushed_nil (fun hu _ hj => not_port (uniDst_of_dstT hd hu) hj)

theorem sread_reads (c : Ctl) (x2 : Bool) (d : BitVec 8) (num : BitVec 12) :
    Does (.sread c x2 d num) c (needs [dstField c.u d (if x2 then 2 else 1)] [] 0) (fun s g => sysRefused s g.w num.toNat = none)
      (fun s g =>
        { res := sreadResult c x2 d g (sysValue s g.w g.f num.toNat)
          upds := if num.toNat = 0x056 then onPart (sysPart s g.w 0x056) (fun p => { p with eccnt := 0 }) else fun _ => [] }) := by
  refine does_of_gives (fun _ => rfl) (fun hwf s g _ _ => ⟨fun _ => by simp, sreadResult_pushed g _ hwf⟩)
    (fun _ s g hl hok => ⟨?_, sreadResult_inRange hl⟩)
  have flags : (sreadResult c x2 d g (sysValue s g.w g.f num.toNat)).flags = 0 := by cases x2 <;> rfl
  have clears : (if num = 0x056 then clearEcc (sysPart s g.w num.toNat) else fun _ => [])
      = if num.toNat = 0x056 then onPart (sysPart s g.w 0x056) (fun p => { p with eccnt := 0 }) else fun _ => [] := by
    by_cases h : num = 0x056
    · subst h
      rfl
    · have hn : num.toNat ≠ 0x056 := fun hn => h (BitVec.eq_of_toNat_eq hn)
      rw [if_neg h, if_neg hn]
  simp only [hok]
  exact ⟨rfl, rfl, rfl, (sreadResult_writes ..).symm, flags.symm, rfl, rfl, rfl, rfl, rfl, rfl, rfl, rfl, rfl, rfl, rfl, clears⟩

/-! ### SWRITE -/

/-- A SWRITE whose act is known, without a result, does what its act says. -/
theorem swrite_does {c : Ctl} {x2 : Bool} {num : BitVec 12} {a : BitVec 8} {ok : State → Go → Prop} {x : State → Go → Effect}
    (hres : ∀ s g, (x s g).res = .nothing) (haw : ∀ s g, (x s g).awaits = .unit)
    (h : ∀ s g, ok s g →
      Gives (swriteAct s g.w g.f.id num.toNat (if x2 then g.rd2 0 0 0 else (g.rd 0 0 0).setWidth 64)) (x s g)) :
    Does (.swrite c x2 num a) c (needs [] [uniField a (if x2 then 2 else 1)] 0) ok x := by
  refine does_of_gives (fun _ => rfl) (fun _ s g _ _ => ⟨fun _ => by simp [haw], ?_⟩) (fun _ s g _ hok => ⟨h s g hok, ?_⟩)
  · rw [hres]
    rfl
  · rw [hres]
    simp [Result.inRange, Result.nothing]

theorem sysLocal_iff (n : Nat) : sysLocal n = true ↔ 0x010 ≤ n ∧ n ≤ 0x013 := by simp [sysLocal]

theorem not_sysLocal (n : Nat) : (!sysLocal n) = decide ¬(0x010 ≤ n ∧ n ≤ 0x013) := by
  rw [Bool.eq_iff_iff, Bool.not_eq_true', decide_eq_true_iff, ← sysLocal_iff, Bool.not_eq_true]

theorem swriteAct_readOnly {s : State} {w : Warp} {fid n : Nat} {v : DWord} (hr : sysRefused s w n = none)
    (ha : sysAccess n w.level = .read) : swriteAct s w fid n v = { ends := decide ¬(0x010 ≤ n ∧ n ≤ 0x013) } := by
  simp only [swriteAct, hr, ha, if_true, not_sysLocal]

/-- What a SWRITE does that raises nothing and does not wait. -/
theorem swriteAct_both {s : State} {w : Warp} {fid n : Nat} {v : DWord} (hr : sysRefused s w n = none)
    (ha : sysAccess n w.level = .both) (ht : sysWriteTrap s w n v = none) (hw : sysLocal n = false → sysWriteWaits s n = false) :
    swriteAct s w fid n v =
      if sysLocal n then { warp := localWrite n fid (lowWord v) } else { ends := true, after := [.swrite n v] } := by
  unfold swriteAct
  simp only [hr, ha, ht, reduceCtorEq, if_false]
  split
  next => rfl
  next h => rw [hw (by simpa using h), if_neg (by simp)]

/-- An act that changes its warp, ends its chunk and leaves something for its position is that effect. -/
theorem gives_turn (ends : Bool) (after : List Deferred) (turn : Warp → Warp) :
    Gives { ends := ends, after := after, warp := turn } { ends := ends, after := after, turn := turn } :=
  ⟨rfl, rfl, rfl, rfl, rfl, rfl, rfl, rfl, rfl, rfl, rfl, rfl, rfl, rfl, rfl, rfl, rfl⟩

/-- Settles O40: what SREAD gives, and the three acts of a SWRITE that neither raises nor waits. -/
theorem systemRegisters : Obligations.SystemRegisters := by
  unfold Obligations.SystemRegisters
  intro c x2 d a num
  refine ⟨sread_reads c x2 d num, ?_, fun h1 h2 => ?_, fun hn => ?_⟩
  · refine swrite_does (fun _ _ => rfl) (fun _ _ => rfl) (fun s g ⟨hr, ha⟩ => ?_)
    rw [swriteAct_readOnly hr ha]
    exact gives_turn _ [] id
  · have hl : sysLocal num.toNat = true := (sysLocal_iff _).mpr ⟨h1, h2⟩
    refine swrite_does (fun _ _ => rfl) (fun _ _ => rfl) (fun s g ⟨hr, ha, ht⟩ => ?_)
    rw [swriteAct_both hr ha ht (by simp [hl]), if_pos hl]
    exact gives_turn false [] _
  · have hl : ¬ sysLocal num.toNat = true := (sysLocal_iff _).not.mpr hn
    refine swrite_does (fun _ _ => rfl) (fun _ _ => rfl) (fun s g ⟨hr, ha, ht, hw⟩ => ?_)
    rw [swriteAct_both hr ha ht (fun _ => hw), if_neg hl]
    exact gives_turn true _ id

end Sys2Proof.Machine
end

section
/-! PROOFS. Register writes as steps of their own: a write of ENCKEY by a warp of a level above the manager's reaches another
partition than PARTCTL.PART selects (R429, R446). -/

namespace Sys2Proof.Machine

theorem rekeyed_parts (before : List UnitKey) (s : State) : (s.run (rekeyed before s)).parts = s.parts := by
  unfold rekeyed
  dsimp only
  split
  · rfl
  · simp only [inOrder_cons, inOrder_nil, run_append, run_nil, run_cons, putBytes, spillUnder]
    split <;> split <;> rfl

theorem withKeys_parts (us : State → List Upd) (s : State) : (s.run (withKeys us s)).parts = (s.run (us s)).parts := by
  simp only [withKeys, inOrder_cons, inOrder_nil, run_append, run_nil]
  exact rekeyed_parts (keysOf s) _

/-- The placed machine, its control program's warp in partition 1 and at level 3, above the manager's. -/
def aboveManager : State :=
  let s := placeWord State.reset 0x00400000000000000000
  { s with warps := s.warps.map (fun w => { w with level := 3, part := 1 }) }

/-- The first ENCKEY word of each partition. -/
def firstKeys (s : State) : List Word := s.parts.map (fun p => p.enckey.headD 0)

/-- The state an outcome goes on in, where it does. -/
def nextState (o : Host.Outcome State Fault Refusal) : Option State :=
  match o with
  | .next t => some t
  | .fault _ => none
  | .refused _ => none

/-- A level above 2 may write what level 2 may, but PARTCTL.PART selects no partition for it: its write reaches its own partition's key. -/
theorem aboveManager_writes_own_key :
    (nextState (exec (.enckeyWrite 3 0 1) aboveManager)).map firstKeys = some [0, 1, 0, 0, 0, 0, 0, 0] := by
  decide +kernel

/-- Refutes O49: R429 names the levels 0 to 2, Warp.level is any number, and the clause of ENCKEY does not bound it. -/
theorem not_registerEvents : ¬ Obligations.RegisterEvents := by
  unfold Obligations.RegisterEvents
  intro h
  let w := aboveManager.warps.head (by decide +kernel)
  let p := aboveManager.parts.head (by decide +kernel)
  have hw : aboveManager.warp? 3 = some w := by decide +kernel
  have hp : aboveManager.part? (partSelected aboveManager) = some p := by decide +kernel
  obtain ⟨-, -, -, -, -, -, -, -, enckey, -⟩ := h 3 aboveManager w hw
  have runs : Runs _ _ _ := enckey 0 1 p (by decide) ⟨by decide +kernel, by decide +kernel⟩ hp
  have own := aboveManager_writes_own_key
  rw [runs, nextState, Option.map_some, firstKeys, withKeys_parts] at own
  exact absurd own (by decide +kernel)

end Sys2Proof.Machine
end

section
/-! PROOFS. Every instruction's word decodes to it, and every word that decodes is its instruction's (R46 to R54, R70, R77). -/

namespace Sys2Proof

/-! ### Bits and fields of M -/

/-- The bit of M that stands at word bit k (R46). -/
def mAt (m : BitVec 18) (k : Nat) : Bool := m.getLsbD (k - 20)

/-- The w bits of M from word bit lo on (R46). -/
def mField (m : BitVec 18) (lo w : Nat) : BitVec w := m.extractLsb' (lo - 20) w

@[simp] theorem mAt_zero (k : Nat) : mAt 0#18 k = false := by simp [mAt]

@[simp] theorem mAt_or (m n : BitVec 18) (k : Nat) : mAt (m ||| n) k = (mAt m k || mAt n k) := by simp [mAt]

@[simp] theorem mAt_at_outside {w : Nat} {v : BitVec w} {lo k : Nat} (h1 : 20 ≤ lo) (h2 : 20 ≤ k) (h : k < lo ∨ lo + w ≤ k) :
    mAt (at_ w v lo) k = false := by
  rw [mAt, at_getLsbD]
  rcases h with h | h
  · rw [decide_eq_false (by omega : ¬ lo - 20 ≤ k - 20)]
    simp
  · rw [BitVec.getLsbD_of_ge v _ (by omega)]
    simp

@[simp] theorem mAt_bitAt_same {x : Bool} {k : Nat} (h1 : 20 ≤ k) (h2 : k < 38) : mAt (bitAt x k) k = x := by
  rw [mAt, bitAt_bit x k _ (by omega) h1]
  simp

@[simp] theorem mAt_bitAt_ne {x : Bool} {lo k : Nat} (h1 : 20 ≤ lo) (h2 : 20 ≤ k) (h : k ≠ lo) : mAt (bitAt x lo) k = false :=
  mAt_at_outside h1 h2 (by omega)

@[simp] theorem mField_zero (lo w : Nat) : mField 0#18 lo w = 0 := by
  ext
  simp [mField]

@[simp] theorem mField_or (m n : BitVec 18) (lo w : Nat) : mField (m ||| n) lo w = mField m lo w ||| mField n lo w := ext_or m n _ w

theorem mField_at_inside {w' : Nat} {v : BitVec w'} {lo' lo w : Nat} (h1 : 20 ≤ lo') (h2 : lo' ≤ lo) (h3 : lo + w ≤ 38) :
    mField (at_ w' v lo') lo w = v.extractLsb' (lo - lo') w := by
  rw [mField, at_inside w' v lo' _ w (by omega) (by omega)]
  congr 1
  omega

@[simp] theorem mField_at_same {w : Nat} {v : BitVec w} {lo : Nat} (h1 : 20 ≤ lo) (h2 : lo + w ≤ 38) : mField (at_ w v lo) lo w = v := by
  rw [mField_at_inside h1 le_rfl h2, Nat.sub_self, ext_all]

@[simp] theorem mField_at_outside {w' : Nat} {v : BitVec w'} {lo' lo w : Nat} (h1 : 20 ≤ lo') (h2 : 20 ≤ lo) (h : lo' + w' ≤ lo ∨ lo + w ≤ lo') :
    mField (at_ w' v lo') lo w = 0 := by
  rcases h with h | h
  · exact at_outside_hi w' v lo' _ w (by omega)
  · exact at_outside_lo w' v lo' _ w (by omega)

@[simp] theorem mField_bitAt_outside {x : Bool} {k lo w : Nat} (h1 : 20 ≤ k) (h2 : 20 ≤ lo) (h : k < lo ∨ lo + w ≤ k) :
    mField (bitAt x k) lo w = 0 :=
  mField_at_outside h1 h2 (by omega)

/-! ### What a form's slot reads as -/

@[simp] theorem fldU_n (n : BitVec 8) : (fldU n).n = n := rfl
@[simp] theorem fldV_n (n : BitVec 8) : (fldV n).n = n := rfl
@[simp] theorem fldP_n (p : BitVec 3) : (fldP p).n = p.setWidth 8 := rfl

@[simp] theorem srcOf_fldS (s : Src) : srcOf (fldS s).n (fldS s).k = s := src_fld s

@[simp] theorem predOf_setWidth (p : BitVec 3) : predOf (p.setWidth 8) = p := pred_field p

@[simp] theorem extract_setWidth {w : Nat} (x : BitVec w) (n : Nat) (h : w ≤ n) : (x.setWidth n).extractLsb' 0 w = x := by
  apply BitVec.eq_of_getLsbD_eq
  intro i hi
  simp [hi, show i < n by omega]

/-! Form R -/

section formR
variable {op : Nat} {c : Ctl} {d : BitVec 8} {a b e : Fld} {m : BitVec 18}

@[simp] theorem formR_op : (formR op c d a b e m).op.toNat = op % 1024 := by simp [formR, withCtl]
@[simp] theorem formR_d : (formR op c d a b e m).d = d := rfl
@[simp] theorem formR_a : (formR op c d a b e m).a = a.n := rfl
@[simp] theorem formR_b : (formR op c d a b e m).b = b.n := rfl
@[simp] theorem formR_c : (formR op c d a b e m).c = e.n := rfl

@[simp] theorem mBit_formR {k : Nat} (h1 : 20 ≤ k) (h2 : k < 35) : mBit (formR op c d a b e m) k = mAt m k := by
  have out {x : Bool} {lo : Nat} (h : 35 ≤ lo) : mAt (bitAt x lo) k = false := mAt_bitAt_ne (by omega) h1 (by omega)
  change mAt (bitAt a.k 37 ||| bitAt b.k 36 ||| bitAt e.k 35 ||| m) k = _
  simp only [mAt_or, out, Nat.le_refl, Nat.reduceLeDiff, Bool.false_or]

@[simp] theorem mBits_formR {lo w : Nat} (h1 : 20 ≤ lo) (h2 : lo + w ≤ 35) : mBits (formR op c d a b e m) lo w = mField m lo w := by
  have out {x : Bool} {k : Nat} (h : 35 ≤ k) : mField (bitAt x k) lo w = 0 := mField_bitAt_outside (by omega) h1 (by omega)
  change mField (bitAt a.k 37 ||| bitAt b.k 36 ||| bitAt e.k 35 ||| m) lo w = _
  simp [out]

@[simp] theorem srcA_formR {s : Src} (h : mAt m 37 = false) : srcA (formR op c d (fldS s) b e m) = s := by
  change srcOf _ (mAt (bitAt (fldS s).k 37 ||| bitAt b.k 36 ||| bitAt e.k 35 ||| m) 37) = s
  simp [h, formR, withCtl]

@[simp] theorem srcB_formR {s : Src} (h : mAt m 36 = false) : srcB (formR op c d a (fldS s) e m) = s := by
  change srcOf _ (mAt (bitAt a.k 37 ||| bitAt (fldS s).k 36 ||| bitAt e.k 35 ||| m) 36) = s
  simp [h, formR, withCtl]

@[simp] theorem srcC_formR {s : Src} (h : mAt m 35 = false) : srcC (formR op c d a b (fldS s) m) = s := by
  change srcOf _ (mAt (bitAt a.k 37 ||| bitAt b.k 36 ||| bitAt (fldS s).k 35 ||| m) 35) = s
  simp [h, formR, withCtl]

end formR

/-! Form I -/

section formI
variable {op : Nat} {c : Ctl} {d a : BitVec 8} {imm : Word} {m : BitVec 18}

@[simp] theorem formI_d : (formI op c d a imm m).d = d := rfl
@[simp] theorem formI_a : (formI op c d a imm m).a = a := rfl

@[simp] theorem mBit_formI {k : Nat} (h1 : 20 ≤ k) (h2 : k < 22) : mBit (formI op c d a imm m) k = mAt m k := by
  change mAt (at_ 16 (imm.extractLsb' 0 16) 22 ||| m) k = _
  rw [mAt_or, mAt_at_outside (by omega) h1 (by omega), Bool.false_or]

@[simp] theorem mBits_formI {lo w : Nat} (h1 : 20 ≤ lo) (h2 : lo + w ≤ 22) : mBits (formI op c d a imm m) lo w = mField m lo w := by
  change mField (at_ 16 (imm.extractLsb' 0 16) 22 ||| m) lo w = _
  rw [mField_or, mField_at_outside (by omega) h1 (by omega)]
  simp

@[simp] theorem immOf_formI (h : mField m 22 16 = 0) : immOf (formI op c d a imm m) = imm := by
  change imm.extractLsb' 24 8 ++ imm.extractLsb' 16 8 ++ mField (at_ 16 (imm.extractLsb' 0 16) 22 ||| m) 22 16 = imm
  rw [mField_or, mField_at_same (by omega) (by omega), h]
  simp [imm_join]

end formI

/-! Form B -/

section formB
variable {op : Nat} {c : Ctl} {d a b : BitVec 8} {off : BitVec 26}

@[simp] theorem formB_d : (formB op c d a b off).d = d := rfl
@[simp] theorem formB_a : (formB op c d a b off).a = a := rfl
@[simp] theorem formB_b : (formB op c d a b off).b = b := rfl
@[simp] theorem offOf_formB : offOf (formB op c d a b off) = off := off_join off

end formB

/-! Form Mem -/

section formM
variable {op : Nat} {c : Ctl} {d : BitVec 8} {a e : Fld} {r : MemRef} {md : BitVec 4}

@[simp] theorem formM_d : (formM op c d a r e md).d = d := rfl
@[simp] theorem formM_a : (formM op c d a r e md).a = a.n := rfl
@[simp] theorem formM_c : (formM op c d a r e md).c = e.n := rfl

/-- The bits of M of form Mem. -/
theorem formM_m : (formM op c d a r e md).m =
    bitAt a.k 37 ||| bitAt (fldS r.base).k 36 ||| bitAt e.k 35 ||| at_ 2 r.rsel 33 ||| at_ 4 md 29 ||| at_ 9 r.disp 20 := rfl

@[simp] theorem memOf_formM : memOf (formM op c d a r e md) = r := by
  change MemRef.mk (srcOf _ (mAt (formM op c d a r e md).m 36)) (mField (formM op c d a r e md).m 33 2) (mField (formM op c d a r e md).m 20 9) = r
  have hb : (formM op c d a r e md).b = (fldS r.base).n := rfl
  simp [formM_m, hb]

@[simp] theorem mBit_formM {k : Nat} (h1 : 29 ≤ k) (h2 : k < 33) : mBit (formM op c d a r e md) k = md.getLsbD (k - 29) := by
  have out {x : Bool} {lo : Nat} (h : 35 ≤ lo) : mAt (bitAt x lo) k = false := mAt_bitAt_ne (by omega) (by omega) (by omega)
  change mAt (formM op c d a r e md).m k = _
  rw [formM_m]
  simp only [mAt_or, out, Nat.reduceLeDiff, Bool.false_or]
  rw [mAt_at_outside (by omega) (by omega) (by omega), mAt_at_outside (lo := 20) (by omega) (by omega) (by omega), mAt, at_getLsbD,
    show k - 20 - (29 - 20) = k - 29 by omega]
  simp [show k - 20 < 18 by omega, show 9 ≤ k - 20 by omega]

@[simp] theorem mBits_formM {lo w : Nat} (h1 : 29 ≤ lo) (h2 : lo + w ≤ 33) :
    mBits (formM op c d a r e md) lo w = md.extractLsb' (lo - 29) w := by
  have out {x : Bool} {k : Nat} (h : 35 ≤ k) : mField (bitAt x k) lo w = 0 := mField_bitAt_outside (by omega) (by omega) (by omega)
  change mField (formM op c d a r e md).m lo w = _
  rw [formM_m]
  simp only [mField_or, out, Nat.reduceLeDiff]
  rw [mField_at_outside (by omega) (by omega) (by omega), mField_at_outside (lo' := 20) (by omega) (by omega) (by omega),
    mField_at_inside (by omega) h1 (by omega)]
  simp

@[simp] theorem srcA_formM {s : Src} : srcA (formM op c d (fldS s) r e md) = s := by
  change srcOf (fldS s).n (mAt (formM op c d (fldS s) r e md).m 37) = s
  simp [formM_m]

@[simp] theorem srcC_formM {s : Src} : srcC (formM op c d a r (fldS s) md) = s := by
  change srcOf (fldS s).n (mAt (formM op c d a r (fldS s) md).m 35) = s
  simp [formM_m]

@[simp] theorem scrOf_formM : scrOf (formM op c d a r e md) = ⟨r.base, r.disp⟩ := by
  have hm := memOf_formM (op := op) (c := c) (d := d) (a := a) (r := r) (e := e) (md := md)
  exact congrArg (fun x : MemRef => (⟨x.base, x.disp⟩ : ScrRef)) hm

end formM

/-! ### Modifiers joined from parts -/

@[simp] theorem szMod_size (s : Sz) (x : Bool) : (szMod s x).extractLsb' 1 3 = codeSz s := by
  rw [szMod, ext_high (h := le_rfl), ext_all]

@[simp] theorem szMod_bit (s : Sz) (x : Bool) : (szMod s x)[0] = x := by cases x <;> cases s <;> rfl

@[simp] theorem atomByte_op (op : AtomOp) (w64 : Bool) : (atomByte op w64).extractLsb' 0 5 = codeAtom op := by
  rw [atomByte, ext_low (h := le_rfl), ext_all]

@[simp] theorem atomByte_wide (op : AtomOp) (w64 : Bool) : (atomByte op w64)[5] = w64 := by cases w64 <;> cases op <;> rfl

@[simp] theorem codeIvfmt_joined (f : IvFmt) : (BitVec.setWidth 2 (codeIvfmt f) ++ 0#2).extractLsb' 2 2 = (codeIvfmt f).setWidth 2 := by
  rw [ext_high (h := le_rfl), ext_all]

@[simp] theorem codeIvfmt_narrow (f : IvFmt) : ((codeIvfmt f).setWidth 2).setWidth 4 = codeIvfmt f := by cases f <;> rfl

@[simp] theorem codeTsz_joined (z : TileSz) : (codeTsz z ++ 0#2).extractLsb' 2 2 = codeTsz z := by
  rw [ext_high (h := le_rfl), ext_all]

@[simp] theorem mstat_sel (x : BitVec 3) : mField (at_ 4 (0#1 ++ x) 31) 31 3 = x := by
  rw [mField_at_inside (by omega) le_rfl (by omega), ext_low (h := le_rfl), ext_all]

@[simp] theorem cwait_rsel (x : Bool) (r : BitVec 2) : (0#5 ++ BitVec.ofBool x ++ r).extractLsb' 0 2 = r := by
  rw [ext_low (h := le_rfl), ext_all]

@[simp] theorem cwait_cont (x : Bool) (r : BitVec 2) : (0#5 ++ BitVec.ofBool x ++ r)[2] = x := by
  rw [← BitVec.getLsbD_eq_getElem, cat_bit_high _ _ _ le_rfl, cat_bit_low _ _ _ (by omega)]
  simp

@[simp] theorem pref_level (x : Bool) : (0#1 ++ BitVec.ofBool x ++ 0#2)[2] = x := by cases x <;> rfl

/-! ### Every row -/

/-- The fields of a slot name the instruction. -/
def Names (i : Instr) (r : RawSlot) : Prop :=
  ∃ c, ctlOf r = some c ∧ opAssigned r.op.toNat = true ∧ candidate r c = some i

/-- The fields of an instruction's word name it again. Control fields and opcode do in every row; the opcode picks the row of the decoder
by computation, and what is left of each row is that its operands and modifiers read back. -/
theorem names_of_encodeRaw {i : Instr} {r : RawSlot} (h : encodeRaw i = some r) (hi : ∀ w, i ≠ .illegalOpcode w) : Names i r := by
  cases i <;> cases h
  case illegalOpcode w => exact absurd rfl (hi w)
  case barc c op cb q =>
    cases op <;> exact ⟨c, ctlOf_form .., rfl, by simp [candidate, decodeSystem]⟩
  case barq c op task g q =>
    cases op <;> exact ⟨c, ctlOf_form .., rfl, by simp [candidate, decodeSystem]⟩
  all_goals refine ⟨_, ctlOf_form .., rfl, ?_⟩
  all_goals conv_lhs => whnf
  all_goals clear hi
  all_goals simp [fmtOf, rndAt, ivOf, pfOf, ivMemOf, scopeField, szField, atomField, formS, fpMod, cvMod, ivMod,
    ivpMod, half_join]

/-! ### Words -/

/-- Adjacent fields join to one. -/
theorem ext_join {n : Nat} (x : BitVec n) {lo w v hi : Nat} (h : hi = lo + v) :
    x.extractLsb' hi w ++ x.extractLsb' lo v = x.extractLsb' lo (w + v) := by
  apply BitVec.eq_of_getLsbD_eq
  intro i hi'
  rw [BitVec.getLsbD_append]
  split
  next hv => simp [hv, hi']
  next hv => simp [h, hi', show i - v < w by omega, show lo + v + (i - v) = lo + i by omega]

theorem slotOfRaw_rawOfSlot (w : Slot) : slotOfRaw (rawOfSlot w) = w := by
  simp only [slotOfRaw, rawOfSlot]
  iterate 13 rw [ext_join (h := by rfl)]
  exact ext_all w

theorem wf_illegalOpcode (w : Slot) : (Instr.illegalOpcode w).wf = !opAssigned (w.extractLsb' 70 10).toNat := rfl

theorem encode_illegalOpcode (w : Slot) : encode (.illegalOpcode w) = some w := congrArg some (slotOfRaw_rawOfSlot w)

theorem decode_unassigned {w : Slot} (h : opAssigned (w.extractLsb' 70 10).toNat = false) : decode w = .ok (.illegalOpcode w) :=
  if_neg (by rw [h]; exact Bool.false_ne_true)

theorem decode_of_encode {i : Instr} {w : Slot} (hwf : i.wf = true) (he : encode i = some w) : decode w = .ok i := by
  by_cases hi : ∃ u, i = .illegalOpcode u
  · obtain ⟨u, rfl⟩ := hi
    obtain rfl : u = w := Option.some.inj ((encode_illegalOpcode u).symm.trans he)
    rw [wf_illegalOpcode, Bool.not_eq_true'] at hwf
    exact decode_unassigned hwf
  · obtain ⟨r, hr, -⟩ := Option.map_eq_some_iff.mp he
    obtain ⟨c, hc, ho, hd⟩ := names_of_encodeRaw hr (fun u hu => hi ⟨u, hu⟩)
    have h := decode_encode i r c hwf hr hc ho hd
    rw [he] at h
    exact Option.some.inj h

theorem encode_of_decode {w : Slot} {i : Instr} (h : decode w = .ok i) : i.wf = true ∧ encode i = some w := by
  unfold decode at h
  split at h
  next =>
    split at h
    · split at h
      next hi =>
        cases h
        rwa [Bool.and_eq_true, decide_eq_true_iff] at hi
      · cases h
    · cases h
  next ho =>
    cases h
    exact ⟨by rw [wf_illegalOpcode, Bool.not_eq_true', ← Bool.not_eq_true]; exact ho, encode_illegalOpcode w⟩

/-- Settles O56: an encoded word's fields name its instruction again, and the decoder answers only instructions whose word it was given. -/
theorem encodingRoundTrip : Obligations.EncodingRoundTrip :=
  ⟨fun _ _ => decode_of_encode, fun _ _ => encode_of_decode⟩

/-- Settles O55, by running the decoder on each word. -/
theorem decodeWords : Obligations.DecodeWords := by
  unfold Obligations.DecodeWords
  decide +kernel

end Sys2Proof
end

section
/-! PROOFS. The words of a fetch line, sequential flow, and a step of a fragment that issues (R36, R40 to R43, R368). -/

namespace Sys2Proof

/-! ### Little-endian bytes (R5, R36) -/

theorem leNat_bit (bs : List Byte) (i : Nat) : (leNat bs).testBit i = (bs.getD (i / 8) 0).getLsbD (i % 8) := by
  induction bs generalizing i with
  | nil => simp [leNat]
  | cons b bs ih =>
    have split : leNat (b :: bs) = 2 ^ 8 * leNat bs + b.toNat := by
      rw [leNat]
      omega
    rw [split, Nat.testBit_two_pow_mul_add _ b.isLt]
    split
    next h => rw [Nat.div_eq_of_lt h, Nat.mod_eq_of_lt h]; rfl
    next h =>
      obtain ⟨j, rfl⟩ := Nat.exists_eq_add_of_le (Nat.not_lt.mp h)
      rw [Nat.add_sub_cancel_left, ih, Nat.add_mod_left, show (8 + j) / 8 = j / 8 + 1 by omega, List.getD_cons_succ]

/-- The bits of n bytes of a line from byte k on, as one little-endian word. -/
theorem ofNat_leNat_bit {w k n i : Nat} (line : List Byte) (hi : i < w) (hn : i / 8 < n) :
    (BitVec.ofNat w (leNat ((line.drop k).take n))).getLsbD i = (line.getD (k + i / 8) 0).getLsbD (i % 8) := by
  rw [BitVec.getLsbD_ofNat, decide_eq_true hi, Bool.true_and, leNat_bit]
  congr 1
  simp [List.getD_eq_getElem?_getD, hn]

end Sys2Proof

namespace Sys2Proof.Machine

/-! ### Lines and sequential flow (R36, R43) -/

/-- Clearing the low k bits is a shift down and up again. -/
theorem clear_low {w : Nat} (x : BitVec w) (k : Nat) : x &&& ~~~(BitVec.allOnes k).setWidth w = (x >>> k) <<< k := by
  apply BitVec.eq_of_getLsbD_eq
  intro i hi
  by_cases h : i < k
  · simp [h]
  · simp [h, hi, show k + (i - k) = i by omega]

theorem lineStart_eq (pc : DWord) : pc &&& ~~~(63 : DWord) = BitVec.ofNat 64 (pc.toNat / 64 * 64) := by
  have shifts : pc &&& ~~~(63 : DWord) = (pc >>> 6) <<< 6 := clear_low pc 6
  rw [shifts]
  apply BitVec.eq_of_toNat_eq
  simp [Nat.shiftRight_eq_div_pow, Nat.shiftLeft_eq]

theorem nextPc_inside {pc : DWord} (h : pc.toNat % 64 < 5) : (nextPc pc).toNat = pc.toNat + 1 := by
  have hlt := pc.isLt
  rw [nextPc, if_pos (by omega), BitVec.toNat_add]
  simp
  omega

theorem nextPc_last {pc : DWord} (h : pc.toNat % 64 = 5) : nextPc pc = (pc &&& ~~~(63 : DWord)) + 64 := by
  rw [nextPc, if_neg (by omega), lineStart_eq]
  apply BitVec.eq_of_toNat_eq
  simp
  omega

theorem lineBytes_uncopied {s : State} {w : Warp} {a : Nat} (h : copyOf s w a = none) : lineBytes s w a = lineAt s w.part w.path a := by
  unfold copyOf at h
  rw [lineBytes, h]

theorem fetchLine_ok {s : State} {w : Warp} {pc : DWord} {a : Nat} {line : List Byte} (h : fetchLine s w pc = .ok (a, line)) :
    line = lineBytes s w a
      ∧ ∃ x, translate s { w.who with own := [] } { fetch := true } w.crealm.toNat (pc &&& ~~~(63 : DWord)) 64 = .ok (.mem a x) := by
  unfold fetchLine at h
  dsimp only at h
  split at h
  next => cases h
  next a' x ht =>
    cases h
    exact ⟨rfl, x, ht⟩
  next => cases h
  next => cases h

theorem fetchSlot_good {s : State} {w : Warp} {f : Frag} {a : Nat} {line : List Byte} {i : Instr} (hp : wellPlaced f.pc = true)
    (hf : fetchLine s w f.pc = .ok (a, line)) (hb : lineBad line (f.pc.toNat % 8) = false) (hw : lineWordOk (lineWord line) = true)
    (hd : decode (lineSlot line (f.pc.toNat % 8)) = .ok i) : fetchSlot s w f = .instr i a := by
  simp [fetchSlot, hp, hf, hb, hw, hd]

/-- Settles O53: a line's words by the bits of little-endian numbers, flow by the arithmetic of nextPc. -/
theorem fetchAndFlow : Obligations.FetchAndFlow := by
  unfold Obligations.FetchAndFlow
  refine ⟨fun line i _ hi => ?_, fun line k i _ _ hi => ofNat_leNat_bit line hi (by omega), fun s w pc a line hf hc => ?_,
    fun _ => nextPc_inside, fun _ => nextPc_last, fun _ _ _ _ _ _ => fetchSlot_good⟩
  · simpa [lineWord] using ofNat_leNat_bit (k := 0) (n := 4) line hi (by omega)
  · obtain ⟨hl, x, ht⟩ := fetchLine_ok hf
    rw [lineBytes_uncopied hc] at hl
    rw [lineStart_eq] at ht
    exact ⟨by rw [hl, lineAt, List.length_map, List.length_range], hl, x, ht⟩

/-! ### A step of a fragment that issues -/

theorem pairSlot_good {s : State} {w : Warp} {f : Frag} {a : Nat} {line : List Byte} (hf : fetchLine s w f.pc = .ok (a, line)) :
    pairSlot s w f = linePair (lineWord line) (f.pc.toNat % 8) := by
  simp [pairSlot, hf]

/-- Settles O54: with no turn and no event before it, a step is the issue of the slot that the fetch finds. -/
theorem stepRunsDecoded : Obligations.StepRunsDecoded := by
  unfold Obligations.StepRunsDecoded
  intro s w f a line i b hagenda hevent hnext hp hf hb hw hd
  have turn : step s = issueTurn w f b := by
    change takeTurn b = _
    simp only [takeTurn, hagenda, ownTurn, hevent, hnext]
  rw [turn, issueTurn, fetchSlot_good hp hf hb hw hd]
  change afterIssue w f.id (if pairSlot b w f then some (nextPc f.pc) else none) (exec i (b.run [.cur (some (w.id, f.id))])) = _
  rw [pairSlot_good hf]
  cases exec i (b.run [.cur (some (w.id, f.id))]) with
  | next t => cases linePair (lineWord line) (f.pc.toNat % 8) <;> rfl
  | fault _ => rfl
  | refused _ => rfl

end Sys2Proof.Machine
end

section
/-! PROOFS. NOP, YIELD, JOIN, DRAIN and the instructions that end their chunk, and what no lane executes (R57, R66, R226, R289, R396, R406 to R408). -/

namespace Sys2Proof.Machine

/-! ### Instructions without a result -/

/-- An instruction whose act is known, with neither a result nor an answer to wait for, does what its act says. -/
theorem does_without_result {i : Instr} {c : Ctl} {n : Need} {idle : Go → Act} {body : State → Go → Act} {ok : State → Go → Prop}
    {x : State → Go → Effect} (hi : ∀ s, exec i s = issueWith c n idle (body s) s) (hres : ∀ s g, (x s g).res = .nothing)
    (haw : ∀ s g, (x s g).awaits = .unit) (h : ∀ s g, ok s g → Gives (body s g) (x s g)) : Does i c n ok x := by
  refine does_of_gives hi (fun _ s g _ _ => ⟨fun _ => by simp [haw], ?_⟩) (fun _ s g _ hok => ⟨h s g hok, ?_⟩)
  · rw [hres]
    rfl
  · rw [hres]
    simp [Result.inRange, Result.nothing]

/-- An act that only moves its warp, keeps its fragment or not, ends its chunk or not, and leaves something for its position. -/
theorem gives_control (stays ends : Bool) (after : List Deferred) (turn : Warp → Warp) :
    Gives { stays := stays, ends := ends, after := after, warp := turn } { stays := stays, ends := ends, after := after, turn := turn } :=
  ⟨rfl, rfl, rfl, rfl, rfl, rfl, rfl, rfl, rfl, rfl, rfl, rfl, rfl, rfl, rfl, rfl, rfl⟩

theorem nop_does (c : Ctl) : Does (.nop c) c (needs [] [] 0) (fun _ _ => True) (fun _ _ => {}) :=
  does_without_result (fun _ => rfl) (fun _ _ => rfl) (fun _ _ => rfl) (fun _ _ _ => gives_control false false [] id)

theorem yield_does (c : Ctl) : Does (.yield c) c (needs [] [] 0) (fun _ _ => True) (fun _ g =>
    { turn := fun w => { w with regs := w.regs.mapFrag g.f.id (fun f => { f with yields := !c.sw }) } }) :=
  does_without_result (fun _ => rfl) (fun _ _ => rfl) (fun _ _ => rfl) (fun _ _ _ => gives_control false false [] _)

/-! ### JOIN (R396) -/

/-- A fragment inside a split parks at a JOIN and fuses with those that wait there. -/
def joinTurn (g : Go) (w : Warp) : Warp :=
  let r := w.regs.mapFrag g.f.id (fun f => { f with park := .join })
  ((r.frags.find? (fun f => f.id == g.f.id)).map (fun f => { w with regs := (fuseAt r f).settle })).getD w

/-- The act of JOIN. -/
def joinAct (g : Go) : Act := if g.f.pid = 0 then {} else { stays := true, warp := joinTurn g }

theorem exec_join (c : Ctl) (s : State) : exec (.join c) s = issue c (needs [] [] 0) joinAct s := by
  change execJoin c s = _
  unfold execJoin
  congr 1
  funext g
  unfold joinAct
  split
  · rfl
  · congr 1
    funext w
    dsimp only [joinTurn]
    cases List.find? _ _ <;> rfl

theorem join_outside (c : Ctl) : Does (.join c) c (needs [] [] 0) (fun _ g => g.f.pid = 0) (fun _ _ => {}) := by
  refine does_without_result (body := fun _ => joinAct) (exec_join c) (fun _ _ => rfl) (fun _ _ => rfl) (fun _ g h => ?_)
  rw [joinAct, if_pos h]
  exact gives_control false false [] id

theorem join_inside (c : Ctl) : Does (.join c) c (needs [] [] 0) (fun _ g => g.f.pid ≠ 0)
    (fun _ g => { stays := true, turn := joinTurn g }) := by
  refine does_without_result (body := fun _ => joinAct) (exec_join c) (fun _ _ => rfl) (fun _ _ => rfl) (fun _ g h => ?_)
  rw [joinAct, if_neg h]
  exact gives_control true false [] _

/-! ### DRAIN and the instructions that end their chunk -/

theorem drain_does (c : Ctl) : Does (.drain c) c (needs [] [] 0) (fun s g => drainWaits s g.w false = false ∧ drainTrap g.w = none)
    (fun _ _ => { turn := Warp.drain }) := by
  refine does_without_result (fun _ => rfl) (fun _ _ => rfl) (fun _ _ => rfl) (fun s g ⟨hw, ht⟩ => ?_)
  simp only [hw, ht, Bool.false_eq_true, if_false]
  exact gives_control false false [] Warp.drain

theorem exit_does (c : Ctl) : Does (.exit c) c (needs [] [] 0) (fun _ _ => True) (fun _ g =>
    { ends := true, after := [.exit g.f.id (maskOf g.lanes)] }) :=
  does_without_result (fun _ => rfl) (fun _ _ => rfl) (fun _ _ => rfl) (fun _ _ _ => gives_control false true _ id)

theorem sleep_does (c : Ctl) (ns : Word) : Does (.sleep c ns) c (needs [] [] 0) (fun _ _ => True) (fun _ g =>
    { ends := true, after := [.sleep g.f.id ns.toNat] }) :=
  does_without_result (fun _ => rfl) (fun _ _ => rfl) (fun _ _ => rfl) (fun _ _ _ => gives_control false true _ id)

theorem chend_does (c : Ctl) : Does (.chend c) c (needs [] [] 0) (fun _ _ => True) (fun _ _ => { ends := true }) :=
  does_without_result (fun _ => rfl) (fun _ _ => rfl) (fun _ _ => rfl) (fun _ _ _ => gives_control false true [] id)

/-- FENCE does what its act does (R238, R289). -/
theorem fence_does {c : Ctl} {scope : Scope} {ok : Go → Prop} {ends : Bool} {after : List Deferred}
    (h : ∀ g, ok g → fenceAct (scopeCode scope) g = { ends := ends, after := after }) :
    Does (.fence c scope) c (needs [] [] 0) (fun _ g => ok g) (fun _ _ => { ends := ends, after := after }) := by
  refine does_without_result (fun _ => rfl) (fun _ _ => rfl) (fun _ _ => rfl) (fun s g hg => ?_)
  rw [h g hg]
  exact gives_control false ends after id

theorem fence_below_task {c : Ctl} {scope : Scope} (h : scopeCode scope < 2) :
    Does (.fence c scope) c (needs [] [] 0) (fun _ _ => True) (fun _ _ => {}) :=
  fence_does (ends := false) (after := []) (fun _ _ => by rw [fenceAct, if_pos h])

theorem fence_to_die {c : Ctl} {scope : Scope} (h2 : 2 ≤ scopeCode scope) (h6 : scopeCode scope < 6) :
    Does (.fence c scope) c (needs [] [] 0) (fun _ g => tileWritesPending g.w = false) (fun _ _ => {}) :=
  fence_does (ends := false) (after := []) (fun g hg => by
    rw [fenceAct, if_neg (Nat.not_lt.mpr h2), if_neg (by simp [hg]), if_pos h6])

theorem fence_from_device {c : Ctl} {scope : Scope} (h6 : 6 ≤ scopeCode scope) :
    Does (.fence c scope) c (needs [] [] 0) (fun _ g => tileWritesPending g.w = false)
      (fun _ _ => { ends := true, after := [.fence (scopeCode scope)] }) :=
  fence_does (fun g hg => by rw [fenceAct, if_neg (by omega), if_neg (by simp [hg]), if_neg (by omega)])

/-! ### No executing lane (R57) -/

theorem ivadd_idle (c : Ctl) (f : IvFmt) (d : BitVec 8) (a b : Src) : PassesIdle (.ivadd c f d a b) c
    (needs [dstField c.u d (ivRegs f)] [srcField a (ivRegs f), srcField b (ivRegs f)] (if f = .if64 then 0 else 6)) := by
  cases f <;> exact passesIdle_of (fun _ => rfl)

/-- Settles O20: none of them has a result, so each does what its act says; an idle form issues the empty act. -/
theorem controlInstructions : Obligations.ControlInstructions := by
  unfold Obligations.ControlInstructions
  refine ⟨fun c => ⟨nop_does c, yield_does c, join_outside c, join_inside c, drain_does c⟩,
    fun c ns scope => ⟨exit_does c, sleep_does c ns, chend_does c, fence_below_task, fence_to_die, fence_from_device⟩,
    fun c sgn sat fmt rnd f sz d e a b r off => ⟨?_, ?_, ?_, ivadd_idle c f d a b, ?_, ?_, ?_⟩⟩
  all_goals exact passesIdle_of (fun _ => rfl)

end Sys2Proof.Machine
end

section
/-! PROOFS. Steps of a core: landings, returns under tags, markers, chunk limits, walks, acknowledgments, waiting gathers. -/

namespace Sys2Proof.Machine

/-! ### Lines, landings and tags (R38, R60, R61) -/

theorem warp?_id {s : State} {id : Nat} {w : Warp} (h : s.warp? id = some w) : w.id = id := by
  simpa using List.find?_some h

theorem onWarp_some {s : State} {id : Nat} {w : Warp} (h : s.warp? id = some w) (f : Warp → Warp) : onWarp id f s = [.warp (f w)] := by
  rw [onWarp, h]

theorem lineRefetch_runs (core line : Nat) (s : State) : Runs (.lineRefetch core line) s [.xl { s.xl with
    lines := s.xl.lines.map (fun (c : LineCopy) =>
      if c.core = core ∧ c.addr = line ∧ c.refetched = false ∧ (List.range 6).any (lineBad c.bytes) = true then
        { c with bytes := lineAt s c.part c.path c.addr, refetched := true } else c) }] := by
  change execLineRefetch core line s = _
  simp only [execLineRefetch, Bool.and_eq_true, beq_iff_eq, Bool.not_eq_true', and_assoc]

theorem fixedLatencyWriteback_runs {id : Nat} {s : State} {w : Warp} (hw : s.warp? id = some w)
    (hd : ∃ x ∈ w.inflight, x.at_ ≤ s.model.cycle) : Runs (.fixedLatencyWriteback id) s [.warp { w with
      inflight := w.inflight.filter (fun x => decide (s.model.cycle < x.at_))
      regs := { w.regs with
        fpstat := fpstatOr w.regs.fpstat ((w.inflight.filter (fun x => decide (x.at_ ≤ s.model.cycle))).foldl (fun m x => m ||| x.flags) 0) } }] := by
  have due : (w.inflight.filter (fun x => decide (x.at_ ≤ s.model.cycle))).isEmpty = false := by
    obtain ⟨x, hx, hle⟩ := hd
    simpa using ⟨x, hx, hle⟩
  change execFixedLatencyWriteback id s = _
  simp only [execFixedLatencyWriteback, hw, due, Bool.false_eq_true, if_false]

/-- The fragment that a tag's lanes belong to. -/
def tagFrag (w : Warp) (e : TagEntry) : Nat := (w.regs.frags.find? (fun f => f.mask &&& e.mask != 0)).elim 0 (·.id)

/-- What a return under a tag does, by what the tag awaits. -/
theorem tagReturn_runs {id tag : Nat} {s : State} {w : Warp} {e : TagEntry} (resp : PeerResp) (hw : s.warp? id = some w)
    (he : w.regs.tags.find? (fun e => e.tag == tag && !e.returned && (e.awaits == .unit || e.awaits == .peer || e.awaits == .late)) = some e) :
    Runs (.tagReturn id tag resp) s
      (if e.awaits == .unit then [.warp (w.mapTags (fun x => if x.seq = e.seq then { x with returned := true } else x))]
        else if e.awaits == .late then lateTrap w e s else peerAnswer w e resp s) := by
  change execTagReturn id tag resp s = _
  simp only [execTagReturn, hw, he]

/-- A peer's data complete one lane of a load under its tag. -/
theorem peerAnswer_data {s : State} {w : Warp} {e : TagEntry} {l : Nat} {ls : List Nat} {ws : List Word} {bad : List Bool}
    (hw : s.warp? w.id = some w) (hl : e.lanes = l :: ls) (ho : e.own = false) (hx : e.ext ≠ 16) :
    peerAnswer w e (.data ws bad) s = [.warp (w.mapTags (fun x => if x.seq = e.seq then
        { x with writes := x.writes ++ laneWrites e l ws bad, raises := laneRaises w.denorm e l ws, lanes := ls, stations := x.stations.drop 1
                 returned := ls.isEmpty } else x))] := by
  simp only [peerAnswer, hl, ho, hx, Bool.false_eq_true, if_false, andThen, inOrder_cons, inOrder_nil, List.append_nil, onWarp_some hw]

/-- A peer's error response raises its cause in the lane that waits first. -/
theorem peerAnswer_error {s : State} {w : Warp} {e : TagEntry} {l step : Nat} {ls : List Nat} (hl : e.lanes = l :: ls) (ho : e.own = false)
    (hs : step < 7) : ∃ t : TrapReq,
      t.cause = (if step = 5 then .rangeLock else if step = 6 then .sealedWrite else .realmFault) ∧ t.sub = step ∧ t.fpc = some e.pc
        ∧ t.lanes = some (maskOf [l]) ∧ peerAnswer w e (.error step) s = takeTrap w.id (tagFrag w e) [] t s := by
  refine ⟨{ peerFault step with fpc := some e.pc, lanes := some (maskOf [l]), d17 := if step = 8 then wordAt e.kv 0 else 0 }, ?_, ?_, rfl, rfl, ?_⟩
  · interval_cases step <;> rfl
  · interval_cases step <;> rfl
  · simp only [peerAnswer, hl, ho, Bool.false_eq_true, if_false, tagFrag]

/-! ### Markers and chunk limits (R66, R68, R225) -/

theorem switchMarkerResume_runs {id : Nat} {s : State} {w : Warp} (hw : s.warp? id = some w) (hs : .switch ∈ w.holds)
    (ht : ∀ e ∈ w.regs.tags, e.returned = true) (hd : drainWaits s w false = false) (hn : drainTrap w = none) :
    Runs (.switchMarkerResume id) s [.warp { w.drain with holds := w.holds.filter (fun h => h != .switch) }] := by
  have returned : w.regs.tags.any (fun e => !e.returned) = false := by simpa using ht
  have parked : w.holds.contains .switch = true := by simpa using hs
  change execSwitchMarkerResume id s = _
  simp only [execSwitchMarkerResume, hw, returned, parked, hd, hn, Bool.not_true, Bool.or_self, Bool.false_eq_true, if_false]

theorem chunkLimitEnd_runs {id : Nat} {s : State} {w : Warp} (hw : s.warp? id = some w) (ho : w.chunk.start.isSome = true)
    (hc : 512 ≤ w.chunk.count) : Runs (.chunkLimitEnd id) s [.warp w.closed] := by
  change execChunkLimitEnd id s = _
  simp only [execChunkLimitEnd, hw, ho, hc, decide_true, Bool.true_or, Bool.and_self, if_true]

/-! ### Walks and acknowledgments (R352, R441, R443, R488) -/

/-- A walk that finds a page starts at an aligned table. -/
theorem walk_aligned {s : State} {p : Part} {die realm root : Nat} {off : DWord} {x : Walked} (h : walk s p die realm root off = .ok x) :
    root % 2 ^ 20 = 0 := by
  unfold walk at h
  split at h
  · cases h
  · simpa using ‹¬ (root % 2 ^ 20 != 0) = true›

/-- The translation of an uncached page is what its walk found. -/
theorem xlatOf_walked {s : State} {p : Part} {who : Who} {realm : Nat} {off : DWord} {a size : Nat} {u w x : Bool}
    (hx : cachedXlat s who realm off = none) (h1 : realmKind (realmEntry s p realm) = 1)
    (hw : walk s p (dieOf who.core) realm (realmRoot (realmEntry s p realm)) off = .ok (.page a size u w x)) (q : Option Nat) :
    xlatOf s p who realm off q
      = some ⟨who.core, q, realmEntry s p realm, p.num, realm, off.toNat / size, size, a / 65536, u, w, x⟩ := by
  have frame : a / 2 ^ 16 = a / 65536 := by norm_num
  simp only [xlatOf, hx, h1, hw, ne_eq, not_true_eq_false, if_false, frame]

/-- A walk that finds an ordinary page finds no KV page. -/
theorem kvXlatOf_page {s : State} {p : Part} {who : Who} {realm : Nat} {off : DWord} {a size : Nat} {u w x : Bool}
    (hx : cachedXlat s who realm off = none) (hk : cachedKv s who realm off = none)
    (hw : walk s p (dieOf who.core) realm (realmRoot (realmEntry s p realm)) off = .ok (.page a size u w x)) :
    kvXlatOf s p who realm off = none := by
  simp only [kvXlatOf, realmEntryOf, walkFor, hx, hk, Option.map_none, hw]

theorem walkComplete_runs {core quadrant part realm : Nat} {path : Path} {offset : DWord} {s : State} {p : Part} {a size : Nat} {u w x : Bool}
    (hp : s.part? part = some p)
    (hx : cachedXlat s { part := part, user := false, path := path, own := [], core := core, quadrant := some quadrant } realm offset = none)
    (hk : cachedKv s { part := part, user := false, path := path, own := [], core := core, quadrant := some quadrant } realm offset = none)
    (hc : ownsCluster p (core / 4) = true) (h1 : realmKind (realmEntry s p realm) = 1)
    (hw : walk s p (dieOf core) realm (realmRoot (realmEntry s p realm)) offset = .ok (.page a size u w x)) :
    let new (q : Option Nat) : Xlat := ⟨core, q, realmEntry s p realm, p.num, realm, offset.toNat / size, size, a / 65536, u, w, x⟩
    Runs (.walkComplete ⟨core, quadrant, part, path⟩ realm offset) s
      [.xl { s.xl with
        walks := takeIn 4096 (fun y => y.die == dieOf core) s.xl.walks
          ((walkTrail [0, 1, 2] s p (dieOf core) realm offset (realmRoot (realmEntry s p realm))).filter (fun y => !s.xl.walks.contains y))
        cached := fillTlb (new (some quadrant)) (fillTlb (new none) s.xl.cached) }] := by
  intro new
  change execWalkComplete ⟨core, quadrant, part, path⟩ realm offset s = _
  simp only [execWalkComplete, hp, hc, h1, walk_aligned hw, xlatOf_walked hx h1 hw, kvXlatOf_page hx hk hw, Option.elim_some, Option.elim_none,
    Bool.not_true, ne_eq, not_true_eq_false, decide_false, Bool.or_self, Bool.false_eq_true, if_false, new]

theorem translationParityError_runs (i : Nat) (s : State) : Runs (.translationParityError i) s [.xl (if i < s.xl.cached.length then
      { s.xl with cached := s.xl.cached.eraseIdx i }
      else if i < s.xl.cached.length + s.xl.walks.length then { s.xl with walks := s.xl.walks.eraseIdx (i - s.xl.cached.length) }
      else { s.xl with kvs := s.xl.kvs.eraseIdx (i - s.xl.cached.length - s.xl.walks.length) })] := rfl

theorem invalidationAck_runs {id : Nat} {s : State} {i : Inval} (hi : s.xl.invals.find? (fun i => i.id == id) = some i)
    (hc : ∀ c ∈ s.order.commits, c.part ≠ i.part) :
    Runs (.invalidationAck id) s [.xl { s.xl with invals := s.xl.invals.filter (fun x => x.id != id) }] := by
  have done : s.order.commits.any (fun c => c.part == i.part) = false := by simpa using hc
  change execInvalidationAck id s = _
  simp only [execInvalidationAck, hi, done, Bool.false_eq_true, if_false]

theorem entryChangeAck_runs {id : Nat} {s : State} {i : Inval} (hi : s.xl.changes.find? (fun i => i.id == id) = some i)
    (hc : changeDone s i = true) :
    Runs (.entryChangeAck id) s [.xl { s.xl with changes := s.xl.changes.filter (fun x => x.id != id) }] := by
  change execEntryChangeAck id s = _
  simp only [execEntryChangeAck, hi, hc, if_true]

/-! ### Waiting gathers (R336) -/

theorem kvldWaitGather_runs {id tag : Nat} {s : State} {w : Warp} {e : TagEntry} {xs : List (Nat × KvSlot × List (Nat × Nat))}
    (hw : s.warp? id = some w) (he : w.regs.tags.find? (fun e => e.tag == tag && e.awaits == .kv && !e.returned) = some e)
    (hg : gatherable s w e = .ok xs) (hne : xs ≠ []) :
    ∃ v : Warp, Runs (.kvldWaitGather id tag) s [.warp v] ∧ v.id = w.id ∧ v.chunk.bytes = w.chunk.bytes
      ∧ v.regs = { w.regs with tags := w.regs.tags.map (fun x => if x.seq = e.seq then gatheredEntry s w e xs else x) }
      ∧ ∀ y ∈ xs, ∀ p ∈ kvldPlaces y.2.1 (if wordAt e.kv 0 = 1 then 4 else 8), p.word ∈ v.chunk.reads := by
  change ∃ v : Warp, execKvldWaitGather id tag s = _ ∧ _
  simp only [execKvldWaitGather, hw, he, hg]
  refine ⟨_, rfl, rfl, rfl, rfl, fun y hy p hp => ?_⟩
  exact mem_nub (List.mem_append_right _ (List.mem_map_of_mem (List.mem_flatMap.mpr ⟨y, hy, hp⟩)))

/-- Settles O42: one lemma for each event; what a return under a tag does goes by what the tag awaits. -/
theorem coreEvents : Obligations.CoreEvents := by
  unfold Obligations.CoreEvents
  refine ⟨lineRefetch_runs, fun _ _ _ => fixedLatencyWriteback_runs, fun id tag resp s w e hw he => ⟨fun hu => ?_, fun t hu ht => ?_, ?_, ?_⟩,
    fun _ _ _ => switchMarkerResume_runs, fun _ _ _ => chunkLimitEnd_runs,
    fun _ _ _ _ _ _ _ _ _ _ _ _ _ hp hx hk hc h1 hw => walkComplete_runs hp hx hk hc h1 hw, translationParityError_runs,
    fun _ _ _ => invalidationAck_runs, fun _ _ _ => entryChangeAck_runs, fun _ _ _ _ _ _ => kvldWaitGather_runs⟩
  · obtain rfl := warp?_id hw
    simpa [hu] using tagReturn_runs resp hw he
  · obtain rfl := warp?_id hw
    simpa [hu, lateTrap, ht] using tagReturn_runs resp hw he
  · rintro l ls ws bad hp hl ho hx rfl
    obtain rfl := warp?_id hw
    simpa [hp, peerAnswer_data hw hl ho hx] using tagReturn_runs (.data ws bad) hw he
  · rintro l ls step hp hl ho hs rfl
    obtain rfl := warp?_id hw
    obtain ⟨t, hc, hsub, hpc, hlanes, ht⟩ := peerAnswer_error (s := s) (w := w) hl ho hs
    exact ⟨t, hc, hsub, hpc, hlanes, by simpa [hp, ht, tagFrag] using tagReturn_runs (.error step) hw he⟩

end Sys2Proof.Machine
end

section
/-! PROOFS. The integer instructions: sums, products, quotients, order (R117 to R121). -/

namespace Sys2Proof.Machine

/-! ### One word, with or without a predicate -/

/-- A fixed-latency instruction of one word a lane. -/
theorem computes_word {i : Instr} {c : Ctl} {n : Need} {d : BitVec 8} {f f' : Go → Nat → Word}
    (hi : ∀ s, exec i s = issue c n (fun g => { writes := putWord c.u d.toNat g.lanes (f g) }) s) (hf : ∀ g l, f g l = f' g l)
    (hlat : n.lat ≠ 0 := by simp [needs]) : Computes i c n (fun g => .ofWord c.u d g (f' g)) := by
  obtain rfl : f = f' := funext fun g => funext (hf g)
  refine computes_of_body hi (fun _ h => absurd h hlat) (fun _ g => ⟨?_, rfl⟩) (fun g hl => ⟨hl, ?_⟩)
  · rw [putWord_writes]
  · simp [Result.ofWord, Result.ofWords]

/-- A fixed-latency instruction of one pair a lane. -/
theorem computes_pair {i : Instr} {c : Ctl} {lat : Nat} {d : BitVec 8} {srcs : List Field} {f f' : Go → Nat → DWord}
    (hi : ∀ s, exec i s = aluPair c lat d srcs f s) (hf : ∀ g l, f g l = f' g l) (hlat : lat ≠ 0 := by decide) :
    ComputesPair i c lat d srcs f' :=
  computesPair_of hi hf (fun _ h => absurd h hlat)

/-- The writes of a word and of a predicate are those of one result. -/
theorem putWord_putPred_writes (u : Bool) (d : BitVec 8) (p : BitVec 3) (g : Go) (f : Nat → Word) (t : Nat → Tri) :
    putWord u d.toNat g.lanes f ++ putPred p.toNat g.lanes t
      = { Result.ofWord u d g f with pred := some p.toNat, plane := g.lanes, tri := t : Result }.writes := by
  rw [putWord_writes]
  simp [Result.writes, Result.ofWord, Result.ofWords, putPred]

/-- A fixed-latency instruction of one word and one predicate a lane. -/
theorem computes_word_pred {i : Instr} {c : Ctl} {n : Need} {d : BitVec 8} {p : BitVec 3} {f f' : Go → Nat → Word}
    {t t' : Go → Nat → Tri} (hi : ∀ s, exec i s = issue c n (fun g =>
      { writes := putWord c.u d.toNat g.lanes (f g) ++ putPred p.toNat g.lanes (t g) }) s)
    (hf : ∀ g l, f g l = f' g l) (ht : ∀ g l, t g l = t' g l) (hlat : n.lat ≠ 0 := by simp [needs]) :
    Computes i c n (fun g => { Result.ofWord c.u d g (f' g) with pred := some p.toNat, plane := g.lanes, tri := t' g }) := by
  obtain rfl : f = f' := funext fun g => funext (hf g)
  obtain rfl : t = t' := funext fun g => funext (ht g)
  refine computes_of_body hi (fun _ h => absurd h hlat) (fun _ g => ⟨?_, rfl⟩) (fun g hl => ⟨hl, hl⟩)
  rw [putWord_putPred_writes]

/-! ### Integers put into words (R120) -/

theorem clampInt_of_lt {lo hi n : Int} (h : n < lo) : clampInt lo hi n = lo := by
  unfold clampInt; omega

theorem clampInt_of_gt {lo hi n : Int} (h : hi < n) (hlh : lo ≤ hi) : clampInt lo hi n = hi := by
  unfold clampInt; omega

theorem clampInt_of_mem {lo hi n : Int} (hl : lo ≤ n) (hh : n ≤ hi) : clampInt lo hi n = n := by
  unfold clampInt; omega

/-- A clamp into a range whose bounds are the words b and t. -/
theorem ofInt_clampInt {lo hi : Int} (n : Int) {b t : Word} (hlh : lo ≤ hi) (hb : BitVec.ofInt 32 lo = b) (ht : BitVec.ofInt 32 hi = t) :
    BitVec.ofInt 32 (clampInt lo hi n) = if n < lo then b else if hi + 1 ≤ n then t else BitVec.ofInt 32 n := by
  split
  · rw [clampInt_of_lt ‹_›, hb]
  split
  · rw [clampInt_of_gt (by omega) hlh, ht]
  · rw [clampInt_of_mem (by omega) (by omega)]

theorem fitInt_eq_fit (sgn sat : Bool) (n : Int) : fitInt sgn sat n = fit sgn sat n := by
  cases sat
  · rfl
  cases sgn
  · exact ofInt_clampInt n (by decide) (by decide) (by decide)
  · exact ofInt_clampInt n (by decide) (by decide) (by decide)

theorem num_inj {sgn : Bool} {a b : Word} : num sgn a = num sgn b ↔ a = b := by
  cases sgn
  · exact BitVec.toInt_inj
  · simp [num, BitVec.toNat_inj]

theorem ofInt_num (sgn : Bool) (a : Word) : BitVec.ofInt 32 (num sgn a) = a := by
  cases sgn <;> simp [num]

/-! ### Carry and borrow (R120) -/

theorem iaddcVal_sum (p : Prop) [Decidable p] (a b : Word) :
    (iaddcVal (decide p) a b).1 = BitVec.ofNat 32 (a.toNat + b.toNat + if p then 1 else 0) := by simp [iaddcVal]

theorem iaddcVal_carry (p : Prop) [Decidable p] (a b : Word) :
    (if (iaddcVal (decide p) a b).2 then Tri.yes else .no) = if 2 ^ 32 ≤ a.toNat + b.toNat + (if p then 1 else 0) then .yes else .no := by
  simp [iaddcVal]

theorem isubbVal_difference (p : Prop) [Decidable p] (a b : Word) :
    (isubbVal (decide p) a b).1 = a - b - BitVec.ofNat 32 (if p then 1 else 0) := by
  apply BitVec.eq_of_toNat_eq
  by_cases h : p <;> simp [isubbVal, h, BitVec.toNat_sub] <;> omega

theorem isubbVal_borrow (p : Prop) [Decidable p] (a b : Word) :
    (if (isubbVal (decide p) a b).2 then Tri.yes else .no) = if a.toNat < b.toNat + (if p then 1 else 0) then .yes else .no := by
  have h : (a.toNat : Int) - b.toNat - (if p then 1 else 0) < 0 ↔ a.toNat < b.toNat + (if p then 1 else 0) := by split <;> omega
  simp [isubbVal, h]

/-- Settles O1: a sum or difference clamped is a sum or difference fitted; carry and borrow leave the range of words. -/
theorem integerSums : Obligations.IntegerSums := by
  unfold Obligations.IntegerSums
  refine ⟨fun c sgn sat d => ⟨fun a b => ?_, fun a b => ?_, fun a imm => ?_, fun a imm => ?_⟩, fun c d a b pc => ⟨?_, ?_⟩⟩
  · exact computes_word (fun _ => rfl) (fun _ _ => fitInt_eq_fit sgn sat _)
  · exact computes_word (fun _ => rfl) (fun _ _ => fitInt_eq_fit sgn sat _)
  · exact computes_word (fun _ => rfl) (fun _ _ => fitInt_eq_fit sgn sat _)
  · exact computes_word (fun _ => rfl) (fun _ _ => fitInt_eq_fit sgn sat _)
  · exact computes_word_pred (fun _ => rfl) (fun _ _ => iaddcVal_sum _ _ _) (fun _ _ => iaddcVal_carry _ _ _)
  · exact computes_word_pred (fun _ => rfl) (fun _ _ => isubbVal_difference _ _ _) (fun _ _ => isubbVal_borrow _ _ _)

/-! ### Products (R120) -/

theorem imulVal_eq (a b : Word) : imulVal a b = a * b := by
  simp [imulVal, BitVec.ofInt_mul]

theorem imadwVal_eq (sgn : Bool) (a b : Word) (c : DWord) :
    imadwVal sgn a b c = BitVec.ofInt 64 (num sgn a * num sgn b) + c := by
  have hc : BitVec.ofInt 64 (if sgn then (c.toNat : Int) else c.toInt) = c := by cases sgn <;> simp
  rw [imadwVal, BitVec.ofInt_add, hc]
  rfl

/-- Settles O2: a product modulo 2^32 is the product of the words; the others are their definitions. -/
theorem integerMultiply : Obligations.IntegerMultiply := by
  unfold Obligations.IntegerMultiply
  refine fun c d => ⟨fun a b => ?_, fun a imm => ?_, fun sgn a b => ?_, fun sgn sat a b e => ?_, fun sgn a b e => ?_⟩
  · exact computes_word (fun _ => rfl) (fun _ _ => imulVal_eq _ _)
  · exact computes_word (fun _ => rfl) (fun _ _ => imulVal_eq _ _)
  · exact computes_word (fun _ => rfl) (fun _ _ => rfl)
  · exact computes_word (fun _ => rfl) (fun _ _ => fitInt_eq_fit sgn sat _)
  · exact computes_pair (fun _ => rfl) (fun _ _ => imadwVal_eq sgn _ _ _)

/-! ### Division (R121) -/

theorem ofInt_tdiv_toInt (a b : Word) : BitVec.ofInt 32 (a.toInt.tdiv b.toInt) = a.sdiv b := by
  apply BitVec.eq_of_toInt_eq
  rw [BitVec.toInt_ofInt, BitVec.toInt_sdiv]

theorem ofInt_tmod_toInt (a b : Word) : BitVec.ofInt 32 (a.toInt.tmod b.toInt) = a.srem b := by
  rw [← BitVec.toInt_srem, BitVec.ofInt_toInt]

theorem ofInt_tdiv_toNat (a b : Word) : BitVec.ofInt 32 ((a.toNat : Int).tdiv b.toNat) = a / b := by
  rw [← Int.ofNat_tdiv, BitVec.ofInt_natCast, ← BitVec.toNat_udiv, BitVec.ofNat_toNat, BitVec.setWidth_eq]

theorem ofInt_tmod_toNat (a b : Word) : BitVec.ofInt 32 ((a.toNat : Int).tmod b.toNat) = a % b := by
  rw [← Int.ofNat_tmod, BitVec.ofInt_natCast, ← BitVec.toNat_umod, BitVec.ofNat_toNat, BitVec.setWidth_eq]

theorem intOf_eq_zero {sgn : Bool} {b : Word} : intOf sgn b = 0 ↔ b = 0 := by
  have h : intOf sgn 0 = 0 := by cases sgn <;> rfl
  rw [← h]
  exact num_inj

/-- The most negative number by -1 needs no case of its own: the quotient of words wraps to it (R121). -/
theorem idivVal_eq (sgn : Bool) (a b : Word) :
    idivVal sgn a b = if b = 0 then 0xFFFFFFFF else if sgn then a / b else a.sdiv b := by
  simp only [idivVal, intOf_eq_zero]
  cases sgn
  · have corner : ((0x80000000 : Word).sdiv 0xFFFFFFFF) = 0x80000000 := by decide
    split
    · rfl
    split
    · obtain ⟨-, rfl, rfl⟩ := ‹_ ∧ _›
      exact corner.symm
    · exact ofInt_tdiv_toInt a b
  · simp only [Bool.true_eq_false, false_and, if_false, if_true]
    exact congrArg _ (ofInt_tdiv_toNat a b)

theorem iremVal_eq (sgn : Bool) (a b : Word) :
    iremVal sgn a b = if b = 0 then a else if sgn then a % b else a.srem b := by
  simp only [iremVal, intOf_eq_zero]
  cases sgn
  · have corner : ((0x80000000 : Word).srem 0xFFFFFFFF) = 0 := by decide
    split
    · rfl
    split
    · obtain ⟨-, rfl, rfl⟩ := ‹_ ∧ _›
      exact corner.symm
    · exact ofInt_tmod_toInt a b
  · simp only [Bool.true_eq_false, false_and, if_false, if_true]
    exact congrArg _ (ofInt_tmod_toNat a b)

/-- The destination of a tagged instruction names no queue port (R50). -/
theorem dstT_port {u : Bool} {d : BitVec 8} {k : Nat} (h : dstT u d k = true) (hu : u = true) : d.toNat + k ≤ 56 := by
  simp only [dstT, hu, if_true, uniDst, Bool.and_eq_true, decide_eq_true_eq] at h
  exact h.1

/-- A tagged instruction of two operands has a destination that names no queue port. -/
theorem tagged2_port {c : Ctl} {d : BitVec 8} {a b : Src} {k : Nat}
    (h : (needTag c && dstT c.u d k && srcOk c.u a k && srcOk c.u b k) = true) (hu : c.u = true) : d.toNat + k ≤ 56 := by
  simp only [Bool.and_eq_true] at h
  obtain ⟨⟨⟨-, hd⟩, -⟩, -⟩ := h
  exact dstT_port hd hu

/-- Settles O3: division by 0 is a case of its own, and every other quotient and remainder is that of the words. -/
theorem integerDivide : Obligations.IntegerDivide := by
  unfold Obligations.IntegerDivide
  refine fun c sgn d a b => ⟨?_, ?_⟩
  · exact computesWord_of (fun _ => rfl) (fun _ _ => idivVal_eq sgn _ _) (fun hwf _ => tagged2_port hwf)
  · exact computesWord_of (fun _ => rfl) (fun _ _ => iremVal_eq sgn _ _) (fun hwf _ => tagged2_port hwf)

/-! ### Order and distance (R120) -/

theorem iminVal_eq (sgn : Bool) (a b : Word) : iminVal sgn a b = if num sgn b ≤ num sgn a then b else a := by
  change BitVec.ofInt 32 (min (num sgn a) (num sgn b)) = _
  split
  · rw [min_eq_right ‹_›, ofInt_num]
  · rw [min_eq_left (by omega), ofInt_num]

theorem imaxVal_eq (sgn : Bool) (a b : Word) : imaxVal sgn a b = if num sgn a ≤ num sgn b then b else a := by
  change BitVec.ofInt 32 (max (num sgn a) (num sgn b)) = _
  split
  · rw [max_eq_right ‹_›, ofInt_num]
  · rw [max_eq_left (by omega), ofInt_num]

theorem iabsVal_eq (sat : Bool) (a : Word) : iabsVal sat a = fit false sat |a.toInt| := by
  rw [iabsVal, fitInt_eq_fit, Int.abs_eq_natAbs]

theorem isadVal_eq (sgn : Bool) (a b c : Word) : isadVal sgn a b c = BitVec.ofInt 32 |num sgn a - num sgn b| + c := by
  rw [isadVal, BitVec.ofNat_add, BitVec.ofNat_toNat, BitVec.setWidth_eq, Int.abs_eq_natAbs, BitVec.ofInt_natCast]
  rfl

/-- Settles O4: the lesser and the greater of two numbers is one of the two words. -/
theorem integerOrder : Obligations.IntegerOrder := by
  unfold Obligations.IntegerOrder
  refine fun c sgn sat d => ⟨fun a b => ?_, fun a b => ?_, fun a imm => ?_, fun a imm => ?_, fun a => ?_, fun a => ?_, fun a b e => ?_⟩
  · exact computes_word (fun _ => rfl) (fun _ _ => iminVal_eq sgn _ _)
  · exact computes_word (fun _ => rfl) (fun _ _ => imaxVal_eq sgn _ _)
  · exact computes_word (fun _ => rfl) (fun _ _ => iminVal_eq sgn _ _)
  · exact computes_word (fun _ => rfl) (fun _ _ => imaxVal_eq sgn _ _)
  · exact computes_word (fun _ => rfl) (fun _ _ => iabsVal_eq sat _)
  · exact computes_word (fun _ => rfl) (fun _ _ => fitInt_eq_fit false sat _)
  · exact computes_word (fun _ => rfl) (fun _ _ => isadVal_eq sgn _ _ _)

end Sys2Proof.Machine
end

section
/-! PROOFS. The bit, logic and shift instructions, by the bits of their operands (R122, R123). -/

namespace Sys2Proof.Machine

/-! ### The bits of a number -/

/-- The n low bits of x, lowest first. -/
def lowBits (n x : Nat) : List Bool := (List.range n).map x.testBit

theorem lowBits_succ (n x : Nat) : lowBits (n + 1) x = decide (x % 2 = 1) :: lowBits n (x / 2) := by
  simp [lowBits, List.range_succ_eq_map, Function.comp_def, Nat.testBit_succ]

theorem lowBits_append (n x : Nat) : lowBits (n + 1) x = lowBits n x ++ [x.testBit n] := by
  simp [lowBits, List.range_succ]

theorem countOnes_eq_count (n x : Nat) : countOnes n x = (lowBits n x).count true := by
  induction n generalizing x with
  | zero => rfl
  | succ n ih =>
    rw [countOnes, ih, lowBits_succ, List.count_cons]
    rcases Nat.mod_two_eq_zero_or_one x with h | h <;> simp [h, Nat.add_comm]

theorem countTrailing_eq_length (n x : Nat) : countTrailing n x = ((lowBits n x).takeWhile (! ·)).length := by
  induction n generalizing x with
  | zero => rfl
  | succ n ih =>
    rw [countTrailing, ih, lowBits_succ, List.takeWhile_cons]
    by_cases h : x % 2 = 1 <;> simp [h, Nat.add_comm]

/-- The zeros above the highest 1 bit of x among its n low bits. -/
theorem leading_zeros {n x : Nat} (hx : x < 2 ^ n) :
    ((lowBits n x).reverse.takeWhile (! ·)).length = if x = 0 then n else n - 1 - x.log2 := by
  induction n with
  | zero => simp [lowBits]
  | succ n ih =>
    rw [lowBits_append, List.reverse_append, List.reverse_singleton, List.singleton_append, List.takeWhile_cons]
    by_cases hlt : x < 2 ^ n
    · have hlog : x ≠ 0 → x.log2 < n := fun h => (Nat.log2_lt h).mpr hlt
      simp only [Nat.testBit_lt_two_pow hlt, Bool.not_false, if_true, List.length_cons, ih hlt]
      split <;> omega
    · have h0 : x ≠ 0 := by rintro rfl; exact hlt (Nat.two_pow_pos n)
      have hlog : x.log2 = n := (Nat.log2_eq_iff h0).mpr ⟨Nat.not_lt.mp hlt, hx⟩
      have hbit : x.testBit n = true := hlog ▸ Nat.testBit_log2 h0
      simp [hbit, h0, hlog]

theorem testBit_revBits (n x acc i : Nat) :
    (revBits n x acc).testBit i = if i < n then x.testBit (n - 1 - i) else acc.testBit (i - n) := by
  induction n generalizing x acc with
  | zero => rfl
  | succ n ih =>
    have hacc (j : Nat) : (2 * acc + x % 2).testBit j = if j < 1 then (x % 2).testBit j else acc.testBit (j - 1) :=
      Nat.testBit_two_pow_mul_add acc (by omega : x % 2 < 2 ^ 1) j
    rw [revBits, ih, hacc]
    rcases Nat.lt_trichotomy i n with h | rfl | h
    · rw [if_pos h, if_pos (by omega), ← Nat.testBit_succ]
      congr 1
      omega
    · simp
    · rw [if_neg (by omega), if_neg (by omega), if_neg (by omega)]
      congr 1

/-- The number whose bits below n are given. -/
theorem testBit_sum_bits (bit : Nat → Bool) (n i : Nat) :
    (((List.range n).map (fun j => if bit j then 2 ^ j else 0)).sum).testBit i = (decide (i < n) && bit i)
    ∧ ((List.range n).map (fun j => if bit j then 2 ^ j else 0)).sum < 2 ^ n := by
  induction n with
  | zero => simp
  | succ n ih =>
    rw [List.range_succ, List.map_append, List.sum_append]
    generalize ((List.range n).map (fun j => if bit j then 2 ^ j else 0)).sum = x at ih
    obtain ⟨hbits, hlt⟩ := ih
    have hsum : x + [if bit n then 2 ^ n else 0].sum = 2 ^ n * (bit n).toNat + x := by cases bit n <;> simp [Nat.add_comm]
    simp only [List.map_cons, List.map_nil, hsum]
    refine ⟨?_, ?_⟩
    · rw [Nat.testBit_two_pow_mul_add _ hlt]
      rcases Nat.lt_trichotomy i n with h | rfl | h
      · rw [if_pos h, hbits]
        simp [h, Nat.lt_succ_of_lt h]
      · cases bit i <;> simp
      · have h0 : (bit n).toNat < 2 ^ (i - n) :=
          (Bool.toNat_lt _).trans_le (Nat.le_self_pow (by omega) 2)
        rw [if_neg (by omega), Nat.testBit_lt_two_pow h0]
        simp [Nat.not_lt.mpr h]
    · have := Nat.mul_le_mul_left (2 ^ n) (Bool.toNat_le (bit n))
      omega

/-! ### Counts and reversal (R123) -/

theorem popcVal_eq (a : Word) : popcVal a = BitVec.ofNat 32 (((List.range 32).map (fun i => a.getLsbD i)).count true) := by
  rw [popcVal, countOnes_eq_count]
  rfl

theorem clzVal_eq (a : Word) :
    clzVal a = BitVec.ofNat 32 (((List.range 32).map (fun i => a.getLsbD i)).reverse.takeWhile (! ·)).length := by
  have h : ((lowBits 32 a.toNat).reverse.takeWhile (! ·)).length = if a.toNat = 0 then 32 else 31 - a.toNat.log2 := leading_zeros a.isLt
  have h0 : a.toNat = 0 ↔ a = 0 := BitVec.toNat_inj (y := 0)
  change _ = BitVec.ofNat 32 ((lowBits 32 a.toNat).reverse.takeWhile (! ·)).length
  rw [h, clzVal]
  simp only [h0]
  split <;> rfl

theorem ctzVal_eq (a : Word) : ctzVal a = BitVec.ofNat 32 (((List.range 32).map (fun i => a.getLsbD i)).takeWhile (! ·)).length := by
  rw [ctzVal, countTrailing_eq_length]
  rfl

theorem brevVal_eq (a : Word) : brevVal a = a.reverse := by
  apply BitVec.eq_of_getLsbD_eq
  intro i hi
  rw [brevVal, BitVec.getLsbD_ofNat, testBit_revBits, BitVec.getLsbD_reverse, BitVec.getMsbD, BitVec.testBit_toNat]
  simp [hi]

/-! ### Fields (R123) -/

theorem testBit_mask (n pos i : Nat) : ((2 ^ n - 1) * 2 ^ pos).testBit i = decide (pos ≤ i ∧ i < pos + n) := by
  rw [Nat.testBit_mul_two_pow, Nat.testBit_two_pow_sub_one, ← Bool.decide_and]
  congr 1
  apply propext
  omega

theorem specPos_eq (b : Word) : specPos b = b.toNat % 256 := by simp [specPos]

theorem specLen_eq (b : Word) : specLen b = min (b.toNat / 256 % 256) 32 := by
  simp [specLen, Nat.shiftRight_eq_div_pow]

theorem bfeVal_eq (sx : Bool) (a b : Word) :
    bfeVal sx a b =
      let pos := b.toNat % 256
      let len := min (b.toNat / 256 % 256) 32
      let x := a.toNat / 2 ^ pos % 2 ^ len
      if sx = true ∧ 0 < len ∧ 2 ^ len ≤ 2 * x then BitVec.ofInt 32 ((x : Int) - 2 ^ len) else BitVec.ofNat 32 x := by
  simp only [bfeVal, specPos_eq, specLen_eq]
  generalize b.toNat % 256 = pos
  generalize min (b.toNat / 256 % 256) 32 = len
  cases len with
  | zero => simp [Nat.mod_one]
  | succ n =>
    generalize a.toNat / 2 ^ pos % 2 ^ (n + 1) = x
    have hsign : 2 ^ n ≤ x ↔ 2 ^ (n + 1) ≤ 2 * x := by omega
    simp [hsign]

theorem bfiVal_eq (a b c : Word) :
    bfiVal a b c =
      let pos := c.toNat % 256
      let len := c.toNat / 256 % 256
      let bit (i : Nat) : Bool := if pos ≤ i ∧ i < pos + len then a.getLsbD (i - pos) else b.getLsbD i
      BitVec.ofNat 32 ((List.range 32).map (fun i => if bit i then 2 ^ i else 0)).sum := by
  apply BitVec.eq_of_getLsbD_eq
  intro i hi
  have hlen : (c.extractLsb' 8 8).toNat = c.toNat / 256 % 256 := by simp [Nat.shiftRight_eq_div_pow]
  simp only [bfiVal, specPos_eq, hlen]
  generalize c.toNat % 256 = pos
  generalize c.toNat / 256 % 256 = len
  have hmask (j : Nat) : ((2 ^ min len (32 - min pos 32) - 1) * 2 ^ pos).testBit j = decide (j < 32 ∧ pos ≤ j ∧ j < pos + len) := by
    rw [testBit_mask]
    congr 1
    apply propext
    omega
  generalize (2 ^ min len (32 - min pos 32) - 1) * 2 ^ pos = mask at hmask
  have hlt : mask < 2 ^ 32 := Nat.lt_pow_two_of_testBit mask (fun j hj => by rw [hmask]; simp; omega)
  simp only [BitVec.getLsbD_ofNat, (testBit_sum_bits _ 32 i).1, Nat.testBit_or, Nat.testBit_and, hmask, Nat.sub_sub, Nat.add_comm 1 mask,
    Nat.testBit_two_pow_sub_succ hlt, Nat.testBit_mul_two_pow, BitVec.testBit_toNat, hi, decide_true, Bool.true_and, true_and]
  by_cases hin : pos ≤ i ∧ i < pos + len
  · simp [hin]
  · simp [hin]

/-- Settles O5: the counting functions run over the bits of the operand, and the masks of BFI are the places of its field. -/
theorem bitInstructions : Obligations.BitInstructions := by
  unfold Obligations.BitInstructions
  refine ⟨fun c d a => ⟨?_, ?_, ?_, ?_⟩, fun c d a b => ⟨fun sx => ?_, fun e => ?_⟩⟩
  · exact computes_word (fun _ => rfl) (fun _ _ => popcVal_eq _)
  · exact computes_word (fun _ => rfl) (fun _ _ => clzVal_eq _)
  · exact computes_word (fun _ => rfl) (fun _ _ => ctzVal_eq _)
  · exact computes_word (fun _ => rfl) (fun _ _ => brevVal_eq _)
  · exact computes_word (fun _ => rfl) (fun _ _ => bfeVal_eq sx _ _)
  · exact computes_word (fun _ => rfl) (fun _ _ => bfiVal_eq _ _ _)

/-! ### Logic and shifts (R123) -/

theorem shlVal_eq (a b : Word) : shlVal a b = a <<< b.toNat := by
  rw [shlVal]
  split
  · exact (BitVec.shiftLeft_eq_zero ‹_›).symm
  · rfl

theorem shrVal_eq (a b : Word) : shrVal a b = a >>> b.toNat := by
  rw [shrVal]
  split
  · exact (BitVec.ushiftRight_eq_zero ‹_›).symm
  · rfl

/-- A signed word shifted by 31 or more is its sign. -/
theorem toInt_div_large (a : Word) {n : Nat} (h : 31 ≤ n) : a.toInt / 2 ^ n = if a.toInt < 0 then -1 else 0 := by
  have hp : (2 : Int) ^ 31 ≤ 2 ^ n := by exact_mod_cast Nat.pow_le_pow_right (by decide) h
  have hlo := BitVec.le_toInt a
  have hhi := BitVec.toInt_lt (x := a)
  split
  · exact Int.ediv_eq_iff_of_pos (by omega) |>.mpr (by omega)
  · exact Int.ediv_eq_zero_of_lt (by omega) (by omega)

theorem sarVal_eq (a b : Word) : sarVal a b = BitVec.ofInt 32 (a.toInt / 2 ^ b.toNat) := by
  have h : a.toInt / 2 ^ min b.toNat 31 = a.toInt / 2 ^ b.toNat := by
    rcases Nat.le_total b.toNat 31 with hb | hb
    · rw [Nat.min_eq_left hb]
    · rw [Nat.min_eq_right hb, toInt_div_large a (Nat.le_refl 31), toInt_div_large a hb]
  have hs : a.toInt / 2 ^ min b.toNat 31 = (a.sshiftRight (min b.toNat 31)).toInt := by
    rw [BitVec.toInt_sshiftRight, Int.shiftRight_eq_div_pow]
    norm_cast
  rw [← h, hs, BitVec.ofInt_toInt, sarVal]

theorem rolVal_eq (a b : Word) : rolVal a b = a.rotateLeft b.toNat := BitVec.rotateLeft_mod_eq_rotateLeft

theorem toNat_pair (a b : Word) : (a ++ b).toNat = a.toNat * 2 ^ 32 + b.toNat := by
  rw [BitVec.toNat_append, ← Nat.shiftLeft_add_eq_or_of_lt b.isLt, Nat.shiftLeft_eq]

theorem shfVal_eq (right : Bool) (a b c : Word) :
    shfVal right a b c =
      let x := a.toNat * 2 ^ 32 + b.toNat
      let y := min c.toNat 32
      BitVec.ofNat 32 (if right then x / 2 ^ y else x * 2 ^ y / 2 ^ 32) := by
  apply BitVec.eq_of_toNat_eq
  dsimp only
  rw [← toNat_pair, shfVal]
  generalize a ++ b = x
  generalize min c.toNat 32 = y
  cases right
  · simp only [Bool.false_eq_true, if_false, BitVec.extractLsb'_toNat, BitVec.toNat_shiftLeft, BitVec.toNat_ofNat, Nat.shiftLeft_eq,
      Nat.shiftRight_eq_div_pow]
    omega
  · simp [Nat.shiftRight_eq_div_pow]

/-- Settles O6: the logic is the words' own, and an amount of 32 or more is no case of its own in the shifts of words. -/
theorem logicAndShifts : Obligations.LogicAndShifts := by
  unfold Obligations.LogicAndShifts
  refine ⟨fun c d => ⟨?_, ?_, ?_, ?_, ?_, ?_, ?_, ?_⟩, fun c d => ⟨?_, ?_, ?_, ?_, ?_, ?_, ?_, ?_, ?_⟩⟩
  iterate 8 exact fun _ _ => computes_word (fun _ => rfl) (fun _ _ => rfl)
  · exact fun _ _ => computes_word (fun _ => rfl) (fun _ _ => shlVal_eq _ _)
  · exact fun _ _ => computes_word (fun _ => rfl) (fun _ _ => shrVal_eq _ _)
  · exact fun _ _ => computes_word (fun _ => rfl) (fun _ _ => sarVal_eq _ _)
  · exact fun _ _ => computes_word (fun _ => rfl) (fun _ _ => rolVal_eq _ _)
  · exact fun _ _ => computes_word (fun _ => rfl) (fun _ _ => shlVal_eq _ _)
  · exact fun _ _ => computes_word (fun _ => rfl) (fun _ _ => shrVal_eq _ _)
  · exact fun _ _ => computes_word (fun _ => rfl) (fun _ _ => sarVal_eq _ _)
  · exact fun _ _ => computes_word (fun _ => rfl) (fun _ _ => rolVal_eq _ _)
  · exact fun right _ _ _ => computes_word (fun _ => rfl) (fun _ _ => shfVal_eq right _ _ _)

end Sys2Proof.Machine
end

section
/-! PROOFS. Address computation, moves and three-valued predicates (R124 to R130). -/

namespace Sys2Proof.Machine

/-! ### LEA, MOV and MOVI (R125, R126) -/

/-- The index of LEA, extended to 64 bits, is the number the rule names. -/
theorem extend_eq_ofInt_num (zx : Bool) (b : Word) : (if zx then b.setWidth 64 else b.signExtend 64) = BitVec.ofInt 64 (num zx b) := by
  cases zx
  · rfl
  · simp [num, BitVec.ofNat_toNat]

theorem leaVal_eq (sh : Nat) (zx : Bool) (a : DWord) (b : Word) :
    leaVal sh zx a b = BitVec.ofInt 64 (a.toNat + num zx b * 2 ^ sh) := by
  have hp : BitVec.ofInt 64 (2 ^ sh) = BitVec.twoPow 64 sh := by
    have hcast : (2 : Int) ^ sh = ((2 ^ sh : Nat) : Int) := by push_cast; rfl
    rw [hcast, BitVec.ofInt_natCast]
    exact BitVec.eq_of_toNat_eq (by simp)
  rw [leaVal, extend_eq_ofInt_num, BitVec.ofInt_add, BitVec.ofInt_mul, hp, ← BitVec.shiftLeft_eq_mul_twoPow]
  simp

theorem pairOf_high (x : Word) : pairOf 0 x = BitVec.ofNat 64 (x.toNat * 2 ^ 32) := by
  apply BitVec.eq_of_toNat_eq
  have hx := x.isLt
  rw [pairOf, toNat_pair, BitVec.toNat_ofNat, Nat.mod_eq_of_lt (by omega), BitVec.ofNat_eq_ofNat, BitVec.toNat_ofNat, Nat.zero_mod, Nat.add_zero]

/-- Settles O7: the address arithmetic of words is that of integers put into 64 bits. -/
theorem addressMoves : Obligations.AddressMoves := by
  unfold Obligations.AddressMoves
  refine fun c d => ⟨fun sh zx a b => ?_, fun a => ?_, fun a => ?_, fun imm => ?_, fun imm => ?_, fun imm => ?_⟩
  · exact computes_pair (fun _ => rfl) (fun _ _ => leaVal_eq sh.toNat zx _ _)
  · exact computes_word (fun _ => rfl) (fun _ _ => rfl)
  · exact computes_pair (fun _ => rfl) (fun _ _ => rfl)
  · exact computes_word (fun _ => rfl) (fun _ _ => rfl)
  · exact computes_pair (fun _ => rfl) (fun _ _ => rfl)
  · exact computes_pair (fun _ => rfl) (fun _ _ => pairOf_high imm)

/-! ### Three-valued logic (R127 to R130) -/

/-- The order of R129: false below undecided below true. -/
def triLevel : Tri → Nat
  | .no => 0
  | .undecided => 1
  | .yes => 2

theorem triMin_eq (a b : Tri) : triMin a b = if triLevel a ≤ triLevel b then a else b := by
  cases a <;> cases b <;> rfl

theorem triMax_eq (a b : Tri) : triMax a b = if triLevel a ≤ triLevel b then b else a := by
  cases a <;> cases b <;> rfl

theorem plop_xor_eq (a b : Tri) :
    plopVal .xor a b = if a = .undecided ∨ b = .undecided then .undecided else if a = b then .no else .yes := by
  cases a <;> cases b <;> rfl

theorem plop_not_eq (a b : Tri) : plopVal .not a b = if a = .undecided then .undecided else if a = .yes then .no else .yes := by
  cases a <;> rfl

theorem plop_isu_eq (a b : Tri) : plopVal .isu a b = if a = .undecided then .yes else .no := by
  cases a <;> rfl

theorem plop_utot_eq (a b : Tri) : plopVal .utot a b = if a = .no then .no else .yes := by
  cases a <;> rfl

theorem plop_utof_eq (a b : Tri) : plopVal .utof a b = if a = .yes then .yes else .no := by
  cases a <;> rfl

theorem selVal_eq (ua : Bool) (p : Tri) (a b : Word) : selVal ua p a b = if p = .yes ∨ (ua = true ∧ p = .undecided) then a else b := by
  cases p <;> cases ua <;> rfl

theorem ptovVal_eq (p : Tri) : ptovVal p = if p = .no then 0 else if p = .yes then 1 else 2 := by
  cases p <;> rfl

theorem vtopVal_low_eq (a : Word) :
    vtopVal false a = if a.toNat % 4 = 0 then .no else if a.toNat % 4 = 1 then .yes else .undecided := by
  have hlow : (a.extractLsb' 0 2).toNat = a.toNat % 4 := by simp
  simp only [vtopVal, Bool.false_eq_true, if_false, hlow]
  split <;> simp_all


/-- Settles O8: each function of three-valued operands agrees with its rule at every value. -/
theorem predicateOps : Obligations.PredicateOps := by
  unfold Obligations.PredicateOps
  refine fun c d pd pa pb => ⟨fun ua a b => ?_, fun cc sgn a b => ?_, ?_, ?_, ?_, ?_, ?_, ?_, ?_, ?_, fun a => ?_, fun a => ?_⟩
  · exact computes_word (fun _ => rfl) (fun _ _ => selVal_eq ua _ _ _)
  · exact computesPred_of (fun _ => rfl) (fun _ _ => rfl)
  · exact computesPred_of (fun _ => rfl) (fun _ _ => triMin_eq _ _)
  · exact computesPred_of (fun _ => rfl) (fun _ _ => triMax_eq _ _)
  · exact computesPred_of (fun _ => rfl) (fun _ _ => plop_xor_eq _ _)
  · exact computesPred_of (fun _ => rfl) (fun _ _ => plop_not_eq _ _)
  · exact computesPred_of (fun _ => rfl) (fun _ _ => plop_isu_eq _ _)
  · exact computesPred_of (fun _ => rfl) (fun _ _ => plop_utot_eq _ _)
  · exact computesPred_of (fun _ => rfl) (fun _ _ => plop_utof_eq _ _)
  · exact computes_word (fun _ => rfl) (fun _ _ => ptovVal_eq _)
  · exact computesPred_of (fun _ => rfl) (fun _ _ => rfl)
  · exact computesPred_of (fun _ => rfl) (fun _ _ => vtopVal_low_eq _)

end Sys2Proof.Machine
end

section
/-! PROOFS. The floating-point instructions: arithmetic, selection, comparison, special functions (R131 to R141). -/

namespace Sys2Proof.Machine

/-! ### Formats, destinations and latencies -/

theorem fpLat_ne_zero (fmt : FFmt) : fpLat fmt ≠ 0 := by
  cases fmt <;> decide

theorem arithFmt_of_scalarFmt {fmt : FFmt} : scalarFmt fmt = true → arithFmt fmt = true := by
  cases fmt <;> decide

/-- An arithmetic format gives each lane the words of one value (R131, R133). -/
theorem perElement_length {fmt : FFmt} (h : arithFmt fmt = true) (op : List Nat → Nat × Flags) (xs : List Nat) :
    (perElement fmt op xs).1.length = ffmtRegs fmt := by
  cases fmt <;> simp_all [arithFmt, perElement, ffmtRegs]

theorem scalar_tagged {c : Ctl} {fmt : FFmt} {d : BitVec 8} {a : Src} (h : (scalarFmt fmt && taggedF1 c d a (ffmtRegs fmt)) = true) :
    scalarFmt fmt = true ∧ dstT c.u d (ffmtRegs fmt) = true := by
  simp only [taggedF1, Bool.and_eq_true] at h
  obtain ⟨hs, ⟨-, hd⟩, -⟩ := h
  exact ⟨hs, hd⟩

theorem narrow_tagged {c : Ctl} {fmt : FFmt} {d : BitVec 8} {a : Src} (h : (narrowFn fmt && taggedF1 c d a 1) = true) :
    scalarFmt fmt = true ∧ dstT c.u d (ffmtRegs fmt) = true := by
  simp only [narrowFn, taggedF1, Bool.and_eq_true, Bool.not_eq_true', decide_eq_false_iff_not] at h
  obtain ⟨⟨hs, h64⟩, ⟨-, hd⟩, -⟩ := h
  have hk : ffmtRegs fmt = 1 := by revert h64; cases fmt <;> decide
  exact ⟨hs, hk ▸ hd⟩

/-! ### Element by element -/

/-- A floating-point instruction of fixed latency, element by element. -/
theorem computes_elements {i : Instr} {c : Ctl} {fmt : FFmt} {d : BitVec 8} {srcs : List Field} {op : Go → Nat → List Nat → Nat × Flags}
    {xs : Go → Nat → List Nat}
    (hi : ∀ s, exec i s = aluFlags c (fpLat fmt) d (ffmtRegs fmt) srcs (fun g l => perElement fmt (op g l) (xs g l)) s)
    (hfmt : i.wf = true → arithFmt fmt = true) :
    ComputesFlags i c (fpLat fmt) d (ffmtRegs fmt) srcs (fun g l => perElement fmt (op g l) (xs g l)) :=
  computesFlags_of hi (fun _ _ => rfl) (fun hwf _ _ => perElement_length (hfmt hwf) _ _) (fun _ h => absurd h (fpLat_ne_zero fmt))

/-- A tagged floating-point instruction, element by element. -/
theorem computes_elements_tagged {i : Instr} {c : Ctl} {fmt : FFmt} {d : BitVec 8} {srcs : List Field}
    {op : Go → Nat → List Nat → Nat × Flags} {xs : Go → Nat → List Nat}
    (hi : ∀ s, exec i s = aluFlags c 0 d (ffmtRegs fmt) srcs (fun g l => perElement fmt (op g l) (xs g l)) s)
    (hwf : i.wf = true → scalarFmt fmt = true ∧ dstT c.u d (ffmtRegs fmt) = true) :
    ComputesFlags i c 0 d (ffmtRegs fmt) srcs (fun g l => perElement fmt (op g l) (xs g l)) :=
  computesFlags_of hi (fun _ _ => rfl) (fun h _ _ => perElement_length (arithFmt_of_scalarFmt (hwf h).1) _ _)
    (fun h _ hu => dstT_port (hwf h).2 hu)

/-! ### Selection and comparison (R135, R136, R138 to R141) -/

section
variable (c : Ctl) (fmt : FFmt) (rnd : Rnd) (d : BitVec 8) (a b : Src)

theorem fmin_computes (nan : Bool) : ComputesFlags (.fmin c fmt nan d a b) c (fpLat fmt) d (ffmtRegs fmt)
    [srcField a (ffmtRegs fmt), srcField b (ffmtRegs fmt)] (fun g l => perElement fmt (onVals g.w.denorm (elemSpec fmt)
      (fun v => minMaxVals (elemSpec fmt) false nan (valAt v 0) (valAt v 1))) [g.fop fmt 0 l, g.fop fmt 1 l]) :=
  computes_elements (fun _ => rfl) Bool.and_elim_left

theorem fmax_computes (nan : Bool) : ComputesFlags (.fmax c fmt nan d a b) c (fpLat fmt) d (ffmtRegs fmt)
    [srcField a (ffmtRegs fmt), srcField b (ffmtRegs fmt)] (fun g l => perElement fmt (onVals g.w.denorm (elemSpec fmt)
      (fun v => minMaxVals (elemSpec fmt) true nan (valAt v 0) (valAt v 1))) [g.fop fmt 0 l, g.fop fmt 1 l]) :=
  computes_elements (fun _ => rfl) Bool.and_elim_left

theorem frnd_computes (x : Bool) : ComputesFlags (.frnd c fmt rnd x d a) c (fpLat fmt) d (ffmtRegs fmt) [srcField a (ffmtRegs fmt)]
    (fun g l => perElement fmt (onVals g.w.denorm (elemSpec fmt)
      (fun v => frndVal (elemSpec fmt) (rmodeOf g.w.regs.fpctl rnd) x (valAt v 0))) [g.fop fmt 0 l]) :=
  computes_elements (fun _ => rfl) (fun h => Bool.and_elim_left (Bool.and_elim_left (Bool.and_elim_left h)))

theorem fscale_computes : ComputesFlags (.fscale c fmt rnd d a b) c (fpLat fmt) d (ffmtRegs fmt)
    [srcField a (ffmtRegs fmt), srcField b 1] (fun g l => perElement fmt (onVals g.w.denorm (elemSpec fmt) (fun v =>
      fscaleVal g.w.denorm (elemSpec fmt) (rmodeOf g.w.regs.fpctl rnd) (valAt v 0) (g.rd 1 0 l).toInt)) [g.fop fmt 0 l]) :=
  computes_elements (fun _ => rfl)
    (fun h => Bool.and_elim_left (Bool.and_elim_left (Bool.and_elim_left (Bool.and_elim_left h))))

theorem fclass_computes : ComputesWord (.fclass c fmt d a) c (fpLat fmt) d [srcField a (ffmtRegs fmt)]
    (fun g l => BitVec.ofNat 32 (fclassBits (elemSpec fmt) (g.fop fmt 0 l % 2 ^ (elemSpec fmt).width))) :=
  computes_word (fun _ => rfl) (fun _ _ => rfl) (fpLat_ne_zero fmt)

theorem fgetexp_computes : ComputesFlags (.fgetexp c fmt d a) c (fpLat fmt) d 1 [srcField a (ffmtRegs fmt)]
    (fun g l =>
      let x := readF g.w.denorm (elemSpec fmt) (g.fop fmt 0 l % 2 ^ (elemSpec fmt).width)
      ([BitVec.ofInt 32 (fgetexpVal x.1).1], x.2 ||| (fgetexpVal x.1).2)) :=
  computesFlags_of (fun _ => rfl) (fun _ _ => rfl) (fun _ _ _ => rfl) (fun _ h => absurd h (fpLat_ne_zero fmt))

/-- An operand of FCMP as read, with the flags of reading (R92). -/
def cmpRead (fmt : FFmt) (g : Go) (i l : Nat) : FVal × Flags :=
  readF g.w.denorm (elemSpec fmt) (g.fop fmt i l % 2 ^ (elemSpec fmt).width)

/-- The comparison of FCMP in a lane (R136). -/
def cmpResult (fmt : FFmt) (cc : CmpCode) (g : Go) (l : Nat) : Tri × Flags := fcmpVals cc (cmpRead fmt g 0 l).1 (cmpRead fmt g 1 l).1

theorem fcmp_computes (cc : CmpCode) (pd : BitVec 3) : Computes (.fcmp c fmt cc pd a b) c
    { needs [] [srcField a (ffmtRegs fmt), srcField b (ffmtRegs fmt)] (fpLat fmt) with pdsts := [pd.toNat] }
    (fun g => .ofPred pd g (fun l => (cmpResult fmt cc g l).1)
      (orFlags g.lanes (fun l => (cmpRead fmt g 0 l).2 ||| (cmpRead fmt g 1 l).2 ||| (cmpResult fmt cc g l).2))) := by
  refine computes_of_body (body := fun g => {
      writes := putPred pd.toNat g.lanes (fun l => (cmpResult fmt cc g l).1)
      flags := g.lanes.map (fun l => (l, (cmpRead fmt g 0 l).2 ||| (cmpRead fmt g 1 l).2 ||| (cmpResult fmt cc g l).2)) })
    (fun _ => rfl) (fun _ h => absurd h (fpLat_ne_zero fmt)) (fun _ g => ⟨?_, orFlags_pairs _ _⟩) (fun g hl => ⟨?_, hl⟩)
  · rw [← putPred_writes]
  · simp [Result.ofPred]

end

/-! ### Special functions (R137) -/

/-- A special function gives the model's value of each element. -/
theorem special_computes {i : Instr} {c : Ctl} {fmt : FFmt} {d : BitVec 8} {a : Src} {fn : SpFn} (hi : ∀ s, exec i s = spInstr c fn fmt d a s)
    (hwf : i.wf = true → scalarFmt fmt = true ∧ dstT c.u d (ffmtRegs fmt) = true) :
    ComputesFlags i c 0 d (ffmtRegs fmt) [srcField a (ffmtRegs fmt)]
      (fun g l => perElement fmt (fun xs => specialFn fn g.w.denorm fmt (xs.headD 0)) [g.fop fmt 0 l]) :=
  computes_elements_tagged hi hwf

/-- Settles O10: one lemma for each instruction, and one for the seven special functions. -/
theorem floatSelection : Obligations.FloatSelection := by
  unfold Obligations.FloatSelection
  refine ⟨fun c fmt rnd d a b => ⟨fmin_computes c fmt d a b, fmax_computes c fmt d a b, fcmp_computes c fmt a b,
    fclass_computes c fmt d a, frnd_computes c fmt rnd d a, fscale_computes c fmt rnd d a b, fgetexp_computes c fmt d a⟩,
    fun c fmt d a => ⟨?_, ?_, ?_, ?_, ?_, ?_, ?_⟩⟩
  · exact special_computes (fun _ => rfl) scalar_tagged
  · exact special_computes (fun _ => rfl) scalar_tagged
  · exact special_computes (fun _ => rfl) narrow_tagged
  · exact special_computes (fun _ => rfl) narrow_tagged
  · exact special_computes (fun _ => rfl) narrow_tagged
  · exact special_computes (fun _ => rfl) narrow_tagged
  · exact special_computes (fun _ => rfl) narrow_tagged

/-! ### Instructions that complete (R42, R43) -/

theorem find?_upsert {α : Type} {same : α → Bool} {x : α} (hx : same x = true) (l : List α) : (upsert same x l).find? same = some x := by
  induction l with
  | nil => simp [upsert, hx]
  | cons y l ih => by_cases hy : same y = true <;> simp [upsert, hx, hy, ih]

/-- A warp stands in the state as the last update of a script leaves it. -/
theorem warp?_run_warp (s : State) (us : List Upd) (v : Warp) : (s.run (us ++ [.warp v])).warp? v.id = some v := by
  simp only [State.warp?, run_append, run_cons, run_nil, warp_warps]
  exact find?_upsert (by simp) _

/-- What computes a result completes: its warp has gone on behind it. -/
theorem completes_of_computes {i : Instr} {c : Ctl} {n : Need} {r : Go → Result} (h : Computes i c n r) : Completes i c n := by
  intro hwf s w f g hg hflags
  obtain ⟨v, hexec, hpass, -⟩ := h hwf s w f g ⟨hg.cur, hg.go, hg.lanes, hg.room⟩ trivial (hflags _)
  refine ⟨s.run (g.upds ++ [Upd.warp v]), v, hexec, ?_, hpass.mode, ?_⟩
  · rw [← hpass.id]
    exact warp?_run_warp s g.upds v
  · simpa using hpass.frags

/-! ### Arithmetic (R134, R137) -/

/-- Settles O9: arithmetic is element by element, and every other instruction completes because it computes its result. -/
theorem floatArithmetic : Obligations.FloatArithmetic := by
  unfold Obligations.FloatArithmetic
  intro c fmt rnd d a b e
  obtain ⟨selection, special⟩ := floatSelection
  obtain ⟨hmin, hmax, hcmp, hclass, hrnd, hscale, hgetexp⟩ := selection c fmt rnd d a b
  obtain ⟨hrcp, hrsq, hex2, hlg2, hsin, hcos, htanh⟩ := special c fmt d a
  refine ⟨?_, ?_, ?_, ?_, ?_, ?_, fun nan => ⟨completes_of_computes (hmin nan), completes_of_computes (hmax nan)⟩,
    fun cc pd => completes_of_computes (hcmp cc pd), fun x => completes_of_computes (hrnd x), completes_of_computes hclass,
    completes_of_computes hgetexp, completes_of_computes hscale, ?_⟩
  · exact computes_elements (fun _ => rfl) Bool.and_elim_left
  · exact computes_elements (fun _ => rfl) Bool.and_elim_left
  · exact computes_elements (fun _ => rfl) Bool.and_elim_left
  · exact computes_elements (fun _ => rfl) (fun h => Bool.and_elim_left (Bool.and_elim_left h))
  · exact computes_elements_tagged (fun _ => rfl) scalar_tagged
  · exact computes_elements_tagged (fun _ => rfl) (fun h => scalar_tagged (Bool.and_elim_left h))
  · simp only [List.forall_mem_cons, List.not_mem_nil, false_imp_iff, implies_true, and_true]
    exact ⟨completes_of_computes hrcp, completes_of_computes hrsq, completes_of_computes hex2, completes_of_computes hlg2,
      completes_of_computes hsin, completes_of_computes hcos, completes_of_computes htanh⟩

end Sys2Proof.Machine
end

section
/-! PROOFS. Conversions and block quantisation (R142 to R153). -/

namespace Sys2Proof.Machine

/-! ### Conversions (R142 to R147) -/

/-- A conversion of fixed latency gives as many words as its destination has registers (R143). -/
theorem convWords_length (w idx : Nat) (old : Word) (e : Nat) : (convWords w idx old e).length = if w = 64 then 2 else 1 := by
  unfold convWords
  split
  · rfl
  · split <;> rfl

/-- An instruction of fixed latency of k words a lane with flags, computed from its operands and the state. -/
theorem does_words {i : Instr} {c : Ctl} {n : Need} {d : BitVec 8} {k : Nat} {f : State → Go → Nat → List Word × Flags}
    (hi : ∀ s, exec i s = issue c n (fun g =>
      { writes := putWords c.u d.toNat g.lanes (fun l => (f s g l).1), flags := g.lanes.map (fun l => (l, (f s g l).2)) }) s)
    (hk : ∀ s g l, (f s g l).1.length = k) (hlat : n.lat ≠ 0) :
    Does i c n (fun _ _ => True) (fun s g =>
      { res := .ofWords c.u d k g (fun l j => (f s g l).1.getD j 0) (orFlags g.lanes (fun l => (f s g l).2)) }) := by
  refine does_of_gives (body := fun s g =>
      { writes := putWords c.u d.toNat g.lanes (fun l => (f s g l).1), flags := g.lanes.map (fun l => (l, (f s g l).2)) })
    hi (fun _ _ _ _ h => absurd h hlat) (fun _ s g hl _ => ⟨?_, hl, by simp [Result.ofWords]⟩)
  rw [putWords_writes c.u d k g _ (orFlags g.lanes (fun l => (f s g l).2)) (fun l _ => hk s g l)]
  exact ⟨rfl, rfl, rfl, rfl, orFlags_pairs _ _, rfl, rfl, rfl, rfl, rfl, rfl, rfl, rfl, rfl, rfl, rfl, rfl⟩

/-- The destination is a queue port, which has no earlier contents (log 8). -/
def convPort (c : Ctl) (d : BitVec 8) : Bool := c.u && decide (56 ≤ d.toNat)

/-- What a conversion needs: a narrow destination in a register is a source too (R143). -/
def convNeed (c : Ctl) (dw sw : Nat) (d : BitVec 8) (srcs : List Field) : Need :=
  needs [dstField c.u d (if dw = 64 then 2 else 1)] (srcs ++ if dw < 32 ∧ convPort c d = false then [dstField c.u d 1] else [])
    (if dw = 64 ∨ sw = 64 then 7 else 5)

/-- What a conversion gives in a lane: the words of its destination, and the flags. -/
def convLane (c : Ctl) (dw sw : Nat) (idx : BitVec 3) (d : BitVec 8) (op : Go → Nat → Nat → Nat × Flags) (g : Go) (l : Nat) :
    List Word × Flags :=
  let old : Word := if 32 ≤ dw ∨ convPort c d = true then 0 else if c.u then g.w.regs.ureg d.toNat else g.w.regs.vreg d.toNat l
  let r := op g l (pickElem sw idx.toNat (if sw = 64 then (g.rd2 0 0 l).toNat else (g.rd 0 0 l).toNat))
  (convWords dw idx.toNat old r.1, r.2)

theorem convInstr_eq (c : Ctl) (dw sw : Nat) (idx : BitVec 3) (d : BitVec 8) (srcs : List Field) (op : Go → Nat → Nat → Nat × Flags)
    (s : State) : convInstr c dw sw idx d srcs op s = issue c (convNeed c dw sw d srcs) (fun g => {
      writes := putWords c.u d.toNat g.lanes (fun l => (convLane c dw sw idx d op g l).1)
      flags := g.lanes.map (fun l => (l, (convLane c dw sw idx d op g l).2)) }) s := by
  have hkeep : (decide (dw < 32) && !convPort c d) = true ↔ dw < 32 ∧ convPort c d = false := by simp
  have hwhole : (!(decide (dw < 32) && !convPort c d)) = true ↔ 32 ≤ dw ∨ convPort c d = true := by
    cases convPort c d <;> simp
  simp only [convNeed, convLane, ← hkeep, ← hwhole]
  rfl

/-- A conversion does what its element function says. -/
theorem converts_of {i : Instr} {c : Ctl} {dw sw : Nat} {idx : BitVec 3} {d : BitVec 8} {srcs : List Field}
    {op : State → Go → Nat → Nat → Nat × Flags} (hi : ∀ s, exec i s = convInstr c dw sw idx d srcs (op s) s) :
    Converts i c dw sw idx d srcs op :=
  does_words (n := convNeed c dw sw d srcs) (f := fun s => convLane c dw sw idx d (op s))
    (fun s => (hi s).trans (convInstr_eq c dw sw idx d srcs (op s) s)) (fun _ _ _ => convWords_length _ _ _ _)
    (by simp only [convNeed, needs]; split <;> decide)

/-! ### Blocks (R148 to R153) -/

/-- A tagged vector instruction whose lanes have one word each, with flags from wherever they arise. -/
theorem computes_block {i : Instr} {c : Ctl} {n : Need} {d : BitVec 8} {body : Go → Act} {f : Go → Nat → Word} {fl : Go → Flags}
    (hi : ∀ s, exec i s = issue c n body s)
    (hb : ∀ g, ∃ rs : List (Nat × Word × Flags), body g = blockAct d g rs ∧ (∀ l ∈ g.lanes, resultOf rs l = f g l)
      ∧ rs.foldl (fun m r => m ||| r.2.2) 0 = fl g) :
    Computes i c n (fun g => .ofWords false d 1 g (fun l _ => f g l) (fl g)) := by
  refine computes_of_body hi (fun _ _ _ hu => absurd hu (by simp [Result.ofWords])) (fun _ g => ?_)
    (fun g hl => ⟨hl, by simp [Result.ofWords]⟩)
  obtain ⟨rs, hbody, hwords, hflags⟩ := hb g
  have hw : putWord false d.toNat g.lanes (resultOf rs) = (Result.ofWords false d 1 g (fun l _ => f g l) (fl g)).writes := by
    have hcongr : putWord false d.toNat g.lanes (resultOf rs) = putWord false d.toNat g.lanes (f g) :=
      List.map_congr_left (fun l hl => by rw [hwords l hl])
    rw [hcongr, putWord_writes]
    rfl
  rw [hbody]
  refine ⟨?_, ?_⟩
  · rw [← hw]
    rfl
  · rw [← hflags, blockAct, Act.allFlags, List.foldl_map]
    rfl

/-- The result of a lane in a list with one result for each lane. -/
theorem resultOf_map (ls : List Nat) (f : Nat → Word × Flags) {l : Nat} (hl : l ∈ ls) : resultOf (ls.map (fun l => (l, f l))) l = (f l).1 := by
  have hfind : (ls.map (fun l => (l, f l))).find? (fun r => r.1 == l) = some (l, f l) := by
    rw [List.find?_map]
    induction ls with
    | nil => simp at hl
    | cons k ks ih =>
      by_cases hk : k = l
      · simp [hk]
      · have := ih ((List.mem_cons.mp hl).resolve_left (fun h => hk h.symm))
        simpa [List.find?_cons, hk] using this
  simp [resultOf, hfind]

/-- Settles O11: a conversion is its element function in each lane, and a block gives each lane the word it holds for that lane. -/
theorem conversionInstructions : Obligations.ConversionInstructions := by
  unfold Obligations.ConversionInstructions
  refine ⟨fun c dfmt sfmt di si rnd idx d a b => ⟨?_, ?_, ?_, ?_⟩, fun c bf16 rnd d a b e => ⟨fun ef => ?_, fun ef => ?_, ?_, ?_, ?_⟩⟩
  · exact converts_of (fun _ => rfl)
  · exact converts_of (fun _ => rfl)
  · exact converts_of (fun _ => rfl)
  · exact converts_of (fun _ => rfl)
  · exact computes_block (fun _ => rfl) (fun _ => ⟨_, rfl, fun _ _ => rfl, rfl⟩)
  · exact computesFlags_of (fun _ => rfl) (fun _ _ => rfl) (fun _ _ _ => rfl) (fun hwf _ => tagged2_port hwf)
  · exact computes_block (fun _ => rfl) (fun g => ⟨_, rfl, fun l hl => resultOf_map g.lanes _ hl, List.foldl_map ..⟩)
  · exact computes_block (fun _ => rfl) (fun _ => ⟨_, rfl, fun _ _ => rfl, rfl⟩)
  · exact computesFlags_of (fun _ => rfl) (fun _ _ => rfl) (fun _ _ _ => rfl)
      (fun hwf _ => tagged2_port (Bool.and_elim_left hwf))

end Sys2Proof.Machine
end

section
/-! PROOFS. Interval instructions: arithmetic, points and predicates, bisection (R156 to R168). -/

namespace Sys2Proof.Machine

/-! ### Instructions that compute a result where a condition holds -/

/-- An instruction that, where ok holds, computes a result and does nothing else. -/
theorem does_of_result {i : Instr} {c : Ctl} {n : Need} {body : State → Go → Act} {ok : State → Go → Prop} {r : Go → Result}
    (hi : ∀ s, exec i s = issue c n (body s) s)
    (hp : i.wf = true → n.lat = 0 → ∀ g, (r g).uni = true → (r g).d + (r g).k ≤ 56)
    (hb : ∀ s g, ok s g → ∃ fl, body s g = { writes := (r g).writes, flags := fl } ∧ fl.foldl (fun m x => m ||| x.2) 0 = (r g).flags)
    (hr : ∀ g, (∀ l ∈ g.lanes, l < 32) → (r g).inRange) : Does i c n ok (fun _ g => { res := r g }) := by
  refine does_of_gives hi (fun hwf s g _ hl => ⟨fun _ => by simp, pushed_nil (fun hu j hj => ?_)⟩) (fun _ s g hl hok => ⟨?_, hr g hl⟩)
  · have := hp hwf hl g hu
    dsimp only at hj ⊢
    omega
  · obtain ⟨fl, hbody, hfl⟩ := hb s g hok
    rw [hbody]
    exact ⟨rfl, rfl, rfl, rfl, hfl, rfl, rfl, rfl, rfl, rfl, rfl, rfl, rfl, rfl, rfl, rfl, rfl⟩

theorem ofWords_inRange {u : Bool} {d : BitVec 8} {k : Nat} {g : Go} {f : Nat → Nat → Word} {fl : Flags} (hl : ∀ l ∈ g.lanes, l < 32) :
    (Result.ofWords u d k g f fl).inRange := ⟨hl, by simp [Result.ofWords]⟩

theorem ofPred_inRange {p : BitVec 3} {g : Go} {f : Nat → Tri} {fl : Flags} (hl : ∀ l ∈ g.lanes, l < 32) :
    (Result.ofPred p g f fl).inRange := ⟨by simp [Result.ofPred], hl⟩

/-! ### Operands, results and destinations of interval instructions -/

theorem ivWords_length (f : IvFmt) (b : Nat × Nat) : (ivWords f b).length = ivRegs f := by
  cases f <;> rfl

theorem pointWords_length (p : PFmt) (b : Nat) : (pointWords p b).length = pfmtRegs p := by
  cases p <;> rfl

/-- Every interval operand of every executing lane is well formed (R157). -/
def IvOperandsOk (g : Go) (f : IvFmt) (fields : List Nat) : Prop := ∀ l ∈ g.lanes, ∀ i ∈ fields, (g.iv f i l).isSome = true

theorem ivOperandsOk_one {g : Go} {f : IvFmt} {i : Nat} (h : ∀ l ∈ g.lanes, (g.iv f i l).isSome = true) : IvOperandsOk g f [i] :=
  fun l hl _ hi => List.mem_singleton.mp hi ▸ h l hl

/-- The lanes in which an interval operand is not well formed. -/
def ivBadLanes (g : Go) (f : IvFmt) (fields : List Nat) : List Nat := g.lanes.filter (fun l => fields.any (fun i => (g.iv f i l).isNone))

theorem ivBadLanes_eq_nil {g : Go} {f : IvFmt} {fields : List Nat} (h : IvOperandsOk g f fields) : ivBadLanes g f fields = [] := by
  refine List.filter_eq_nil_iff.mpr (fun l hl hbad => ?_)
  obtain ⟨i, hi, hn⟩ := List.any_eq_true.mp hbad
  have := h l hl i hi
  simp_all

/-- With well-formed operands the check of R157 passes, and the instruction computes. -/
theorem ivChecked_of_nil {g : Go} {f : IvFmt} {fields : List Nat} {k : (Nat → List Iv) → Act} (h : ivBadLanes g f fields = []) :
    ivChecked g f fields k = k (fun l => fields.map (fun i => (g.iv f i l).elim none (·.1))) := by
  rw [ivBadLanes] at h
  rw [ivChecked, h]

theorem ivChecked_of_ok {g : Go} {f : IvFmt} {fields : List Nat} {k : (Nat → List Iv) → Act} (h : IvOperandsOk g f fields) :
    ivChecked g f fields k = k (fun l => fields.map (fun i => (g.iv f i l).elim none (·.1))) :=
  ivChecked_of_nil (ivBadLanes_eq_nil h)

theorem ivReadFlags_one (g : Go) (f : IvFmt) (i l : Nat) : ivReadFlags g f [i] l = (g.iv f i l).elim 0 (·.2) := by
  simp [ivReadFlags]

theorem ivReadFlags_two (g : Go) (f : IvFmt) (i j l : Nat) :
    ivReadFlags g f [i, j] l = (g.iv f i l).elim 0 (·.2) ||| (g.iv f j l).elim 0 (·.2) := by
  simp [ivReadFlags]

/-- Every lane's interval has an element, or empty ones are masked (R159). -/
def IvFull (g : Go) (res : Nat → Option (Nat × Nat)) : Prop := (∀ l ∈ g.lanes, (res l).isSome = true) ∨ fpctlEmask g.w.regs.fpctl = true

/-- The result of an instruction that gives intervals: an empty one is the canonical one, with EMP (R159). -/
def ivResult (u : Bool) (d : BitVec 8) (g : Go) (f : IvFmt) (res : Nat → Option (Nat × Nat)) (read : Nat → Flags) : Result :=
  .ofWords u d (ivRegs f) g (fun l j => (ivWords f ((res l).getD (emptyBounds (ivBound f)))).getD j 0)
    (orFlags g.lanes (fun l => read l ||| flagIf (res l).isNone flagEMP))

theorem ivPut_of_full {u : Bool} {d : BitVec 8} {g : Go} {f : IvFmt} {res : Nat → Option (Nat × Nat)} {read : Nat → Flags}
    (h : IvFull g res) : ivPut u d.toNat g f res read = {
      writes := (ivResult u d g f res read).writes
      flags := g.lanes.map (fun l => (l, read l ||| flagIf (res l).isNone flagEMP)) } := by
  have hc : (!(g.lanes.filter (fun l => (res l).isNone)).isEmpty && !fpctlEmask g.w.regs.fpctl) = false := by
    rcases h with h | h
    · have : g.lanes.filter (fun l => (res l).isNone) = [] :=
        List.filter_eq_nil_iff.mpr (fun l hl => by simpa [← Option.isSome_iff_ne_none] using h l hl)
      simp [this]
    · simp [h]
  rw [ivPut, hc, ivResult, ← putWords_writes u d (ivRegs f) g _ _ (fun l _ => ivWords_length f _)]
  rfl

/-- The destination of a tagged interval instruction names no queue port (R50). -/
theorem ivDst_port {c : Ctl} {tagged : Bool} {f : IvFmt} {d : BitVec 8} {k lat : Nat} (h : ivDst c tagged f d k = true)
    (ht : lat = 0 → tagged = true) (hlat : (if f = .if64 then 0 else lat) = 0) (hu : c.u = true) : d.toNat + k ≤ 56 := by
  have tag : (tagged || decide (f = .if64)) = true := by
    by_cases hf : f = .if64
    · simp [hf]
    · rw [if_neg hf] at hlat
      simp [ht hlat]
  rw [ivDst, if_pos tag] at h
  exact dstT_port (Bool.and_eq_true_iff.mp h).2 hu

/-- An instruction that gives an interval in each lane. -/
theorem does_interval {i : Instr} {c : Ctl} {n : Need} {f : IvFmt} {d : BitVec 8} {ok : State → Go → Prop} {body : State → Go → Act}
    {res : Go → Nat → Option (Nat × Nat)} {read : Go → Nat → Flags} (hi : ∀ s, exec i s = issue c n (body s) s)
    (hp : i.wf = true → n.lat = 0 → c.u = true → d.toNat + ivRegs f ≤ 56)
    (hb : ∀ s g, ok s g → body s g = ivPut c.u d.toNat g f (res g) (read g) ∧ IvFull g (res g)) :
    Does i c n ok (fun _ g => { res := ivResult c.u d g f (res g) (read g) }) := by
  refine does_of_result hi (fun hwf hlat g hu => hp hwf hlat hu) (fun s g hok => ?_) (fun g hl => ofWords_inRange hl)
  obtain ⟨hbody, hfull⟩ := hb s g hok
  exact ⟨_, hbody.trans (ivPut_of_full hfull), orFlags_pairs _ _⟩

/-! ### Arithmetic (R160, R161) -/

/-- An interval instruction from intervals alone. -/
theorem computesIv_of {i : Instr} {c : Ctl} {lat : Nat} {f : IvFmt} {d : BitVec 8} {srcs : List Src}
    {op : Bool → FSpec → List Iv → Option (Nat × Nat)} (hi : ∀ s, exec i s = ivInstr c (ivLat f lat) f d srcs op s)
    (hd : i.wf = true → ivDst c (decide (lat = 0)) f d (ivRegs f) = true) : ComputesIv i c lat f d srcs op := by
  refine does_interval (read := fun g => ivReadFlags g f (List.range srcs.length)) hi (fun hwf hlat hu => ?_) (fun s g hok => ?_)
  · exact ivDst_port (hd hwf) decide_eq_true hlat hu
  · exact ⟨ivChecked_of_ok hok.1, hok.2⟩

theorem ivLat_zero (f : IvFmt) : ivLat f 0 = 0 := by simp [ivLat]

/-- A tagged interval instruction from intervals alone. -/
theorem computesIv_tagged {i : Instr} {c : Ctl} {f : IvFmt} {d : BitVec 8} {srcs : List Src}
    {op : Bool → FSpec → List Iv → Option (Nat × Nat)} (hi : ∀ s, exec i s = ivInstr c 0 f d srcs op s)
    (hd : i.wf = true → ivDst c true f d (ivRegs f) = true) : ComputesIv i c 0 f d srcs op :=
  computesIv_of (fun s => by rw [hi, ivLat_zero]) hd

/-- Settles O12: with well-formed operands the check of R157 passes, and each instruction puts down its function of the operands. -/
theorem intervalArithmetic : Obligations.IntervalArithmetic := by
  unfold Obligations.IntervalArithmetic
  intro c f d a b e
  have one {x y : Bool} (h : (x && y) = true) : x = true := Bool.and_elim_left h
  have two {x y z : Bool} (h : (x && y && z) = true) : x = true := one (one h)
  refine ⟨?_, ?_, ?_, ?_, ?_, ?_, ?_, ?_, ?_, ?_, ?_, ?_, ?_, ?_, ?_⟩
  · exact computesIv_of (fun _ => rfl) two
  · exact computesIv_of (fun _ => rfl) two
  · exact computesIv_of (fun _ => rfl) two
  · exact computesIv_tagged (fun _ => rfl) two
  · exact computesIv_of (fun _ => rfl) (fun h => two (one h))
  · exact computesIv_of (fun _ => rfl) one
  · exact computesIv_tagged (fun _ => rfl) one
  · exact computesIv_tagged (fun _ => rfl) one
  · exact computesIv_tagged (fun _ => rfl) (fun h => (Bool.and_eq_true_iff.mp (one h)).2)
  · exact computesIv_tagged (fun _ => rfl) (fun h => (Bool.and_eq_true_iff.mp (one h)).2)
  · exact computesIv_of (fun _ => rfl) one
  · exact computesIv_of (fun _ => rfl) two
  · exact computesIv_of (fun _ => rfl) two
  · exact computesIv_of (fun _ => rfl) two
  · exact computesIv_of (fun _ => rfl) two

/-! ### Points and predicates (R162 to R166) -/

/-- The result of an instruction that gives points. -/
def pointResult (u : Bool) (d : BitVec 8) (p : PFmt) (g : Go) (r : Nat → Nat × Flags) (read : Nat → Flags) : Result :=
  .ofWords u d (pfmtRegs p) g (fun l j => (pointWords p (r l).1).getD j 0) (orFlags g.lanes (fun l => (r l).2 ||| read l))

/-- An instruction from one interval to a point (R162). -/
theorem does_point {i : Instr} {c : Ctl} {f : IvFmt} {p : PFmt} {d : BitVec 8} {a : Src} {op : Bool → FSpec → Iv → Nat × Flags}
    (hi : ∀ s, exec i s = ivToPt c f p d a op s) (hd : i.wf = true → ivDst c false f d (pfmtRegs p) = true) :
    Does i c (needs [dstField c.u d (pfmtRegs p)] [srcField a (ivRegs f)] (ivLat f 6)) (fun _ g => IvOperandsOk g f [0]) (fun _ g =>
      { res := pointResult c.u d p g (fun l => op g.w.denorm (pfmtSpec p) ((g.iv f 0 l).elim none (·.1)))
          (fun l => (g.iv f 0 l).elim 0 (·.2)) }) := by
  refine does_of_result hi (fun hwf hlat g hu => ivDst_port (hd hwf) (by decide) hlat hu) (fun s g hok => ?_) (fun g hl => ofWords_inRange hl)
  refine ⟨_, (ivChecked_of_ok hok).trans ?_, orFlags_pairs _ _⟩
  rw [pointResult, ← putWords_writes c.u d (pfmtRegs p) g
    (fun l => pointWords p (op g.w.denorm (pfmtSpec p) ((g.iv f 0 l).elim none (·.1))).1) _ (fun l _ => pointWords_length p _)]
  simp only [← ivReadFlags_one]
  rfl

section
variable (c : Ctl) (f : IvFmt) (pf : PFmt) (d : BitVec 8) (a b : Src)

theorem ivset_does : Does (.ivset c f pf d a) c (needs [dstField c.u d (ivRegs f)] [srcField a (pfmtRegs pf)] (ivLat f 6))
    (fun _ g => IvFull g (fun l => ivSet g.w.denorm (ivBound f) (g.pointVal pf 0 l).1))
    (fun _ g => { res := ivResult c.u d g f (fun l => ivSet g.w.denorm (ivBound f) (g.pointVal pf 0 l).1) (fun l => (g.pointVal pf 0 l).2) }) :=
  does_interval (read := fun g l => (g.pointVal pf 0 l).2) (fun _ => rfl)
    (fun hwf hlat hu => ivDst_port (Bool.and_elim_left hwf) (by decide) hlat hu) (fun _ _ hok => ⟨rfl, hok⟩)

theorem ivmk_does : Does (.ivmk c f pf d a b) c
    (needs [dstField c.u d (ivRegs f)] [srcField a (pfmtRegs pf), srcField b (pfmtRegs pf)] (ivLat f 6))
    (fun _ g => IvFull g (fun l => ivMk g.w.denorm (ivBound f) (g.pointVal pf 0 l).1 (g.pointVal pf 1 l).1))
    (fun _ g =>
      { res := ivResult c.u d g f (fun l => ivMk g.w.denorm (ivBound f) (g.pointVal pf 0 l).1 (g.pointVal pf 1 l).1)
          (fun l => (g.pointVal pf 0 l).2 ||| (g.pointVal pf 1 l).2) }) :=
  does_interval (read := fun g l => (g.pointVal pf 0 l).2 ||| (g.pointVal pf 1 l).2) (fun _ => rfl)
    (fun hwf hlat hu => ivDst_port (Bool.and_elim_left (Bool.and_elim_left hwf)) (by decide) hlat hu) (fun _ _ hok => ⟨rfl, hok⟩)

/-- What IVSPLIT gives in a lane. -/
def splitOf (f : IvFmt) (hi : Bool) (g : Go) (l : Nat) : Option (Nat × Nat) :=
  ivSplit g.w.denorm (ivBound f) hi ((g.iv f 0 l).elim none (·.1)) (g.pointVal (boundPoint f) 1 l).1

theorem ivsplit_does (hi : Bool) : Does (.ivsplit c f hi d a b) c
    (needs [dstField c.u d (ivRegs f)] [srcField a (ivRegs f), srcField b (pfmtRegs (boundPoint f))] (ivLat f 6))
    (fun _ g => IvOperandsOk g f [0] ∧ IvFull g (splitOf f hi g))
    (fun _ g =>
      { res := ivResult c.u d g f (splitOf f hi g)
          (fun l => (g.iv f 0 l).elim 0 (·.2) ||| (g.pointVal (boundPoint f) 1 l).2) }) := by
  refine does_interval (read := fun g l => (g.iv f 0 l).elim 0 (·.2) ||| (g.pointVal (boundPoint f) 1 l).2) (fun _ => rfl)
    (fun hwf hlat hu => ivDst_port (Bool.and_elim_left (Bool.and_elim_left hwf)) (by decide) hlat hu) (fun _ g hok => ⟨?_, hok.2⟩)
  simp only [← ivReadFlags_one]
  exact ivChecked_of_ok hok.1

theorem ivcmp_does (rel : Rel) (pd : BitVec 3) : Does (.ivcmp c f rel pd a b) c
    { needs [] [srcField a (ivRegs f), srcField b (ivRegs f)] (ivLat f 6) with pdsts := [pd.toNat] }
    (fun _ g => IvOperandsOk g f [0, 1])
    (fun _ g =>
      { res := .ofPred pd g (fun l => ivCmp rel ((g.iv f 0 l).elim none (·.1)) ((g.iv f 1 l).elim none (·.1)))
          (orFlags g.lanes (fun l => (g.iv f 0 l).elim 0 (·.2) ||| (g.iv f 1 l).elim 0 (·.2))) }) := by
  refine does_of_result (fun _ => rfl) (fun _ _ g hu => by simp [Result.ofPred] at hu) (fun s g hok => ?_) (fun g hl => ofPred_inRange hl)
  simp only [← ivReadFlags_two]
  refine ⟨_, (ivChecked_of_ok hok).trans ?_, orFlags_pairs _ _⟩
  rw [← putPred_writes]
  rfl

theorem ivin_does (pd : BitVec 3) : Does (.ivin c f pf pd a b) c
    { needs [] [srcField a (pfmtRegs pf), srcField b (ivRegs f)] (ivLat f 6) with pdsts := [pd.toNat] }
    (fun _ g => IvOperandsOk g f [1])
    (fun _ g =>
      { res := .ofPred pd g (fun l => ivIn (g.pointVal pf 0 l).1 ((g.iv f 1 l).elim none (·.1)))
          (orFlags g.lanes (fun l => (g.pointVal pf 0 l).2 ||| (g.iv f 1 l).elim 0 (·.2))) }) := by
  refine does_of_result (fun _ => rfl) (fun _ _ g hu => by simp [Result.ofPred] at hu) (fun s g hok => ?_) (fun g hl => ofPred_inRange hl)
  simp only [← ivReadFlags_one]
  refine ⟨_, (ivChecked_of_ok hok).trans ?_, orFlags_pairs _ _⟩
  rw [← putPred_writes]
  rfl

end

/-- Settles O13: one lemma for each instruction, and one for the four that give points. -/
theorem intervalPoints : Obligations.IntervalPoints := by
  unfold Obligations.IntervalPoints
  intro c f pf d a b
  have one {x y : Bool} (h : (x && y) = true) : x = true := Bool.and_elim_left h
  exact ⟨ivset_does c f pf d a, ivmk_does c f pf d a b, ivsplit_does c f d a b, does_point (fun _ => rfl) one, does_point (fun _ => rfl) one,
    does_point (fun _ => rfl) one, does_point (fun _ => rfl) one, ivcmp_does c f a b, ivin_does c f pf a b⟩

/-! ### Bisection (R167, R168) -/

/-- What IVBIS makes of a lane's interval: the part it keeps, and the upper part where it cuts; none for an empty one. -/
def bisectOf (f : IvFmt) (g : Go) (l : Nat) : Option (Option (Nat × Nat) × Option (Option (Nat × Nat))) :=
  ((g.iv f 0 l).elim none (·.1)).map (ivBisect g.w.denorm (ivBound f))

/-- The interval that stays in a lane. -/
def bisectKept (f : IvFmt) (g : Go) (l : Nat) : Option (Nat × Nat) := (bisectOf f g l).elim none (·.1)

/-- The upper part of a lane's interval, where it is cut. -/
def bisectUpper (f : IvFmt) (g : Go) (l : Nat) : Option (Nat × Nat) := (bisectOf f g l).elim none (fun x => x.2.elim none id)

/-- The lanes that IVBIS cuts. -/
def bisectCut (f : IvFmt) (g : Go) : List Nat := g.lanes.filter (fun l => (bisectUpper f g l).isSome)

/-- The spawn record of an IVBIS (R168). -/
def bisectChild (f : IvFmt) (qn : BitVec 3) (d : BitVec 8) (s : State) (g : Go) : SpawnRec :=
  { launch := g.w.launch, entryOff := entryD g.w qn.toNat, warps := 1, mask := maskOf (bisectCut f g), taskid := g.w.taskid,
    spawnix := childIndex (launchSeed s g.w) 0x4956424900000000 g.w.taskid g.w.spawnix
      (BitVec.ofNat 32 (g.w.warpid * 32 + (bisectCut f g).headD 0)) (cellGet g.w.regs.biscnt ((bisectCut f g).headD 0)),
    uregs := g.w.regs.u, s0 := none,
    vregs := (bisectCut f g).foldl (fun m l => ((ivWords f ((bisectUpper f g l).getD (0, 0))).zipIdx).foldl
      (fun m x => cellSet m (32 * (d.toNat + x.2) + l) x.1) m) [],
    path := g.w.path, warp := g.w.id, clock := g.f.clock }

/-- What IVBIS does (R167, R168). -/
def bisectEffect (c : Ctl) (f : IvFmt) (qn pb : BitVec 3) (d : BitVec 8) (s : State) (g : Go) : Effect :=
  { res := { ivResult c.u d g f (bisectKept f g) (fun l => (g.iv f 0 l).elim 0 (·.2)) with
      pred := some pb.toNat, plane := g.lanes, tri := fun l => if l ∈ bisectCut f g then .yes else .no }
    turn := fun w => { w with regs := { w.regs with
      biscnt := (g.lanes.filter (fun l => (bisectOf f g l).isSome)).foldl (fun m l => cellSet m l (cellGet m l + 1)) w.regs.biscnt
      sib := if bisectCut f g = [] then w.regs.sib else noteUses [56 + qn.toNat] w g.f } }
    chunk := fun k => if bisectCut f g = [] then k else { k with spawns := k.spawns ++ [bisectChild f qn d s g] } }

/-- The spawn queue is bound, and it and the chunk have room (R167, R414). -/
structure SpawnRoom (s : State) (g : Go) (qn : Nat) : Prop where
  bound : bindsSpawn g.w qn = true
  chunk : g.w.chunk.spawns.length < 64
  queue : (spawnQueue s g.w.core).length < 64

theorem spawnGate_of_room {s : State} {g : Go} {qn : Nat} {k : Act} (h : SpawnRoom s g qn) : spawnGate s g qn k = k := by
  have hc : ¬ 64 ≤ g.w.chunk.spawns.length := Nat.not_le.mpr h.chunk
  simp only [spawnGate, h.bound, hc, spawnRoom, h.queue, decide_true, Bool.not_true, Bool.false_eq_true, if_false]

/-- The act of an IVBIS with room and well-formed operands. -/
def bisectAct (c : Ctl) (f : IvFmt) (qn pb : BitVec 3) (d : BitVec 8) (s : State) (g : Go) : Act :=
  let base := ivPut c.u d.toNat g f (bisectKept f g) (ivReadFlags g f [0])
  { base with
    writes := if base.raises.isSome then [] else
      base.writes ++ putPred pb.toNat g.lanes (fun l => if (bisectCut f g).contains l then .yes else .no)
    chunk := fun k => if (bisectCut f g).isEmpty then k else { k with spawns := k.spawns ++ [bisectChild f qn d s g] }
    warp := fun w => { w with regs := { w.regs with
      biscnt := (g.lanes.filter (fun l => (bisectOf f g l).isSome)).foldl (fun m l => cellSet m l (cellGet m l + 1)) w.regs.biscnt
      sib := if (bisectCut f g).isEmpty then w.regs.sib else noteUses [56 + qn.toNat] w g.f } } }

theorem exec_ivbis (c : Ctl) (f : IvFmt) (qn pb : BitVec 3) (d : BitVec 8) (a : Src) (s : State) : exec (.ivbis c f qn d pb a) s =
    issue c { needs [dstField c.u d (ivRegs f)] [srcField a (ivRegs f)] 0 with pdsts := [pb.toNat] } (fun g =>
      spawnGate s g qn.toNat (ivChecked g f [0] (fun _ =>
        match if (bisectCut f g).isEmpty then none else usesClash [56 + qn.toNat] g.w g.f with
        | some t => { trap := some t }
        | none => bisectAct c f qn pb d s g))) s :=
  rfl

/-- The act keeps the lower halves, says which lanes were cut, counts, and records the spawn. -/
theorem bisectAct_gives {c : Ctl} {f : IvFmt} {qn pb : BitVec 3} {d : BitVec 8} {s : State} {g : Go} (h : IvFull g (bisectKept f g)) :
    Gives (bisectAct c f qn pb d s g) (bisectEffect c f qn pb d s g) := by
  have base := ivPut_of_full (u := c.u) (d := d) (f := f) (read := ivReadFlags g f [0]) h
  simp only [ivReadFlags_one] at base
  rw [bisectAct, base]
  refine ⟨rfl, rfl, rfl, ?_, orFlags_pairs _ _, rfl, rfl, rfl, rfl, rfl, rfl, ?_, rfl, rfl, rfl, ?_, rfl⟩
  · simp [bisectEffect, Result.writes, ivResult, Result.ofWords, putPred]
  · simp only [bisectEffect, List.isEmpty_iff]
  · simp only [bisectEffect, List.isEmpty_iff]

theorem ivbis_does (c : Ctl) (f : IvFmt) (qn pb : BitVec 3) (d : BitVec 8) (a : Src) : Does (.ivbis c f qn d pb a) c
    { needs [dstField c.u d (ivRegs f)] [srcField a (ivRegs f)] 0 with pdsts := [pb.toNat] }
    (fun s g => SpawnRoom s g qn.toNat ∧ IvOperandsOk g f [0] ∧ IvFull g (bisectKept f g)
      ∧ (bisectCut f g = [] ∨ usesClash [56 + qn.toNat] g.w g.f = none))
    (bisectEffect c f qn pb d) := by
  refine does_of_gives (exec_ivbis c f qn pb d a) (fun hwf s g _ _ => ⟨fun _ => by simp [bisectEffect], pushed_nil (fun hu j hj => ?_)⟩)
    (fun _ s g hl ⟨hroom, hok, hfull, hclash⟩ => ⟨?_, hl, hl⟩)
  · have hd : ivDst c true f d (ivRegs f) = true := Bool.and_elim_left (Bool.and_elim_left hwf)
    have := ivDst_port (lat := 0) hd (fun _ => rfl) (ite_self 0) hu
    simp only [bisectEffect, ivResult, Result.ofWords] at hj ⊢
    omega
  · have clash : (if (bisectCut f g).isEmpty then none else usesClash [56 + qn.toNat] g.w g.f) = none := by
      rcases hclash with h | h <;> simp [h]
    rw [spawnGate_of_room hroom, ivChecked_of_ok hok, clash]
    exact bisectAct_gives hfull

/-- Settles O14: with the port bound, room, and nothing in its way, IVBIS does its one act. -/
theorem intervalBisect : Obligations.IntervalBisect := by
  unfold Obligations.IntervalBisect
  intro c f qn pb d a
  have h := ivbis_does c f qn pb d a
  intro part res upper cut hwf s w fr g hi ⟨hbound, hchunk, hqueue, hok, hfull, hclash⟩ hflags
  exact h hwf s w fr g hi ⟨⟨hbound, hchunk, hqueue⟩, ivOperandsOk_one hok, hfull, hclash⟩ hflags

end Sys2Proof.Machine
end

section
/-! PROOFS. Cross-lane instructions, tiles and random streams (R175 to R189). -/

namespace Sys2Proof.Machine

/-! ### Tiles (R175, R176, R179) -/

theorem tileWidth_pos (part : BitVec 3) : 0 < tileWidth part := Nat.two_pow_pos _

theorem tileBase_eq_iff {w : Nat} (h : 0 < w) (k l : Nat) : tileBase w k = tileBase w l ↔ k / w = l / w :=
  Nat.mul_right_inj h.ne'

/-- The executing lanes of a lane's tile. -/
def tileOf (g : Go) (l : Nat) : List Nat := g.lanes.filter (fun k => k / tileWidth g.f.part = l / tileWidth g.f.part)

theorem tileLanes_tileBase (g : Go) (l : Nat) : tileLanes (tileWidth g.f.part) (tileBase (tileWidth g.f.part) l) g.lanes = tileOf g l := by
  refine List.filter_congr (fun k _ => ?_)
  rw [Bool.beq_eq_decide_eq]
  exact decide_eq_decide.mpr (tileBase_eq_iff (tileWidth_pos _) k l)

theorem mem_tileOf {g : Go} {k l : Nat} (h : k ∈ tileOf g l) : k ∈ g.lanes := List.mem_of_mem_filter h

/-! ### Results of a tagged instruction that names vector registers and predicates only -/

/-- An instruction that writes a result without flags. -/
theorem computes_writes {i : Instr} {c : Ctl} {n : Need} {ws : Go → List RegWrite} {r : Go → Result}
    (hi : ∀ s, exec i s = issue c n (fun g => { writes := ws g }) s) (hw : ∀ g, ws g = (r g).writes) (hf : ∀ g, (r g).flags = 0)
    (hp : i.wf = true → ∀ g, (r g).uni = true → (r g).d + (r g).k ≤ 56) (hr : ∀ g, (∀ l ∈ g.lanes, l < 32) → (r g).inRange) :
    Computes i c n r := by
  refine computes_of_body hi (fun hwf _ g hu j hj => ?_) (fun _ g => ⟨by rw [hw], (hf g).symm⟩) hr
  have := hp hwf g hu
  omega

/-- A result that names no uniform register needs no port to be kept free. -/
theorem no_port {r : Result} (h : r.uni = false) (hu : r.uni = true) : r.d + r.k ≤ 56 := by
  rw [h] at hu
  cases hu

/-- An instruction that sets one predicate, without flags. -/
theorem computes_plane {i : Instr} {c : Ctl} {n : Need} {p : Nat} {t t' : Go → Nat → Tri}
    (hi : ∀ s, exec i s = issue c n (fun g => { writes := putPred p g.lanes (t g) }) s) (ht : ∀ g l, t g l = t' g l) :
    Computes i c n (fun g => { Result.nothing with pred := some p, plane := g.lanes, tri := t' g }) := by
  obtain rfl : t = t' := funext fun g => funext (ht g)
  exact computes_writes hi (fun _ => rfl) (fun _ => rfl) (fun _ _ => no_port rfl) (fun g hl => ⟨by simp [Result.nothing], hl⟩)

/-- The writes of a word in some lanes and of a predicate in others are those of one result. -/
theorem putWord_putPred_lanes (u : Bool) (d : BitVec 8) (p : BitVec 3) (g : Go) (ls qs : List Nat) (f : Nat → Word) (t : Nat → Tri) :
    putWord u d.toNat ls f ++ putPred p.toNat qs t
      = { Result.ofWord u d g f with lanes := ls, pred := some p.toNat, plane := qs, tri := t : Result }.writes := by
  have words := putWord_writes u d { g with lanes := ls } f
  simp only [Result.writes, Result.ofWord, Result.ofWords, List.append_nil] at words ⊢
  rw [words]
  rfl

/-- A vector instruction of one word and one predicate a lane, without flags. -/
theorem computes_vector_word_pred {i : Instr} {c : Ctl} {n : Need} {d : BitVec 8} {p : BitVec 3} {f f' : Go → Nat → Word}
    {t t' : Go → Nat → Tri} (hi : ∀ s, exec i s = issue c n (fun g =>
      { writes := putWord false d.toNat g.lanes (f g) ++ putPred p.toNat g.lanes (t g) }) s)
    (hf : ∀ g l, f g l = f' g l) (ht : ∀ g l, t g l = t' g l) :
    Computes i c n (fun g => { Result.ofWord false d g (f' g) with pred := some p.toNat, plane := g.lanes, tri := t' g }) := by
  obtain rfl : f = f' := funext fun g => funext (hf g)
  obtain rfl : t = t' := funext fun g => funext (ht g)
  exact computes_writes hi (fun g => putWord_putPred_writes false d p g _ _) (fun _ => rfl) (fun _ _ => no_port rfl) (fun g hl => ⟨hl, hl⟩)

/-! ### SHFL (R180) -/

/-- The lane that a SHFL takes its value from; none outside the tile or where it does not execute. -/
def shflLane (mode : ShflMode) (g : Go) (l : Nat) : Option Nat :=
  let w := tileWidth g.f.part
  (shflSource mode w (l % w) (g.rd 1 0 l).toNat).bind (fun x => if x < w ∧ l / w * w + x ∈ g.lanes then some (l / w * w + x) else none)

theorem shflSource_lane (mode : ShflMode) (g : Go) (l : Nat) :
    (shflSource mode (tileWidth g.f.part) (l % tileWidth g.f.part) (g.rd 1 0 l).toNat).bind (fun p =>
      if p < tileWidth g.f.part && g.lanes.contains (tileBase (tileWidth g.f.part) l + p) then
        some (tileBase (tileWidth g.f.part) l + p) else none) = shflLane mode g l := by
  simp only [shflLane, tileBase, Nat.mul_comm (tileWidth g.f.part), Bool.and_eq_true, decide_eq_true_eq, List.contains_iff_mem]

theorem shfl_vector (c : Ctl) (mode : ShflMode) (d : BitVec 8) (a b : Src) (pc : BitVec 3) : Computes (.shfl c mode false d a b pc) c
    { needs [dstField false d 1] [srcField a 1, srcField b 1] 0 with pdsts := [pc.toNat] }
    (fun g => { Result.ofWord false d g (fun l => g.rd 0 0 ((shflLane mode g l).getD l)) with
      pred := some pc.toNat, plane := g.lanes, tri := fun l => if (shflLane mode g l).isSome then .yes else .no }) :=
  computes_vector_word_pred (fun _ => rfl) (fun g l => by rw [← shflSource_lane]) (fun g l => by rw [← shflSource_lane])

/-- The lane whose value a uniform SHFL takes: that of the first position of its tile (R179). -/
def shflUniLane (mode : ShflMode) (g : Go) : Option Nat := shflLane mode g (g.lanes.headD 0 / tileWidth g.f.part * tileWidth g.f.part)

/-- What a uniform SHFL gives. -/
def shflUniResult (mode : ShflMode) (d : BitVec 8) (pc : BitVec 3) (g : Go) : Result :=
  { Result.ofWord true d g (fun _ => g.rd 0 0 ((shflUniLane mode g).getD 0)) with
    lanes := if (shflUniLane mode g).isSome then [0] else []
    pred := some pc.toNat, plane := tileOf g (g.lanes.headD 0), tri := fun _ => if (shflUniLane mode g).isSome then .yes else .no }

theorem shfl_uniform (c : Ctl) (mode : ShflMode) (d : BitVec 8) (a b : Src) (pc : BitVec 3) : Computes (.shfl c mode true d a b pc) c
    { needs [dstField true d 1] [srcField a 1, srcField b 1] 0 with pdsts := [pc.toNat] } (shflUniResult mode d pc) := by
  refine computes_writes (fun _ => rfl) (fun g => ?_) (fun _ => rfl) (fun hwf g _ => ?_)
    (fun g hl => ⟨fun l h => ?_, fun l h => hl l (mem_tileOf h)⟩)
  · have first : shflLane mode g (uniTile (tileWidth g.f.part) g.lanes) = shflUniLane mode g := by
      rw [shflUniLane, uniTile, tileBase, Nat.mul_comm]
    have plane : tileLanes (tileWidth g.f.part) (uniTile (tileWidth g.f.part) g.lanes) g.lanes = tileOf g (g.lanes.headD 0) :=
      tileLanes_tileBase g _
    simp only [shflSource_lane, first, plane, shflUniResult, ← putWord_putPred_lanes]
    cases shflUniLane mode g <;> rfl
  · have hd : dstT true d 1 = true := Bool.and_elim_right (Bool.and_elim_left (Bool.and_elim_left (Bool.and_elim_left hwf)))
    exact (dstT_port hd rfl : d.toNat + 1 ≤ 56)
  · simp only [shflUniResult] at h
    split at h <;> simp_all

/-! ### LPUSH (R181) -/

/-- The lanes whose value goes to a lane. -/
def senders (g : Go) (l : Nat) : List Nat :=
  g.lanes.filter (fun k => k / tileWidth g.f.part * tileWidth g.f.part + (g.rd 1 0 k).toNat % tileWidth g.f.part = l)

theorem lpush_computes (c : Ctl) (d : BitVec 8) (a b : Src) (pc : BitVec 3) : Computes (.lpush c d a b pc) c
    { needs [dstField false d 1] [srcField a 1, srcField b 1] 0 with pdsts := [pc.toNat] }
    (fun g => { Result.ofWord false d g (fun l => g.rd 0 0 ((senders g l).getLastD 0)) with
      lanes := g.lanes.filter (fun l => senders g l ≠ [])
      pred := some pc.toNat, plane := g.lanes
      tri := fun l => if (senders g l).length = 0 then .no else if (senders g l).length = 1 then .yes else .undecided }) := by
  refine computes_writes (fun _ => rfl) (fun g => ?_) (fun _ => rfl) (fun _ _ => no_port rfl)
    (fun g hl => ⟨fun l h => hl l (List.mem_of_mem_filter h), hl⟩)
  have lanes (l : Nat) :
      g.lanes.filter (fun k => tileBase (tileWidth g.f.part) k + (g.rd 1 0 k).toNat % tileWidth g.f.part == l) = senders g l := by
    simp only [senders, tileBase, Nat.mul_comm (tileWidth g.f.part), Bool.beq_eq_decide_eq]
  have some_ (l : Nat) : (!(senders g l).isEmpty) = decide (senders g l ≠ []) := by cases senders g l <;> rfl
  simp only [lanes, some_]
  rw [← putWord_putPred_lanes]
  refine congrArg (_ ++ ·) (List.map_congr_left (fun l _ => ?_))
  dsimp only
  generalize senders g l = from_
  rcases from_ with _ | ⟨x, _ | ⟨y, rest⟩⟩ <;> simp

/-! ### VOTE (R182) -/

/-- Every two elements are equal where each is the first. -/
theorem all_head_iff {α : Type} [DecidableEq α] (xs : List α) :
    xs.all (fun p => decide (some p = xs.head?)) = true ↔ ∀ x ∈ xs, ∀ y ∈ xs, x = y := by
  cases xs with
  | nil => simp
  | cons a xs =>
    simp only [List.all_eq_true, List.head?_cons, Option.some.injEq, decide_eq_true_eq]
    exact ⟨fun h x hx y hy => (h x hx).trans (h y hy).symm, fun h x hx => h x hx a List.mem_cons_self⟩

/-- What the lanes of a lane's tile vote. -/
def votesOf (g : Go) (p l : Nat) : List Tri := (tileOf g l).map (g.tri p)

section
variable (c : Ctl) (d : BitVec 8) (pa : BitVec 3)

theorem vote_all : Computes (.vote c .all false d pa) c { needs [] [] 0 with preds := [pa.toNat], pdsts := [d.toNat % 8] }
    (fun g => { Result.nothing with
      pred := some (d.toNat % 8), plane := g.lanes
      tri := fun l => if Tri.no ∈ votesOf g pa.toNat l then .no
        else if Tri.undecided ∈ votesOf g pa.toNat l then .undecided else .yes }) := by
  refine computes_plane (fun _ => rfl) (fun g l => ?_)
  rw [tileLanes_tileBase]
  exact if_congr List.contains_iff_mem rfl (if_congr List.contains_iff_mem rfl rfl)

theorem vote_any : Computes (.vote c .any false d pa) c { needs [] [] 0 with preds := [pa.toNat], pdsts := [d.toNat % 8] }
    (fun g => { Result.nothing with
      pred := some (d.toNat % 8), plane := g.lanes
      tri := fun l => if Tri.yes ∈ votesOf g pa.toNat l then .yes
        else if Tri.undecided ∈ votesOf g pa.toNat l then .undecided else .no }) := by
  refine computes_plane (fun _ => rfl) (fun g l => ?_)
  rw [tileLanes_tileBase]
  exact if_congr List.contains_iff_mem rfl (if_congr List.contains_iff_mem rfl rfl)

theorem vote_eq : Computes (.vote c .eq false d pa) c { needs [] [] 0 with preds := [pa.toNat], pdsts := [d.toNat % 8] }
    (fun g => { Result.nothing with
      pred := some (d.toNat % 8), plane := g.lanes
      tri := fun l => if ∀ k ∈ tileOf g l, ∀ m ∈ tileOf g l, g.tri pa.toNat k = g.tri pa.toNat m then .yes else .no }) := by
  refine computes_plane (fun _ => rfl) (fun g l => ?_)
  rw [tileLanes_tileBase]
  simp only [voteTri, all_head_iff, List.forall_mem_map]

/-- The lanes of a lane's tile that vote v. -/
def ballotIn (g : Go) (p : Nat) (v : Tri) (l : Nat) : Word := maskOf ((tileOf g l).filter (fun k => g.tri p k = v))

theorem exec_vote_ballot {mode : VoteMode} {v : Tri} (h : ballotOf mode = some v) (ud : Bool) (s : State) :
    exec (.vote c mode ud d pa) s = issue c { needs [dstField ud d 1] [] 0 with preds := [pa.toNat] } (fun g =>
      { writes := if ud then [.u d.toNat (ballotIn g pa.toNat v (g.lanes.headD 0)) false]
          else putWord false d.toNat g.lanes (ballotIn g pa.toNat v) }) s := by
  change execVote c mode ud d pa s = _
  unfold execVote
  simp only [h, uniTile, tileLanes_tileBase]
  rfl

theorem vote_ballot_vector {mode : VoteMode} {v : Tri} (h : ballotOf mode = some v) :
    Computes (.vote c mode false d pa) c { needs [dstField false d 1] [] 0 with preds := [pa.toNat] }
      (fun g => .ofWord false d g (ballotIn g pa.toNat v)) :=
  computes_writes (exec_vote_ballot c d pa h false) (fun g => putWord_writes false d g _) (fun _ => rfl) (fun _ _ => no_port rfl)
    (fun _ hl => ofWords_inRange hl)

theorem vote_ballot_uniform {mode : VoteMode} {v : Tri} (h : ballotOf mode = some v)
    (hd : (Instr.vote c mode true d pa).wf = true → dstT true d 1 = true) :
    Computes (.vote c mode true d pa) c { needs [dstField true d 1] [] 0 with preds := [pa.toNat] }
      (fun g => { Result.ofWord true d g (fun _ => ballotIn g pa.toNat v (g.lanes.headD 0)) with lanes := [0] }) :=
  computes_writes (exec_vote_ballot c d pa h true) (fun _ => rfl) (fun _ => rfl)
    (fun hwf _ _ => (dstT_port (hd hwf) rfl : d.toNat + 1 ≤ 56)) (fun _ _ => ⟨by simp, by simp [Result.ofWord, Result.ofWords]⟩)

/-- A ballot of its value, in every lane or once (R182). -/
theorem vote_ballots : ∀ mode v, (mode, v) ∈ [(VoteMode.ballot, Tri.yes), (.ballotF, .no), (.ballotU, .undecided)] →
    Computes (.vote c mode false d pa) c { needs [dstField false d 1] [] 0 with preds := [pa.toNat] }
      (fun g => .ofWord false d g (ballotIn g pa.toNat v))
    ∧ Computes (.vote c mode true d pa) c { needs [dstField true d 1] [] 0 with preds := [pa.toNat] }
      (fun g => { Result.ofWord true d g (fun _ => ballotIn g pa.toNat v (g.lanes.headD 0)) with lanes := [0] }) := by
  intro mode v h
  simp only [List.mem_cons, Prod.mk.injEq, List.not_mem_nil, or_false] at h
  rcases h with ⟨rfl, rfl⟩ | ⟨rfl, rfl⟩ | ⟨rfl, rfl⟩
  · exact ⟨vote_ballot_vector c d pa rfl, vote_ballot_uniform c d pa rfl Bool.and_elim_right⟩
  · exact ⟨vote_ballot_vector c d pa rfl, vote_ballot_uniform c d pa rfl Bool.and_elim_right⟩
  · exact ⟨vote_ballot_vector c d pa rfl, vote_ballot_uniform c d pa rfl Bool.and_elim_right⟩

end

/-! ### MATCH (R185) -/

theorem match_computes (c : Ctl) (d : BitVec 8) (a : Src) (pc : BitVec 3) : Computes (.matchLanes c d a pc) c
    { needs [dstField false d 1] [srcField a 1] 0 with pdsts := [pc.toNat] }
    (fun g => { Result.ofWord false d g (fun l => maskOf ((tileOf g l).filter (fun k => g.rd 0 0 k = g.rd 0 0 l))) with
      pred := some pc.toNat, plane := g.lanes
      tri := fun l => if ∀ k ∈ tileOf g l, g.rd 0 0 k = g.rd 0 0 l then .yes else .no }) := by
  refine computes_vector_word_pred (fun _ => rfl) (fun g l => ?_) (fun g l => ?_)
  · simp only [tileLanes_tileBase, maskWhere, Bool.beq_eq_decide_eq]
  · simp only [tileLanes_tileBase, List.all_eq_true, beq_iff_eq]

/-! ### REDUX and SCAN (R183, R184) -/

/-- A vector instruction of one word a lane, with flags lane by lane. -/
theorem computes_vector_flags {i : Instr} {c : Ctl} {n : Need} {d : BitVec 8} {f : Go → Nat → Word} {fl : Go → Nat → Flags}
    (hi : ∀ s, exec i s = issue c n (fun g =>
      { writes := putWord false d.toNat g.lanes (f g), flags := g.lanes.map (fun l => (l, fl g l)) }) s) :
    Computes i c n (fun g => .ofWords false d 1 g (fun l _ => f g l) (orFlags g.lanes (fl g))) :=
  computes_of_body hi (fun _ _ _ hu _ _ => by cases hu) (fun _ g => ⟨by rw [putWord_writes]; rfl, orFlags_pairs _ _⟩)
    (fun _ hl => ofWords_inRange hl)

section
variable (c : Ctl) (op : RedOp) (d : BitVec 8) (a : Src)

theorem redux_vector : Computes (.redux c op false d a) c (needs [dstField false d 1] [srcField a 1] 0) (fun g =>
    let w := tileWidth g.f.part
    .ofWords false d 1 g (fun l _ => (reduxTile g op w (tileBase w l)).1) (orFlags g.lanes (fun l => (reduxTile g op w (tileBase w l)).2))) :=
  computes_vector_flags (fun _ => rfl)

theorem redux_uniform : Computes (.redux c op true d a) c (needs [dstField true d 1] [srcField a 1] 0) (fun g =>
    let w := tileWidth g.f.part
    { Result.ofWords true d 1 g (fun _ _ => (reduxTile g op w (tileBase w (g.lanes.headD 0))).1)
        (orFlags g.lanes (fun l => (reduxTile g op w (tileBase w l)).2)) with lanes := [0] }) :=
  computes_of_body (fun _ => rfl)
    (fun hwf _ _ _ _ hj => not_port (uniDst_of_dstT (Bool.and_elim_right (Bool.and_elim_left hwf)) rfl) hj)
    (fun _ g => ⟨rfl, orFlags_pairs _ _⟩) (fun _ _ => ⟨by simp, by simp [Result.ofWords]⟩)

theorem scan_computes (excl : Bool) : Computes (.scan c op excl d a) c (needs [dstField false d 1] [srcField a 1] 0) (fun g =>
    let w := tileWidth g.f.part
    .ofWords false d 1 g (fun l _ => (scanTile g op excl w (tileBase w l)).1.getD (l % w) 0)
      (orFlags g.lanes (fun l => (scanTile g op excl w (tileBase w l)).2))) :=
  computes_vector_flags (fun _ => rfl)

end

/-- Settles O16: the trees are the model's, one for each tile that holds an executing lane. -/
theorem laneTrees : Obligations.LaneTrees := by
  unfold Obligations.LaneTrees
  exact fun c op d a => ⟨redux_vector c op d a, redux_uniform c op d a, scan_computes c op d a⟩

/-- Settles O15: one lemma for each instruction and form; what computes a tree's result completes. -/
theorem laneExchange : Obligations.LaneExchange := by
  unfold Obligations.LaneExchange
  intro c d a b pc pa
  refine ⟨fun mode => shfl_vector c mode d a b pc, fun mode => shfl_uniform c mode d a b pc, lpush_computes c d a b pc, vote_all c d pa,
    vote_any c d pa, vote_eq c d pa, vote_ballots c d pa, match_computes c d a pc, fun op ud => ?_,
    fun op excl => completes_of_computes (scan_computes c op d a excl)⟩
  cases ud
  · exact completes_of_computes (redux_vector c op d a)
  · exact completes_of_computes (redux_uniform c op d a)

/-! ### PARTSET and the random streams (R177, R186 to R189) -/

theorem partset_does (c : Ctl) (width : BitVec 3) : Does (.partset c width) c (needs [] [] 0) (fun _ _ => True) (fun _ g =>
    { turn := fun w => { w with regs := w.regs.mapFrag g.f.id (fun f => { f with part := width }) } }) :=
  does_without_result (fun _ => rfl) (fun _ _ => rfl) (fun _ _ => rfl) (fun _ _ _ => gives_turn false [] _)

theorem rngkey_does (c : Ctl) (a : Src) : Does (.rngkey c a) c (needs [] [srcField a 2] 0) (fun _ _ => True) (fun _ g =>
    { turn := fun w => { w with regs := { w.regs with
        stream := g.lanes.foldl (fun m l => cellSet m l (g.rd2 0 0 l)) w.regs.stream
        draw := g.lanes.foldl (fun m l => cellSet m l 0) w.regs.draw } } }) :=
  does_without_result (fun _ => rfl) (fun _ _ => rfl) (fun _ _ => rfl) (fun _ _ _ => gives_turn false [] _)

/-- An instruction without flags that writes a result and changes its warp. -/
theorem does_writes_turn {i : Instr} {c : Ctl} {n : Need} {ws : State → Go → List RegWrite} {r : State → Go → Result}
    {turn : Go → Warp → Warp}
    (hi : ∀ s, exec i s = issue c n (fun g => { writes := ws s g, warp := turn g }) s) (hw : ∀ s g, ws s g = (r s g).writes)
    (hf : ∀ s g, (r s g).flags = 0) (hp : i.wf = true → ∀ s g, (r s g).uni = true → (r s g).d + (r s g).k ≤ 56)
    (hr : ∀ s g, (∀ l ∈ g.lanes, l < 32) → (r s g).inRange) :
    Does i c n (fun _ _ => True) (fun s g => { res := r s g, turn := turn g }) := by
  refine does_of_gives hi (fun hwf s g _ _ => ⟨fun _ => by simp, pushed_nil (fun hu j hj => ?_)⟩) (fun _ s g hl _ => ⟨?_, hr s g hl⟩)
  · have := hp hwf s g hu
    dsimp only at hj ⊢
    omega
  · rw [hw]
    exact ⟨rfl, rfl, rfl, rfl, (hf s g).symm, rfl, rfl, rfl, rfl, rfl, rfl, rfl, rfl, rfl, rfl, rfl, rfl⟩

theorem rngWords_length (out : RngOut) (x : BitVec 128) : (rngWords out x).length = if out = .x4 then 4 else 1 := by
  cases out <;> rfl

theorem rng_does (c : Ctl) (out : RngOut) (d : BitVec 8) (a : Src) :
    Does (.rng c out d a) c (needs [dstField c.u d (if out = .x4 then 4 else 1)] [srcField a 1] 0) (fun _ _ => True) (fun s g =>
      let x (l : Nat) : BitVec 128 := gkc
        (cat2 (launchSeed s g.w) (cellGet g.w.regs.stream (if c.u then lowLane g.f.mask else l) ^^^ (g.w.spawnix.setWidth 64 <<< 32)))
        (cat4 g.w.taskid (g.rd 0 0 l) (if c.u then 0xFFFFFFFF else BitVec.ofNat 32 (g.w.warpid * 32 + l))
          (if c.u then 0 else cellGet g.w.regs.draw l))
      { res := .ofWords c.u d (if out = .x4 then 4 else 1) g (fun l j => (rngWords out (x l)).getD j 0) 0
        turn := fun w => if c.u then w else { w with regs := { w.regs with
          draw := g.lanes.foldl (fun m l => cellSet m l (cellGet m l + 1)) w.regs.draw } } }) :=
  does_writes_turn (fun _ => rfl) (fun _ g => putWords_writes c.u d _ g _ 0 (fun _ _ => rngWords_length out _)) (fun _ _ => rfl)
    (fun hwf _ _ hu => dstT_port (Bool.and_elim_right (Bool.and_elim_left hwf)) hu) (fun _ _ hl => ofWords_inRange hl)

theorem rngskip_does (c : Ctl) (d : BitVec 8) (a : Src) :
    Does (.rngskip c d a) c (needs [dstField c.u d 1] [srcField a 1] 0) (fun _ _ => True) (fun _ g =>
      { res := .ofWord c.u d g (fun l => cellGet g.w.regs.draw l)
        turn := fun w => { w with regs := { w.regs with
          draw := g.lanes.foldl (fun m l => cellSet m l (cellGet m l + g.rd 0 0 l)) w.regs.draw } } }) := by
  refine does_writes_turn (fun _ => rfl) (fun _ g => putWord_writes c.u d g _) (fun _ _ => rfl) (fun hwf _ _ hu => ?_)
    (fun _ _ hl => ofWords_inRange hl)
  have vector : (!c.u) = true := Bool.and_elim_right (Bool.and_elim_left hwf)
  have uni : c.u = true := hu
  simp [uni] at vector

/-- Settles O17: PARTSET and RNGKEY change the warp alone; RNG and RNGSKIP write a result too. -/
theorem streamsAndTiles : Obligations.StreamsAndTiles := by
  unfold Obligations.StreamsAndTiles
  exact fun c d a => ⟨partset_does c, fun out => rng_does c out d a, rngkey_does c a, rngskip_does c d a⟩

end Sys2Proof.Machine
end

section
/-! PROOFS. What operands and targets raise, with no effect: ill-formed and empty intervals, misaligned accesses, targets, flags
(R44, R45, R96, R157, R159, R266). -/

namespace Sys2Proof.Machine

/-! ### An act that raises -/

theorem upsert_find? {α : Type} {same : α → Bool} {x : α} {l : List α} (h : l.find? same = some x) : upsert same x l = l := by
  induction l with
  | nil => cases h
  | cons y l ih =>
    by_cases hy : same y = true
    · rw [List.find?_cons_of_pos hy] at h
      cases h
      rw [upsert, if_pos hy]
    · rw [List.find?_cons_of_neg hy] at h
      rw [upsert, if_neg hy, ih h]

/-- To put a warp back as it is changes nothing. -/
theorem run_onWarp_id (s : State) (wid : Nat) : s.run (onWarp wid id s) = s := by
  unfold onWarp
  split
  · rfl
  · rename_i w hw
    have hid : w.id = wid := by simpa using List.find?_some hw
    subst hid
    change { s with warps := upsert (fun k => k.id == w.id) w s.warps } = s
    rw [upsert_find? hw]

section
variable {i : Instr} {c : Ctl} {n : Need} {body : State → Go → Act} {s : State} {w : Warp} {f : Frag} {g : Go} {t : TrapReq}

/-- An instruction whose act raises a cause takes that trap, and nothing else happens. -/
theorem exec_trap (hi : exec i s = issue c n (body s) s) (h : Issues c n s w f g {}) (hb : body s g = { trap := some t })
    (hlate : lateFault c n s t = false) :
    exec i s = .next (s.run (takeTrap w.id g.f.id (if c.alloc = 0 then [] else [c.alloc.toNat]) t s)) := by
  have hne : g.lanes.isEmpty = false := by simpa using h.lanes
  have hroom : overLimit g.w.chunk (g.keys n) { trap := some t } = false := h.room
  rw [hi]
  simp only [issue, issueWith, h.cur, issueScript, h.go, hne, Bool.false_eq_true, if_false, hb, finish, hroom, Bool.or_self, hlate,
    run_andThen, run_onWarp_id]

/-- A fixed-latency instruction whose result raises a cause takes that trap, and nothing is written (R159). -/
theorem exec_raise (hi : exec i s = issue c n (body s) s) (h : Issues c n s w f g {}) (hb : body s g = { raises := some t })
    (hlat : n.lat ≠ 0) : exec i s = .next (s.run (takeTrap w.id g.f.id [] t s)) := by
  have hne : g.lanes.isEmpty = false := by simpa using h.lanes
  have hroom : overLimit g.w.chunk (g.keys n) { raises := some t } = false := h.room
  have hfp : fpTrapReq g.w { raises := some t } = none := rfl
  have hfix : (n.lat != 0 || decide (c.alloc = 0)) = true := by simp [hlat]
  rw [hi]
  simp only [issue, issueWith, h.cur, issueScript, h.go, hne, Bool.false_eq_true, if_false, hb, finish, hroom, Bool.or_self, hfix, if_true,
    raisedTrap, hfp, Option.map_none, Option.none_or]

end

theorem lateFault_of_cause {c : Ctl} {n : Need} {s : State} {t : TrapReq} {k : Cause} (hk : t.cause = k)
    (h : k ≠ .xlateMiss ∧ k ≠ .xlateProt := by decide) : lateFault c n s t = false := by
  simp [lateFault, hk, h.1, h.2]

theorem lateFault_untagged {c : Ctl} {n : Need} {s : State} {t : TrapReq} (h : c.alloc = 0) : lateFault c n s t = false := by
  have h' : c.alloc = 0#3 := h
  simp [lateFault, h']

/-! ### Intervals (R157, R159) -/

theorem ivChecked_of_bad {g : Go} {f : IvFmt} {fields : List Nat} {k : (Nat → List Iv) → Act} (h : ivBadLanes g f fields ≠ []) :
    ivChecked g f fields k = { trap := some ((raise .intervalOrder).inLanes (ivBadLanes g f fields)) } := by
  obtain ⟨l, ls, hl⟩ := List.exists_cons_of_ne_nil h
  rw [hl]
  rw [ivBadLanes] at hl
  rw [ivChecked, hl]

theorem ivPut_of_empty {u : Bool} {d : Nat} {g : Go} {f : IvFmt} {res : Nat → Option (Nat × Nat)} {read : Nat → Flags}
    (h : g.lanes.filter (fun l => (res l).isNone) ≠ []) (hm : fpctlEmask g.w.regs.fpctl = false) :
    ivPut u d g f res read = { raises := some ((raise .emptyInterval).inLanes (g.lanes.filter (fun l => (res l).isNone))) } := by
  have hc : (!(g.lanes.filter (fun l => (res l).isNone)).isEmpty && !fpctlEmask g.w.regs.fpctl) = true := by
    simpa [hm] using h
  rw [ivPut, if_pos hc]

section
variable {c : Ctl} {f : IvFmt} {d : BitVec 8} {a b : Src} {s : State} {w : Warp} {fr : Frag} {g : Go}

/-- The sum that IVADD gives in a lane. -/
def ivSumOf (f : IvFmt) (g : Go) (l : Nat) : Option (Nat × Nat) :=
  ivAdd g.w.denorm (ivBound f) ((g.iv f 0 l).elim none (·.1)) ((g.iv f 1 l).elim none (·.1))

theorem ivBadLanes_two (g : Go) (f : IvFmt) :
    ivBadLanes g f [0, 1] = g.lanes.filter (fun l => (g.iv f 0 l).isNone || (g.iv f 1 l).isNone) := by
  simp [ivBadLanes]

/-- The act of IVADD. -/
def ivaddAct (c : Ctl) (f : IvFmt) (d : BitVec 8) (g : Go) : Act :=
  ivChecked g f [0, 1] (fun v => ivPut c.u d.toNat g f (fun l => ivAdd g.w.denorm (ivBound f) (ivAt (v l) 0) (ivAt (v l) 1))
    (ivReadFlags g f [0, 1]))

theorem exec_ivadd (hf : f ≠ .if64) : exec (.ivadd c f d a b) s =
    issue c (needs [dstField c.u d (ivRegs f)] [srcField a (ivRegs f), srcField b (ivRegs f)] 6) (ivaddAct c f d) s := by
  change ivInstr c (ivLat f 6) f d [a, b] (fun dn b v => ivAdd dn b (ivAt v 0) (ivAt v 1)) s = _
  rw [ivLat, if_neg hf]
  rfl

theorem ivadd_illFormed (hf : f ≠ .if64)
    (h : Issues c (needs [dstField c.u d (ivRegs f)] [srcField a (ivRegs f), srcField b (ivRegs f)] 6) s w fr g {})
    (hbad : ivBadLanes g f [0, 1] ≠ []) :
    exec (.ivadd c f d a b) s = .next (s.run (takeTrap w.id g.f.id (if c.alloc = 0 then [] else [c.alloc.toNat])
      ((raise .intervalOrder).inLanes (ivBadLanes g f [0, 1])) s)) :=
  exec_trap (body := fun _ => ivaddAct c f d) (exec_ivadd hf) h (ivChecked_of_bad hbad) (lateFault_of_cause (k := .intervalOrder) rfl)

theorem ivadd_empty (hf : f ≠ .if64)
    (h : Issues c (needs [dstField c.u d (ivRegs f)] [srcField a (ivRegs f), srcField b (ivRegs f)] 6) s w fr g {})
    (hok : ivBadLanes g f [0, 1] = []) (hm : fpctlEmask g.w.regs.fpctl = false)
    (hempty : g.lanes.filter (fun l => (ivSumOf f g l).isNone) ≠ []) :
    exec (.ivadd c f d a b) s = .next (s.run (takeTrap w.id g.f.id []
      ((raise .emptyInterval).inLanes (g.lanes.filter (fun l => (ivSumOf f g l).isNone))) s)) :=
  exec_raise (body := fun _ => ivaddAct c f d) (exec_ivadd hf) h ((ivChecked_of_nil hok).trans (ivPut_of_empty (res := ivSumOf f g) hempty hm))
    (by simp [needs])

end

/-! ### Misaligned accesses (R266) -/

/-- Where every lane fails for one cause, that cause is raised in all of them, as the lowest lane has it. -/
theorem eachLane_error {α : Type} {ls : List Nat} {f : Nat → Xl α} {t : Nat → TrapReq} {k : Cause} (hne : ls ≠ [])
    (h : ∀ l ∈ ls, f l = .error (t l)) (hk : ∀ l, (t l).cause = k) : eachLane ls f = .error ((t (ls.headD 0)).inLanes ls) := by
  obtain ⟨l, rest, rfl⟩ := List.exists_cons_of_ne_nil hne
  have first : f l = .error (t l) := h l List.mem_cons_self
  have all : (l :: rest).filter (fun m => match f m with
      | .error u => u.cause == (t l).cause
      | .ok _ => false) = l :: rest :=
    List.filter_eq_self.mpr (fun m hm => by simp [h m hm, hk])
  unfold eachLane
  simp only [List.findSome?_cons, first]
  rw [List.headD_cons]
  exact congrArg (fun ls => Except.error ((t l).inLanes ls)) all

theorem withSpots_error {g : Go} {t : TrapReq} {k : List (Nat × Spot) → Act} : withSpots g (.error t) k = { trap := some t } := rfl

/-- What a misaligned access raises. -/
def misaligned (w : Warp) (rsel : Nat) (off : DWord) : TrapReq := raiseIn .misaligned (w.realmOf rsel) off

theorem memRoute_misaligned {s : State} {w : Warp} {acc : Acc} {rsel : Nat} {off : DWord} {n align : Nat} (h : off.toNat % align ≠ 0) :
    memRoute s w acc rsel off n align = .error (misaligned w rsel off) := by
  rw [memRoute, if_pos h]
  rfl

theorem memSpot_misaligned {s : State} {w : Warp} {acc : Acc} {rsel : Nat} {off : DWord} {n align : Nat} (h : off.toNat % align ≠ 0) :
    memSpot s w acc rsel off n align = .error (misaligned w rsel off) := by
  rw [memSpot, memRoute_misaligned h]

theorem editionSpot_misaligned {s : State} {w : Warp} {ed : Option Word} {rsel : Nat} {off : DWord} {n : Nat} (h : off.toNat % n ≠ 0) :
    editionSpot s w ed rsel off n = .error (misaligned w rsel off) := by
  rw [editionSpot, memRoute_misaligned h]

theorem memOffset_zero (g : Go) (i l : Nat) (r : MemRef) (n : Nat) :
    memOffset g i l 0 r n = g.rd2 i 0 l + BitVec.ofInt 64 (r.disp.toInt * n) := by
  simp [memOffset]

section
variable {c : Ctl} {sz : Sz} {d e : BitVec 8} {v : Src} {r : MemRef} {s : State} {w : Warp} {f : Frag} {g : Go}

/-- The offset of a plain access in a lane. -/
def plainOffset (sz : Sz) (r : MemRef) (g : Go) (l : Nat) : DWord := g.rd2 0 0 l + BitVec.ofInt 64 (r.disp.toInt * szBytes sz)

/-- What an instruction raises whose every lane is misaligned. -/
def misalignedTrap (sz : Sz) (r : MemRef) (g : Go) : TrapReq :=
  (misaligned g.w r.rsel.toNat (plainOffset sz r g (g.lanes.headD 0))).inLanes g.lanes

theorem ld_misaligned (h : Issues c (needs [dstField false d (szRegs sz)] [srcField r.base 2] 0) s w f g {})
    (hm : ∀ l ∈ g.lanes, (plainOffset sz r g l).toNat % szBytes sz ≠ 0) :
    exec (.ld c sz false d e r) s = .next (s.run (takeTrap w.id g.f.id (if c.alloc = 0 then [] else [c.alloc.toNat])
      (misalignedTrap sz r g) s)) := by
  refine exec_trap (body := fun s g => withSpots g (eachLane g.lanes (fun l =>
    editionSpot s g.w none r.rsel.toNat (memOffset g 0 l 0 r (szBytes sz)) (szBytes sz))) (loadAct s g false d.toNat sz none)) rfl h ?_
    (lateFault_of_cause (k := .misaligned) rfl)
  rw [eachLane_error (t := fun l => misaligned g.w r.rsel.toNat (plainOffset sz r g l)) h.lanes
    (fun l hl => by rw [memOffset_zero]; exact editionSpot_misaligned (hm l hl)) (fun _ => rfl)]
  exact withSpots_error

theorem st_misaligned (h : Issues c { needs [] [srcField r.base 2, srcField v (szRegs sz)] 0 with carry := [1] } s w f g {})
    (hm : ∀ l ∈ g.lanes, (plainOffset sz r g l).toNat % szBytes sz ≠ 0) :
    exec (.st c sz r v) s = .next (s.run (takeTrap w.id g.f.id (if c.alloc = 0 then [] else [c.alloc.toNat])
      (misalignedTrap sz r g) s)) := by
  refine exec_trap (body := fun s g => withSpots g (eachLane g.lanes (fun l =>
    memSpot s g.w { write := true } r.rsel.toNat (memOffset g 0 l 0 r (szBytes sz)) (szBytes sz) (szBytes sz)))
    (storeAct s g 1 (szBytes sz))) rfl h ?_
    (lateFault_of_cause (k := .misaligned) rfl)
  rw [eachLane_error (t := fun l => misaligned g.w r.rsel.toNat (plainOffset sz r g l)) h.lanes
    (fun l hl => by rw [memOffset_zero]; exact memSpot_misaligned (hm l hl)) (fun _ => rfl)]
  exact withSpots_error

end

/-! ### Targets of a branch (R44, R45) -/

section
variable {c : Ctl} {off : BitVec 26} {s : State} {w : Warp} {f : Frag} {g : Go} {t : TrapReq}

/-- A transfer to a target that is no slot raises what the target raises. -/
theorem transfer_of_error {out : List Nat → List RegWrite} (hne : g.lanes ≠ []) :
    transfer c s g (fun _ => some (.error t)) out = { trap := some t } := by
  obtain ⟨l, ls, hl⟩ := List.exists_cons_of_ne_nil hne
  simp [transfer, hl]

/-- A transfer to one slot that fails its check raises what the check raises. -/
theorem transfer_of_targetTrap {out : List Nat → List RegWrite} {pc : DWord} (hne : g.lanes ≠ []) (ht : targetTrap s g.w pc = some t) :
    transfer c s g (fun _ => some (.ok pc)) out = { trap := some t } := by
  have one : nub (List.replicate g.lanes.length pc) = [pc] := by
    rw [← List.map_const']
    exact nub_map_const (fun _ _ => rfl) hne
  have passes : g.lanes.findSome? (fun _ => (none : Option TrapReq)) = none := List.findSome?_eq_none_iff.mpr (fun _ _ => rfl)
  simp [transfer, one, passes, targetsTrap, ht]

theorem alloc_of_noTag (h : noTag c = true) : c.alloc = 0 := of_decide_eq_true (Bool.and_elim_right h)

/-- A branch whose act raises a cause takes that trap. -/
theorem bra_trap (hwf : (Instr.bra c off).wf = true) (h : Issues c (needs [] [] 0) s w f g {})
    (ht : transfer c s g (fun _ => some (offsetTarget g.f.pc off.toInt)) (fun _ => []) = { trap := some t }) :
    exec (.bra c off) s = .next (s.run (takeTrap w.id g.f.id [] t s)) := by
  have untagged : c.alloc = 0 := alloc_of_noTag hwf
  have trap := exec_trap (i := .bra c off)
    (body := fun s g => transfer c s g (fun _ => some (offsetTarget g.f.pc off.toInt)) (fun _ => [])) rfl h ht (lateFault_untagged untagged)
  rwa [if_pos untagged] at trap

/-- A target below 0 or from 6 × 2^58 on is no slot: LINE_TARGET, with T itself (log 89). -/
theorem bra_outOfRange (hwf : (Instr.bra c off).wf = true) (h : Issues c (needs [] [] 0) s w f g {})
    (hr : (linear g.f.pc : Int) + off.toInt < 0 ∨ (6 * 2 ^ 58 : Int) ≤ (linear g.f.pc : Int) + off.toInt) :
    exec (.bra c off) s = .next (s.run (takeTrap w.id g.f.id []
      (raiseAt .lineTarget (BitVec.ofInt 64 ((linear g.f.pc : Int) + off.toInt))) s)) := by
  have none_ : ofLinear ((linear g.f.pc : Int) + off.toInt) = none := if_neg (by omega)
  refine bra_trap hwf h ?_
  rw [offsetTarget, none_]
  exact transfer_of_error h.lanes

theorem bra_targetTrap {pc : DWord} (hwf : (Instr.bra c off).wf = true) (h : Issues c (needs [] [] 0) s w f g {})
    (hpc : offsetTarget g.f.pc off.toInt = .ok pc) (ht : targetTrap s g.w pc = some t) :
    exec (.bra c off) s = .next (s.run (takeTrap w.id g.f.id [] t s)) := by
  refine bra_trap hwf h ?_
  rw [hpc]
  exact transfer_of_targetTrap h.lanes ht

end

/-! ### Flags (R96) -/

/-- An instruction of k words a lane whose lanes raise flags. -/
theorem trapsOnFlags_words {i : Instr} {c : Ctl} {lat k : Nat} {d : BitVec 8} {srcs : List Field} {f : Go → Nat → List Word × Flags}
    (hi : ∀ s, exec i s = aluFlags c lat d k srcs f s) :
    TrapsOnFlags i c (needs [dstField c.u d k] srcs lat) (fun _ => True) (fun g l => (f g l).2) :=
  trapsOnFlags_of (body := fun _ g => {
      writes := putWords c.u d.toNat g.lanes (fun l => (f g l).1), flags := g.lanes.map (fun l => (l, (f g l).2)) })
    hi (fun _ _ _ _ => ⟨_, rfl⟩)

/-- A conversion into elements of 32 bits or more, which has no destination among its sources (R143). -/
theorem conv_trapsOnFlags {i : Instr} {c : Ctl} {dw sw : Nat} {idx : BitVec 3} {d : BitVec 8} {srcs : List Field}
    {op : Go → Nat → Nat → Nat × Flags} (hi : ∀ s, exec i s = convInstr c dw sw idx d srcs op s) (h : 32 ≤ dw) :
    TrapsOnFlags i c (needs [dstField c.u d (if dw = 64 then 2 else 1)] srcs (if dw = 64 ∨ sw = 64 then 7 else 5)) (fun _ => True)
      (fun g l => (op g l (pickElem sw idx.toNat (if sw = 64 then (g.rd2 0 0 l).toNat else (g.rd 0 0 l).toNat))).2) := by
  have need : convNeed c dw sw d srcs = needs [dstField c.u d (if dw = 64 then 2 else 1)] srcs (if dw = 64 ∨ sw = 64 then 7 else 5) := by
    simp [convNeed, Nat.not_lt.mpr h]
  rw [← need]
  exact trapsOnFlags_of (fun s => (hi s).trans (convInstr_eq c dw sw idx d srcs op s)) (fun _ _ _ _ => ⟨_, rfl⟩)

/-- What FCVT makes of an element (R144). -/
def fcvtOp (dfmt sfmt : FFmt) (rnd : Rnd) (g : Go) (_ x : Nat) : Nat × Flags :=
  let v := readF g.w.denorm (fspec sfmt) x
  let r := convertVal g.w.denorm (fspec dfmt) (rmodeOf g.w.regs.fpctl rnd) v.1
  (r.1, v.2 ||| r.2)

theorem ivmid_trapsOnFlags (c : Ctl) (f : IvFmt) (pf : PFmt) (d : BitVec 8) (a : Src) : TrapsOnFlags (.ivmid c f pf d a) c
    (needs [dstField c.u d (pfmtRegs pf)] [srcField a (ivRegs f)] (ivLat f 6))
    (fun g => ∀ l ∈ g.lanes, (g.iv f 0 l).isSome = true)
    (fun g l => (ivMid g.w.denorm (pfmtSpec pf) ((g.iv f 0 l).elim none (·.1))).2 ||| (g.iv f 0 l).elim 0 (·.2)) := by
  refine trapsOnFlags_of (fun _ => rfl) (fun _ _ g hok => ?_)
  simp only [← ivReadFlags_one]
  exact ⟨_, ivChecked_of_ok (ivOperandsOk_one hok)⟩

/-- Settles O19: a raising act becomes its trap; each clause says what raises. -/
theorem operandTraps : Obligations.OperandTraps := by
  unfold Obligations.OperandTraps
  refine ⟨fun c f d a b s w fr g hf h => ?_, fun c sz d e v r s w f g hm => ⟨fun h => ld_misaligned h hm, fun h => st_misaligned h hm⟩,
    fun c off s w f g hwf h hr => bra_outOfRange hwf h (.inl hr),
    fun c off s w f g hwf h => ⟨fun hr => bra_outOfRange hwf h (.inr hr), fun pc t hpc ht => bra_targetTrap hwf h hpc ht, fun pc => ?_⟩,
    fun c fmt dfmt sfmt rnd f pf idx d a b e => ⟨?_, ?_, ?_, ?_, ?_, ?_,
      conv_trapsOnFlags (op := fcvtOp dfmt sfmt rnd) (fun _ => rfl), ivmid_trapsOnFlags c f pf d a⟩⟩
  · rw [← ivBadLanes_two]
    exact ⟨fun hbad => ivadd_illFormed hf h hbad, fun hok hm hempty => ivadd_empty hf h hok hm hempty⟩
  · unfold targetTrap
    cases wellPlaced pc <;> rfl
  · exact trapsOnFlags_words (fun _ => rfl)
  · exact trapsOnFlags_words (fun _ => rfl)
  · exact trapsOnFlags_words (fun _ => rfl)
  · exact trapsOnFlags_words (fun _ => rfl)
  · exact trapsOnFlags_words (fun _ => rfl)
  · exact trapsOnFlags_words (fun _ => rfl)

end Sys2Proof.Machine
end

section
/-! PROOFS. Stores and PREF (R171 to R173, R272, R274, R276 to R278). -/

namespace Sys2Proof.Machine

/-! ### Accesses that pass their checks and reach this device -/

/-- The translation that a lane's access used. -/
def spotPage (x : Xl Spot) : Option (Nat × Nat) :=
  match x with
  | .ok (.at_ _ _ _ t) => t
  | .ok (.peer ..) => none
  | .error _ => none

/-- Every lane's access reaches this device, free. -/
def SpotsHere (ls : List Nat) (f : Nat → Xl Spot) : Prop := ∀ l ∈ ls, ∃ p e t, f l = .ok (.at_ p e .free t)

/-- The lanes with what their accesses reach here. -/
def herePairs (ls : List Nat) (f : Nat → Xl Spot) : List (Nat × Spot) :=
  ls.map (fun l => (l, .at_ (spotPlace (f l)) (spotEntry (f l)) .free (spotPage (f l))))

theorem eachLane_ok {α : Type} {ls : List Nat} {f : Nat → Xl α} {v : Nat → α} (h : ∀ l ∈ ls, f l = .ok (v l)) :
    eachLane ls f = .ok (ls.map (fun l => (l, v l))) := by
  unfold eachLane
  rw [List.findSome?_eq_none_iff.mpr (fun l hl => by rw [h l hl])]
  refine congrArg Except.ok ?_
  rw [← List.filterMap_eq_map]
  exact List.filterMap_congr (fun l hl => by rw [h l hl]; rfl)

theorem eachLane_here {ls : List Nat} {f : Nat → Xl Spot} (h : SpotsHere ls f) : eachLane ls f = .ok (herePairs ls f) := by
  refine eachLane_ok (fun l hl => ?_)
  obtain ⟨p, e, t, he⟩ := h l hl
  rw [he]
  rfl

theorem waitsFor_here (ls : List Nat) (f : Nat → Xl Spot) : waitsFor (herePairs ls f) = [] := by
  have free : ((herePairs ls f).map (fun x => match x.2 with
      | .at_ _ _ h _ => h
      | .peer .. => LockHit.free)).filter (fun h => h != .free) = [] :=
    List.filter_eq_nil_iff.mpr (fun h hh => by
      simp only [herePairs, List.map_map, List.mem_map, Function.comp_apply] at hh
      obtain ⟨-, -, rfl⟩ := hh
      decide)
  exact congrArg nub free

theorem withSpots_here {g : Go} {f : Nat → Xl Spot} {k : List (Nat × Spot) → Act} (h : SpotsHere g.lanes f) :
    withSpots g (eachLane g.lanes f) k = { k (herePairs g.lanes f) with pages := pagesOf (herePairs g.lanes f) } := by
  rw [eachLane_here h]
  simp only [withSpots, waitsFor_here]

/-! ### Stores -/

theorem peersTrap_here (s : State) (w : Warp) (ls : List Nat) (f : Nat → Xl Spot) : peersTrap s w (herePairs ls f) = peersTrap s w [] := by
  simp [peersTrap, herePairs, List.filterMap_map]

/-- What a store does: its bytes go into the chunk's buffer, lane after lane, its poison with them. -/
def storeEffect (s : State) (g : Go) (k n : Nat) (spot : Nat → Xl Spot) : Effect :=
  { stores := g.lanes.flatMap (fun l => (placesFrom (spotPlace (spot l)) n).zip (dataBytes g k l n))
    reads := g.lanes.flatMap (fun l => entryWords (spotEntry (spot l)))
    chunk := fun x => { x with
      poisoned := storeMarks s g.w n x.poisoned (g.lanes.map (fun l => (spotPlace (spot l), fun j => g.poisoned k j l))) } }

theorem storeAct_gives {s : State} {g : Go} {k n : Nat} {spot : Nat → Xl Spot} (h : SpotsHere g.lanes spot)
    (hp : peersTrap s g.w [] = none) :
    Gives (withSpots g (eachLane g.lanes spot) (storeAct s g k n)) (storeEffect s g k n spot) := by
  rw [withSpots_here h]
  refine ⟨(peersTrap_here ..).trans hp, rfl, rfl, rfl, rfl, rfl, rfl, rfl, ?_, rfl, ?_, ?_, rfl, rfl, rfl, rfl, rfl⟩
  · simp [storeAct, storeEffect, herePairs, List.filterMap_map, List.flatMap_map]
  · simp [storeAct, storeEffect, herePairs, List.filterMap_map, List.flatMap_map]
  · have nowhere : g.lanes.flatMap (fun _ => ([] : List PeerStore)) = [] := List.flatMap_eq_nil_iff.mpr (fun _ _ => rfl)
    simp [storeAct, storeEffect, herePairs, List.flatMap_map, peerStoreOf, Function.comp_def, nowhere]

/-- An instruction that stores to checked places. -/
theorem stores_of {i : Instr} {c : Ctl} {addr : List Field} {data : Field} {n : Nat} {spot : State → Go → Nat → Xl Spot}
    {good : State → Go → Prop} {body : State → Go → Act} (hi : ∀ s, exec i s = issue c (storeNeed addr data) (body s) s)
    (hb : ∀ s g, good s g → body s g = withSpots g (eachLane g.lanes (spot s g)) (storeAct s g addr.length n)) :
    Stores i c addr data n spot good := by
  refine does_without_result (x := fun s g => storeEffect s g addr.length n (spot s g)) hi (fun _ _ => rfl) (fun _ _ => rfl)
    (fun s g ⟨hgood, hpeers, hspots⟩ => ?_)
  rw [hb s g hgood]
  exact storeAct_gives hspots hpeers

/-! ### PREF (R278) -/

/-- An instruction with an empty act and a need that the state decides does nothing, at the states that decide so. -/
theorem does_nothing_of {i : Instr} {c : Ctl} {k : Need} {need : State → Need} (hi : ∀ s, exec i s = issue c (need s) (fun _ => {}) s) :
    Does i c k (fun s _ => need s = k) (fun _ _ => {}) := by
  intro _ s w f g hg hneed hf
  have hne : g.lanes.isEmpty = false := by simpa using hg.lanes
  have hroom : overLimit g.w.chunk (g.keys k) {} = false := hg.room
  have hgives : Gives ({} : Act) {} := gives_control false false [] id
  obtain ⟨v, hv, hv'⟩ := issued_of_gives (c := c) (n := k) (s := s) (old := w) hgives (by simp [Result.inRange, Result.nothing]) hne hf
    (by simp) (fun _ => rfl)
  refine ⟨v, ?_, hv'⟩
  rw [hi, hneed]
  simp only [issue, issueWith, hg.cur, issueScript, hg.go, hne, Bool.false_eq_true, if_false, finish, hroom, Bool.or_self, raisedTrap,
    Option.map_none, fpTrapReq_none (a := {}) hf, Option.or_none, ite_self, andThen, inOrder, List.append_nil, hv, run_append, run_nil]

/-- Settles O22: four stores through one effect; PREF issues an empty act. -/
theorem storeInstructions : Obligations.StoreInstructions := by
  unfold Obligations.StoreInstructions
  refine fun c sz zx l2 f a e v r q => ⟨?_, ?_, ?_, ?_, fun k => does_nothing_of (fun _ => rfl)⟩
  · exact stores_of (fun _ => rfl) (fun _ _ _ => rfl)
  · exact stores_of (fun _ => rfl) (fun _ _ _ => rfl)
  · exact stores_of (fun _ => rfl) (fun _ _ _ => rfl)
  · exact stores_of (fun _ => rfl) (fun _ _ hok => ivChecked_of_ok (ivOperandsOk_one hok))

end Sys2Proof.Machine
end

section
/-! PROOFS. LD.ED pops its edition before its base (R50, R273). -/

namespace Sys2Proof.Machine

/-- The machine with every port bound to core queue 0, which holds an offset of page 0 and the edition that page 0 is sealed under. -/
def demoEdition : State :=
  let s := withW (fun w => { w with regs := { w.regs with qbind := List.replicate 8 0x20000000 } }) demo
  { s with
    queues := { s.queues with chans := [⟨.core 0 0, [0x2000, 0, 5].map (fun x => ⟨(x, []), none⟩)⟩] }
    order := { s.order with editions := [⟨0, 5, true⟩] } }

/-- LD.ED with its base from ports 0 and 1 and its edition from port 2. -/
def queuedLoad : Instr := .ld ct .b32 true 12 58 ⟨.u 56, 0, 0⟩

/-- The operands of that load in the order in which O21 names them, the base before the edition. -/
def baseFirst : Need := needs [dstField false 12 1] [srcField (.u 56) 2, uniField 58 1] 0

/-- The mode of a warp in the state an outcome goes on in. -/
def modeAfter (id : Nat) (o : Host.Outcome State Fault Refusal) : Option WarpMode :=
  ((nextState o).bind (·.warp? id)).map (·.mode)

/-- An instruction whose effect ends with its result, no further change of its warp or of the state, keeps its warp's mode. -/
theorem mode_of_does {i : Instr} {c : Ctl} {n : Need} {ok : State → Go → Prop} {x : State → Go → Effect} (h : Does i c n ok x)
    (hx : ∀ s g, (x s g).turn = id ∧ (x s g).upds = fun _ => []) (s : State) (hwf : i.wf = true) (hr : ready c n s = true)
    (hok : ok s (goAt c n s)) : modeAfter (goAt c n s).w.id (exec i s) = some (goAt c n s).w.mode := by
  obtain ⟨w, f, hissues, hfpctl⟩ := ready_issues (x s (goAt c n s)) hr
  obtain ⟨v, hexec, hpassed, -⟩ := h hwf s w f _ hissues hok (by rw [hfpctl]; exact trapping_zero _)
  obtain ⟨hturn, hupds⟩ := hx s (goAt c n s)
  rw [hexec, hturn, hupds, id, run_nil, modeAfter, nextState, Option.bind_some, ← hpassed.id, warp?_run_warp, Option.map_some, hpassed.mode]

/-- The model pops the edition first: the first element is no edition of page 0, and the warp traps. -/
theorem queuedLoad_traps : modeAfter 3 (exec queuedLoad demoEdition) ≠ some .run := by
  decide +kernel

/-- Refutes O21: it names the operands of LD.ED base first, and R50 pops field A first, where the edition stands (R273). Where both
come from one queue, the statement's base and edition are not those the load takes: it has the load complete, and the load traps. -/
theorem not_loadInstructions : ¬ Obligations.LoadInstructions := by
  unfold Obligations.LoadInstructions
  intro h
  obtain ⟨ld, -, -, -, -⟩ := h ct .b32 true false .if32 12 0 58 ⟨.u 56, 0, 0⟩ ⟨.v 4, 0⟩
  have who : (goAt ct baseFirst demoEdition).w.id = 3 ∧ (goAt ct baseFirst demoEdition).w.mode = .run := by decide +kernel
  have runs : modeAfter _ (exec queuedLoad demoEdition) = _ := mode_of_does (n := baseFirst) ld (fun _ _ => ⟨rfl, rfl⟩) demoEdition
    (by decide +kernel) (by decide +kernel) (one_lane (by decide +kernel) (spot_here (by decide +kernel)))
  rw [who.1, who.2] at runs
  exact queuedLoad_traps runs

end Sys2Proof.Machine
end

section
/-! PROOFS. The row unit's instructions and MSTAT (R217 to R222). -/

namespace Sys2Proof.Machine

/-! ### Instructions on a tile store that is ready -/

section
variable {s : State} {g : Go} {imgs touched : List Img}

theorem withImages_of_ready {k : Act} (h : TileReady s g imgs touched) : withImages s g imgs touched k = k := by
  obtain ⟨hpending, hbusy, hshape, ⟨hs, hlocks, hfree⟩, -⟩ := h
  have free : hs.filter (fun h => h != .free) = [] := List.filter_eq_nil_iff.mpr (fun h hh => by simp [hfree h hh])
  simp only [withImages, hpending, hshape, hlocks, free, hbusy, Bool.false_eq_true, if_false]

theorem tilePoisonTrap_of_ready {srcs : List Img} {k : Act} (h : TileReady s g imgs touched) (hsrcs : ∀ i ∈ srcs, i ∈ touched) :
    tilePoisonTrap s g srcs k = k := by
  obtain ⟨-, -, -, -, hclean⟩ := h
  have clean : srcs.findSome? (fun i => if i.write then none else tilePoison s g.w i.off i.size) = none := by
    refine List.findSome?_eq_none_iff.mpr (fun i hi => ?_)
    split
    · rfl
    · exact hclean i (hsrcs i hi) (Bool.eq_false_iff.mpr ‹_›)
  simp only [tilePoisonTrap, clean]

/-- On a ready tile store an act gives what it gives without the checks. -/
theorem gives_withImages {a : Act} {x : Effect} (h : TileReady s g imgs touched) (ha : Gives a x) :
    Gives (withImages s g imgs touched a) x := by
  rwa [withImages_of_ready h]

theorem gives_tilePoisonTrap {srcs : List Img} {a : Act} {x : Effect} (h : TileReady s g imgs touched) (hsrcs : ∀ i ∈ srcs, i ∈ touched)
    (ha : Gives a x) : Gives (tilePoisonTrap s g srcs a) x := by
  rwa [tilePoisonTrap_of_ready h hsrcs]

end

/-- An act that writes a result, reads and touches words, and puts bytes into the tile store. -/
theorem gives_tile {ws : List RegWrite} {fl : List (Nat × Flags)} {reads touches : List Place} {us us' : State → List Upd} {r : Result}
    (hw : ws = r.writes) (hf : fl.foldl (fun m x => m ||| x.2) 0 = r.flags) (hu : us = us') :
    Gives { writes := ws, flags := fl, reads := reads, touches := touches, upds := us }
      { res := r, reads := reads, touches := touches, upds := us' } :=
  ⟨rfl, rfl, rfl, hw, hf, rfl, rfl, rfl, rfl, rfl, rfl, rfl, rfl, rfl, rfl, rfl, hu⟩

/-- An instruction whose result names no uniform register. -/
theorem does_with_vector {i : Instr} {c : Ctl} {n : Need} {body : State → Go → Act} {ok : State → Go → Prop} {x : State → Go → Effect}
    (hi : ∀ s, exec i s = issue c n (body s) s) (huni : ∀ s g, (x s g).res.uni = false) (haw : ∀ s g, (x s g).awaits = .unit)
    (hr : ∀ s g, (∀ l ∈ g.lanes, l < 32) → (x s g).res.inRange) (h : ∀ s g, ok s g → Gives (body s g) (x s g)) : Does i c n ok x :=
  does_of_gives hi (fun _ s g _ _ => ⟨fun _ => by simp [haw], pushed_nil (fun hu => by simp [huni] at hu)⟩)
    (fun _ s g hl hok => ⟨h s g hok, hr s g hl⟩)

/-! ### Results -/

theorem nothing_inRange (fl : Flags) : Result.inRange { Result.nothing with flags := fl } :=
  ⟨by simp [Result.nothing], by simp [Result.nothing]⟩

theorem putWords_two (d : BitVec 8) (g : Go) (f : Nat → Nat → Word) (fl : Flags) :
    putWords false d.toNat g.lanes (fun l => [f l 0, f l 1]) = (Result.ofWords false d 2 g f fl).writes := by
  simp [putWords, Result.ofWords, Result.writes, List.range_succ]

/-! ### MACCR (R218) -/

theorem wordsOfVal_zipIdx (k v : Nat) : (wordsOfVal k v).zipIdx = (List.range k).map (fun j => (BitVec.ofNat 32 (v / 2 ^ (32 * j)), j)) :=
  List.ext_getElem (by simp [wordsOfVal]) (fun j _ _ => by simp [wordsOfVal])

/-- The words of a value in each lane, none of them poisoned. -/
theorem clean_writes (d : BitVec 8) (k : Nat) (g : Go) (v : Nat → Nat) (poison : Nat → Nat → Bool)
    (h : ∀ l ∈ g.lanes, ∀ j, j < k → poison l j = false) :
    g.lanes.flatMap (fun l => (wordsOfVal k (v l)).zipIdx.map (fun x => .v (d.toNat + x.2) l x.1 (poison l x.2)))
      = (Result.ofWords false d k g (fun l j => BitVec.ofNat 32 (v l / 2 ^ (32 * j))) 0).writes := by
  simp only [Result.writes, Result.ofWords, List.append_nil, wordsOfVal_zipIdx, List.map_map]
  refine List.flatMap_congr (fun l hl => List.map_congr_left (fun j hj => ?_))
  simp only [Function.comp_apply, h l hl j (List.mem_range.mp hj), Bool.false_eq_true, if_false]

/-! ### The statement -/

/-- Settles O28: on a ready tile store each act of the row unit stands without its checks, and gives what the statement says. -/
theorem matrixRows : Obligations.MatrixRows := by
  unfold Obligations.MatrixRows
  refine fun c ac df s32 k1 mul rnd row col sel d a b e => ⟨?mzero, ?maccr, ?maccw, ?mcvt, ?mrowmax, ?mrowexp, ?mstat⟩
  case mzero =>
    exact does_without_result (fun _ => rfl) (fun _ _ => rfl) (fun _ _ => rfl) (fun _ _ h => gives_withImages h (gives_tile rfl rfl rfl))
  case maccr =>
    refine does_with_vector (fun _ => rfl) (fun _ _ => rfl) (fun _ _ => rfl) (fun _ _ hl => ofWords_inRange hl) (fun s g ⟨hrow, h, hclean⟩ => ?_)
    rw [if_neg (Nat.not_lt.mpr hrow)]
    exact gives_withImages h (gives_tile (clean_writes d _ g _ _ hclean) rfl rfl)
  case maccw =>
    refine does_without_result (fun _ => rfl) (fun _ _ => rfl) (fun _ _ => rfl) (fun s g ⟨hrow, h⟩ => ?_)
    rw [if_neg (Nat.not_lt.mpr hrow)]
    exact gives_withImages h (gives_tile rfl rfl rfl)
  case mcvt =>
    refine does_with_vector (fun _ => rfl) (fun _ _ => rfl) (fun _ _ => rfl) (fun _ _ _ => nothing_inRange _) (fun s g h => ?_)
    refine gives_withImages h (gives_tilePoisonTrap h (fun i hi => List.mem_append_left _ hi) (gives_tile rfl ?_ ?_))
    · simp only [List.foldl_cons, List.foldl_nil, List.foldl_map]
      exact BitVec.zero_or
    · simp only [List.flatMap_map]
      rfl
  case mrowmax =>
    refine does_with_vector (fun _ => rfl) (fun _ _ => rfl) (fun _ _ => rfl) (fun _ _ hl => ofWords_inRange hl) (fun s g h => ?_)
    exact gives_withImages h (gives_tilePoisonTrap h (fun i hi => hi) (gives_tile
      (putWords_two d g (fun l j => (rowMax s g.w _ _ (2 * l + j) (g.rd 1 j l)).1) _) (orFlags_pairs _ _) rfl))
  case mrowexp =>
    refine does_with_vector (fun _ => rfl) (fun _ _ => rfl) (fun _ _ => rfl) (fun _ _ hl => ⟨hl, by simp [Result.ofWords]⟩) (fun s g h => ?_)
    refine gives_withImages h (gives_tilePoisonTrap h (fun i hi => List.mem_append_left _ hi) (gives_tile ?_ (orFlags_pairs _ _) rfl))
    cases mul
    case false => exact putWords_two d g (fun l j => (rowExp s g.w false _ _ _ (2 * l + j) (g.rd 3 0 0) (g.rd 2 j l)).2.1) _
    case true => simp [Result.writes, Result.ofWords]
  case mstat =>
    refine does_writes_turn (turn := fun _ => id) (fun _ => rfl) (fun s g => putWord_writes true d { g with lanes := [0] } _) (fun _ _ => rfl)
      (fun hwf _ _ _ => ?_) (fun _ _ _ => ⟨by simp, by simp [Result.ofWord, Result.ofWords]⟩)
    exact of_decide_eq_true (Bool.and_elim_left (Bool.and_elim_right hwf))

end Sys2Proof.Machine
end

section
/-! PROOFS. MBQ, MMA and MMASK (R196, R202 to R205, R211, R247). -/

namespace Sys2Proof.Machine

/-! ### MBQ and MMA -/

/-- An act that ends its chunk, leaves something for its position, and changes the state beside its warp. -/
theorem gives_command (after : List Deferred) (us : State → List Upd) :
    Gives { ends := true, after := after, upds := us } { ends := true, after := after, upds := us } :=
  ⟨rfl, rfl, rfl, rfl, rfl, rfl, rfl, rfl, rfl, rfl, rfl, rfl, rfl, rfl, rfl, rfl, rfl⟩

/-! ### MMASK (R203) -/

/-- The mask that MMASK writes: a pair, or the low bits up to a length. -/
def mmaskVal (len : Bool) (g : Go) : DWord := if len then BitVec.ofNat 64 (2 ^ min (g.rd 0 0 0).toNat 64 - 1) else g.rd2 0 0 0

theorem mmask_low (n : Nat) : (if n < 64 then BitVec.ofNat 64 (2 ^ n - 1) else BitVec.allOnes 64) = BitVec.ofNat 64 (2 ^ min n 64 - 1) := by
  split
  · rw [min_eq_left (by omega)]
  · rw [min_eq_right (by omega)]
    decide

/-- The act of MMASK. -/
def mmaskAct (len : Bool) (d : BitVec 3) (g : Go) : Act := { writes := [.m d.toNat (mmaskVal len g)] }

theorem exec_mmask (c : Ctl) (len : Bool) (d : BitVec 3) (a : BitVec 8) (s : State) : exec (.mmask c len d a) s =
    issue c { needs [] [uniField a (if len then 1 else 2)] 0 with mdsts := [d.toNat] } (mmaskAct len d) s := by
  change execMmask c len d a s = _
  simp only [execMmask, mmask_low]
  rfl

/-- An instruction whose act only writes registers, and raises nothing, goes on with its warp as issued. -/
theorem exec_writes {i : Instr} {c : Ctl} {n : Need} {ws : Go → List RegWrite} {s : State} {w : Warp} {f : Frag} {g : Go}
    (hi : exec i s = issue c n (fun g => { writes := ws g }) s) (h : Issues c n s w f g {}) :
    exec i s = .next (s.run (g.upds ++ [.warp (issued c n s w g { writes := ws g })])) := by
  have hne : g.lanes.isEmpty = false := by simpa using h.lanes
  have hroom : overLimit g.w.chunk (g.keys n) { writes := ws g } = false := h.room
  have quiet : raisedTrap c n g { writes := ws g } = none := by simp [raisedTrap, fpTrapReq, trappingLanes]
  rw [hi]
  simp only [issue, issueWith, h.cur, issueScript, h.go, hne, Bool.false_eq_true, if_false, finish, hroom, Bool.or_self, quiet,
    Option.or_none, ite_self, andThen, inOrder, List.append_nil]

theorem fpstatOr_zero (x : Word) : fpstatOr x 0 = x := by simp [fpstatOr]

/-- An untagged instruction without a latency puts its writes into its registers at once (R61). -/
theorem putResults_untagged {c : Ctl} {n : Need} {now : Nat} {g : Go} {ws : List RegWrite} (w : Warp) (hlat : n.lat = 0)
    (halloc : c.alloc = 0) : putResults c n now g { writes := ws } w = w.write ws := by
  have flags : ({ writes := ws } : Act).allFlags = 0 := rfl
  simp only [putResults, hlat, halloc, flags, fpstatOr_zero]
  rfl

/-- What MMASK leaves in its warp. -/
theorem issued_mmask {c : Ctl} {n : Need} {s : State} {w : Warp} {g : Go} {len : Bool} {d : BitVec 3} (hlat : n.lat = 0)
    (halloc : c.alloc = 0) :
    let v := issued c n s w g (mmaskAct len d g)
    v.regs.mm = g.w.regs.mm.set d.toNat (mmaskVal len g)
    ∧ v.regs.v = g.w.regs.v ∧ v.regs.u = g.w.regs.u ∧ v.regs.p = g.w.regs.p ∧ v.regs.fpstat = g.w.regs.fpstat
    ∧ v.regs.fpctl = g.w.regs.fpctl ∧ v.regs.realm = g.w.regs.realm ∧ v.chunk.bytes = g.w.chunk.bytes
    ∧ v.regs.frags.map Frag.face = g.w.regs.frags.map (fun x => if x.id = g.f.id then { x with pc := nextPc x.pc }.face else x.face) := by
  have frags := passed_frags g.w.regs.frags g.f.id false (passedSlot c s (mmaskAct len d g)) (fun _ => rfl)
  simp only [and_true] at frags
  simp only [issued, mmaskAct, putResults_untagged g.w hlat halloc]
  exact ⟨rfl, rfl, rfl, rfl, rfl, rfl, rfl, rfl, frags⟩

/-- Settles O29: past their checks MBQ and MMA are commands; MMASK has no tag, so its one write stands at once. -/
theorem matrixCommands : Obligations.MatrixCommands := by
  unfold Obligations.MatrixCommands
  refine ⟨fun c fmt af bf acc set1 row col d a b e => ⟨?mbq, ?mma⟩, fun c len d a s w f g hwf h => ?mmask⟩
  case mbq =>
    refine does_without_result (fun _ => rfl) (fun _ _ => rfl) (fun _ _ => rfl) (fun s g ⟨hpending, hgen, hshape, hlocks, hroom⟩ => ?_)
    have gen : ¬ (g.rd 1 0 0).toNat / 2 ^ 16 ≠ 0 := not_not.mpr (Nat.div_eq_of_lt hgen)
    simp only [hpending, gen, hshape, hlocks, hroom, Option.or_none, Bool.not_true, Bool.false_eq_true, if_false]
    exact gives_command _ _
  case mma =>
    refine does_without_result (fun _ => rfl) (fun _ _ => rfl) (fun _ _ => rfl) (fun s g ⟨hpending, hcheck, hfree, hroom⟩ => ?_)
    simp only [hpending, hcheck, hfree, hroom, Bool.and_self, Bool.not_true, Bool.false_eq_true, if_false]
    exact gives_command _ _
  case mmask =>
    have untagged : c.alloc = 0 := alloc_of_noTag (Bool.and_elim_left (Bool.and_elim_left hwf))
    exact ⟨_, exec_writes (exec_mmask c len d a s) h, issued_mmask rfl untagged⟩

end Sys2Proof.Machine
end

section
/-! PROOFS. TLD and TST pop their tile offset before their base (R50, R200). -/

namespace Sys2Proof.Machine

/-- A task with tile memory whose warp binds every port to core queue 0, which holds an offset of page 0 and a tile offset. -/
def demoTilePort : State :=
  let s := withW (fun w => { w with regs := { w.regs with qbind := List.replicate 8 0x20000000 } }) demoTile
  { s with queues := { s.queues with chans := [⟨.core 0 0, [0x2000, 0, 0x100].map (fun x => ⟨(x, []), none⟩)⟩] } }

/-- TST with its base from ports 0 and 1 and its tile offset from port 2. -/
def queuedTst : Instr := .tst cv .b4 (.u 58) ⟨.u 56, 0, 0⟩

/-- The operands of that TST in the order in which O27 names them, the base before the tile offset. -/
def tstBaseFirst : Need := needs [] [srcField (.u 56) 2, srcField (.u 58) 1] 0

/-- The model pops the tile offset first: the base lies in no page that is mapped, and the warp traps. -/
theorem queuedTst_traps : modeAfter 3 (exec queuedTst demoTilePort) ≠ some .run := by
  decide +kernel

/-- Refutes O27: it names the operands of TLD and TST base first, and R50 pops field A first, where the tile offset stands (R200). Where both
come from one queue, the statement's base and tile offset are not those the store takes: it has the TST complete, and the TST traps. -/
theorem not_tileStore : ¬ Obligations.TileStore := by
  unfold Obligations.TileStore
  intro h
  obtain ⟨-, -, -, tst⟩ := h cv .b4 0 0 0 (.u 58) ⟨.u 56, 0, 0⟩
  have who : (goAt cv tstBaseFirst demoTilePort).w.id = 3 ∧ (goAt cv tstBaseFirst demoTilePort).w.mode = .run := by decide +kernel
  have runs : modeAfter _ (exec queuedTst demoTilePort) = _ := mode_of_does (n := tstBaseFirst) tst (fun _ _ => ⟨rfl, rfl⟩) demoTilePort
    (by decide +kernel) (by decide +kernel)
    ⟨⟨by decide +kernel, one_lane (by decide +kernel) ⟨memPlace 0x2000, none, some (0, 0), by decide +kernel⟩⟩, by decide +kernel⟩
  rw [who.1, who.2] at runs
  exact queuedTst_traps runs

end Sys2Proof.Machine
end

section
/-! PROOFS. What scripts leave unchanged: root memory, mappings of paths, messages under way (R230, R234). -/

namespace Sys2Proof.Machine

/-- An event that runs a list runs every list equal to it. -/
theorem runs_of_eq {i : Instr} {s : State} {us vs : List Upd} (h : Runs i s us) (heq : us = vs) : Runs i s vs := heq ▸ h

/-- A script leaves a part of the state as it is, wherever it runs. -/
def Keeps {α : Type} (p : State → α) (f : State → List Upd) : Prop := ∀ s, p (s.run (f s)) = p s

section
variable {α : Type} {p : State → α}

theorem keeps_nil : Keeps p (fun _ => []) := fun _ => rfl

theorem keeps_inOrder {fs : List (State → List Upd)} (h : ∀ f ∈ fs, Keeps p f) : Keeps p (inOrder fs) := by
  induction fs with
  | nil => exact keeps_nil
  | cons f fs ih =>
    intro s
    rw [inOrder_cons, run_append, ih (fun g hg => h g (List.mem_cons_of_mem f hg)), h f List.mem_cons_self]

/-- Where only the first script touches a part, the part is what that script leaves. -/
theorem run_inOrder_head {f : State → List Upd} {fs : List (State → List Upd)} (h : ∀ g ∈ fs, Keeps p g) (s : State) :
    p (s.run (inOrder (f :: fs) s)) = p (s.run (f s)) := by
  rw [inOrder_cons, run_append, keeps_inOrder h]

theorem keeps_andThen {f g : State → List Upd} (hf : Keeps p f) (hg : Keeps p g) : Keeps p (andThen f g) :=
  keeps_inOrder (by simp [hf, hg])

theorem keeps_forEach {γ : Type} {l : List γ} {f : γ → State → List Upd} (h : ∀ x ∈ l, Keeps p (f x)) : Keeps p (forEach l f) :=
  keeps_inOrder (by simpa using h)

end

/-- Root memory with the keys it is read under, the mappings of paths, the messages at ordering points. -/
def State.homes (s : State) : Memory × Device × List Remap × List Arrival := (s.mem, s.dev, s.order.remaps, s.net.arrivals)

theorem rootByte_of_homes {s t : State} (h : t.homes = s.homes) (a : Nat) : rootByte t a = rootByte s a := by
  simp only [State.homes, Prod.mk.injEq] at h
  obtain ⟨hmem, hdev, -, -⟩ := h
  simp only [rootByte, blankByte, hmem, hdev]

theorem effective_of_homes {s t : State} (h : t.homes = s.homes) (part : Nat) (path : Path) : effective t part path = effective s part path := by
  simp only [State.homes, Prod.mk.injEq] at h
  obtain ⟨-, -, hremaps, -⟩ := h
  simp only [effective, hremaps]

/-- An update of neither memory, the device's registers, the ordering machinery nor the network. -/
def Upd.apart (u : Upd) : Bool :=
  match u with
  | .bytes _ => false
  | .dev _ => false
  | .order _ => false
  | .net _ => false
  | .part _ => true | .launch _ => true | .dropLaunch .. => true | .task _ => true | .dropTask _ => true | .warp _ => true | .dropWarp _ => true
  | .xl _ => true | .mat _ => true | .eng _ => true | .queues _ => true | .model _ => true | .cur _ => true

theorem homes_apply_of_apart {u : Upd} (h : u.apart = true) (s : State) : (Upd.apply s u).homes = s.homes := by
  cases u
  case bytes | dev | order | net => cases h
  all_goals rfl

theorem homes_run_of_apart {us : List Upd} (h : us.all Upd.apart = true) (s : State) : (s.run us).homes = s.homes := by
  induction us generalizing s with
  | nil => rfl
  | cons u us ih =>
    rw [List.all_cons, Bool.and_eq_true] at h
    rw [run_cons, ih h.2, homes_apply_of_apart h.1]

theorem keeps_of_apart {f : State → List Upd} (h : ∀ s, (f s).all Upd.apart = true) : Keeps State.homes f := fun s => homes_run_of_apart (h s) s

theorem onWarp_apart (id : Nat) (g : Warp → Warp) (s : State) : (onWarp id g s).all Upd.apart = true := by
  unfold onWarp; split <;> rfl

theorem onTask_apart (id : Nat) (g : Task → Task) (s : State) : (onTask id g s).all Upd.apart = true := by
  unfold onTask; split <;> rfl

theorem onPart_apart (n : Nat) (g : Part → Part) (s : State) : (onPart n g s).all Upd.apart = true := by
  unfold onPart; split <;> rfl

theorem onOrder_keeps {g : Ordering_ → Ordering_} (h : ∀ o, (g o).remaps = o.remaps) : Keeps State.homes (onOrder g) := fun s => by
  simp only [onOrder, State.homes, run_cons, run_nil, order_mem, order_dev, order_order, order_net, h]

theorem onNet_keeps {g : Net → Net} (h : ∀ n, (g n).arrivals = n.arrivals) : Keeps State.homes (onNet g) := fun s => by
  simp only [onNet, State.homes, run_cons, run_nil, net_mem, net_dev, net_order, net_net, h]

/-- A chunk that is dropped gives back what it held; nothing it stored had left it. -/
theorem dropChunk_keeps (wid : Nat) : Keeps State.homes (dropChunk wid) := by
  intro s
  unfold dropChunk
  split
  · rfl
  · rw [run_append, run_append, homes_run_of_apart (onTask_apart ..), homes_run_of_apart (by simp [Upd.apart])]
    rfl

theorem squash_keeps (wid : Nat) : Keeps State.homes (squash wid) := by
  intro s
  unfold squash
  split
  · rfl
  · split
    · rfl
    · exact keeps_andThen (dropChunk_keeps wid) (keeps_of_apart (onWarp_apart wid _)) s

/-! ### Bytes at their homes (R230, R253) -/

/-- Bytes at the root change its memory; beyond that, and in a shoot altogether, memory and the mappings of paths stay. -/
theorem applyCells_homes (wr : Writer) (cells : List (Place × Byte)) (marks : List (Place × Bool)) (s : State) :
    (s.run (applyCells wr cells marks s)).homes
      = (s.run (if effective s wr.part wr.path = 0 && !(memCells cells).isEmpty then putBytes (memCells cells) s else [])).homes := by
  dsimp only [applyCells]
  refine run_inOrder_head (fun f hf => ?_) s
  obtain hf | hf := List.mem_append.mp hf
  on_goal 2 =>
    obtain ⟨id, -, rfl⟩ := List.mem_map.mp hf
    exact squash_keeps id
  simp only [List.mem_cons, List.not_mem_nil, or_false] at hf
  obtain rfl | rfl | rfl := hf
  · exact onOrder_keeps (fun _ => rfl)
  · exact keeps_forEach (fun t _ => keeps_of_apart (onTask_apart t _))
  · exact keeps_of_apart (onPart_apart wr.part _)

theorem putBytes_arrivals (cells : List Host.Cell) (s : State) : (s.run (putBytes cells s)).net.arrivals = s.net.arrivals := by
  unfold putBytes; split <;> rfl

theorem putBytes_remaps (cells : List Host.Cell) (s : State) : (s.run (putBytes cells s)).order.remaps = s.order.remaps := by
  unfold putBytes; split <;> rfl

theorem applyCells_arrivals (wr : Writer) (cells : List (Place × Byte)) (marks : List (Place × Bool)) :
    Keeps (·.net.arrivals) (applyCells wr cells marks) := by
  intro s
  have homes := congrArg (·.2.2.2) (applyCells_homes wr cells marks s)
  refine homes.trans ?_
  split
  · exact putBytes_arrivals _ s
  · rfl

end Sys2Proof.Machine
end

section
/-! PROOFS. Positions, completions, wave atomics, grants, passes and quarter copies (R202, R206 to R213, R230 to R240, R265). -/

namespace Sys2Proof.Machine

/-! ### Positions (R230, R233) -/

section
variable {id : Nat} {s : State} {w : Warp}

theorem chunkPosition_waits (hw : s.warp? id = some w) (hready : positionReady s w = false) : exec (.chunkPosition id) s = .next s := by
  change execChunkPosition id s = _
  simp only [execChunkPosition, positionScript, hw, hready, Bool.not_false, if_true, run_nil]

theorem chunkPosition_drainTrap {t : TrapReq} {f : Warp → Warp} (hw : s.warp? id = some w) (hready : positionReady s w = true)
    (hdrain : drainTrapOf (deferredEnd s w) w = some (t, f)) : Runs (.chunkPosition id) s
      (andThen (onWarp id f) (takeTrap id w.chunk.lastFrag [] { t with fpc := some (t.fpc.getD w.chunk.lastPc) }) s) := by
  change execChunkPosition id s = _
  simp only [execChunkPosition, positionScript, hw, hready, Bool.not_true, Bool.false_eq_true, if_false, hdrain]

theorem chunkPosition_stopped {t : TrapReq} (hw : s.warp? id = some w) (hready : positionReady s w = true)
    (hdrain : drainTrapOf (deferredEnd s w) w = none) (htrap : positionTrap s (w.drainOf (deferredEnd s w)) = some t) :
    Runs (.chunkPosition id) s (takeTrap id w.chunk.lastFrag [] t s) := by
  change execChunkPosition id s = _
  simp only [execChunkPosition, positionScript, hw, hready, Bool.not_true, Bool.false_eq_true, if_false, hdrain, htrap]

theorem chunkPosition_commits (hw : s.warp? id = some w) (hready : positionReady s w = true)
    (hdrain : drainTrapOf (deferredEnd s w) w = none) (htrap : positionTrap s (w.drainOf (deferredEnd s w)) = none) :
    Runs (.chunkPosition id) s
      (.warp (w.drainOf (deferredEnd s w)) :: commitChunk id (s.run [.warp (w.drainOf (deferredEnd s w))])) := by
  change execChunkPosition id s = _
  simp only [execChunkPosition, positionScript, hw, hready, Bool.not_true, Bool.false_eq_true, if_false, hdrain, htrap, andThen, inOrder_cons,
    inOrder_nil, List.append_nil, List.singleton_append]

end

/-! ### A stable sort by a bounded key -/

theorem insertBy_append {α : Type} (key : α → Nat) (x : α) {low high : List α} (hlow : ∀ y ∈ low, key y ≤ key x)
    (hhigh : ∀ y ∈ high, key x < key y) : insertBy key x (low ++ high) = low ++ x :: high := by
  induction low with
  | nil =>
    cases high with
    | nil => rfl
    | cons y ys => rw [List.nil_append, insertBy, if_pos (hhigh y List.mem_cons_self), List.nil_append]
  | cons y ys ih =>
    rw [List.cons_append, insertBy, if_neg (Nat.not_lt.mpr (hlow y List.mem_cons_self)), ih (fun z hz => hlow z (List.mem_cons_of_mem y hz)),
      List.cons_append]

/-- The elements of the keys listed, key by key. -/
def byKeys {α : Type} (key : α → Nat) (ks : List Nat) (l : List α) : List α := ks.flatMap (fun k => l.filter (fun x => key x == k))

theorem key_mem_of_mem_byKeys {α : Type} {key : α → Nat} {ks : List Nat} {l : List α} {x : α} (h : x ∈ byKeys key ks l) : key x ∈ ks := by
  obtain ⟨k, hk, hx⟩ := List.mem_flatMap.mp h
  have same : key x = k := by simpa using (List.mem_filter.mp hx).2
  rwa [same]

theorem byKeys_append_of_not_mem {α : Type} {key : α → Nat} {ks : List Nat} (l : List α) {x : α} (h : key x ∉ ks) :
    byKeys key ks (l ++ [x]) = byKeys key ks l := by
  refine List.flatMap_congr (fun k hk => ?_)
  have other : key x ≠ k := fun he => h (he ▸ hk)
  simp [List.filter_append, other]

/-- A stable sort lists the elements key by key, those of one key in their order. -/
theorem sortBy_eq_byKeys {α : Type} {key : α → Nat} {n : Nat} (l : List α) (h : ∀ x ∈ l, key x < n) :
    sortBy key l = byKeys key (List.range n) l := by
  induction l using List.reverseRecOn with
  | nil => exact (List.flatMap_eq_nil_iff.mpr (fun _ _ => rfl)).symm
  | append_singleton l x ih =>
    have hx : key x < n := h x (by simp)
    have range : List.range n = (List.range (key x) ++ [key x]) ++ (List.range (n - (key x + 1))).map (key x + 1 + ·) := by
      rw [← List.range_succ, ← List.range_add]
      congr 1
      omega
    have low : key x ∉ List.range (key x) := by simp
    have high : key x ∉ (List.range (n - (key x + 1))).map (key x + 1 + ·) := by simp; omega
    have split (l : List α) : byKeys key (List.range n) l = (byKeys key (List.range (key x)) l ++ l.filter (fun y => key y == key x))
        ++ byKeys key ((List.range (n - (key x + 1))).map (key x + 1 + ·)) l := by
      rw [range, byKeys, List.flatMap_append, List.flatMap_append, List.flatMap_singleton]
      rfl
    have step : sortBy key (l ++ [x]) = insertBy key x (sortBy key l) := by simp [sortBy]
    rw [step, ih (fun y hy => h y (by simp [hy])), split, split, insertBy_append, byKeys_append_of_not_mem l low, byKeys_append_of_not_mem l high,
      List.filter_append]
    · simp
    · intro y hy
      rcases List.mem_append.mp hy with hy | hy
      · exact (List.mem_range.mp (key_mem_of_mem_byKeys hy)).le
      · have same : key y = key x := by simpa using (List.mem_filter.mp hy).2
        exact same.le
    · intro y hy
      have := key_mem_of_mem_byKeys hy
      simp only [List.mem_map] at this
      omega

/-! ### Completion (R239, R251, R281, R414) -/

theorem leavesAt_lt (a : AfterCommit) : leavesAt a < 3 := by cases a <;> simp [leavesAt]

/-- What follows a completion goes in the order in which it leaves. -/
theorem sortBy_leaves {rank : AfterCommit → Nat} (h : ∀ a, rank a = leavesAt a) (l : List AfterCommit) :
    sortBy rank l = (List.range 3).flatMap (fun k => l.filter (fun a => leavesAt a == k)) := by
  obtain rfl : rank = leavesAt := funext h
  exact sortBy_eq_byKeys l (fun a _ => leavesAt_lt a)

section
variable {pos : Nat} {s : State} {c : Commit}

theorem commitComplete_runs (hc : s.order.commits.find? (fun c => c.pos == pos) = some c) (hready : completeReady s c = true) :
    Runs (.commitComplete pos) s (inOrder [onOrder (fun o => { o with commits := o.commits.filter (fun x => x.pos != pos) }), deliverPushes c,
        forEach ((List.range 3).flatMap (fun k => c.after.filter (fun a => leavesAt a == k))) (runAfter c)] s) := by
  change execCommitComplete pos s = _
  simp only [execCommitComplete, completeScript, hc, hready, Bool.not_true, Bool.false_eq_true, if_false]
  rw [sortBy_leaves (fun a => by cases a <;> rfl)]

theorem commitComplete_waits (hc : s.order.commits.find? (fun c => c.pos == pos) = some c) (hready : completeReady s c = false) :
    exec (.commitComplete pos) s = .next s := by
  change execCommitComplete pos s = _
  simp only [execCommitComplete, completeScript, hc, hready, Bool.not_false, if_true, run_nil]

end

/-! ### Wave atomics (R240) -/

theorem waveAtomicExecute_runs {id fid : Nat} {i : Instr} {s : State} {w : Warp} {f : Frag} (hw : s.warp? id = some w)
    (hask : w.waveAsk = some (fid, i)) (hf : w.frag? fid = some f) (hready : waveReady s w = true) (hstall : w.stallUntil ≤ s.model.cycle) :
    Runs (.waveAtomicExecute id) s (waveScript i s w f) := by
  change execWaveAtomicExecute id s = _
  simp only [execWaveAtomicExecute, hw, hask, hf, hready, hstall, decide_true, Bool.and_self, if_true]

/-! ### Grants (R212, R213) -/

section
variable {core : Nat} {s : State} {e : Entry}

/-- A quarter that an entry reads has another format than its pass. -/
def shapeClash (s : State) (e : Entry) : Bool := (entryQuarters e).any (fun q => (quarterFor s e q.1).any (fun x => x.fmt != e.bf))

theorem shapeClash_iff : shapeClash s e = true ↔ ∃ x ∈ entryQuarters e, ∃ q, quarterFor s e x.1 = some q ∧ q.fmt ≠ e.bf := by
  simp [shapeClash, List.any_eq_true, Option.any_eq_true]

theorem mmaGrant_grants (he : nextGrant s core = some e) (hq : ∀ x ∈ entryQuarters e, ∀ q, quarterFor s e x.1 = some q → q.fmt = e.bf) :
    Runs (.mmaGrant core) s [.mat { s.mat with entries := s.mat.entries.map (fun x => if x.id = e.id then { x with granted := true } else x) }] := by
  have clash : shapeClash s e = false := Bool.eq_false_iff.mpr (fun h => by
    obtain ⟨x, hx, q, hs, hne⟩ := shapeClash_iff.mp h
    exact hne (hq x hx q hs))
  rw [shapeClash] at clash
  change execMmaGrant core s = _
  simp only [execMmaGrant, he, clash, Bool.false_eq_true, if_false, onMat]

theorem mmaGrant_frees (he : nextGrant s core = some e) (hq : ∃ x ∈ entryQuarters e, ∃ q, quarterFor s e x.1 = some q ∧ q.fmt ≠ e.bf) :
    Runs (.mmaGrant core) s (inOrder [freeEntry e, raiseLater e.warp e.who e.pc (raise .matrixShape)] s) := by
  have clash := shapeClash_iff.mpr hq
  rw [shapeClash] at clash
  change execMmaGrant core s = _
  simp only [execMmaGrant, he, clash, if_true, andThen]

end

/-! ### Passes and quarter copies (R202, R206 to R211, R265) -/

section
variable {id : Nat} {s : State} {e : Entry}

theorem passComplete_runs (he : s.entry? id = some e) (hg : e.granted = true)
    (hrace : firstRace (effective s e.part) s.order.accesses (passAccesses s e) = none) :
    Runs (.passComplete id) s (passDone e (passAccesses s e) s) := by
  change execPassComplete id s = _
  simp only [execPassComplete, he, hg, Bool.not_true, Bool.false_eq_true, if_false, hrace]

theorem passComplete_races {x : Access × Access} (he : s.entry? id = some e) (hg : e.granted = true)
    (hrace : firstRace (effective s e.part) s.order.accesses (passAccesses s e) = some x) :
    Runs (.passComplete id) s (inOrder [freeEntry e, raiseLater e.warp e.who e.pc (engineRace x e.pc)] s) := by
  change execPassComplete id s = _
  simp only [execPassComplete, he, hg, Bool.not_true, Bool.false_eq_true, if_false, hrace, andThen]

end

/-- The accesses of a quarter copy. -/
def copyAccesses (s : State) (c : QCopy) : List Access :=
  tileAccesses s c.launch c.warp c.who c.path c.pc c.thread c.stamp c.clock (wordsOf ⟨.tile, c.task, c.tile⟩ (matImage c.fmt 16)) []

section
variable {id : Nat} {s : State} {c : QCopy}

theorem copiedQuarter_byte {k : Nat} (hk : k < matImage c.fmt 16) : (copiedQuarter s c).bytes.getD k 0 = taskTile s c.task (c.tile + k) := by
  simp [copiedQuarter, List.getD_eq_getElem?_getD, List.getElem?_map, List.getElem?_range hk]

theorem mem_copiedQuarter_poison {k : Nat} (hk : k < matImage c.fmt 16) :
    k ∈ (copiedQuarter s c).poison ↔ taskTilePoison s c.task (c.tile + k) = true := by
  simp only [copiedQuarter]
  split
  · have clean : s.order.poison = [] := List.isEmpty_iff.mp ‹_›
    simp [taskTilePoison, clean]
  · simp [List.mem_filter, hk]

theorem quarterCopy_runs (hc : s.mat.copies.find? (fun c => c.id == id) = some c) (hready : copyReady s c = true)
    (hrace : firstRace (effective s c.who.part) s.order.accesses (copyAccesses s c) = none) :
    Runs (.quarterCopy id) s (inOrder [endCopy c (some (copiedQuarter s c)), logAccesses (copyAccesses s c)] s) := by
  rw [copyAccesses] at hrace
  change execQuarterCopy id s = _
  simp only [execQuarterCopy, hc, hready, Bool.not_true, Bool.false_eq_true, if_false, hrace, andThen, copyAccesses]

theorem quarterCopy_races {x : Access × Access} (hc : s.mat.copies.find? (fun c => c.id == id) = some c) (hready : copyReady s c = true)
    (hrace : firstRace (effective s c.who.part) s.order.accesses (copyAccesses s c) = some x) :
    Runs (.quarterCopy id) s (inOrder [endCopy c none, raiseLater c.warp c.who c.pc (engineRace x c.pc)] s) := by
  rw [copyAccesses] at hrace
  change execQuarterCopy id s = _
  simp only [execQuarterCopy, hc, hready, Bool.not_true, Bool.false_eq_true, if_false, hrace, andThen]

end

/-- Settles O43: one lemma for each outcome of each event; what follows a completion is a stable sort by a key below 3. -/
theorem chunkAndMatrixEvents : Obligations.ChunkAndMatrixEvents := by
  unfold Obligations.ChunkAndMatrixEvents
  refine ⟨fun id s w hw => ⟨chunkPosition_waits hw, fun t f => chunkPosition_drainTrap hw, fun t => chunkPosition_stopped hw,
      chunkPosition_commits hw⟩,
    fun pos s c hc => ⟨commitComplete_runs hc, commitComplete_waits hc⟩,
    fun id fid i s w f hw hask hf hready hstall => ⟨?_, ?_, ?_⟩,
    fun core s e he => ⟨mmaGrant_grants he, mmaGrant_frees he⟩,
    fun id s e he hg => ⟨passComplete_runs he hg, fun x => passComplete_races he hg⟩,
    fun id s c hc hready => ⟨fun hrace => ?_, fun x => quarterCopy_races hc hready⟩⟩
  · rintro c d a rfl
    exact waveAtomicExecute_runs hw hask hf hready hstall
  · rintro c a b rfl
    exact waveAtomicExecute_runs hw hask hf hready hstall
  · rintro c op w64 scope d r e rfl
    exact waveAtomicExecute_runs hw hask hf hready hstall
  · exact ⟨copiedQuarter s c, rfl, rfl, rfl, rfl, rfl, by simp [copiedQuarter], fun k => copiedQuarter_byte, fun k => mem_copiedQuarter_poison,
      quarterCopy_runs hc hready hrace⟩

end Sys2Proof.Machine
end

section
/-! PROOFS. Requests, shoot messages and acknowledgments of peers (R239, R255, R259, R261, R280, R284, R452, R453). -/

namespace Sys2Proof.Machine

/-! ### Reads (R261, R452) -/

section
variable {a : PeerAddr} {s : State} {n : Nat} {p : Part} {ps : List (Nat × Nat)}

theorem peerRead_refused {step : Nat} (h : peerChecks s a .read n = .error step) (ed : Option Word) :
    Runs (.peerReadRequest a ed n) s [.net { s.net with outbox := s.net.outbox ++ [.peerReply a.station (.error step)] }] := by
  change execPeerReadRequest a ed n s = _
  simp only [execPeerReadRequest, h, reply, sendOut]

theorem peerRead_served (h : peerChecks s a .read n = .ok (p, ps)) : Runs (.peerReadRequest a none n) s
    [.net { s.net with outbox := s.net.outbox ++ [.peerReply a.station (.data (bytesWords (peerBytes s a ps)) (peerBad s a ps))] }] := by
  change execPeerReadRequest a none n s = _
  simp only [execPeerReadRequest, h, Option.isSome_none, Bool.false_and, Bool.false_eq_true, if_false, reply, sendOut]

theorem peerRead_stale {ed : Word} (h : peerChecks s a .read n = .ok (p, ps)) (hed : ∃ x ∈ ps, sealedAt s x.1 ≠ some ed) :
    Runs (.peerReadRequest a (some ed) n) s [.net { s.net with outbox := s.net.outbox ++ [.peerReply a.station (.error 8)] }] := by
  have stale : ps.any (fun x => sealedAt s x.1 != some ed) = true := by simpa using hed
  change execPeerReadRequest a (some ed) n s = _
  simp only [execPeerReadRequest, h, Option.isSome_some, stale, Bool.and_self, if_true, reply, sendOut]

theorem peerRead_current {ed : Word} (h : peerChecks s a .read n = .ok (p, ps)) (hed : ∀ x ∈ ps, sealedAt s x.1 = some ed) :
    Runs (.peerReadRequest a (some ed) n) s
      [.net { s.net with outbox := s.net.outbox ++ [.peerReply a.station (.data (bytesWords (peerBytes s a ps)) (peerBad s a ps))] }] := by
  have current : ps.any (fun x => sealedAt s x.1 != some ed) = false := by simpa using hed
  change execPeerReadRequest a (some ed) n s = _
  simp only [execPeerReadRequest, h, current, Bool.and_false, Bool.false_eq_true, if_false, reply, sendOut]

end

/-! ### What a peer writes (R255, R452, R453) -/

/-- The poison marks of the words among cells. -/
def peerMarks (cells : List (Place × Byte)) (bad : List Place) : List (Place × Bool) :=
  (nub (cells.map (fun c => c.1.word))).map (fun w => (w, bad.contains w))

section
variable {a : PeerAddr} {part : Nat} {cells : List (Place × Byte)} {bad : List Place} {answer : PeerResp} {s : State}

/-- At the root a peer's bytes are applied as any, unless a chunk with commit priority holds them. -/
theorem peerApply_root (hpath : foreignPath (s.run (freeMappings a.station s)) part a.station a.path = 0)
    (hheld : peerHeld (s.run (freeMappings a.station s)) a part cells = false) : peerApply a part cells bad answer s =
    inOrder [freeMappings a.station, applyCells ⟨part, 0, false, 0, none⟩ cells (peerMarks cells bad), sendOut (.peerReply a.station answer)] s := by
  simp only [peerApply, andThen, inOrder_cons, inOrder_nil, List.append_nil, hheld, Bool.false_eq_true, if_false, peerPut, hpath, if_true, reply,
    rootWriter, peerMarks]

/-- The bytes of a foreign version wait for no chunk with commit priority. -/
theorem peerHeld_foreign {t : State} (hpath : foreignPath t part a.station a.path ≠ 0) : peerHeld t a part cells = false := by
  simp only [peerHeld, hpath, decide_false, Bool.false_and]

theorem peerApply_full (hpath : foreignPath (s.run (freeMappings a.station s)) part a.station a.path ≠ 0)
    (hput : peerPut (s.run (freeMappings a.station s)) a part cells bad = none) : peerApply a part cells bad answer s =
    inOrder [freeMappings a.station, sendOut (.peerReply a.station (.error 7))] s := by
  simp only [peerApply, andThen, inOrder_cons, inOrder_nil, List.append_nil, peerHeld_foreign hpath, Bool.false_eq_true, if_false, hput, reply]

theorem peerApply_foreign {us : List Upd} (hpath : foreignPath (s.run (freeMappings a.station s)) part a.station a.path ≠ 0)
    (hput : peerPut (s.run (freeMappings a.station s)) a part cells bad = some us) : peerApply a part cells bad answer s =
    inOrder [freeMappings a.station, fun _ => us, sendOut (.peerReply a.station answer)] s := by
  simp only [peerApply, andThen, inOrder_cons, inOrder_nil, List.append_nil, peerHeld_foreign hpath, Bool.false_eq_true, if_false, hput, reply]

end

section
variable {a : PeerAddr} {s : State} {data : List (Byte × Bool)} {p : Part} {ps : List (Nat × Nat)}

theorem peerWrite_refused {step : Nat} (h : peerChecks s a .write data.length = .error step) : Runs (.peerWriteRequest a data) s
    [.net { s.net with outbox := s.net.outbox ++ [.peerReply a.station (.error step)] }] := by
  change execPeerWriteRequest a data s = _
  simp only [execPeerWriteRequest, h, reply, sendOut]

theorem peerWrite_runs (h : peerChecks s a .write data.length = .ok (p, ps)) :
    let cells := cellsOfPieces ps (data.map (·.1))
    Runs (.peerWriteRequest a data) s
      (peerApply a p.num cells (((cells.zip data).filter (fun x => x.2.2)).map (fun x => x.1.1.word)) (.data [] []) s) := by
  intro cells
  change execPeerWriteRequest a data s = _
  simp only [execPeerWriteRequest, h, cells]

end

/-! ### Atomics (R280, R283, R452) -/

/-- Bytes of a peer's atomic. -/
def atomicBytes (op : PeerAtomic) : Nat := if op.w64 then 8 else 4

/-- The old value of a peer's atomic, and the new one with its flags. -/
def peerOld (s : State) (a : PeerAddr) (ps : List (Nat × Nat)) : Nat := bytesVal (peerBytes s a ps)
def peerNew (s : State) (a : PeerAddr) (op : PeerAtomic) (ps : List (Nat × Nat)) : Nat × Flags :=
  atomResult op.denorm (if op.cas then none else some op.op) op.w64 (peerOld s a ps) op.operand.toNat op.compare.toNat

section
variable {a : PeerAddr} {op : PeerAtomic} {s : State} {p : Part} {ps : List (Nat × Nat)}

theorem peerAtomic_refused {step : Nat} (h : peerChecks s a .atomic (atomicBytes op) = .error step) : Runs (.peerAtomicRequest a op) s
    [.net { s.net with outbox := s.net.outbox ++ [.peerReply a.station (.error step)] }] := by
  rw [atomicBytes] at h
  change execPeerAtomicRequest a op s = _
  simp only [execPeerAtomicRequest, h, reply, sendOut]

theorem peerAtomic_runs (h : peerChecks s a .atomic (atomicBytes op) = .ok (p, ps)) : Runs (.peerAtomicRequest a op) s
    (peerApply a p.num (cellsOfPieces ps (valBytes (atomicBytes op) (peerNew s a op ps).1)) []
      (.data (wordsOfVal ((atomicBytes op) / 4) (peerOld s a ps) ++ [(peerNew s a op ps).2.setWidth 32]) (peerBad s a ps)) s) := by
  rw [atomicBytes] at h
  change execPeerAtomicRequest a op s = _
  simp only [execPeerAtomicRequest, h, peerNew, peerOld, atomicBytes]

end

/-! ### Shoot messages (R235, R256, R259, R453) -/

section
variable {st : Nat} {path : Path} {s : State}

theorem peerPrune_runs (hpath : path ≠ 0) : Runs (.peerPruneMessage st path) s [.order { s.order with
    versions := s.order.versions.filter (fun v => !(v.station == some st && v.tag == path))
    poison := s.order.poison.filter (fun p => !(p.space == .mem && p.owner == foreignOwner st path))
    remaps := s.order.remaps.filter (fun r => !(r.station == some st && r.path == path)) }] := by
  change execPeerPruneMessage st path s = _
  rw [execPeerPruneMessage, if_neg hpath]
  rfl

/-- Two changes of the ordering machinery in a row are one. -/
theorem run_onOrder_onOrder (f g : Ordering_ → Ordering_) (s : State) :
    (s.run (onOrder f s)).run (onOrder g (s.run (onOrder f s))) = s.run (onOrder (fun o => g (f o)) s) := rfl

theorem peerCommit_runs (hpath : path ≠ 0) (hheld : commitHeld s st path = false) :
    let maps : List Remap := (List.range 8).map (fun part => ⟨part, some st, path, parentPath path, s.dev.wall.toNat⟩)
    Runs (.peerCommitMessage st path) s (inOrder [freeMappings st, forEach (List.range 8) (commitForeign st path), dropForeign st path,
      onOrder (fun o => { o with remaps := o.remaps.filter (fun r => !(r.station == some st && r.path == path)) ++ maps })] s) := by
  intro maps
  have goes : (decide (path = 0) || commitHeld s st path) = false := by rw [decide_eq_false hpath, hheld, Bool.false_or]
  change execPeerCommitMessage st path s = _
  simp only [execPeerCommitMessage, goes, Bool.false_eq_true, if_false, inOrder_cons, inOrder_nil, run_append, List.append_nil, dropMapping,
    run_onOrder_onOrder, commitMaps, maps]

theorem commitForeign_root {part : Nat} (hup : foreignPath s part st (parentPath path) = 0) :
    let words := foreignWords s part st path
    s.run (commitForeign st path part s) = if words.isEmpty then s else
      s.run (applyCells ⟨part, 0, false, 0, none⟩ (words.flatMap (fun x => (placesFrom (memPlace (4 * x.1)) 4).zip (valBytes 4 x.2.toNat)))
        (words.map (fun x => (memPlace (4 * x.1), s.order.poison.contains { memPlace (4 * x.1) with owner := foreignOwner st path }))) s) := by
  intro words
  simp only [commitForeign, hup, if_true, words, rootWriter]
  split <;> rfl

end

/-! ### Acknowledgments (R239, R284) -/

section
variable {id : Nat} {s : State} {p : PeerPending}

/-- A store or an atomic is no longer awaited. -/
def acknowledged (id : Nat) : State → List Upd := onNet (fun n => { n with peerPending := n.peerPending.filter (fun q => q.id != id) })

theorem storeAck_none (hp : s.net.peerPending.find? (fun p => p.id == id) = some p) : exec (.peerStoreAck id .none) s = .next s := by
  change execPeerStoreAck id .none s = _
  simp only [execPeerStoreAck, hp, run_nil]

theorem storeAck_clean (hp : s.net.peerPending.find? (fun p => p.id == id) = some p) :
    Runs (.peerStoreAck id (.data [] [])) s (acknowledged id s) := by
  have clean : (wordAt [] 0).setWidth 9 = (0 : Flags) := rfl
  change execPeerStoreAck id (.data [] []) s = _
  simp only [execPeerStoreAck, hp, clean, if_true, andThen, inOrder_cons, inOrder_nil, List.append_nil, acknowledged]

theorem storeAck_flags {ws : List Word} {bad : List Bool} (hp : s.net.peerPending.find? (fun p => p.id == id) = some p)
    (hfl : (wordAt ws 0).setWidth 9 ≠ (0 : Flags)) : Runs (.peerStoreAck id (.data ws bad)) s
      (inOrder [acknowledged id, onWarp p.warp (fun w => { w with drainFlags := w.drainFlags ++ [((wordAt ws 0).setWidth 9, p.pc)] })] s) := by
  change execPeerStoreAck id (.data ws bad) s = _
  simp only [execPeerStoreAck, hp, hfl, if_false, andThen, acknowledged]

theorem job?_acknowledged (id k : Nat) (s : State) : (s.run (acknowledged id s)).job? k = s.job? k := rfl

theorem storeAck_raises {step : Nat} (hp : s.net.peerPending.find? (fun p => p.id == id) = some p) (hjob : p.job = 0) (hnone : s.job? 0 = none) :
    Runs (.peerStoreAck id (.error step)) s (inOrder [acknowledged id, raiseLater p.warp p.who p.pc (peerFault step)] s) := by
  have gone := (job?_acknowledged id 0 s).trans hnone
  rw [acknowledged] at gone
  change execPeerStoreAck id (.error step) s = _
  simp only [execPeerStoreAck, hp, hjob, andThen, inOrder_cons, inOrder_nil, gone, if_true, acknowledged]

theorem storeAck_stops {step : Nat} {j : Job} (hp : s.net.peerPending.find? (fun p => p.id == id) = some p) (hjob : s.job? p.job = some j) :
    Runs (.peerStoreAck id (.error step)) s (inOrder [acknowledged id, stopJob j (peerFault step)] s) := by
  have stays := (job?_acknowledged id p.job s).trans hjob
  rw [acknowledged] at stays
  change execPeerStoreAck id (.error step) s = _
  simp only [execPeerStoreAck, hp, andThen, inOrder_cons, inOrder_nil, stays, acknowledged]

end

/-- Settles O50: a request that passes its checks goes by where its path stands, at the root or in a foreign version. -/
theorem peerEvents : Obligations.PeerEvents := by
  unfold Obligations.PeerEvents
  refine ⟨fun a s step n h ed => peerRead_refused h ed, fun a s n p ps h => ⟨peerRead_served h, fun ed => peerRead_stale h,
      fun ed => peerRead_current h⟩,
    fun a s data step => peerWrite_refused, fun a s data p ps h => ⟨fun hpath hheld => ?_, fun hpath => ⟨fun hput => ?_, fun us hput => ?_⟩⟩,
    fun a op s p ps => ⟨fun step => peerAtomic_refused, fun h hpath hheld => ?_, fun h hpath => ⟨fun hput => ?_, fun us hput => ?_⟩⟩,
    fun st path s => peerPrune_runs, fun st path s => peerCommit_runs, fun st part path s => commitForeign_root,
    fun id s p hp => ⟨storeAck_none hp, storeAck_clean hp, fun ws bad => storeAck_flags hp, fun step => storeAck_raises hp,
      fun step j => storeAck_stops hp⟩⟩
  · exact runs_of_eq (peerWrite_runs h) (peerApply_root hpath hheld)
  · exact runs_of_eq (peerWrite_runs h) (peerApply_full hpath hput)
  · exact runs_of_eq (peerWrite_runs h) (peerApply_foreign hpath hput)
  · exact runs_of_eq (peerAtomic_runs h) (peerApply_root hpath hheld)
  · exact runs_of_eq (peerAtomic_runs h) (peerApply_full hpath hput)
  · exact runs_of_eq (peerAtomic_runs h) (peerApply_foreign hpath hput)

end Sys2Proof.Machine
end

section
/-! PROOFS. Links, mailbox windows and the host (R262, R447 to R449, R454, R456). -/

namespace Sys2Proof.Machine

/-! ### Links (R454) -/

theorem linkDown_runs (st : Nat) (s : State) : Runs (.linkDown st) s (inOrder [onNet (fun n => { n with down := nub (n.down ++ [st]) }),
    forEach (s.eng.jobs.filter (fun j => j.kind == .coll && j.sent && j.phase == 1)) (fun j t => match rankAt t j st with
      | some r => collAbort j .linkDown r t
      | none => []),
    forEach (s.eng.jobs.filter (fun j => j.kind != .coll && jobAwaits s j st)) (fun j => stopJob j (raiseD .linkDown (BitVec.ofNat 32 st))),
    failStores st (fun _ => true),
    forEach (s.warps.map (·.id)) (fun w => failWarp w st)] s) := rfl

theorem linkReturn_runs (st : Nat) (s : State) :
    Runs (.linkReturn st) s [.net { s.net with down := s.net.down.filter (fun x => x != st) }] := rfl

section
variable {id tag st : Nat} {s : State} {w : Warp} {e : TagEntry}

/-- The pending tag of a warp whose next answer would come from a station. -/
def awaitedTag (w : Warp) (tag st : Nat) : Option TagEntry :=
  w.regs.tags.find? (fun e => e.tag == tag && e.awaits == .peer && !e.returned && e.stations.head? == some st)

theorem requestTimeout_inTime (hw : s.warp? id = some w) (htag : tag ≠ 0) (he : awaitedTag w tag st = some e)
    (hlate : requestLate s st e.since = false) : exec (.ualinkRequestTimeout id tag st) s = .next s := by
  rw [awaitedTag] at he
  change execUalinkRequestTimeout id tag st s = _
  simp only [execUalinkRequestTimeout, htag, if_false, hw, he, hlate, Bool.false_eq_true, run_nil]

theorem requestTimeout_late (hw : s.warp? id = some w) (htag : tag ≠ 0) (he : awaitedTag w tag st = some e)
    (hlate : requestLate s st e.since = true) : Runs (.ualinkRequestTimeout id tag st) s (failTag id e st s) := by
  rw [awaitedTag] at he
  change execUalinkRequestTimeout id tag st s = _
  simp only [execUalinkRequestTimeout, htag, if_false, hw, he, hlate, if_true]

theorem failTag_open (hw : s.warp? id = some w) (hown : e.own = false) : failTag id e st s =
    takeTrap id ((w.regs.frags.find? (fun f => f.mask &&& e.mask != 0)).elim 0 (·.id)) []
      { raiseD .linkDown (BitVec.ofNat 32 st) with fpc := some e.pc } s := by
  simp only [failTag, hown, Bool.false_eq_true, if_false, hw, linkFault]

theorem failTag_finished (hown : e.own = true) : failTag id e st s = onWarp id (fun w => w.mapTags (fun x => if x.seq = e.seq then
    { x with raises := some { raiseD .linkDown (BitVec.ofNat 32 st) with ppc := some e.pc }, returned := true, lanes := [], stations := [] }
      else x)) s := by
  simp only [failTag, hown, if_true]
  rfl

end

/-! ### The host's requests (R448, R449, R456) -/

theorem sized_of_le {n : Nat} (h : n ≤ messageLimit) (qpn : Nat) (us : State → List Upd) : sized qpn n us = us :=
  if_neg (Nat.not_lt.mpr h)

theorem sized_of_lt {n : Nat} (h : messageLimit < n) (qpn : Nat) (us : State → List Upd) :
    sized qpn n us = sendOut (.hostReply qpn false nakInvalid []) := if_pos h

section
variable {qpn rkey va len : Nat} {data : HostData} {words : List Word} {imm : Option Word} {s : State} {w : List Word}
  {ps : List (Nat × Nat)} {c : Nat}

theorem hostRdmaWrite_refused (hlen : data.bytes.length ≤ messageLimit) (h : hostRange s qpn rkey va data.bytes.length true = none) :
    Runs (.hostRdmaWrite qpn rkey va data) s (refuseHost qpn s) := by
  change execHostRdmaWrite qpn rkey va data s = _
  simp only [execHostRdmaWrite, sized_of_le hlen, h]

theorem hostRdmaWrite_arrives (hlen : data.bytes.length ≤ messageLimit)
    (h : hostRange s qpn rkey va data.bytes.length true = some (w, ps, c)) (hpart : partWorks s (wfield w 0 28 3) = true) :
    let gs := payloadGranules (cellsOfPieces ps data.bytes).length (cellsOfPieces ps data.bytes)
    Runs (.hostRdmaWrite qpn rkey va data) s (arriveMsg ⟨0, wfield w 0 28 3, qpn, gs, [], some c, 1, 0, []⟩ s) := by
  intro gs
  change execHostRdmaWrite qpn rkey va data s = _
  simp only [execHostRdmaWrite, sized_of_le hlen, h, hpart, Bool.not_true, Bool.false_eq_true, if_false, gs]

theorem hostRdmaRead_refused (hlen : len ≤ messageLimit) (h : hostRange s qpn rkey va len false = none) :
    Runs (.hostRdmaRead qpn rkey va len) s (refuseHost qpn s) := by
  change execHostRdmaRead qpn rkey va len s = _
  simp only [execHostRdmaRead, sized_of_le hlen, h]

theorem hostRdmaRead_arrives (hlen : len ≤ messageLimit) (h : hostRange s qpn rkey va len false = some (w, ps, c)) :
    Runs (.hostRdmaRead qpn rkey va len) s (arriveMsg ⟨0, wfield w 0 28 3, qpn, [], ps, none, 0, 0, []⟩ s) := by
  change execHostRdmaRead qpn rkey va len s = _
  simp only [execHostRdmaRead, sized_of_le hlen, h]

theorem host_oversize (hdata : messageLimit < data.bytes.length) (hlen : messageLimit < len) (hwords : messageLimit < 4 * words.length) :
    Runs (.hostRdmaWrite qpn rkey va data) s (sendOut (.hostReply qpn false nakInvalid []) s)
    ∧ Runs (.hostRdmaRead qpn rkey va len) s (sendOut (.hostReply qpn false nakInvalid []) s)
    ∧ Runs (.hostSendInbound qpn words imm) s (sendOut (.hostReply qpn false nakInvalid []) s) := by
  refine ⟨?_, ?_, ?_⟩
  · change execHostRdmaWrite qpn rkey va data s = _
    rw [execHostRdmaWrite, sized_of_lt hdata]
  · change execHostRdmaRead qpn rkey va len s = _
    rw [execHostRdmaRead, sized_of_lt hlen]
  · change execHostSendInbound qpn words imm s = _
    rw [execHostSendInbound, sized_of_lt hwords]

theorem hostSend_refused (hlen : 4 * words.length ≤ messageLimit) (h : hostWindow s 1 qpn none = none) :
    Runs (.hostSendInbound qpn words imm) s (refuseHost qpn s) := by
  change execHostSendInbound qpn words imm s = _
  simp only [execHostSendInbound, sized_of_le hlen, h]

/-- The words of a ring that are taken, those that SENDs at the ordering point bring among them. -/
def ringTaken (s : State) (w : List Word) : Nat :=
  ringUsed (ringOf s (wfield w 0 28 3) (wfield w 0 16 4)) + ringComing s (wfield w 0 28 3) (wfield w 0 16 4)

theorem hostSend_full (hlen : 4 * words.length ≤ messageLimit) (h : hostWindow s 1 qpn none = some w) (hring : ringOk s w = some (c, ps))
    (hfull : ringWords w < ringTaken s w + (words ++ imm.toList).length) :
    Runs (.hostSendInbound qpn words imm) s (sendOut (.hostReply qpn false nakNotReady []) s) := by
  rw [ringTaken] at hfull
  change execHostSendInbound qpn words imm s = _
  simp only [execHostSendInbound, sized_of_le hlen, h, hring, hfull, decide_true, Bool.or_true, if_true]

theorem hostSend_arrives (hlen : 4 * words.length ≤ messageLimit) (h : hostWindow s 1 qpn none = some w) (hring : ringOk s w = some (c, ps))
    (hpart : partWorks s (wfield w 0 28 3) = true) (hroom : ringTaken s w + (words ++ imm.toList).length ≤ ringWords w) :
    let cells := ringCells ps (ringWords w) ((ringOf s (wfield w 0 28 3) (wfield w 0 16 4)).consumer + ringTaken s w) (words ++ imm.toList)
    Runs (.hostSendInbound qpn words imm) s (arriveMsg ⟨0, wfield w 0 28 3, qpn, payloadGranules cells.length cells, [], some c,
      (words ++ imm.toList).length, wfield w 0 16 4, words ++ imm.toList⟩ s) := by
  intro cells
  have room := Nat.not_lt.mpr hroom
  rw [ringTaken] at room
  change execHostSendInbound qpn words imm s = _
  simp only [execHostSendInbound, sized_of_le hlen, h, hring, hpart, room, Bool.not_true, decide_false, Bool.or_self, Bool.false_eq_true, if_false,
    cells, ringTaken]

end

/-! ### The ordering point (R260, R262) -/

section
variable {a : Arrival} {s : State}

theorem landArrival_read (hwait : arrivalWaits s a = false) (hg : a.granules = []) (hw : a.words = []) (hc : a.counter = none) :
    landArrival a s = inOrder [dropArrival a.id,
      fun s => sendOut (.hostReply a.qpn true 0 (a.reads.flatMap (fun x => (List.range x.2).map (fun i => rootByte s (x.1 + i))))) s] s := by
  simp only [landArrival, hwait, Bool.false_eq_true, if_false, hg, endArrival, hw, hc, List.isEmpty_nil, if_true, inOrder_cons, inOrder_nil,
    run_nil, List.nil_append]

theorem landArrival_counts {c : Nat} (hwait : arrivalWaits s a = false) (hg : a.granules = []) (hw : a.words = []) (hr : a.reads = [])
    (hc : a.counter = some c) : landArrival a s = inOrder [dropArrival a.id, counterAdd a.part c a.amount [],
      sendOut (.hostReply a.qpn true 0 [])] s := by
  simp only [landArrival, hwait, Bool.false_eq_true, if_false, hg, endArrival, hw, hc, hr, List.isEmpty_nil, if_true, inOrder_cons, inOrder_nil,
    run_nil, List.nil_append, List.flatMap_nil]

theorem find?_arrival_map (id : Nat) (rest : List (List (Place × Byte))) (l : List Arrival) :
    (l.map (fun b => if b.id = id then { b with granules := rest } else b)).find? (fun b => b.id == id)
      = (l.find? (fun b => b.id == id)).map (fun b => { b with granules := rest }) := by
  induction l with
  | nil => rfl
  | cons b l ih => by_cases h : b.id = id <;> simp [h, ih]

/-- A granule lands, and the message goes on with the next. -/
theorem landArrival_granule {g : List (Place × Byte)} {rest : List (List (Place × Byte))} (hwait : arrivalWaits s a = false)
    (hg : a.granules = g :: rest) (hsealed : piecesSealed s (granuleRange g) = false) :
    (s.run (landArrival a s)).net.arrivals.find? (fun b => b.id == a.id)
      = (s.net.arrivals.find? (fun b => b.id == a.id)).map (fun b => { b with granules := rest }) := by
  have landed := applyCells_arrivals (rootWriter a.part) g ((nub (g.map (fun x => x.1.word))).map (fun p => (p, false))) s
  simp only [landArrival, hwait, Bool.false_eq_true, if_false, hg, hsealed, run_andThen, onNet, run_cons, run_nil, net_net, landGranule, landed,
    find?_arrival_map]

end

/-! ### What the host answers (R449) -/

theorem hostSendAck_runs {i n : Nat} {s : State} {w : List Word} {r : Ring} {x : Nat × Nat × Nat} {rest : List (Nat × Nat × Nat)} {c : Nat}
    (hw : s.net.windows[i]? = some w) (hr : s.net.rings.find? (fun r => r.part == wfield w 0 28 3 && r.num == wfield w 0 16 4) = some r)
    (hs : r.sends = x :: rest) (hx : x.1 = n) (huse : (wordAt w 0).getLsbD 31 = true) (hkind : wfield w 0 26 2 = 2)
    (hc : windowCount s w = some c) (hheld : counterHeld s (wfield w 0 28 3) (.home c) = false) :
    Runs (.hostSendAck i n) s (inOrder [onNet (fun k => { k with rings := k.rings.map (fun y =>
        if y.part = wfield w 0 28 3 ∧ y.num = wfield w 0 16 4 then { y with outbound := y.outbound.drop n, sends := rest } else y) }),
      counterAdd (wfield w 0 28 3) c n []] s) := by
  change execHostSendAck i n s = _
  simp only [execHostSendAck, hw, hr, hs, hx, huse, hkind, hc, hheld, Bool.not_true, bne_self_eq_false, Option.any_some, Bool.or_self,
    Bool.false_eq_true, if_false]

/-- Settles O51: one lemma for each outcome of each event; a granule that lands leaves the messages at the ordering points. -/
theorem linkAndHostEvents : Obligations.LinkAndHostEvents := by
  unfold Obligations.LinkAndHostEvents
  refine ⟨linkDown_runs, linkReturn_runs, fun id tag st s w e hw htag he hown => ⟨requestTimeout_inTime hw htag he, fun hlate => ?_⟩,
    fun id tag st s w e hw htag he hown hlate => ?_,
    fun qpn rkey va data s hlen => ⟨hostRdmaWrite_refused hlen, fun w ps c => hostRdmaWrite_arrives hlen, fun len hlen => hostRdmaRead_refused hlen,
      fun len w ps c hlen => hostRdmaRead_arrives hlen⟩,
    fun qpn rkey va len words imm data s hdata hlen hwords => host_oversize hdata hlen hwords,
    fun qpn words imm s hlen => ⟨hostSend_refused hlen, fun w c ps h hring hpart => ⟨hostSend_full hlen h hring, fun hroom => ?_⟩⟩,
    fun a s hwait => ⟨landArrival_read hwait, fun c => landArrival_counts hwait, fun g rest => landArrival_granule hwait⟩,
    fun i n s w r x rest c => hostSendAck_runs, fun qpn s => ⟨rfl, rfl, rfl⟩, fun port prio s => ⟨rfl, rfl⟩⟩
  · rw [← failTag_open hw hown]
    exact requestTimeout_late hw htag he hlate
  · rw [← failTag_finished hown]
    exact requestTimeout_late hw htag he hlate
  · exact hostSend_arrives hlen h hring hpart hroom

end Sys2Proof.Machine
end

section
/-! PROOFS. A chunk's stores become visible together (R230, R332). -/

namespace Sys2Proof.Machine

/-! ### Bytes of root memory (R230) -/

/-- Where one script alone touches a part, the part is what that script makes of the state it runs in. -/
theorem run_inOrder_around {α : Type} {p : State → α} {f : State → List Upd} {before after : List (State → List Upd)}
    (hb : ∀ g ∈ before, Keeps p g) (ha : ∀ g ∈ after, Keeps p g) (s : State) :
    ∃ t, p t = p s ∧ p (s.run (inOrder (before ++ f :: after) s)) = p (t.run (f t)) := by
  induction before generalizing s with
  | nil => exact ⟨s, rfl, run_inOrder_head ha s⟩
  | cons g before ih =>
    obtain ⟨t, ht, hrun⟩ := ih (fun g hg => hb g (List.mem_cons_of_mem _ hg)) (s.run (g s))
    refine ⟨t, ht.trans (hb g List.mem_cons_self s), ?_⟩
    rw [List.cons_append, inOrder_cons, run_append, hrun]

/-- The last byte that a list of cells holds for an address. -/
theorem cellGet_foldl_memPut (cells : List Host.Cell) (m : Memory) {a : Nat} (ha : a < memLimit) :
    cellGet (cells.foldl (fun m c => memPut m c.1 c.2) m) a = ((cells.reverse.find? (fun c => c.1 == a)).map (·.2)).getD (cellGet m a) := by
  induction cells using List.reverseRecOn with
  | nil => rfl
  | append_singleton cells c ih =>
    rw [List.foldl_concat, cellGet_memPut, ih, List.reverse_append, List.reverse_singleton, List.singleton_append, List.find?_cons]
    by_cases h : c.1 = a
    · simp [h, ha]
    · simp [beq_eq_false_iff_ne.mpr h, Ne.symm h]

theorem find?_map_keys (f : Host.Cell → Byte) (cells : List Host.Cell) (a : Nat) :
    (cells.map (fun c => (c.1, f c))).find? (fun c => c.1 == a) = (cells.find? (fun c => c.1 == a)).map (fun c => (c.1, f c)) := by
  rw [List.find?_map]
  rfl

/-- Bytes that are written are read, whatever key the memory is read under. -/
theorem rootByte_putBytes (cells : List Host.Cell) (s : State) {a : Nat} (ha : a < memLimit) :
    rootByte (s.run (putBytes cells s)) a = ((cells.reverse.find? (fun c => c.1 == a)).map (·.2)).getD (rootByte s a) := by
  by_cases hkeys : s.dev.rekeys.isEmpty = true
  · simp only [putBytes, hkeys, if_true, run_cons, run_nil, rootByte, bytes_dev, bytes_mem, cellGet_foldl_memPut cells s.mem ha]
  · simp only [putBytes, hkeys, Bool.false_eq_true, if_false, run_cons, run_nil, rootByte, bytes_dev, bytes_mem, blankByte,
      cellGet_foldl_memPut _ s.mem ha, ← List.map_reverse, find?_map_keys]
    cases hfind : cells.reverse.find? (fun c => c.1 == a) with
    | none => rfl
    | some c =>
      have key : c.1 = a := by simpa using List.find?_some hfind
      simp [key]

/-! ### Cells at their homes (R230, R253, R332) -/

/-- The byte that stores, the last first, leave at an address of memory. -/
def lastStore (stores : List (Place × Byte)) (a : Nat) : Option Byte :=
  (stores.find? (fun x => x.1.space == .mem && x.1.addr == a)).map (·.2)

theorem find?_memCells (cells : List (Place × Byte)) (a : Nat) :
    ((memCells cells).find? (fun c => c.1 == a)).map (·.2) = lastStore cells a := by
  induction cells with
  | nil => rfl
  | cons c cells ih =>
    rw [lastStore] at ih ⊢
    by_cases hmem : c.1.space = .mem
    · by_cases ha : c.1.addr = a <;> simp_all [memCells]
    · simp_all [memCells]

section
variable {wr : Writer} {stores : List (Place × Byte)} {marks : List (Place × Bool)} {s : State}

theorem applyCells_remaps : (s.run (applyCells wr stores marks s)).order.remaps = s.order.remaps := by
  refine (congrArg (·.2.2.1) (applyCells_homes wr stores marks s)).trans ?_
  dsimp only [State.homes]
  split
  · exact putBytes_remaps _ s
  · rfl

/-- Bytes that go to the root are what root memory holds there. -/
theorem rootByte_applyCells_root (hroot : effective s wr.part wr.path = 0) {a : Nat} (ha : a < memLimit) :
    rootByte (s.run (applyCells wr stores.reverse marks s)) a = (lastStore stores a).getD (rootByte s a) := by
  rw [rootByte_of_homes (applyCells_homes wr stores.reverse marks s), ← find?_memCells]
  cases hcells : (memCells stores.reverse).isEmpty with
  | true =>
    have absent : memCells stores = [] := by
      rw [memCells, List.filterMap_reverse, List.isEmpty_reverse, List.isEmpty_iff] at hcells
      exact hcells
    simp [absent]
  | false =>
    rw [if_pos (by simp [hroot]), rootByte_putBytes _ s ha, memCells, List.filterMap_reverse, List.reverse_reverse, memCells]

/-- Bytes that go to a shoot leave root memory. -/
theorem rootByte_applyCells_shoot (hshoot : effective s wr.part wr.path ≠ 0) (a : Nat) :
    rootByte (s.run (applyCells wr stores marks s)) a = rootByte s a := by
  rw [rootByte_of_homes (applyCells_homes wr stores marks s), if_neg (by rw [decide_eq_false hshoot, Bool.false_and]; exact Bool.false_ne_true)]
  rfl

end

theorem lastStore_filter_in {keep : Place → Bool} {stores : List (Place × Byte)} {a : Nat}
    (h : ∀ p : Place, p.space = .mem → p.addr = a → keep p = true) : lastStore (stores.filter (fun c => keep c.1)) a = lastStore stores a := by
  rw [lastStore, List.find?_filter]
  refine congrArg _ (congrArg (List.find? · stores) (funext fun c => ?_))
  by_cases hmem : c.1.space = .mem <;> by_cases ha : c.1.addr = a <;> simp [hmem, ha, h c.1]

theorem lastStore_filter_out {keep : Place → Bool} {stores : List (Place × Byte)} {a : Nat}
    (h : ∀ p : Place, p.space = .mem → p.addr = a → keep p = false) : lastStore (stores.filter (fun c => keep c.1)) a = none := by
  rw [lastStore, List.find?_filter, Option.map_eq_none_iff, List.find?_eq_none]
  intro c _
  by_cases hmem : c.1.space = .mem <;> by_cases ha : c.1.addr = a <;> simp [hmem, ha, h c.1]

/-! ### A chunk's bytes (R332) -/

/-- A place of the page-table entry at ea. -/
def inEntry (ea : Nat) (p : Place) : Bool := p.space == .mem && decide (ea ≤ p.addr) && decide (p.addr < ea + 32)

section
variable {s t : State} {w : Warp} {stores : List (Place × Byte)} {marks : List (Place × Bool)} {a : Nat}

theorem inEntry_of_mem {ea : Nat} {p : Place} (hp : p.space = .mem) : inEntry ea p = (decide (ea ≤ p.addr) && decide (p.addr < ea + 32)) := by
  simp [inEntry, hp]

/-- A handler's bytes beside the entry it was started for go with its own path, then those in the entry with the faulting warp's. -/
theorem run_applyChunk_missed {ea : Nat} {path : Path} (hmiss : missedEntry s w = some (ea, path)) : ∃ u beside within,
    u = t.run (applyCells (warpWriter s w) (stores.filter (fun c => !inEntry ea c.1)).reverse beside t)
    ∧ t.run (applyChunk s w stores.reverse marks t)
        = u.run (applyCells { warpWriter s w with path := path } (stores.filter (fun c => inEntry ea c.1)).reverse within u) := by
  refine ⟨_, marks.filter (fun m => !inEntry ea m.1), marks.filter (fun m => inEntry ea m.1), rfl, ?_⟩
  simp only [applyChunk, hmiss, inOrder_cons, inOrder_nil, List.append_nil, run_append, List.filter_reverse]
  rfl

theorem rootByte_applyChunk (hroot : effective t w.part w.path = 0) (ha : a < memLimit)
    (hentry : ∀ ea path, missedEntry s w = some (ea, path) → effective t w.part path = 0 ∨ a < ea ∨ ea + 32 ≤ a) :
    rootByte (t.run (applyChunk s w stores.reverse marks t)) a = (lastStore stores a).getD (rootByte t a) := by
  cases hmiss : missedEntry s w with
  | none =>
    simp only [applyChunk, hmiss]
    exact rootByte_applyCells_root hroot ha
  | some x =>
    obtain ⟨ea, path⟩ := x
    obtain ⟨u, beside, within, hu, hrun⟩ := run_applyChunk_missed (stores := stores) (marks := marks) (t := t) hmiss
    have first : rootByte u a = (lastStore (stores.filter (fun c => !inEntry ea c.1)) a).getD (rootByte t a) :=
      hu ▸ rootByte_applyCells_root hroot ha
    have same : effective u w.part path = effective t w.part path := by rw [effective, effective, hu, applyCells_remaps]
    rw [hrun]
    by_cases hin : ea ≤ a ∧ a < ea + 32
    · have inside : ∀ p : Place, p.space = .mem → p.addr = a → inEntry ea p = true := fun p hp hpa => by
        simp [inEntry_of_mem hp, hpa, hin]
      have root : effective u w.part path = 0 := same.trans ((hentry ea path hmiss).resolve_right (by omega))
      have second := rootByte_applyCells_root (wr := { warpWriter s w with path := path }) (stores := stores.filter (fun c => inEntry ea c.1))
        (marks := within) root ha
      rw [second, first, lastStore_filter_in inside,
        lastStore_filter_out (keep := fun p => !inEntry ea p) (fun p hp hpa => by rw [inside p hp hpa, Bool.not_true]), Option.getD_none]
    · have out : ∀ p : Place, p.space = .mem → p.addr = a → inEntry ea p = false := fun p hp hpa => by
        rw [inEntry_of_mem hp, hpa]
        simp only [Bool.and_eq_false_iff, decide_eq_false_iff_not]
        omega
      have second : rootByte (u.run (applyCells { warpWriter s w with path := path } (stores.filter (fun c => inEntry ea c.1)).reverse within u)) a
          = rootByte u a := by
        by_cases root : effective u w.part path = 0
        · exact (rootByte_applyCells_root root ha).trans (by rw [lastStore_filter_out out, Option.getD_none])
        · exact rootByte_applyCells_shoot root a
      rw [second, first, lastStore_filter_in (keep := fun p => !inEntry ea p) (fun p hp hpa => by rw [out p hp hpa, Bool.not_false])]

theorem rootByte_applyChunk_missed {ea : Nat} {path : Path} (hroot : effective t w.part w.path = 0) (ha : a < memLimit)
    (hmiss : missedEntry s w = some (ea, path)) (hshoot : effective t w.part path ≠ 0) (hlo : ea ≤ a) (hhi : a < ea + 32) :
    rootByte (t.run (applyChunk s w stores.reverse marks t)) a = rootByte t a := by
  obtain ⟨u, beside, within, hu, hrun⟩ := run_applyChunk_missed (stores := stores) (marks := marks) (t := t) hmiss
  have same : effective u w.part path ≠ 0 := by rwa [effective, hu, applyCells_remaps]
  have out : ∀ p : Place, p.space = .mem → p.addr = a → (!inEntry ea p) = false := fun p hp hpa => by
    simp [inEntry_of_mem hp, hpa, hlo, hhi]
  have first : rootByte u a = (lastStore (stores.filter (fun c => !inEntry ea c.1)) a).getD (rootByte t a) :=
    hu ▸ rootByte_applyCells_root hroot ha
  rw [hrun]
  exact (rootByte_applyCells_shoot same a).trans (by rw [first, lastStore_filter_out (keep := fun p => !inEntry ea p) out, Option.getD_none])

end

/-! ### A position of stores (R230) -/

theorem closeEmpty_keeps (pos : Nat) : Keeps State.homes (closeEmpty pos) := onOrder_keeps (fun _ => rfl)

theorem logAccesses_keeps (as : List Access) : Keeps State.homes (logAccesses as) := by
  intro s
  unfold logAccesses
  split
  · rfl
  · exact onOrder_keeps (g := fun o => { o with accesses := o.accesses ++ freshOnly o.accesses as }) (fun _ => rfl) s

theorem noteReads_keeps (s : State) (w : Warp) : Keeps State.homes (noteReads s w) := by
  unfold noteReads
  split
  · exact keeps_nil
  · exact keeps_of_apart (onPart_apart w.part _)

theorem squashCombiners_keeps (w : Warp) : Keeps State.homes (squashCombiners w) := by
  intro s
  unfold squashCombiners
  split
  · rfl
  · exact keeps_forEach (fun v _ => squash_keeps v.id) s

theorem enterSpawns_keeps (w : Warp) : Keeps State.homes (enterSpawns w) := by
  refine keeps_of_apart (fun s => ?_)
  unfold enterSpawns
  split
  · rfl
  · rw [List.all_cons]
    split
    · exact onWarp_apart ..
    · rfl

theorem passPriority_keeps : Keeps State.homes passPriority := by
  refine keeps_of_apart (fun s => ?_)
  unfold passPriority
  split
  · rfl
  · split
    · exact onWarp_apart ..
    · rfl

theorem noteOwners_remaps (s : State) (w : Warp) (o : Ordering_) : (noteOwners s w o).remaps = o.remaps := by
  unfold noteOwners
  split <;> rfl

theorem addAfter_keeps (pos : Nat) (xs : List AfterCommit) : Keeps State.homes (addAfter pos xs) := by
  intro s
  unfold addAfter
  split
  · rfl
  · exact onOrder_keeps (g := fun o => { o with commits := o.commits.map (fun c => if c.pos = pos then { c with after := c.after ++ xs } else c) })
      (fun _ => rfl) s

/-- What a committed warp takes changes no memory. -/
theorem committedTrap_keeps (pos wid : Nat) (w : Warp) : Keeps State.homes (fun s => match committedTrap s w with
    | none => []
    | some t => andThen (addAfter pos [.trap w.chunk.lastFrag { t with fpc := some w.chunk.lastPc }]) (addHolds wid [.commit pos]) s) := by
  intro s
  dsimp only
  split
  · rfl
  · exact keeps_andThen (addAfter_keeps pos _) (keeps_of_apart (onWarp_apart wid _)) s

/-- At the position of a chunk that holds only stores, memory is what its bytes make of it. -/
theorem commitChunk_homes {wid : Nat} {s : State} {w : Warp} (hw : s.warp? wid = some w) (hatoms : w.chunk.atoms = []) (hafter : w.chunk.after = []) :
    ∃ (marks : List (Place × Bool)) (t : State), t.homes = s.homes
      ∧ (s.run (commitChunk wid s)).homes = (t.run (applyChunk s w w.chunk.bytes.reverse marks t)).homes := by
  have nothing (s : State) : releaseBytes s w = [] := by rw [releaseBytes, hafter, List.flatMap_nil]
  simp only [commitChunk, hw, hatoms, List.foldl_nil, nothing, List.append_nil, hafter]
  refine ⟨chunkMarks s w w.chunk.bytes.reverse, run_inOrder_around (p := State.homes) (before := [_, _, _, _, _]) ?_ ?_ s⟩
  · simp only [List.forall_mem_cons]
    exact ⟨noteReads_keeps s w, onOrder_keeps (fun _ => rfl), squashCombiners_keeps w, keeps_of_apart (fun _ => rfl), onOrder_keeps (fun _ => rfl),
      List.forall_mem_nil _⟩
  · simp only [List.forall_mem_cons]
    exact ⟨onOrder_keeps (fun _ => rfl), onOrder_keeps (fun _ => noteOwners_remaps ..), keeps_of_apart (fun _ => rfl), onNet_keeps (fun _ => rfl),
      keeps_of_apart (onTask_apart w.task _), enterSpawns_keeps w, logAccesses_keeps _, keeps_forEach (by simp), committedTrap_keeps _ _ w,
      closeEmpty_keeps _, passPriority_keeps, List.forall_mem_nil _⟩

/-! ### The entry a handler was started for (R332) -/

theorem walkFrom_congr {s t : State} (h : ∀ die part realm level off ea, walkRead t die part realm level off ea = walkRead s die part realm level off ea)
    (levels : List Nat) (p : Part) (die realm : Nat) (off : DWord) (table : Nat) (kv u w x demand : Bool) :
    walkFrom levels t p die realm off table kv u w x demand = walkFrom levels s p die realm off table kv u w x demand := by
  induction levels generalizing table kv u w x demand with
  | nil => rfl
  | cons l rest ih => simp only [walkFrom, h, ih]

theorem walk_run_warp (s : State) (v : Warp) (p : Part) (die realm root : Nat) (off : DWord) :
    walk (s.run [.warp v]) p die realm root off = walk s p die realm root off := by
  have reads (die part realm level off ea : Nat) : walkRead (s.run [.warp v]) die part realm level off ea = walkRead s die part realm level off ea := rfl
  simp only [walk, walkFrom_congr reads]

/-- A warp that replaces another of the same task leaves the entry it was started for. -/
theorem missedEntry_run_warp (s : State) {w v : Warp} (hhnd : v.hnd = w.hnd) (htask : v.task = w.task) (hpart : v.part = w.part)
    (hcore : v.core = w.core) : missedEntry (s.run [.warp v]) v = missedEntry s w := by
  have task (n : Nat) : (s.run [.warp v]).task? n = s.task? n := rfl
  have part (n : Nat) : (s.run [.warp v]).part? n = s.part? n := rfl
  have entry (p : Part) (n : Nat) : realmEntry (s.run [.warp v]) p n = realmEntry s p n := rfl
  simp only [missedEntry, walk_run_warp, task, part, entry, hhnd, htask, hpart, hcore]

/-- Settles O60: of the effects of a position only the chunk's bytes reach memory, and a byte reads as it was written last. -/
theorem storesBecomeVisible : Obligations.StoresBecomeVisible := by
  unfold Obligations.StoresBecomeVisible
  intro s w hw hready hdrain htrap hroot hatoms hafter
  have plain : deferredEnd s w = false := by rw [deferredEnd, hafter]; rfl
  have runs := chunkPosition_commits hw hready (by rw [plain]; exact hdrain) (by rw [plain]; exact htrap)
  rw [plain] at runs
  refine ⟨_, runs, fun a ha => ?_⟩
  set d := s.run [.warp w.drain]
  have drained : d.warp? w.id = some w.drain := warp?_run_warp s [] w.drain
  have homes : d.homes = s.homes := rfl
  obtain ⟨marks, t, ht, hrun⟩ := commitChunk_homes drained hatoms hafter
  have byte (a : Nat) : rootByte t a = rootByte s a := rootByte_of_homes (ht.trans homes) a
  have path (p : Path) : effective t w.part p = effective s w.part p := effective_of_homes (ht.trans homes) w.part p
  have root : effective t w.drain.part w.drain.path = 0 := (path w.path).trans hroot
  have final : rootByte (s.run (.warp w.drain :: commitChunk w.id d)) a
      = rootByte (t.run (applyChunk d w.drain w.chunk.bytes.reverse marks t)) a := rootByte_of_homes hrun a
  have missed : missedEntry d w.drain = missedEntry s w := missedEntry_run_warp s rfl rfl rfl rfl
  refine ⟨fun hentry => ?_, fun ea p hmiss hshoot hlo hhi => ?_⟩
  · refine final.trans ?_
    rw [rootByte_applyChunk root ha (fun ea p hmiss => ?_), byte, lastStore]
    have := hentry ea p (missed.symm.trans hmiss)
    rwa [← path p] at this
  · refine final.trans ?_
    rw [rootByte_applyChunk_missed root ha (missed.trans hmiss) ?_ hlo hhi, byte]
    exact fun h => hshoot ((path p).symm.trans h)

end Sys2Proof.Machine
end

section
/-! PROOFS. Granules, completions and faults of engine commands (R244, R250, R293, R297, R298, R301 to R305, R312, R344, R346, R349, R351, R496). -/

namespace Sys2Proof.Machine

theorem andThen_nothing (us : State → List Upd) : andThen (fun _ => []) us = us := by
  funext s
  simp only [andThen, inOrder_cons, inOrder_nil, run_nil, List.nil_append, List.append_nil]

theorem andThen_forEach_nil {α : Type} (f : α → State → List Upd) (us : State → List Upd) : andThen (forEach [] f) us = us := andThen_nothing us

theorem inOrder_andThen (f g h : State → List Upd) (s : State) : inOrder [f, andThen g h] s = inOrder [f, g, h] s := by
  simp only [andThen, inOrder_cons, inOrder_nil, run_append, List.append_nil]

/-! ### A command at work (R250) -/

/-- What a command at work does: it holds its translations first. -/
def atWorkOn (id : Nat) (s : State) (j : Job) (us : State → List Upd) : List Upd := andThen (onJob id (fun _ => atWork s j)) us s

/-- The state in which a command at work holds its translations. -/
def atWorkState (id : Nat) (s : State) (j : Job) : State := s.run (onJob id (fun _ => atWork s j) s)

theorem atWorkOn_congr {id : Nat} {s : State} {j : Job} {us vs : State → List Upd} (h : us (atWorkState id s j) = vs (atWorkState id s j)) :
    atWorkOn id s j us = atWorkOn id s j vs := by
  rw [atWorkState] at h
  simp only [atWorkOn, andThen, inOrder_cons, inOrder_nil, h]

/-- The counter of a command is found, and no chunk with priority holds it. -/
def CounterFree (s : State) (j : Job) (c : CounterRef) : Prop := jobCounter s j = .ok c ∧ advanceHeld s j.part c = false

theorem withCounter_of_free {s : State} {j : Job} {c : CounterRef} (h : CounterFree s j c) (go : CounterRef → List Upd) :
    withCounter j s go = go c := by
  obtain ⟨hc, hheld⟩ := h
  simp only [withCounter, hc, hheld, Bool.false_eq_true, if_false]

theorem finishJob_of_free {s : State} {j : Job} {c : CounterRef} (h : CounterFree s j c) (amount : Nat) :
    finishJob j amount s = inOrder [advance j.part j.path c amount (jobClock j), endJob j] s := by
  rw [finishJob, withCounter_of_free h, andThen]

section
variable {id : Nat} {s : State} {j : Job}

theorem runnerGranule_waits (hj : s.job? id = some j) (resp : PeerResp) (hready : jobReady s j = false) :
    exec (.runnerGranule id resp) s = .next s := by
  change execRunnerGranule id resp s = _
  simp only [execRunnerGranule, hj, hready, Bool.not_false, if_true, run_nil]

theorem runnerGranule_runs (hj : s.job? id = some j) {resp : PeerResp} (hready : jobReady s j = true) {us : State → List Upd}
    (hus : granuleOf (atWorkState id s j) (atWork s j) resp = us (atWorkState id s j)) : Runs (.runnerGranule id resp) s (atWorkOn id s j us) := by
  rw [← atWorkOn_congr (us := fun t => granuleOf t (atWork s j) resp) hus]
  change execRunnerGranule id resp s = _
  simp only [execRunnerGranule, hj, hready, Bool.not_true, Bool.false_eq_true, if_false, atWorkOn]

end

section
variable {s : State} {j : Job}

theorem granuleOf_rcopy (h : j.kind = .rcopy) (resp : PeerResp) : granuleOf s j resp = copyGranule s j resp := by rw [granuleOf, h]
theorem granuleOf_topk (h : j.kind = .topk) (resp : PeerResp) : granuleOf s j resp = topkGranule s j := by rw [granuleOf, h]
theorem granuleOf_beammap (h : j.kind = .beammap) (resp : PeerResp) : granuleOf s j resp = beamGranule s j := by rw [granuleOf, h]
theorem granuleOf_coll (h : j.kind = .coll) (resp : PeerResp) : granuleOf s j resp = collGranule s j := by rw [granuleOf, h]
theorem granuleOf_kvcompact (h : j.kind = .kvcompact) (resp : PeerResp) : granuleOf s j resp = compactGranule s j := by rw [granuleOf, h]
theorem granuleOf_ckpt (h : j.kind = .ckpt) (resp : PeerResp) : granuleOf s j resp = ckptGranule s j := by rw [granuleOf, h]

end

/-! ### Copies (R312) -/

/-- Pieces that all lie in memory here. -/
def PiecesHere (ps : List Piece) : Prop := ∀ p ∈ ps, ∃ (a : Nat) (e : Option Nat), p.route = .mem a e

theorem filter_remote_here {ps : List Piece} (h : PiecesHere ps) : ps.filter Piece.remote = [] := by
  refine List.filter_eq_nil_iff.mpr (fun p hp => ?_)
  obtain ⟨a, e, hr⟩ := h p hp
  simp [Piece.remote, hr]

/-- What is made of a piece in memory here and the bytes that go to it. -/
def pieceHere {α : Type} (f : Place → List (Byte × Bool) → List α) (bs : List (Byte × Bool)) (p : Piece) : List α :=
  match p.route with
  | .mem a _ => f (memPlace a) ((bs.drop p.at_).take p.len)
  | .peer .. => []
  | .ether .. => []

/-- Where a piece in memory here begins, with the bytes that go to it. -/
def localBytes (bs : List (Byte × Bool)) (p : Piece) : Option (Place × List (Byte × Bool)) :=
  match p.route with
  | .mem a _ => some (memPlace a, (bs.drop p.at_).take p.len)
  | .peer .. => none
  | .ether .. => none

theorem localBytes_elim {α : Type} (f : Place → List (Byte × Bool) → List α) (bs : List (Byte × Bool)) (p : Piece) :
    (localBytes bs p).elim [] (fun x => f x.1 x.2) = pieceHere f bs p := by
  unfold localBytes pieceHere
  cases p.route <;> rfl

theorem flatMap_filterMap_of_elim {α β γ : Type} {here : α → Option β} {f : β → List γ} {each : α → List γ}
    (h : ∀ p, (here p).elim [] f = each p) (ps : List α) : (ps.filterMap here).flatMap f = ps.flatMap each := by
  induction ps with
  | nil => rfl
  | cons p ps ih =>
    have hp := h p
    cases hh : here p with
    | none =>
      rw [hh, Option.elim_none] at hp
      rw [List.filterMap_cons_none hh, ih, List.flatMap_cons, ← hp, List.nil_append]
    | some x =>
      rw [hh, Option.elim_some] at hp
      rw [List.filterMap_cons_some hh, List.flatMap_cons, List.flatMap_cons, ih, hp]

/-- A granule that goes to memory here lands at one position. -/
theorem copyLand_here {s : State} {j : Job} {bs : List (Byte × Bool)} {reads : List Place} {ps : List Piece} (hkind : j.kind = .rcopy)
    (hroutes : routes s j.owner { write := true, engine := true } (j.realmOf (wfield j.desc 5 2 2)) (BitVec.ofNat 64 (j.dst + j.landed)) bs.length
      = .ok ps) (hhere : PiecesHere ps) : copyLand s j bs reads
    = landWrites j (ps.flatMap (pieceHere cellsFor bs)) (ps.flatMap (pieceHere marksFor bs)) reads (progress j.id bs.length j.total) s := by
  have copies : j.kind ≠ .window := by rw [hkind]; exact nofun
  simp only [copyLand, copies, if_false, hroutes, filter_remote_here hhere, andThen_forEach_nil]
  exact congrArg₂ (fun cells marks => landWrites j cells marks reads (progress j.id bs.length j.total) s)
    (flatMap_filterMap_of_elim (localBytes_elim cellsFor bs) ps) (flatMap_filterMap_of_elim (localBytes_elim marksFor bs) ps)

theorem copyGranule_here {s : State} {j : Job} {resp : PeerResp} {bs : List (Byte × Bool)} {reads : List Place} {ps : List Piece}
    (hkind : j.kind = .rcopy) (hleft : j.landed < j.total)
    (hsource : copySource s j (min (128 - (j.dst + j.landed) % 128) (j.total - j.landed)) resp = .bytes bs reads)
    (hroutes : routes s j.owner { write := true, engine := true } (j.realmOf (wfield j.desc 5 2 2)) (BitVec.ofNat 64 (j.dst + j.landed)) bs.length
      = .ok ps) (hhere : PiecesHere ps) : copyGranule s j resp
    = landWrites j (ps.flatMap (pieceHere cellsFor bs)) (ps.flatMap (pieceHere marksFor bs)) reads (progress j.id bs.length j.total) s := by
  have copies : j.kind ≠ .window := by rw [hkind]; exact nofun
  have size : copySize j = min (128 - (j.dst + j.landed) % 128) (j.total - j.landed) := by rw [copySize, if_neg copies]
  rw [← size] at hsource
  simp only [copyGranule, Nat.not_le.mpr hleft, if_false, hsource, copyLand_here hkind hroutes hhere]

/-! ### KVCOMPACT and checkpoints (R344, R496) -/

/-- The last move of a KVCOMPACT lands, and the command ends. -/
theorem compactGranule_last {s : State} {j : Job} {a b : Nat} (hlast : j.landed + 1 = j.total)
    (ha : compactFrame s j (j.data.getD (4 * j.landed) 0) = .ok a) (hb : compactFrame s j (j.data.getD (4 * j.landed + 2) 0) = .ok b) :
    let from_ := memPlace (a + j.data.getD (4 * j.landed + 1) 0)
    let bs := readPlaces s j.view from_ 128
    let to_ := memPlace (b + j.data.getD (4 * j.landed + 3) 0)
    compactGranule s j = landWrites j (cellsFor to_ bs) (marksFor to_ bs) (wordsOf from_ 128) (endJob j) s := by
  intro from_ bs to_
  have left : ¬ j.total ≤ j.landed := by omega
  simp only [compactGranule, left, if_false, compactPages, ha, hb, hlast, if_true, from_, bs, to_]

theorem ckptGranule_leaves {s : State} {j : Job} {st ap o : Nat} (hleft : j.landed < j.total)
    (hroutes : routes s j.owner { write := true } (ckptPlace j j.landed).2.1 (BitVec.ofNat 64 (ckptPlace j j.landed).2.2) 128
      = .ok [⟨0, 128, .peer st ap o⟩]) :
    let bs := readPlaces s j.view (memPlace (ckptPlace j j.landed).1) 128
    ckptGranule s j = inOrder [sendGranule j ⟨0, 128, .peer st ap o⟩
      ((streamLine s ((ckptPlace j j.landed).1 / 128) (bs.map (·.1))).zip (bs.map (·.2))), progress j.id 1 j.total] s := by
  intro bs
  simp only [ckptGranule, Nat.not_le.mpr hleft, if_false, hroutes, List.all_cons, List.all_nil, Bool.and_self, if_true, andThen, forEach,
    List.map_cons, List.map_nil, inOrder_cons, inOrder_nil, List.append_nil, bs]

theorem ckptGranule_ends {s : State} {j : Job} {c : CounterRef} (hdone : j.total ≤ j.landed) (hacks : ∀ p ∈ s.net.peerPending, p.job ≠ j.id)
    (hfree : CounterFree s j c) : ckptGranule s j = inOrder [advance j.part j.path c 1 (jobClock j), endJob j] s := by
  have acked : s.net.peerPending.any (fun p => p.job == j.id) = false := by simpa using hacks
  simp only [ckptGranule, hdone, if_true, acked, Bool.false_eq_true, if_false, finishJob_of_free hfree]

/-! ### Windows (R298, R301 to R305) -/

section
variable {id : Nat} {s : State} {j : Job} {x : Window}

/-- A command's window changes. -/
def windowOf (id : Nat) (j : Job) (f : Window → Window) : State → List Upd :=
  onTask j.task (fun t => { t with windows := t.windows.map (fun x => if x.job = id then f x else x) })

theorem windowCopyStart_runs (hj : s.job? id = some j) (hkind : j.kind = .window) (hstarted : j.started = true) (hphase : j.phase = 2)
    (hpart : partWorks s j.part = true) (hmay : mayStart s j = true) (hx : jobWindow s j = some x) (hstate : x.state = 1) :
    let source := haloLocks s j s.model.nextId
    Runs (.windowCopyStart id) s (inOrder [windowOf id j (fun x => { x with state := 2, landed := 0, fault := false }),
      if source.isEmpty then fun _ => [] else andThen (onOrder (fun o => { o with locks := o.locks.filter (fun l => l.holder != id || l.dest) ++ source }))
        (useIds source.length)] s) := by
  intro source
  change execWindowCopyStart id s = _
  simp only [execWindowCopyStart, hj, hkind, hstarted, hphase, hpart, hmay, hx, hstate, beq_self_eq_true, Option.any_some, Bool.and_self, if_true,
    windowOf, source]

theorem windowLanded_runs {c : CounterRef} (hj : s.job? id = some j) (hkind : j.kind = .window) (hdone : j.total ≤ j.landed)
    (hpart : partWorks s j.part = true) (hx : jobWindow s j = some x) (hstate : x.state = 2) (hfree : CounterFree s j c) :
    Runs (.windowLanded id) s (inOrder [windowOf id j (fun x => { x with state := 3, landed := j.landed }), endJob j,
      advance j.part j.path c 1 (jobClock j)] s) := by
  change execWindowLanded id s = _
  simp only [execWindowLanded, hj, hkind, hdone, hpart, hx, hstate, beq_self_eq_true, Option.any_some, decide_true, Bool.and_self, if_true,
    withCounter_of_free hfree, windowOf]

end

/-! ### Completions and stops (R297, R312, R316, R320, R349, R351) -/

section
variable {id : Nat} {s : State} {j : Job} {c : CounterRef}

theorem rcopyComplete_runs (hj : s.job? id = some j) (hkind : j.kind = .rcopy) (hready : jobReady s j = true) (hdone : j.total ≤ j.landed)
    (hacks : ∀ p ∈ s.net.peerPending, p.job ≠ id) (hfree : CounterFree s j c) :
    Runs (.rcopyComplete id) s (inOrder [advance j.part j.path c j.amount.toNat (jobClock j), endJob j] s) := by
  have acked : s.net.peerPending.any (fun p => p.job == id) = false := by simpa using hacks
  change execRcopyComplete id s = _
  simp only [execRcopyComplete, hj, hkind, hready, hdone, acked, beq_self_eq_true, decide_true, Bool.and_self, Bool.not_false, if_true,
    finishJob_of_free hfree]

theorem topkComplete_runs (hj : s.job? id = some j) (hkind : j.kind = .topk) (hready : jobReady s j = true) (hdone : j.total ≤ j.landed)
    (hfree : CounterFree s j c) : Runs (.topkComplete id) s (inOrder [advance j.part j.path c 1 (jobClock j), endJob j] s) := by
  change execTopkComplete id s = _
  simp only [execTopkComplete, hj, hkind, hready, hdone, beq_self_eq_true, decide_true, Bool.and_self, if_true, finishJob_of_free hfree]

theorem collComplete_runs (hj : s.job? id = some j) (hkind : j.kind = .coll) (hphase : j.phase = 1) (hcame : collComplete? j = true)
    (hdone : (collRange j).2 ≤ j.landed) (hpart : partWorks s j.part = true) (hfree : CounterFree s j c) :
    Runs (.collComplete id) s (inOrder [advance j.part j.path c 1 (jobClock j), endJob j] s) := by
  change execCollComplete id s = _
  simp only [execCollComplete, hj, hkind, hphase, hcame, hpart, Nat.not_lt.mpr hdone, bne_self_eq_false, Bool.not_true, decide_false, Bool.or_self,
    Bool.false_eq_true, if_false, finishJob_of_free hfree]

theorem engineCommandStop_runs {code detail : Nat} {e : Cause} (hj : s.job? id = some j) (he : engineCause code = some e) (hsent : j.sent = true)
    (hpart : ∃ p, s.part? j.part = some p ∧ p.state = .running) :
    Runs (.engineCommandStop id code detail) s (stopJob j (raiseD e (BitVec.ofNat 32 detail)) s) := by
  obtain ⟨p, hp, hstate⟩ := hpart
  change execEngineCommandStop id code detail s = _
  simp only [execEngineCommandStop, hj, he, hsent, hp, hstate, Option.any_some, beq_self_eq_true, Bool.and_self, if_true]

theorem beammapFlip_runs {a : Nat} {e : Option Nat} (hj : s.job? id = some j) (hkind : j.kind = .beammap) (hready : jobReady s j = true)
    (hdone : j.total ≤ j.landed) (hat : translate s j.owner { write := true, local_ := true } j.dst (BitVec.ofNat 64 j.src) 4 = .ok (.mem a e)) :
    Runs (.beammapFlip id) s
      (landWrites j ((placesFrom (memPlace a) 4).zip (valBytes 4 (wordAt j.desc 0 ^^^ 1).toNat)) [] [] (endJob j) s) := by
  change execBeammapFlip id s = _
  simp only [execBeammapFlip, hj, hkind, hready, hdone, hat, beq_self_eq_true, decide_true, Bool.and_self, Bool.not_true, Bool.false_eq_true, if_false]

theorem cwbComplete_runs (hj : s.job? id = some j) (hkind : j.kind = .cwb) (hsent : j.sent = true) :
    Runs (.cwbComplete id) s (inOrder [returnTag j.warp j.tag [] 0, dropJob id] s) := by
  change execCwbComplete id s = _
  simp only [execCwbComplete, hj, hkind, hsent, beq_self_eq_true, Bool.and_self, if_true, andThen]

theorem collMessage_refused {m : CollMsg} (hj : s.job? id = some j) (hkind : j.kind = .coll) (hsent : j.sent = true) (hm : collMatches j m = false) :
    Runs (.collMessage id m) s (stopJob j (raise .argRange) s) := by
  change execCollMessage id m s = _
  simp only [execCollMessage, hj, hkind, hsent, hm, bne_self_eq_false, Bool.not_true, Bool.or_self, Bool.false_eq_true, if_false, Bool.not_false,
    if_true]

theorem collMessage_taken {m : CollMsg} (hj : s.job? id = some j) (hkind : j.kind = .coll) (hsent : j.sent = true) (hm : collMatches j m = true)
    (hnew : ∀ x ∈ j.msgs, x.rank ≠ m.rank) : Runs (.collMessage id m) s (onJob id (fun j => { j with msgs := j.msgs ++ [m] }) s) := by
  have first : j.msgs.any (fun x => x.rank == m.rank) = false := by simpa using hnew
  change execCollMessage id m s = _
  simp only [execCollMessage, hj, hkind, hsent, hm, first, bne_self_eq_false, Bool.not_true, Bool.or_self, Bool.false_eq_true, if_false]

theorem collTimeout_runs {rank : Nat} (hj : s.job? id = some j) (hpart : partWorks s j.part = true) (hawaits : collAwaits j rank = true)
    (hlate : collLate s j = true) : Runs (.collTimeout id rank) s (collAbort j .collTimeout rank s) := by
  change execCollTimeout id rank s = _
  simp only [execCollTimeout, hj, hpart, hawaits, hlate, Bool.and_self, if_true]

theorem collAbortMessage_runs {rank : Nat} (hj : s.job? id = some j) (hkind : j.kind = .coll) (hsent : j.sent = true) :
    Runs (.collAbortMessage id rank) s (collAbort j .collTimeout rank s) := by
  change execCollAbortMessage id rank s = _
  simp only [execCollAbortMessage, hj, hkind, hsent, beq_self_eq_true, Bool.and_self, if_true]

end

/-! ### REPAIR (R346) -/

section
variable {id : Nat} {s : State} {j : Job} {c : CounterRef} {ps : List Piece}

/-- The slots a repair has selected: chosen at its first granule, kept after it. -/
def repairPicked (s : State) (j : Job) (at_ : List Nat) : List Nat :=
  if j.landed = 0 then ((repairChoices s j at_).filter (fun x => x.2.1)).map (·.1) else j.picks

/-- The flags of a repair's choices. -/
def repairFlags (s : State) (j : Job) (at_ : List Nat) : Flags :=
  if j.landed = 0 then (repairChoices s j at_).foldl (fun m x => m ||| x.2.2) 0 else 0

/-- The lines that a repair writes. -/
def repairLines (j : Job) (at_ picked : List Nat) : List Nat := nub ((repairOut j picked).map (fun x => at_.getD x.1 0 / 128))

/-- A granule of a repair's buffer lands. -/
def repairPut (id : Nat) (s : State) (j : Job) (at_ picked : List Nat) (next : State → List Upd) : List Upd :=
  landWrites j (((repairOut j picked).filter (fun x => at_.getD x.1 0 / 128 == (repairLines j at_ picked).getD j.landed 0)).flatMap
      (fun x => (placesFrom (memPlace (at_.getD x.1 0)) 4).zip (valBytes 4 x.2))) []
    (if j.landed = 0 then (List.range j.total).map (fun r => memPlace (at_.getD (1 + r) 0)) else [])
    (andThen (gainFlags id (repairFlags s j at_)) next) s

/-- A selected slot is a valid one whose deviation the engine picks. -/
theorem repairPicked_selects (at_ : List Nat) : repairPicked s j at_ = if j.landed = 0
    then (List.range j.total).filter (fun r => (kvValid (kvEntry s j.view (j.data.getD (r / 64) 0))).testBit (r % 64)
      && (repairPicks (wordAt j.desc 9 == 1) ((s.part? j.part).elim 0 (fun p => p.repthr)) (wordAt (viewWords s j.view (at_.getD (1 + r) 0) 1) 0)).1)
    else j.picks := by
  simp only [repairPicked, repairChoices, List.filter_map, List.map_map, List.filter_filter, Function.comp_def, List.map_id', Bool.and_comm]

theorem repairFlags_eq (at_ : List Nat) :
    repairFlags s j at_ = (if j.landed = 0 then repairChoices s j at_ else []).foldl (fun m x => m ||| x.2.2) 0 := by
  unfold repairFlags
  split <;> rfl

theorem repairPicked_eq (at_ : List Nat) : repairPicked s j at_
    = if j.landed = 0 then ((if j.landed = 0 then repairChoices s j at_ else []).filter (fun x => x.2.1)).map (·.1) else j.picks := by
  unfold repairPicked
  split <;> rfl

theorem repairProbeDone_puts (hj : s.job? id = some j) (hkind : j.kind = .repair) (hready : jobReady s j = true) (hlaunch : repairLaunchDone s j = true)
    (hphase : j.phase = 1) (hfree : CounterFree s j c)
    (hroutes : routes s j.owner { write := true, local_ := true } j.dst (wpair j.desc 4) (4 * (1 + 2 * j.total)) = .ok ps)
    (hlock : bufferLocked s j ps = false) :
    let at_ := bufferWords ps
    let picked := repairPicked s j at_
    Runs (.repairProbeDone id) s (if j.landed + 1 < (repairLines j at_ picked).length
      then repairPut id s j at_ picked (onJob id (fun j => { j with landed := j.landed + 1, picks := picked }))
      else repairPut id s j at_ picked (andThen (advance j.part j.path c 1 (jobClock j))
        (onJob id (fun j => { j with phase := 2, tag := picked.length, landed := 0, picks := [] })))) := by
  intro at_ picked
  change execRepairProbeDone id s = _
  simp only [execRepairProbeDone, hj, hkind, hready, hlaunch, hphase, hroutes, hlock, withCounter_of_free hfree, beq_self_eq_true, Bool.and_self,
    Bool.not_true, Bool.false_eq_true, if_false, ← repairFlags_eq, ← repairPicked_eq, picked, at_]
  rfl

theorem repairLayerDone_runs (hj : s.job? id = some j) (hkind : j.kind = .repair) (hready : jobReady s j = true) (hlaunch : repairLaunchDone s j = true)
    (hphase : 3 ≤ j.phase) (hodd : j.phase % 2 = 1) (hfree : CounterFree s j c) :
    let count := advance j.part j.path c 1 (jobClock j)
    Runs (.repairLayerDone id) s (if j.phase / 2 + 1 < (wordAt j.desc 8).toNat
      then markEntries j (j.phase / 2) 1 (andThen count (onJob id (fun j => { j with phase := j.phase + 1 }))) s
      else markEntries j (j.phase / 2) 1 (andThen count (fun t => markEntries j 0xFF 0 (endJob j) t)) s) := by
  intro count
  change execRepairLayerDone id s = _
  simp only [execRepairLayerDone, hj, hkind, hready, hlaunch, hphase, hodd, withCounter_of_free hfree, beq_self_eq_true, decide_true, Bool.and_self,
    Bool.not_true, Bool.false_eq_true, if_false, count]

end

/-! ### Evicted partials (R244) -/

/-- An element of a range after a core's partial of it has gone to the base. -/
def evictElem (core elem : Nat) (r : CRange) (e : CElem) : CElem :=
  if e.addr != elem || core == baseCore then e else
  match e.partials.find? (fun p => p.core == core) with
  | none => e
  | some p => { e with partials := addPartial r { p with core := baseCore } (e.partials.filter (fun q => q.core != core)) }

/-- A range after that. -/
def evictRange (range core elem : Nat) (r : CRange) : CRange :=
  if r.id = range ∧ r.live then { r with elems := r.elems.map (evictElem core elem r) } else r

section
variable {range core elem : Nat} {r : CRange}

theorem crPartialEvict_runs (range core elem : Nat) (s : State) :
    Runs (.crPartialEvict range core elem) s [.order { s.order with ranges := s.order.ranges.map (evictRange range core elem) }] := rfl

theorem evictElem_other {e : CElem} (h : e.addr ≠ elem) : evictElem core elem r e = e := by simp [evictElem, h]

theorem evictElem_merges {e : CElem} {p : Partial} (hcore : core ≠ baseCore) (haddr : e.addr = elem)
    (hp : e.partials.find? (fun p => p.core == core) = some p) : evictElem core elem r e
      = { e with partials := addPartial r { p with core := baseCore } (e.partials.filter (fun q => q.core != core)) } := by
  simp [evictElem, haddr, hcore, hp]

theorem evictRange_elems : evictRange range core elem r = { r with elems := (evictRange range core elem r).elems } := by
  unfold evictRange
  split <;> rfl

theorem evictRange_other (h : r.id ≠ range ∨ r.live = false) : evictRange range core elem r = r :=
  if_neg (by rintro ⟨hid, hlive⟩; simp_all)

theorem evictRange_live (hid : r.id = range) (hlive : r.live = true) :
    evictRange range core elem r = { r with elems := r.elems.map (evictElem core elem r) } := if_pos ⟨hid, hlive⟩

end

/-- Settles O45: one lemma for each event of a command; a command at work acts in the state in which it holds its translations. -/
theorem engineEvents : Obligations.EngineEvents := by
  unfold Obligations.EngineEvents
  refine ⟨fun id s j hj => ?_, fun id s j ps c hj hkind hready hlaunch hphase hc hheld hroutes hlock => ?_,
    fun id s j c hj hkind hready hlaunch hphase hodd hc hheld => ?_, fun range core elem s hcore => ?_⟩
  · have kind {k : JobKind} (h : j.kind = k) : (atWork s j).kind = k := h
    refine ⟨fun resp => runnerGranule_waits hj resp, fun resp bs reads ps hready hkind hleft hsource hroutes hhere => ?_,
      fun resp hready hkind => ?_, fun resp hready hkind => ?_, fun resp hready hkind => ?_,
      fun resp a b hready hkind hlast ha hb => ?_, fun resp st ap o hready hkind hleft hroutes => ?_,
      fun resp c hready hkind hdone hacks hfree => ?_,
      fun x hkind hstarted hphase hpart hmay hx hstate => ?_,
      fun x c hkind hdone hpart hx hstate hfree => windowLanded_runs hj hkind hdone hpart hx hstate hfree,
      fun c hkind hready hdone hacks hfree => rcopyComplete_runs hj hkind hready hdone hacks hfree,
      fun c hkind hready hdone hfree => topkComplete_runs hj hkind hready hdone hfree,
      fun c hkind hphase hcame hdone hpart hfree => collComplete_runs hj hkind hphase hcame hdone hpart hfree,
      fun code detail e he hsent hpart => engineCommandStop_runs hj he hsent hpart,
      fun a e hkind hready hdone hat => beammapFlip_runs hj hkind hready hdone hat,
      fun hkind hsent => cwbComplete_runs hj hkind hsent,
      fun m hkind hsent => ⟨collMessage_refused hj hkind hsent, collMessage_taken hj hkind hsent⟩,
      fun rank hpart hawaits hlate => collTimeout_runs hj hpart hawaits hlate,
      fun rank hkind hsent => collAbortMessage_runs hj hkind hsent⟩
    · refine runnerGranule_runs hj hready ((granuleOf_rcopy (kind hkind) resp).trans ?_)
      exact copyGranule_here (kind hkind) hleft hsource hroutes hhere
    · exact runnerGranule_runs hj hready (granuleOf_topk (kind hkind) resp)
    · exact runnerGranule_runs hj hready (granuleOf_beammap (kind hkind) resp)
    · exact runnerGranule_runs hj hready (granuleOf_coll (kind hkind) resp)
    · refine ⟨endJob (atWork s j), fun _ => rfl, runnerGranule_runs hj hready ((granuleOf_kvcompact (kind hkind) resp).trans ?_)⟩
      exact compactGranule_last hlast ha hb
    · refine runnerGranule_runs hj hready ((granuleOf_ckpt (kind hkind) resp).trans ?_)
      exact ckptGranule_leaves hleft hroutes
    · refine runnerGranule_runs hj hready ((granuleOf_ckpt (kind hkind) resp).trans ?_)
      exact ckptGranule_ends hdone hacks hfree
    · have runs := windowCopyStart_runs hj hkind hstarted hphase hpart hmay hx hstate
      refine ⟨fun hfree => runs_of_eq runs ?_, fun hlocks => runs_of_eq runs ?_⟩
      · simp only [hfree, List.isEmpty_nil, if_true, inOrder_cons, inOrder_nil, List.append_nil]
        rfl
      · rw [if_neg (by simpa using hlocks), inOrder_andThen]
        rfl
  · have puts := repairProbeDone_puts hj hkind hready hlaunch hphase ⟨hc, hheld⟩ hroutes hlock
    simp only [repairPicked_selects] at puts
    exact ⟨fun more => runs_of_eq puts (if_pos more), fun last => runs_of_eq puts (if_neg (Nat.not_lt.mpr last))⟩
  · have runs := repairLayerDone_runs hj hkind hready hlaunch hphase hodd ⟨hc, hheld⟩
    exact ⟨fun more => runs_of_eq runs (if_pos more), fun last => runs_of_eq runs (if_neg (Nat.not_lt.mpr last))⟩
  · refine ⟨_, crPartialEvict_runs range core elem s, rfl, List.length_map _, fun i r hr => ⟨evictRange range core elem r, ?_, evictRange_elems,
      evictRange_other, fun hid hlive => ?_⟩⟩
    · rw [List.getElem?_map, hr, Option.map_some]
    · rw [evictRange_live hid hlive]
      refine ⟨List.length_map _, fun k e he => ⟨evictElem core elem r e, by rw [List.getElem?_map, he, Option.map_some], evictElem_other,
        fun p => evictElem_merges hcore⟩⟩

end Sys2Proof.Machine
end

section
/-! PROOFS. Commutative ranges, counters and editions (R241, R245, R251, R260, R285, R287, R308, R310, R314). -/

namespace Sys2Proof.Machine

/-! ### Commutative ranges (R241, R245, R285, R287) -/

theorem crdecl_does (c : Ctl) (op : CrOp) (fmt : CrFmt) (rsel : BitVec 2) (a b e : BitVec 8) :
    let off (g : Go) : DWord := g.rd2 0 0 0
    let realm (g : Go) : Nat := g.w.realmOf rsel.toNat
    let range (s : State) (g : Go) : CRange :=
      { id := s.model.nextId, part := g.w.part, realm := realm g, offset := off g, op := op, fmt := fmt
        q := (g.rd 2 0 0).toInt, denorm := g.w.denorm, die := dieOf g.w.core, live := false, elems := [] }
    Does (.crdecl c op fmt rsel a b e) c (needs [] [uniField a 2, uniField b 1, uniField e 1] 0)
      (fun s g => g.w.path = 0 ∧ (off g).toNat % 128 = 0 ∧ (g.rd 1 0 0).toNat % 128 = 0 ∧ 128 ≤ (g.rd 1 0 0).toNat
        ∧ (g.rd 1 0 0).toNat ≤ 2 ^ 24 ∧ ((crSpec fmt).isSome = true → -1100 ≤ (g.rd 2 0 0).toInt ∧ (g.rd 2 0 0).toInt ≤ 1100)
        ∧ lockRoom s (dieOf g.w.core) 1 = true
        ∧ ∃ ps es, routes s g.w.who { local_ := true } (realm g) (off g) (g.rd 1 0 0).toNat = .ok ps
          ∧ (∀ x ∈ localRanges ps, meetsLock s g.w.part x.1 x.2 false = false ∧ meetsDeclared s x.1 x.2 = false)
          ∧ baseElems s g.w.view (range s g) (elemAddrs (crWidth fmt) (localRanges ps)) = some es)
      (fun s g =>
        { ends := true
          after := [.crdecl s.model.nextId]
          upds := fun t =>
            let es := match routes s g.w.who { local_ := true } (realm g) (off g) (g.rd 1 0 0).toNat with
              | .ok ps => (baseElems s g.w.view (range s g) (elemAddrs (crWidth fmt) (localRanges ps))).getD []
              | .error _ => []
            [.order { t.order with ranges := t.order.ranges ++ [{ range s g with elems := es }] },
              .model { t.model with nextId := t.model.nextId + 1 }] }) := by
  intro off realm range
  refine does_without_result (fun _ => rfl) (fun _ _ => rfl) (fun _ _ => rfl) (fun s g hok => ?_)
  obtain ⟨hpath, halign, hmul, hlo, hhi, hq, hroom, ps, es, hroutes, hclear, hbase⟩ := hok
  have scale : ((crSpec fmt).isSome && (decide ((g.rd 2 0 0).toInt < -1100) || decide (1100 < (g.rd 2 0 0).toInt))) = false := by
    cases hfloat : (crSpec fmt).isSome with
    | false => rfl
    | true =>
      obtain ⟨hmin, hmax⟩ := hq hfloat
      simp [hmin, hmax]
  have clear : (localRanges ps).any (fun x => meetsLock s g.w.part x.1 x.2 false || meetsDeclared s x.1 x.2) = false := by
    simp only [List.any_eq_false, Bool.or_eq_true, not_or, Bool.not_eq_true]
    exact hclear
  have size : ¬((g.rd 1 0 0).toNat % 128 ≠ 0 ∨ (g.rd 1 0 0).toNat < 128 ∨ 2 ^ 24 < (g.rd 1 0 0).toNat) := by omega
  simp only [off, realm, range] at halign hroutes hbase
  simp only [off, realm, range, hpath, ne_eq, not_true_eq_false, if_false, halign, size, scale, Bool.false_eq_true, hroutes, clear, hroom, Bool.not_true,
    hbase, Option.getD_some]
  exact gives_command _ _

theorem crrel_does (c : Ctl) (rsel : BitVec 2) (a : BitVec 8) (id : Nat) : Does (.crrel c rsel a) c (needs [] [uniField a 2] 0)
    (fun s g => g.w.path = 0 ∧ (g.rd2 0 0 0).toNat % 128 = 0
      ∧ (∃ p, translate s g.w.who { local_ := true } (g.w.realmOf rsel.toNat) (g.rd2 0 0 0) 128 = .ok p)
      ∧ ∃ r, s.order.ranges.find? (fun r => r.live && r.part == g.w.part && r.realm == g.w.realmOf rsel.toNat && r.offset == g.rd2 0 0 0) = some r
        ∧ r.id = id)
    (fun _ _ => { ends := true, after := [.crrel id] }) := by
  refine does_without_result (fun _ => rfl) (fun _ _ => rfl) (fun _ _ => rfl) (fun s g hok => ?_)
  obtain ⟨hpath, halign, ⟨p, hp⟩, r, hr, hid⟩ := hok
  simp only [hpath, ne_eq, not_true_eq_false, if_false, halign, hp, hr, hid]
  exact gives_control false true [.crrel id] _

/-! ### Counters (R251, R308, R310) -/

theorem cntinc_does (c : Ctl) (scope : Scope) (rsel : BitVec 2) (a b : BitVec 8) (t : AtomTarget) :
    Does (.cntinc c scope rsel a b) c (needs [] [uniField a 2, uniField b 1] 0)
      (fun s g => counterSpot s g.w true (scopeCode scope) rsel.toNat (g.rd2 0 0 0) = .ok t)
      (fun _ g =>
        { ends := decide (6 ≤ scopeCode scope)
          after := [.cntinc t ((g.rd 1 0 0).setWidth 64) (scopeCode scope) g.f.clock]
          turn := fun w => { w with regs := w.regs.mapFrag g.f.id (Frag.nextEpoch w.id) } }) := by
  refine does_without_result (fun _ => rfl) (fun _ _ => rfl) (fun _ _ => rfl) (fun s g hok => ?_)
  simp only [hok]
  exact gives_control false (decide (6 ≤ scopeCode scope)) _ _

theorem cntrd_does (c : Ctl) (rsel : BitVec 2) (d a : BitVec 8) (x : Nat) :
    Does (.cntrd c rsel d a) c (needs [dstField true d 2] [uniField a 2] 0)
      (fun s g => counterSpot s g.w false 6 rsel.toNat (g.rd2 0 0 0) = .ok (.home x))
      (fun s g => { res := { Result.ofPair true d g (fun _ => pairOf (rootWord s (x / 4)) (rootWord s (x / 4 + 1))) with lanes := [0] } }) := by
  refine does_of_gives (idle := fun _ => {}) (fun _ => rfl) (fun hwf s g _ _ => ⟨fun _ => nofun, 
      pushed_nil (fun _ j hj => not_port (Bool.and_elim_right (Bool.and_elim_left hwf)) hj)⟩) (fun _ s g _ hok => ⟨?_, ?_⟩)
  · have written := putPair_writes true d { g with lanes := [0] } (fun _ => pairOf (rootWord s (x / 4)) (rootWord s (x / 4 + 1)))
    simp only [hok]
    exact ⟨rfl, rfl, rfl, written, rfl, rfl, rfl, rfl, rfl, rfl, rfl, rfl, rfl, rfl, rfl, rfl, rfl⟩
  · simp [Result.inRange, Result.ofPair, Result.ofWords]

/-! ### Editions (R260, R314) -/

theorem seal_does (c : Ctl) (rsel : BitVec 2) (a b e : BitVec 8) (pages : List Nat) :
    Does (.seal c rsel a b e) c (needs [] [uniField a 2, uniField b 1, uniField e 1] 0)
      (fun s g => sealPages s g.w rsel.toNat (g.rd2 0 0 0) (g.rd 1 0 0).toNat = .ok pages
        ∧ ∀ p ∈ pages, sealRefused s (g.rd 2 0 0) p = false ∧ meetsLock s g.w.part (p * 2 ^ 16) ((p + 1) * 2 ^ 16) true = false)
      (fun _ g => { ends := true, after := [.seal pages (g.rd 2 0 0)] }) := by
  refine does_without_result (fun _ => rfl) (fun _ _ => rfl) (fun _ _ => rfl) (fun s g hok => ?_)
  obtain ⟨hpages, hclear⟩ := hok
  have taken : pages.find? (sealRefused s (g.rd 2 0 0)) = none := List.find?_eq_none.mpr (fun p hp => by simp [(hclear p hp).1])
  have locked : pages.any (fun p => meetsLock s g.w.part (p * 2 ^ 16) ((p + 1) * 2 ^ 16) true) = false :=
    List.any_eq_false.mpr (fun p hp => by rw [(hclear p hp).2]; exact Bool.false_ne_true)
  simp only [hpages, taken, locked, Bool.false_eq_true, if_false]
  exact gives_control false true [.seal pages (g.rd 2 0 0)] _

theorem unseal_does (c : Ctl) (rsel : BitVec 2) (a b : BitVec 8) (pages : List Nat) :
    Does (.unseal c rsel a b) c (needs [] [uniField a 2, uniField b 1] 0)
      (fun s g => sealPages s g.w rsel.toNat (g.rd2 0 0 0) (g.rd 1 0 0).toNat = .ok pages)
      (fun _ _ => { ends := true, after := [.unseal pages] }) := by
  refine does_without_result (fun _ => rfl) (fun _ _ => rfl) (fun _ _ => rfl) (fun s g hok => ?_)
  simp only [hok]
  exact gives_control false true [.unseal pages] _

/-- Settles O25: where its operands pass their checks each instruction's act is one that ends its chunk, or one that reads a counter. -/
theorem rangesCountersEditions : Obligations.RangesCountersEditions := fun c op fmt scope rsel a b d e =>
  ⟨crdecl_does c op fmt rsel a b e, crrel_does c rsel a, cntinc_does c scope rsel a b, cntrd_does c rsel d a, seal_does c rsel a b e,
    unseal_does c rsel a b⟩

end Sys2Proof.Machine
end

section
/-! PROOFS. ATOM and ACAS (R240, R279 to R283). -/

namespace Sys2Proof.Machine

/-! ### Lanes that execute (R55, R58) -/

theorem lanesOf_nodup (m : LaneMask) : (lanesOf m).Nodup := List.nodup_range.filter _

theorem execLanes_nodup (c : Ctl) (r : Regs) (f : Frag) : (execLanes c r f).Nodup := by
  unfold execLanes guardLanes
  split
  · exact ((lanesOf_nodup _).sublist (List.take_sublist _ _)).filter _
  · exact (lanesOf_nodup _).filter _

/-- The lanes that an open gate lets execute are those whose guard holds, or none. -/
theorem lanes_of_gate {c : Ctl} {n : Need} {s : State} {w : Warp} {f : Frag} {g : Go} (h : gate c n s w f = .go g) :
    g.lanes = [] ∨ ∃ r, g.lanes = execLanes c r f := by
  unfold gate at h
  split at h
  · cases h
  split at h
  · cases h
  split at h
  · cases h
  split at h
  · cases h
  dsimp only at h
  split at h
  · cases h
    exact .inl rfl
  split at h
  · cases h
  split at h
  · cases h
  · cases h
  · cases h
  split at h
  · cases h
    exact .inr ⟨_, rfl⟩
  · cases h

theorem lanes_nodup {c : Ctl} {n : Need} {s : State} {w : Warp} {f : Frag} {g : Go} (h : gate c n s w f = .go g) : g.lanes.Nodup := by
  rcases lanes_of_gate h with hnone | ⟨r, hlanes⟩
  · rw [hnone]
    exact List.nodup_nil
  · rw [hlanes]
    exact execLanes_nodup c r f

/-- What an instruction does may be shown of lanes of which none executes twice. -/
theorem does_of_nodup {i : Instr} {c : Ctl} {n : Need} {ok : State → Go → Prop} {x : State → Go → Effect}
    (h : Does i c n (fun s g => ok s g ∧ g.lanes.Nodup) x) : Does i c n ok x :=
  fun hwf s w f g hg hok hf => h hwf s w f g hg ⟨hok, lanes_nodup hg.go⟩ hf

/-! ### Lanes whose words are here (R281) -/

section
variable {s : State} {c : Ctl} {g : Go} {cas w64 : Bool} {op : Option AtomOp} {xs : List (Nat × AtomSpot)}

/-- Every lane's spot is a word, and no word of it is poisoned. -/
def WordsHere (s : State) (w : Warp) (w64 : Bool) (xs : List (Nat × AtomSpot)) : Prop :=
  ∀ x ∈ xs, ∃ p q, x.2 = .word p q ∧ ∀ y ∈ wordsOf p (if w64 then 8 else 4), poisonedAt s w y = false

theorem contribsOf_words (h : WordsHere s g.w w64 xs) : contribsOf g w64 xs = ([], []) := by
  unfold contribsOf
  induction xs with
  | nil => rfl
  | cons x xs ih =>
    obtain ⟨p, q, hx, -⟩ := h x List.mem_cons_self
    rw [List.foldl_cons, hx]
    exact ih (fun y hy => h y (List.mem_cons_of_mem x hy))

theorem atomPoison_words (h : WordsHere s g.w w64 xs) : atomPoison s g.w w64 xs = (xs.flatMap (fun x => x.2.words w64)).map (fun p => (p, false)) := by
  unfold atomPoison
  rw [List.map_flatMap, List.map_flatMap]
  refine List.flatMap_congr (fun x hx => ?_)
  obtain ⟨p, q, hp, hclean⟩ := h x hx
  simp only [hp, AtomSpot.words]
  exact List.map_congr_left (fun y hy => by rw [hclean y hy])

/-- The old values that lanes leave: one a lane, in their order, none of them poisoned. -/
theorem atomStep_old (h : WordsHere s g.w w64 xs) (run : AtomRun) : ∃ old : List (Nat × Nat × Bool),
    (xs.foldl (atomStep s g op cas w64) run).old = run.old ++ old ∧ old.map (·.1) = xs.map (·.1) ∧ ∀ x ∈ old, x.2.2 = false := by
  induction xs generalizing run with
  | nil => exact ⟨[], (List.append_nil _).symm, rfl, nofun⟩
  | cons x xs ih =>
    obtain ⟨p, q, hx, hclean⟩ := h x List.mem_cons_self
    obtain ⟨old, hold, hlanes, hfree⟩ := ih (fun y hy => h y (List.mem_cons_of_mem x hy)) (atomStep s g op cas w64 run x)
    have clean : (wordsOf p (if w64 then 8 else 4)).any (poisonedAt s g.w) = false := List.any_eq_false.mpr (fun y hy => by simp [hclean y hy])
    have step : ∃ v, (atomStep s g op cas w64 run x).old = run.old ++ [(x.1, v, false)] := ⟨_, by rw [atomStep, hx]; simp only [clean]; rfl⟩
    obtain ⟨v, hv⟩ := step
    refine ⟨(x.1, v, false) :: old, ?_, by rw [List.map_cons, hlanes, List.map_cons], ?_⟩
    · rw [List.foldl_cons, hold, hv, List.append_assoc, List.singleton_append]
    · simpa using hfree

end

/-- A keyed entry is found under its key, which no other entry has. -/
theorem find?_key {α : Type} {l : List (Nat × α)} (h : (l.map (·.1)).Nodup) {x : Nat × α} (hx : x ∈ l) :
    l.find? (fun y => y.1 == x.1) = some x := by
  induction l with
  | nil => cases hx
  | cons y l ih =>
    obtain ⟨hy, hl⟩ := List.nodup_cons.mp h
    rcases List.mem_cons.mp hx with rfl | hx
    · simp
    · have other : y.1 ≠ x.1 := fun he => hy (List.mem_map.mpr ⟨x, hx, he.symm⟩)
      simp [other, ih hl hx]

/-- The value that a lane's register takes: what stood at its word. -/
def oldValue (old : List (Nat × Nat × Bool)) (l : Nat) : Nat := (old.find? (fun x => x.1 == l)).elim 0 (·.2.1)

/-- The results of old values, none of them poisoned, are the words of each lane's value. -/
theorem oldWrites_writes {u w64 : Bool} {d : BitVec 8} {old : List (Nat × Nat × Bool)} (hnodup : (old.map (·.1)).Nodup)
    (hfree : ∀ x ∈ old, x.2.2 = false) (g : Go) (fl : Flags) : oldWrites u d.toNat w64 old
    = Result.writes { Result.ofWords u d (if w64 then 2 else 1) g (fun l j => (wordsOfVal (if w64 then 2 else 1) (oldValue old l)).getD j 0) fl with
        lanes := old.map (·.1) } := by
  simp only [oldWrites, Result.ofWords, Result.writes, List.append_nil, List.flatMap_map]
  refine List.flatMap_congr (fun x hx => ?_)
  have value : oldValue old x.1 = x.2.1 := by rw [oldValue, find?_key hnodup hx, Option.elim_some]
  have length : (wordsOfVal (if w64 then 2 else 1) x.2.1).length = if w64 then 2 else 1 := by simp [wordsOfVal]
  rw [zipIdx_eq_range 0, length, List.map_map, value, hfree x hx]
  rfl

/-! ### The act of an atomic (R240, R281) -/

theorem waveGate_passes {s : State} {g : Go} {wave : Bool} (h : wave = true → g.w.chunk.count = 0 ∧ waveReady s g.w = true) (ask : Instr) (k : Act) :
    waveGate s ask g wave k = k := by
  cases wave with
  | false => rfl
  | true =>
    obtain ⟨hcount, hready⟩ := h rfl
    simp [waveGate, hcount, hready]

/-- What the lanes leave inside a chunk; nothing from DEVICE scope on. -/
def valueRun (s : State) (g : Go) (op : Option AtomOp) (cas w64 : Bool) (code : Nat) (v : Nat → AtomSpot) : AtomRun :=
  if code ≤ 5 then atomRun s g op cas w64 v else ⟨[], [], []⟩

/-- A value-returning atomic's turn in its wave (R240). -/
def valueWave (g : Go) (code : Nat) : Bool := g.w.det && decide (code = 2)

/-- What a value-returning atomic does where each lane has the spot v. -/
def valueEffect (c : Ctl) (op : Option AtomOp) (cas w64 : Bool) (code : Nat) (d : BitVec 8) (s : State) (g : Go) (v : Nat → AtomSpot) : Effect :=
  let k : Nat := if w64 then 2 else 1
  { res := { Result.ofWords c.u d k g (fun l j => (wordsOfVal k (oldValue (valueRun s g op cas w64 code v).old l)).getD j 0)
        ((valueRun s g op cas w64 code v).flags.foldl (fun m x => m ||| x.2) 0) with
      lanes := if code ≤ 5 then g.lanes else [] }
    reads := if code ≤ 5 then g.lanes.flatMap (fun l => (v l).words w64) else []
    touches := g.lanes.flatMap (fun l => (v l).words w64)
    stores := (valueRun s g op cas w64 code v).bytes
    ends := decide (6 ≤ code)
    awaits := if code ≤ 5 then .unit else .commit
    mark := fun t => { t with dst := d.toNat, duni := c.u, width := k }
    chunk := fun x => { x with
      atoms := x.atoms ++ (if code ≤ 5 then [] else homeAtomics g op cas w64 (some (d.toNat, c.u)) c.alloc.toNat (g.lanes.map (fun l => (l, v l))))
      poisoned := markWords x.poisoned (if code ≤ 5 then (g.lanes.flatMap (fun l => (v l).words w64)).map (fun p => (p, false)) else []) }
    turn := fun w => w.waved (valueWave g code) g.f.id (waveClockOf s g.w) }

section
variable {s : State} {c : Ctl} {g : Go} {cas w64 : Bool} {op : Option AtomOp} {code : Nat} {d : BitVec 8} {v : Nat → AtomSpot}

theorem valueRun_writes (h : WordsHere s g.w w64 (g.lanes.map (fun l => (l, v l)))) (hnodup : g.lanes.Nodup) :
    oldWrites c.u d.toNat w64 (valueRun s g op cas w64 code v).old = (valueEffect c op cas w64 code d s g v).res.writes := by
  by_cases hcode : code ≤ 5
  · obtain ⟨old, hold, hlanes, hfree⟩ := atomStep_old (op := op) (cas := cas) h ⟨[], [], []⟩
    rw [List.foldl_map, List.nil_append] at hold
    rw [List.map_map] at hlanes
    have lanes : old.map (·.1) = g.lanes := hlanes.trans (List.map_id _)
    have written := oldWrites_writes (u := c.u) (w64 := w64) (d := d) (lanes.symm ▸ hnodup) hfree g
      ((valueRun s g op cas w64 code v).flags.foldl (fun m x => m ||| x.2) 0)
    have run : (valueRun s g op cas w64 code v).old = old := by rw [valueRun, if_pos hcode]; exact hold
    rw [lanes] at written
    simp only [valueEffect, run, hcode, if_true, written]
  · simp [valueRun, valueEffect, hcode, oldWrites, Result.writes, Result.ofWords]

/-- Where every lane's word is here, the act of an atomic is its effect. -/
theorem atomAct_gives (h : WordsHere s g.w w64 (g.lanes.map (fun l => (l, v l)))) (hnodup : g.lanes.Nodup) :
    Gives (atomAct s c g false cas op w64 code d (g.lanes.map (fun l => (l, v l)))) (valueEffect c op cas w64 code d s g v) := by
  have run : (if code ≤ 5 then (g.lanes.map (fun l => (l, v l))).foldl (atomStep s g op cas w64) ⟨[], [], []⟩ else ⟨[], [], []⟩)
      = valueRun s g op cas w64 code v := by rw [List.foldl_map]; rfl
  have words : (g.lanes.map (fun l => (l, v l))).flatMap (fun x => x.2.words w64) = g.lanes.flatMap (fun l => (v l).words w64) := by
    rw [List.flatMap_map]
  have reads : (g.lanes.map (fun l => (l, v l))).flatMap (fun x => match x.2 with
      | .word .. => x.2.words w64
      | .contrib .. => []
      | .peer .. => []) = g.lanes.flatMap (fun l => (v l).words w64) := by
    rw [← words]
    refine List.flatMap_congr (fun x hx => ?_)
    obtain ⟨p, q, hp, -⟩ := h x hx
    rw [hp]
  have wave : isWave g.w false code = valueWave g code := by rw [isWave, Bool.not_false, Bool.and_true]; rfl
  have noFlags (m : Flags) : m ||| 0 = m := BitVec.or_zero
  simp only [atomAct, contribsOf_words h, run, Bool.false_eq_true, if_false, List.map_nil, List.append_nil, List.foldl_nil, noFlags, ite_self,
    Bool.false_or, decide_eq_true_eq, wave, atomPoison_words h, words]
  refine ⟨rfl, rfl, rfl, valueRun_writes h hnodup, rfl, rfl, rfl, rfl, ?_, rfl, rfl, rfl, rfl, rfl, rfl, rfl, rfl⟩
  exact congrArg (fun l => if code ≤ 5 then l else []) reads

end

/-- An atomic issues its act once its wave has come. -/
theorem atom_does {i : Instr} {c : Ctl} {cas w64 : Bool} {op : Option AtomOp} {scope : Scope} {d : BitVec 8} {r : MemRef} {e : Src}
    (hi : ∀ s, exec i s = atomInstr i c false cas op w64 scope d r e s) (hport : i.wf = true → dstT c.u d (if w64 then 2 else 1) = true) :
    let spot (s : State) (g : Go) (l : Nat) : Xl AtomSpot :=
      atomSpot s g.w false op w64 (scopeCode scope) r.rsel.toNat (g.rd2 0 0 l + BitVec.ofInt 64 (r.disp.toInt * (if w64 then 8 else 4 : Nat)))
    Does i c (atomNeed c false cas w64 d r e)
      (fun s g => (∀ l ∈ g.lanes, ∃ p q, spot s g l = .ok (.word p q) ∧ ∀ x ∈ wordsOf p (if w64 then 8 else 4), poisonedAt s g.w x = false)
        ∧ (valueWave g (scopeCode scope) = true → g.w.chunk.count = 0 ∧ waveReady s g.w = true))
      (fun s g => valueEffect c op cas w64 (scopeCode scope) d s g (fun l => atomAt (spot s g l))) := by
  intro spot
  refine does_of_nodup (does_of_gives hi (fun hwf s g _ _ => ⟨fun _ => ?_, pushed_nil (fun hu j hj => ?_)⟩) (fun _ s g hl hok => ⟨?_, ?_⟩))
  · dsimp only [valueEffect]
    split <;> exact nofun
  · have := dstT_port (hport hwf) hu
    dsimp only [valueEffect, Result.ofWords] at hj ⊢
    omega
  · obtain ⟨⟨hspot, hwave⟩, hnodup⟩ := hok
    have here : ∀ l ∈ g.lanes, atomSpot s g.w false op w64 (scopeCode scope) r.rsel.toNat (memOffset g 0 l 0 r (if w64 then 8 else 4))
        = .ok (atomAt (spot s g l)) := fun l hl => by
      obtain ⟨p, q, hp, -⟩ := hspot l hl
      rw [memOffset_zero]
      exact hp.trans (by rw [hp]; rfl)
    have words : WordsHere s g.w w64 (g.lanes.map (fun l => (l, atomAt (spot s g l)))) := fun x hx => by
      obtain ⟨l, hl, rfl⟩ := List.mem_map.mp hx
      obtain ⟨p, q, hp, hclean⟩ := hspot l hl
      exact ⟨p, q, by rw [hp]; rfl, hclean⟩
    have wave : isWave g.w false (scopeCode scope) = valueWave g (scopeCode scope) := by rw [isWave, Bool.not_false, Bool.and_true]; rfl
    have body : atomBody i c false cas op w64 scope d r s g
        = atomAct s c g false cas op w64 (scopeCode scope) d (g.lanes.map (fun l => (l, atomAt (spot s g l)))) := by
      rw [atomBody, eachLane_ok here]
      exact waveGate_passes (wave ▸ hwave) i _
    exact body ▸ atomAct_gives words hnodup
  · refine ⟨fun l hl' => hl l ?_, nofun⟩
    dsimp only [valueEffect] at hl'
    split at hl'
    · exact hl'
    · cases hl'

/-- Settles O23: lanes execute once each, so the old value found under a lane is the one it left. -/
theorem valueAtomics : Obligations.ValueAtomics := by
  unfold Obligations.ValueAtomics
  refine fun c op w64 scope d r e => ⟨?_, ?_⟩
  · exact atom_does (fun _ => rfl) (fun hwf => Bool.and_elim_right (Bool.and_elim_left (Bool.and_elim_left hwf)))
  · exact atom_does (fun _ => rfl) (fun hwf => Bool.and_elim_right (Bool.and_elim_left (Bool.and_elim_left hwf)))

end Sys2Proof.Machine
end

section
/-! PROOFS. The flags of a RED's contributions from DEVICE scope on (R284, R286). -/

namespace Sys2Proof.Machine

/-- The word at the offset lies in a range declared as FP32 sums; the operand is a signalling NaN. -/
def demoSignal : State := withV 6 [0x7FA00000]
  { demoMem with order := { demoMem.order with ranges := [⟨7, 0, 0, 0x2000, .add, .f32, 0, false, 0, true, [⟨0x2000, []⟩]⟩] } }

/-- A RED that adds that operand to the range, at DEVICE scope. -/
def signalRed : Instr := .red cv .fadd false .device ⟨.v 4, 0, 0⟩ (.v 6)

/-- The flags that a warp's chunk keeps in the state an outcome goes on in. -/
def chunkFlagsAfter (id : Nat) (o : Host.Outcome State Fault Refusal) : Option Flags :=
  ((nextState o).bind (·.warp? id)).map (·.chunk.flags)

/-- The flags that an instruction's effect puts into its chunk's record stand in the warp that goes on. -/
theorem chunkFlags_of_does {i : Instr} {c : Ctl} {n : Need} {ok : State → Go → Prop} {x : State → Go → Effect} (h : Does i c n ok x)
    (hx : ∀ s g, (x s g).turn = id ∧ (x s g).upds = fun _ => []) (s : State) (hwf : i.wf = true) (hr : ready c n s = true)
    (hok : ok s (goAt c n s)) : ∃ k : Chunk, chunkFlagsAfter (goAt c n s).w.id (exec i s) = some ((x s (goAt c n s)).chunk k).flags := by
  obtain ⟨w, f, hissues, hfpctl⟩ := ready_issues (x s (goAt c n s)) hr
  obtain ⟨v, hexec, hpassed, -⟩ := h hwf s w f _ hissues hok (by rw [hfpctl]; exact trapping_zero _)
  obtain ⟨hturn, hupds⟩ := hx s (goAt c n s)
  obtain ⟨k, hchunk, -⟩ := hpassed.chunk
  refine ⟨k, ?_⟩
  rw [hexec, hturn, hupds, id, run_nil, chunkFlagsAfter, nextState, Option.bind_some, ← hpassed.id, warp?_run_warp, Option.map_some, hchunk]

/-- The model keeps those flags apart, for the commit: the chunk's record stays without them. -/
theorem signalRed_keeps : chunkFlagsAfter 3 (exec signalRed demoSignal) = some 0 := by decide +kernel

/-- Refutes O24: from DEVICE scope on a RED is performed at its home with the commit, and the flags of its contributions wait apart from those
that its chunk has raised (R284, R286). The statement has them among the chunk's own at every scope; a signalling NaN contributed to an FP32
range raises one. -/
theorem not_reductions : ¬ Obligations.Reductions := by
  unfold Obligations.Reductions
  intro h
  have who : (goAt cv (needs [] [srcField (.v 4) 2, srcField (.v 6) 1] 0) demoSignal).w.id = 3 := by decide +kernel
  obtain ⟨k, hflags⟩ := chunkFlags_of_does (h cv .fadd false .device ⟨.v 4, 0, 0⟩ (.v 6)) (fun _ _ => ⟨rfl, rfl⟩) demoSignal
    (by decide +kernel) (by decide +kernel)
    ⟨one_lane (by decide +kernel) (ok_is (by decide +kernel)), by decide +kernel, by decide +kernel⟩
  have both := hflags.symm.trans ((congrArg (chunkFlagsAfter · _) who).trans signalRed_keeps)
  obtain ⟨-, raised⟩ := BitVec.or_eq_zero_iff.mp (Option.some.inj both)
  exact absurd raised (by decide +kernel)

end Sys2Proof.Machine
end

section
/-! PROOFS. Cache maintenance (R291 to R293). -/

namespace Sys2Proof.Machine

/-! ### Acts that leave something for their chunk's position -/

/-- An act that ends its chunk or not, leaves something for its position, and changes the state beside its warp. -/
theorem gives_deferred (ends : Bool) (after : List Deferred) (us : State → List Upd) :
    Gives { ends := ends, after := after, upds := us } { ends := ends, after := after, upds := us } :=
  ⟨rfl, rfl, rfl, rfl, rfl, rfl, rfl, rfl, rfl, rfl, rfl, rfl, rfl, rfl, rfl, rfl, rfl⟩

/-! ### CINV and CWB (R291 to R293) -/

theorem cacheAligned_of_mod {w : Warp} {rsel : Nat} {off : DWord} {len : Nat} (hoff : off.toNat % 128 = 0) (hlen : len % 128 = 0) :
    cacheAligned w rsel off len = none := if_neg (by simp [hoff, hlen])

/-- The offset of a cache instruction's range. -/
def cacheOffset (r : MemRef) (g : Go) : DWord := g.rd2 0 0 (g.lanes.headD 0) + BitVec.ofInt 64 (r.disp.toInt * 128)

/-- The bytes of a cache instruction's range. -/
def cacheLength (g : Go) : Nat := (g.rd 1 0 (g.lanes.headD 0)).toNat

/-- A cache instruction's range: its ends are multiples of 128, and it translates (R291). -/
def CacheRange (r : MemRef) (ps : List Piece) (s : State) (g : Go) : Prop :=
  (cacheOffset r g).toNat % 128 = 0 ∧ cacheLength g % 128 = 0
    ∧ routes s g.w.who {} (g.w.realmOf r.rsel.toNat) (cacheOffset r g) (cacheLength g) = .ok ps

theorem memOffset_cache (r : MemRef) (g : Go) : memOffset g 0 (g.lanes.headD 0) 0 r 128 = cacheOffset r g := memOffset_zero ..

/-- The act of CWB once its range has passed its checks (R293). -/
def cwbAct (c : Ctl) (n : Nat) (s : State) (g : Go) : Act :=
  if n = 0 then {}
  else
    { awaits := .job s.model.nextId, own := true, after := [.job s.model.nextId]
      upds := inOrder [addJob { newJob s g.w g.f .cwb with tag := c.alloc.toNat, total := n }, useIds 1] }

section
variable {c : Ctl} {scope : Scope} {r : MemRef} {len : BitVec 8} {ps : List Piece}

theorem cinv_does : Does (.cinv c scope r len) c (needs [] [srcField r.base 2, uniField len 1] 0) (CacheRange r ps)
    (fun _ _ => { after := (localRanges ps).map (fun x => .cinv x.1 x.2 (scopeCode scope)) }) := by
  refine does_without_result (fun _ => rfl) (fun _ _ => rfl) (fun _ _ => rfl) (fun s g ⟨hoff, hlen, hroutes⟩ => ?_)
  have haligned := cacheAligned_of_mod (w := g.w) (rsel := r.rsel.toNat) hoff hlen
  rw [cacheLength] at haligned hroutes
  simp only [memOffset_cache, haligned, hroutes]
  exact gives_deferred false _ _

/-- CWB of a range that lies on this device does what its act does. -/
theorem cwb_does {ok : State → Go → Prop} {x : State → Go → Effect} (hres : ∀ s g, (x s g).res = .nothing)
    (haw : ∀ s g, (x s g).awaits ≠ .peer)
    (h : ∀ s g, ok s g → CacheRange r ps s g ∧ ps.any Piece.remote = false ∧ Gives (cwbAct c (cacheLength g) s g) (x s g)) :
    Does (.cwb c r len) c (needs [] [srcField r.base 2, uniField len 1] 0) ok x := by
  refine does_of_gives (fun _ => rfl) (fun _ s g _ _ => ⟨fun _ => haw s g, by rw [hres]; rfl⟩) (fun _ s g _ hok => ⟨?_, ?_⟩)
  · obtain ⟨⟨hoff, hlen, hroutes⟩, hremote, hgives⟩ := h s g hok
    have haligned := cacheAligned_of_mod (w := g.w) (rsel := r.rsel.toNat) hoff hlen
    rw [cwbAct, cacheLength] at hgives
    rw [cacheLength] at haligned hroutes
    simp only [memOffset_cache, haligned, hroutes, hremote, Bool.false_eq_true, if_false]
    exact hgives
  · rw [hres]
    simp [Result.inRange, Result.nothing]

theorem cwb_empty_does : Does (.cwb c r len) c (needs [] [srcField r.base 2, uniField len 1] 0)
    (fun s g => CacheRange r ps s g ∧ ps.any Piece.remote = false ∧ cacheLength g = 0) (fun _ _ => {}) := by
  refine cwb_does (fun _ _ => rfl) (fun _ _ => nofun) (fun s g ⟨hrange, hremote, hzero⟩ => ⟨hrange, hremote, ?_⟩)
  rw [cwbAct, if_pos hzero]
  exact gives_deferred false [] _

theorem cwb_lines_does : Does (.cwb c r len) c (needs [] [srcField r.base 2, uniField len 1] 0)
    (fun s g => CacheRange r ps s g ∧ ps.any Piece.remote = false ∧ 0 < cacheLength g)
    (fun s g =>
      { awaits := .job s.model.nextId
        after := [.job s.model.nextId]
        upds := fun t =>
          [.eng { t.eng with jobs := t.eng.jobs ++ [{ newJob s g.w g.f .cwb with tag := c.alloc.toNat, total := cacheLength g }] },
           .model { t.model with nextId := t.model.nextId + 1 }] }) := by
  refine cwb_does (fun _ _ => rfl) (fun _ _ => nofun) (fun s g ⟨hrange, hremote, hpos⟩ => ⟨hrange, hremote, ?_⟩)
  rw [cwbAct, if_neg hpos.ne']
  exact ⟨rfl, rfl, rfl, rfl, rfl, rfl, rfl, rfl, rfl, rfl, rfl, rfl, rfl, rfl, rfl, rfl, rfl⟩

end

/-- Settles O26: a range that passes its checks leaves CINV its copies to discard, and CWB its command, or nothing for no bytes. -/
theorem cacheMaintenance : Obligations.CacheMaintenance := fun _ _ _ _ _ => ⟨cinv_does, cwb_empty_does, cwb_lines_does⟩

end Sys2Proof.Machine
end

section
/-! PROOFS. Windows (R299 to R306). -/

namespace Sys2Proof.Machine

/-! ### WBIND (R299 to R304) -/

theorem wbindRanges_ok {s : State} {w : Warp} {t : Task} {d : List Word} {src : List Piece} {ctr : CounterRef}
    (hbounds : windowOffset (bindWord d) + windowLen d ≤ spaceBytes s t.id (windowSpace (bindWord d)))
    (hmeets : meetsWindow t (bindWord d) (windowLen d) = false)
    (hhalo : (wordAt d 2).getLsbD 9 = true → haloBounds s w d = none ∧ src = [])
    (hrows : (wordAt d 2).getLsbD 9 = false → sourceRoutes s w (w.realmOf (wfield d 2 0 2)) (wpair d 0) (windowRuns d) = .ok src)
    (hctr : engineCounter s w ((wordAt d 2).getLsbD 8) (wfield d 2 4 4) (wfield d 2 2 2) (wpair d 6) = .ok ctr)
    (hdeclared : declaredPieces s (w.realmOf (wfield d 2 0 2)) (wpair d 0) src = none) :
    wbindRanges s w t d = .ok (src, ctr) := by
  simp only [bindWord] at hbounds hmeets
  cases halo : (wordAt d 2).getLsbD 9 with
  | false =>
    simp only [wbindRanges, Nat.not_lt.mpr hbounds, if_false, halo, Bool.false_eq_true, hrows halo, hctr, hmeets, hdeclared]
  | true =>
    obtain ⟨hinside, rfl⟩ := hhalo halo
    simp only [wbindRanges, Nat.not_lt.mpr hbounds, if_false, halo, if_true, Bool.false_eq_true, hinside, hctr, hmeets, hdeclared]

theorem wbindOwn_none {s : State} {w : Warp} {t : Task} {d q : List Word} {mma : Bool} (hfew : t.windows.length < 16)
    (hhalo : (wordAt d 2).getLsbD 9 = true → haloCheck s w d = none)
    (hfollow : mma = true → followCheck s w (windowSpace (bindWord d) = .tile) q = none) : wbindOwn s w t d mma q = none := by
  have group : (if (wordAt d 2).getLsbD 9 then haloCheck s w d else none) = none := by
    split
    · exact hhalo ‹_›
    · rfl
  rw [wbindOwn, if_neg (Nat.not_le.mpr hfew), group, Option.none_or]
  split
  · exact hfollow ‹_›
  · rfl

/-- Settles O30: past the checks of WBIND its act is the window, its command and its locks, with an entry where a pass follows on. -/
theorem windowBind : Obligations.WindowBind := by
  unfold Obligations.WindowBind
  intro c mma a e src ctr d q word halo locks
  refine does_without_result (fun _ => rfl) (fun _ _ => rfl) (fun _ _ => rfl) (fun s g hok => ?_)
  obtain ⟨t, ht, hlimits, haligned, hfew, hbounds, hmeets, hhalo, hrows, hfollow, hctr, hdeclared, hregions, hroom⟩ := hok
  have ranges : wbindRanges s g.w t (d g) = .ok (src, ctr) :=
    wbindRanges_ok hbounds hmeets (fun h => let ⟨inside, _, nothing⟩ := hhalo h; ⟨inside, nothing⟩) hrows hctr hdeclared
  have own : wbindOwn s g.w t (d g) mma (q g) = none :=
    wbindOwn_none hfew (fun h => let ⟨_, member, _⟩ := hhalo h; member) (fun h => (hfollow h).1)
  obtain ⟨entry, follows⟩ : (mma && !entryFree s g.w.core) = false ∧ (if mma then followOn (q g) else none).isSome = mma := by
    cases mma with
    | false => exact ⟨rfl, rfl⟩
    | true =>
      obtain ⟨-, hpass, hfree⟩ := hfollow rfl
      exact ⟨by rw [hfree]; rfl, hpass⟩
  simp only [d, q, halo] at hlimits haligned ranges own hroom follows
  simp only [ht, hlimits, haligned, Option.or_none, ranges, own, Nat.not_le.mpr hregions, decide_false, hroom, Bool.not_true, entry,
    Bool.or_self, Bool.false_eq_true, if_false, bindWindow, follows]
  exact gives_deferred false _ _

/-! ### WKICK and WDROP (R305) -/

/-- The word of WKICK or WDROP names a window of its task that is bound, or reserved in the warp's own chunk (R305). -/
def NamesWindow (s : State) (g : Go) : Prop := (g.rd 0 0 0).toNat / 2 ^ 18 % 2 ^ 13 = 0
  ∧ ∃ t x, s.task? g.w.task = some t ∧ x ∈ t.windows ∧ x.word = (g.rd 0 0 0).toNat ∧ (x.state ≠ 0 ∨ x.binder = g.w.id)

/-- No window that the word names needs a lock that its die's table has no room for (R294, R303, R305). -/
def RefreshRoom (s : State) (g : Go) : Prop := ∀ t, s.task? g.w.task = some t → ∀ x ∈ t.windows, x.word = (g.rd 0 0 0).toNat →
  x.state = 3 → lockRoom s (dieOf g.w.core) (if (wordAt x.desc 2).getLsbD 9 then 2 else 1) = true

theorem task?_id {s : State} {id : Nat} {t : Task} (h : s.task? id = some t) : t.id = id := by
  simpa using List.find?_some h

theorem wfield_word (x : Word) (lo n : Nat) : wfield [x] 0 lo n = x.toNat / 2 ^ lo % 2 ^ n := by
  rw [wfield, Nat.shiftRight_eq_div_pow]
  rfl

theorem namesWindow_of_mem {t : Task} {wid : Nat} {word : Word} {x : Window} (hx : x ∈ t.windows) (hword : x.word = word.toNat)
    (hmay : x.state ≠ 0 ∨ x.binder = wid) : namesWindow t wid word = true :=
  List.any_eq_true.mpr ⟨x, hx, by simpa [hword] using hmay⟩

theorem refreshWaits_of_room {s : State} {w : Warp} {t : Task} {word : Nat}
    (h : ∀ x ∈ t.windows, x.word = word → x.state = 3 → lockRoom s (dieOf w.core) (if (wordAt x.desc 2).getLsbD 9 then 2 else 1) = true) :
    refreshWaits s w t word = false := by
  refine List.any_eq_false.mpr (fun x hx hwaits => ?_)
  simp only [Bool.and_eq_true, beq_iff_eq, Bool.not_eq_true'] at hwaits
  obtain ⟨⟨hword, hstate⟩, hfull⟩ := hwaits
  rw [h x hx hword hstate] at hfull
  cases hfull

/-- WKICK and WDROP leave their act to the chunk's position. -/
theorem windowCommand_does {i : Instr} {c : Ctl} {a : BitVec 8} {kick : Bool} {after : Nat → Nat → Deferred} {ok : State → Go → Prop}
    (hi : ∀ s, exec i s = windowCommand c a kick after s) (hok : ∀ s g, ok s g → NamesWindow s g ∧ (kick = true → RefreshRoom s g)) :
    Does i c (needs [] [uniField a 1] 0) ok (fun _ g => { after := [after g.w.task (g.rd 0 0 0).toNat] }) := by
  refine does_without_result hi (fun _ _ => rfl) (fun _ _ => rfl) (fun s g h => ?_)
  obtain ⟨⟨hword, t, x, ht, hx, hname, hmay⟩, hroom⟩ := hok s g h
  have waits : (kick && refreshWaits s g.w t (g.rd 0 0 0).toNat) = false := by
    cases kick with
    | false => rfl
    | true => exact refreshWaits_of_room (hroom rfl t ht)
  simp only [ht, wfield_word, hword, ne_eq, not_true_eq_false, if_false, namesWindow_of_mem hx hname hmay, Bool.true_eq_false, waits,
    Bool.false_eq_true, task?_id ht]
  exact gives_deferred false _ _

/-! ### WSTAT (R306) -/

/-- The word that WSTAT gives of a window, 0 for a free one. -/
def statusOf (s : State) (x : Option Window) : Word :=
  match x with
  | none => 0
  | some x => BitVec.ofNat 32 (x.state + (if s.mat.entries.any (fun e => e.window == some x.first) then 4 else 0)
      + (if x.fault then 8 else 0) + 256 * min (2 ^ 24 - 1) (granulesOf (windowOffset x.word)
        (if x.state = 2 then ((s.job? x.job).map (·.landed)).getD 0 else x.landed)))

theorem statusOf_windowStatus (s : State) (x : Window) : statusOf s (some x) = BitVec.ofNat 32 (windowStatus s x) := by
  have landed : (s.job? x.job).elim 0 (·.landed) = ((s.job? x.job).map (·.landed)).getD 0 := by
    cases s.job? x.job <;> rfl
  simp only [statusOf, windowStatus, landed]
  congr 1
  ring

theorem wstat_does {c : Ctl} {d a : BitVec 8} : Does (.wstat c d a) c (needs [dstField true d 1] [uniField a 1] 0) (fun _ _ => True)
    (fun s g => { res := { Result.ofWord true d g
      (fun _ => statusOf s ((s.task? g.w.task).bind (fun t => t.window? (g.rd 0 0 0).toNat))) with lanes := [0] } }) := by
  refine does_writes_turn (turn := fun _ => id) (fun _ => rfl) (fun s g => ?_) (fun _ _ => rfl)
      (fun hwf _ _ _ => ?_) (fun _ _ _ => ⟨by simp, by simp [Result.ofWord, Result.ofWords]⟩)
  · refine (congrArg (putWord true d.toNat [0]) (funext fun _ => ?_)).trans (putWord_writes true d { g with lanes := [0] } _)
    cases (s.task? g.w.task).bind (fun t => t.window? (g.rd 0 0 0).toNat) with
    | none => rfl
    | some x => exact (statusOf_windowStatus s x).symm
  · exact not_port (Bool.and_elim_right (Bool.and_elim_left hwf)) (Nat.zero_lt_one)

/-- Settles O31: the commands act at their chunk's position where they find their window, and WSTAT's word adds its fields. -/
theorem windowCommands : Obligations.WindowCommands := fun _ _ _ =>
  ⟨windowCommand_does (fun _ => rfl) (fun _ _ ⟨hnamed, hroom⟩ => ⟨hnamed, fun _ => hroom⟩),
    windowCommand_does (fun _ => rfl) (fun _ _ hnamed => ⟨hnamed, nofun⟩), wstat_does⟩

end Sys2Proof.Machine
end

section
/-! PROOFS. RCOPY, TOPK, COLL and CKPT (R311, R315, R316, R321, R350, R496). -/

namespace Sys2Proof.Machine

/-! ### Commands over two ranges -/

theorem rangeLocks_length (s : State) (w : Warp) (rs : List (Nat × Nat)) (dest : Bool) (holder range first : Nat) :
    (rangeLocks s w rs dest holder range first).length = rs.length := by simp [rangeLocks]

/-- An act that puts down a command with the locks of its two ranges, numbered one after the other behind it. -/
theorem gives_ranges (s : State) (g : Go) (ends : Bool) (job : Job) (rs qs : List (Nat × Nat)) (a b : Bool) :
    let id := s.model.nextId
    let sl := rangeLocks s g.w rs a id 0 (id + 1)
    let dl := rangeLocks s g.w qs b id 1 (id + 1 + sl.length)
    let locks := sl ++ rangeLocks s g.w qs b id 1 (id + 1 + rs.length)
    Gives { ends := ends, after := [.job id], upds := inOrder [addJob job, addLocks (sl ++ dl), useIds (1 + sl.length + dl.length)] }
      { ends := ends, after := [.job id], upds := inOrder [addJob job, addLocks locks, useIds (1 + locks.length)] } := by
  intro id sl dl locks
  have number : sl.length = rs.length := rangeLocks_length ..
  have same : locks = sl ++ dl := by simp only [locks, dl, number]
  rw [same, List.length_append, Nat.add_assoc]
  exact gives_deferred ends _ _

theorem any_meets_of_apart {src dst : List Piece} (h : ∀ p ∈ src, ∀ q ∈ dst, p.meets q = false) :
    src.any (fun p => dst.any p.meets) = false := by
  simpa only [List.any_eq_false, Bool.not_eq_true] using h

theorem engineRange_ok {s : State} {w : Warp} {acc : Acc} {realm : Nat} {off : DWord} {len : Nat} {ps : List Piece} (hwrite : acc.write = true)
    (h : engineRange s w acc realm off len = .ok ps) :
    routes s w.who acc realm off len = .ok ps ∧ sealedPieces s realm off ps = none ∧ declaredPieces s realm off ps = none := by
  unfold engineRange at h
  split at h
  next => cases h
  next qs hroutes =>
    split at h
    next => cases h
    next hfree =>
      cases h
      simpa [hwrite, Option.or_eq_none_iff, hroutes] using hfree

theorem collRanges_ok {s : State} {w : Warp} {brealm trealm len tlen : Nat} {buf tab : DWord} {ps qs : List Piece}
    (hbuf : engineRange s w { write := true, local_ := true, engine := true } brealm buf len = .ok ps)
    (htab : engineRange s w { write := true, local_ := true, engine := true } trealm tab tlen = .ok qs) :
    collRanges s w brealm buf len trealm tab tlen = .ok (ps, qs) := by
  obtain ⟨hbuf, bufSealed, bufDeclared⟩ := engineRange_ok rfl hbuf
  obtain ⟨htab, tabSealed, tabDeclared⟩ := engineRange_ok rfl htab
  simp only [collRanges, hbuf, htab, bufSealed, tabSealed, bufDeclared, tabDeclared, Option.or_none]

/-- Settles O32: past its checks each command is issued with the locks of its two ranges, CKPT with none. -/
theorem engineCommands : Obligations.EngineCommands := by
  unfold Obligations.EngineCommands
  intro c other a b src dst ctr d locks room puts apart
  refine ⟨?rcopy, ?topk, ?coll, ?ckpt⟩ <;> refine does_without_result (fun _ => rfl) (fun _ _ => rfl) (fun _ _ => rfl) (fun s g hok => ?_)
  case rcopy =>
    obtain ⟨hlimits, haligned, hranges, hdevices, hapart, hroom⟩ := hok
    simp only [d, room] at hlimits haligned hranges hroom
    simp only [hlimits, haligned, Option.or_none, hranges, Nat.not_lt.mpr hdevices, any_meets_of_apart hapart, hroom, Bool.not_true,
      Bool.false_eq_true, if_false]
    exact gives_ranges s g false _ _ _ false true
  case topk =>
    obtain ⟨hlimits, haligned, hranges, hroom⟩ := hok
    simp only [d, room] at hlimits haligned hranges hroom
    simp only [hlimits, haligned, Option.or_none, hranges, hroom, Bool.not_true, Bool.false_eq_true, if_false]
    exact gives_ranges s g false _ _ _ false true
  case coll =>
    obtain ⟨hpath, hlimits, hbuf, htab, hbufRange, htabRange, hfew, hroom⟩ := hok
    have hranges := collRanges_ok hbufRange htabRange
    simp only [d] at hlimits hbuf htab hranges
    simp only [hpath, ne_eq, not_true_eq_false, hlimits, hbuf, htab, hranges, Nat.not_le.mpr hfew, decide_false, hroom, Bool.not_true,
      Bool.or_self, Bool.false_eq_true, if_false]
    cases (localRanges dst).head? <;> exact gives_ranges s g true _ _ _ true true
  case ckpt =>
    obtain ⟨hlevel, hmanager, hpath, hreserved, hlimits, htargets, hctr⟩ := hok
    have allowed : (decide (g.w.level = 0) || (other && g.w.level != 2)) = false := by
      cases other with
      | false => simpa using hlevel
      | true => simp [hmanager rfl]
    simp only [d] at hreserved hlimits htargets hctr
    simp only [allowed, hpath, ne_eq, not_true_eq_false, hreserved, hlimits, htargets, Option.or_none, hctr, Bool.false_eq_true, if_false]
    exact gives_deferred true _ _

end Sys2Proof.Machine
end

section
/-! PROOFS. Registers of which each partition has its own: COLLTO, WDOG, REPTHR, ECCCNT (R319, R345, R390, R429, R489). -/

namespace Sys2Proof.Machine

theorem reset_part? {n : Nat} (h : n < 8) : State.reset.part? n = some (Part.reset n) := by
  have key : (fun q : Part => q.num == n) ∘ Part.reset = (· == n) := rfl
  simp only [State.part?, State.reset, List.find?_map, key]
  rw [List.find?_range_eq_some (i := n).mpr ⟨by simp, by simpa using h, fun j hj => by simpa using hj.ne⟩, Option.map_some]

theorem sysPart_below {w : Warp} {num : Nat} (h : w.level ≠ 2) (s : State) : sysPart s w num = w.part := by
  simp [sysPart, h]

/-- Below manager level a register that each partition has is read from the warp's own partition (R429). -/
theorem part?_sysPart {s : State} {w : Warp} {p : Part} (hlevel : w.level ≠ 2) (hp : s.part? w.part = some p) (num : Nat) :
    ((s.part? (sysPart s w num)).map (fun p => partRegister p num)).getD 0 = partRegister p num := by
  rw [sysPart_below hlevel, hp]
  rfl

/-- A change of a partition's record that keeps its number is what the record then holds. -/
theorem part?_onPart {s : State} {n : Nat} {p : Part} {f : Part → Part} (hp : s.part? n = some p) (hnum : (f p).num = p.num) :
    (s.run (onPart n f s)).part? n = some (f p) := by
  have hn : p.num = n := by simpa using List.find?_some hp
  have kept : ((fun q : Part => q.num == n) ∘ fun q => if q.num = p.num then f p else q) = fun q => q.num == n := by
    funext q
    by_cases h : q.num = p.num <;> simp [h, hnum]
  have found : s.parts.find? (fun q => q.num == n) = some p := hp
  simp only [onPart, run_cons, run_nil, State.part?, part_parts, hnum, List.find?_map, kept, found, Option.map_some, if_true]

theorem watchdogOut_part {s : State} {n since : Nat} {p : Part} (hp : s.part? n = some p) :
    watchdogOut s n since = true ↔ p.wdog ≠ 0 ∧ p.wdog.toNat * 10 ^ 6 < s.dev.wall.toNat - since := by
  simp [watchdogOut, hp]

theorem collLate_part {s : State} {j : Job} {p : Part} (hp : s.part? j.part = some p) :
    collLate s j = true ↔ p.collto ≠ 0 ∧ p.collto.toNat * 10 ^ 3 < s.dev.wall.toNat - j.startedAt := by
  simp [collLate, hp, ← BitVec.toNat_inj]

/-- ECCCNT stays at its highest value (R489). -/
theorem countEcc_full {x : Word} (h : x = 0xFFFFFFFF) : BitVec.ofNat 32 (min 0xFFFFFFFF (x.toNat + 1)) = x := by
  subst h
  rfl

theorem countEcc_more {x : Word} (h : x ≠ 0xFFFFFFFF) : BitVec.ofNat 32 (min 0xFFFFFFFF (x.toNat + 1)) = x + 1 := by
  bv_omega

/-- Settles O52: at reset each partition has the values of its record, and each clause is what the model reads of a partition or puts into it. -/
theorem resetRegisters : Obligations.ResetRegisters := by
  unfold Obligations.ResetRegisters
  refine ⟨fun n h => ⟨_, reset_part? h, rfl, rfl, rfl, rfl⟩, ?access, by decide, fun s w f p l hlevel hp => ?read,
    fun s p n since hp => ?watchdog, fun s j p hp => ?timeout, fun s p hp => ⟨fun hfull => ?full, fun hmore => ?more, part?_onPart hp rfl⟩⟩
  case access =>
    rintro num (rfl | rfl | rfl) <;> decide
  case read =>
    have own := part?_sysPart hlevel hp
    exact ⟨own 0x041, own 0x044, own 0x040, own 0x056⟩
  case watchdog =>
    exact ⟨fun off => Bool.eq_false_iff.mpr (fun out => ((watchdogOut_part hp).mp out).1 off), fun on => (watchdogOut_part hp).trans (and_iff_right on)⟩
  case timeout =>
    exact ⟨fun off => Bool.eq_false_iff.mpr (fun late => ((collLate_part hp).mp late).1 off), fun on => (collLate_part hp).trans (and_iff_right on)⟩
  case full =>
    refine (part?_onPart hp rfl).trans ?_
    rw [countEcc_full hfull]
  case more =>
    refine (part?_onPart hp rfl).trans ?_
    rw [countEcc_more hmore]

end Sys2Proof.Machine
end

section
/-! PROOFS. Fields of KV entries, and what KVMASK makes of their masks (R326, R339). -/

namespace Sys2Proof.Machine

/-! ### An entry as a number (R326) -/

theorem kvNat_cons (x : Word) (e : List Word) : kvNat (x :: e) = x.toNat + 2 ^ 32 * kvNat e := rfl

theorem kvNat_lt (e : List Word) : kvNat e < 2 ^ (32 * e.length) := by
  induction e with
  | nil => exact Nat.one_pos
  | cons x e ih =>
    have hx := x.isLt
    rw [kvNat_cons, List.length_cons, Nat.mul_succ, Nat.add_comm, pow_add]
    omega

theorem wordsOfVal_succ (k v : Nat) : wordsOfVal (k + 1) v = BitVec.ofNat 32 v :: wordsOfVal k (v / 2 ^ 32) := by
  simp only [wordsOfVal, List.range_succ_eq_map, List.map_cons, List.map_map, Nat.mul_zero, pow_zero, Nat.div_one]
  refine congrArg _ (List.map_congr_left (fun i _ => ?_))
  rw [Function.comp_apply, Nat.div_div_eq_div_mul, ← pow_add, Nat.mul_succ, Nat.add_comm]

theorem kvNat_wordsOfVal (k v : Nat) : kvNat (wordsOfVal k v) = v % 2 ^ (32 * k) := by
  induction k generalizing v with
  | zero => exact (Nat.mod_one v).symm
  | succ k ih => rw [wordsOfVal_succ, kvNat_cons, ih, BitVec.toNat_ofNat, Nat.mul_succ, Nat.add_comm (32 * k), pow_add, Nat.mod_mul]

/-- The bits of a number in which n bits from bit lo on have been replaced. -/
theorem testBit_replaced (x lo n v i : Nat) : (x - x / 2 ^ lo % 2 ^ n * 2 ^ lo + v % 2 ^ n * 2 ^ lo).testBit i
    = if lo ≤ i ∧ i < lo + n then v.testBit (i - lo) else x.testBit i := by
  have parts : x = 2 ^ lo * (2 ^ n * (x / 2 ^ lo / 2 ^ n) + x / 2 ^ lo % 2 ^ n) + x % 2 ^ lo := by rw [Nat.div_add_mod, Nat.div_add_mod]
  have whole : x - x / 2 ^ lo % 2 ^ n * 2 ^ lo + v % 2 ^ n * 2 ^ lo = 2 ^ lo * (2 ^ n * (x / 2 ^ lo / 2 ^ n) + v % 2 ^ n) + x % 2 ^ lo := by
    conv_lhs => enter [1, 1]; rw [parts]
    simp only [Nat.mul_add, Nat.mul_comm (2 ^ lo) (_ % 2 ^ n)]
    omega
  have below : v % 2 ^ n < 2 ^ n := Nat.mod_lt _ (Nat.two_pow_pos n)
  rw [whole, Nat.testBit_two_pow_mul_add _ (Nat.mod_lt _ (Nat.two_pow_pos lo)), Nat.testBit_two_pow_mul_add _ below]
  by_cases hlo : i < lo
  · rw [if_pos hlo, if_neg (by omega), Nat.testBit_mod_two_pow, decide_eq_true hlo, Bool.true_and]
  · rw [if_neg hlo]
    by_cases hn : i - lo < n
    · rw [if_pos hn, if_pos (by omega), Nat.testBit_mod_two_pow, decide_eq_true hn, Bool.true_and]
    · rw [if_neg hn, if_neg (by omega), Nat.testBit_div_two_pow, Nat.testBit_div_two_pow]
      congr 1
      omega

theorem testBit_kvSet (e : List Word) (lo n v : Nat) {i : Nat} (hi : i < 256) :
    (kvNat (kvSet e lo n v)).testBit i = if lo ≤ i ∧ i < lo + n then v.testBit (i - lo) else (kvNat e).testBit i := by
  rw [kvSet, kvNat_wordsOfVal, Nat.testBit_mod_two_pow, decide_eq_true hi, Bool.true_and]
  exact testBit_replaced ..

theorem testBit_kvGet (e : List Word) (lo n i : Nat) : (kvGet e lo n).testBit i = (decide (i < n) && (kvNat e).testBit (i + lo)) := by
  rw [kvGet, Nat.testBit_mod_two_pow, Nat.testBit_div_two_pow]

/-- A field that has been set holds its new value. -/
theorem kvGet_kvSet_same {e : List Word} {lo n v : Nat} (h : lo + n ≤ 256) (hv : v < 2 ^ n) : kvGet (kvSet e lo n v) lo n = v := by
  refine Nat.eq_of_testBit_eq (fun i => ?_)
  rw [testBit_kvGet]
  by_cases hi : i < n
  · rw [testBit_kvSet e lo n v (by omega), if_pos (by omega), decide_eq_true hi, Bool.true_and, Nat.add_sub_cancel]
  · rw [decide_eq_false hi, Bool.false_and, Nat.testBit_lt_two_pow (hv.trans_le (Nat.pow_le_pow_right Nat.two_pos (Nat.not_lt.mp hi)))]

/-- Setting a field changes no other field. -/
theorem kvGet_kvSet_apart {e : List Word} {lo n v lo' n' : Nat} (h : lo' + n' ≤ 256) (hapart : lo' + n' ≤ lo ∨ lo + n ≤ lo') :
    kvGet (kvSet e lo n v) lo' n' = kvGet e lo' n' := by
  refine Nat.eq_of_testBit_eq (fun i => ?_)
  rw [testBit_kvGet, testBit_kvGet]
  by_cases hi : i < n'
  · rw [testBit_kvSet e lo n v (by omega), if_neg (by omega)]
  · rw [decide_eq_false hi, Bool.false_and, Bool.false_and]

theorem kvSet_length (e : List Word) (lo n v : Nat) : (kvSet e lo n v).length = 8 := by simp [kvSet, wordsOfVal]

/-! ### The masks of an entry (R326, R339) -/

/-- What stands in an entry above its masks. -/
theorem above_masks {e : List Word} (h : e.length = 8) : kvNat e / 2 ^ 128 = kvGet e 128 128 := by
  have hlt := kvNat_lt e
  rw [h] at hlt
  rw [kvGet, Nat.mod_eq_of_lt (by omega)]

section
variable {e : List Word} {v : Nat}

theorem kvValid_setValid (h : v < 2 ^ 64) : kvValid (kvSet e 0 64 v) = v := kvGet_kvSet_same (by decide) h

theorem kvSpec_setValid : kvSpec (kvSet e 0 64 v) = kvSpec e := kvGet_kvSet_apart (by decide) (by decide)

theorem kvValid_setSpec : kvValid (kvSet e 64 64 v) = kvValid e := kvGet_kvSet_apart (by decide) (by decide)

theorem kvSpec_setSpec (h : v < 2 ^ 64) : kvSpec (kvSet e 64 64 v) = v := kvGet_kvSet_same (by decide) h

/-- Setting a mask changes nothing above the masks. -/
theorem above_setMask {lo : Nat} (he : e.length = 8) (hlo : lo + 64 ≤ 128) : kvNat (kvSet e lo 64 v) / 2 ^ 128 = kvNat e / 2 ^ 128 := by
  rw [above_masks (kvSet_length ..), above_masks he]
  exact kvGet_kvSet_apart (by decide) (.inr hlo)

end

theorem kvValid_lt (e : List Word) : kvValid e < 2 ^ 64 := Nat.mod_lt _ (by decide)
theorem kvSpec_lt (e : List Word) : kvSpec e < 2 ^ 64 := Nat.mod_lt _ (by decide)

/-- KVMASK gives an entry two masks and keeps what stands above them. -/
def MasksTo (op : KvMaskOp) (m : Nat) (e : List Word) (valid spec : Nat) : Prop :=
  kvValid (kvMasked op m e) = valid ∧ kvSpec (kvMasked op m e) = spec ∧ kvNat (kvMasked op m e) / 2 ^ 128 = kvNat e / 2 ^ 128

section
variable {m : Nat} {e : List Word}

theorem kvMasked_set (he : e.length = 8) (hm : m < 2 ^ 64) : MasksTo .set m e (kvValid e ||| m) (kvSpec e) :=
  ⟨kvValid_setValid (Nat.or_lt_two_pow (kvValid_lt e) hm), kvSpec_setValid, above_setMask he (by decide)⟩

/-- Both masks of an entry set, VALID first. -/
theorem setMasks_shows {x y : Nat} (he : e.length = 8) (hx : x < 2 ^ 64) (hy : y < 2 ^ 64) :
    kvValid (kvSet (kvSet e 0 64 x) 64 64 y) = x ∧ kvSpec (kvSet (kvSet e 0 64 x) 64 64 y) = y
      ∧ kvNat (kvSet (kvSet e 0 64 x) 64 64 y) / 2 ^ 128 = kvNat e / 2 ^ 128 :=
  ⟨kvValid_setSpec.trans (kvValid_setValid hx), kvSpec_setSpec hy,
    (above_setMask (kvSet_length ..) (by decide)).trans (above_setMask he (by decide))⟩

theorem kvMasked_clr (he : e.length = 8) :
    MasksTo .clr m e (kvValid e &&& (2 ^ 64 - 1 - m)) (kvSpec e &&& (2 ^ 64 - 1 - m)) :=
  setMasks_shows he (Nat.and_le_left.trans_lt (kvValid_lt e)) (Nat.and_le_left.trans_lt (kvSpec_lt e))

theorem kvMasked_accept (he : e.length = 8) : MasksTo .accept m e (kvValid e) (kvSpec e &&& (2 ^ 64 - 1 - m)) :=
  ⟨kvValid_setSpec, kvSpec_setSpec (Nat.and_le_left.trans_lt (kvSpec_lt e)), above_setMask he (by decide)⟩

theorem kvMasked_reject (he : e.length = 8) :
    MasksTo .reject m e (kvValid e &&& (2 ^ 64 - 1 - (m &&& kvSpec e))) (kvSpec e &&& (2 ^ 64 - 1 - m)) :=
  setMasks_shows he (Nat.and_le_left.trans_lt (kvValid_lt e)) (Nat.and_le_left.trans_lt (kvSpec_lt e))

end

end Sys2Proof.Machine
end

section
/-! PROOFS. Checks of KV instructions that pass, and their acts (R338, R352). -/

namespace Sys2Proof.Machine

/-! ### Checks that pass -/

theorem ok_bind {α β : Type} (a : α) (f : α → Xl β) : (.ok a : Xl α) >>= f = f a := rfl

theorem orRaise_none : orRaise none = .ok () := rfl

theorem kvArg_false (word low : Nat) : kvArg false word low = .ok () := rfl

theorem kvRoot_root {w : Warp} (h : w.path = 0) : kvRoot w = .ok () := by
  rw [kvRoot, if_neg (not_not_intro h)]
  rfl

theorem orRaise_findSome {α : Type} {ls : List α} {f : α → Option TrapReq} (h : ∀ l ∈ ls, f l = none) :
    orRaise (ls.findSome? f) = .ok () := by
  rw [List.findSome?_eq_none_iff.mpr h]
  rfl

section
variable {s : State} {w : Warp} {ls : List KvLeaf}

theorem kvFree_open (h : KvOpen s w ls) : kvFree s w ls = .ok () := orRaise_findSome (fun l hl => by
  obtain ⟨hrpend, hlock, hdeclared, hseal⟩ := h l hl
  simp only [hrpend, hlock, hdeclared, hseal, Bool.or_self, Bool.false_eq_true, if_false])

theorem kvUsable_readable (h : KvReadable s w ls) : kvUsable s w ls = .ok () := orRaise_findSome (fun l hl => by
  obtain ⟨hrpend, hlock⟩ := h l hl
  simp only [hrpend, hlock, Bool.or_self, Bool.false_eq_true, if_false])

theorem kvNotRo_plain (h : ∀ l ∈ ls, kvRo l.e = false) : kvNotRo ls = .ok () := orRaise_findSome (fun l hl => by
  simp only [h l hl, Bool.false_eq_true, if_false])

end

/-! ### Acts that rewrite entries -/

/-- An act that ends its chunk, reads and writes entries, leaves something for its position, and changes the state beside its warp. -/
theorem gives_entries {reads : List Place} {stores : List (Place × Byte)} {kind : Place → AccKind} {after : List Deferred}
    {us us' : State → List Upd} (h : us = us') :
    Gives { ends := true, reads := reads, stores := stores, kind := kind, after := after, upds := us }
      { ends := true, reads := reads, stores := stores, after := after, upds := us' } :=
  ⟨rfl, rfl, rfl, rfl, rfl, rfl, rfl, rfl, rfl, rfl, rfl, rfl, rfl, rfl, rfl, rfl, h⟩

/-- A page instruction whose checks find what the plan says changes its pages as the plan says. -/
theorem changesPages_of {i : Instr} {c : Ctl} {srcs : List Field} {rsel : BitVec 2} {turns : Bool} {kind : AccKind}
    {checks : State → Go → Xl (List KvLeaf × List (KvLeaf × List Nat × List Word))}
    {plan : State → Go → List KvLeaf → List (KvLeaf × List Nat × List Word) → Prop}
    (hi : ∀ s, exec i s = kvPageInstr c srcs rsel turns kind (checks s) s)
    (h : ∀ s g seen new, plan s g seen new → checks s g = .ok (seen, new)) : ChangesPages i c srcs rsel turns plan := by
  intro seen new
  refine does_without_result hi (fun _ _ => rfl) (fun _ _ => rfl) (fun s g hplan => ?_)
  simp only [h s g seen new hplan]
  exact gives_entries rfl

end Sys2Proof.Machine
end

section
/-! PROOFS. KVMASK, KVFMT and KVPROV (R339 to R341). -/

/-! In a namespace of its own, since the model has a function kvEntries. -/

namespace Sys2Proof.Machine.PageInstructions

/-- Settles O34: each of the three passes the checks its plan names, and KVMASK's masks are those of the fields it sets. -/
theorem kvEntries : Obligations.KvEntries := by
  unfold Obligations.KvEntries
  refine ⟨fun c op rsel a b => ⟨?mask, ?fmt, ?prov⟩, fun m e he hm =>
    ⟨kvMasked_set he hm, kvMasked_clr he, kvMasked_accept he, kvMasked_reject he⟩⟩
  case mask =>
    refine changesPages_of (fun _ => rfl) ?_
    rintro s g seen _ ⟨⟨r, hrange, hentries, hopen⟩, hplain, rfl⟩
    simp only [hrange, hentries, kvFree_open hopen, kvNotRo_plain hplain, ok_bind]
  case fmt =>
    refine changesPages_of (fun _ => rfl) ?_
    rintro s g seen _ ⟨⟨r, ⟨hrange, hentries, hopen⟩, hone⟩, hplain, hall, hword, hframe, htag, hpages, rfl⟩
    rw [hone] at hentries
    have tag : (g.rd 1 0 0).toNat / 2 ^ 26 % 16 = (g.rd 1 0 0).toNat / 2 ^ 26 := by omega
    have high : (g.rd 1 0 0).toNat / 2 ^ 30 = 0 := Nat.div_eq_of_lt hword
    have known : kvFormatTrap ((g.rd 1 0 0).toNat / 2 ^ 26) 9 = none := if_neg (Nat.not_le.mpr htag)
    have pool : orRaise (seen.findSome? (fun l => if kvPoolFrames l.part ≤ (g.rd 1 0 0).toNat % 2 ^ 26 then
        some (walkTrap .xlateProt l.realm l.va) else none)) = .ok () :=
      orRaise_findSome (fun l hl => if_neg (Nat.not_le.mpr (hpages l hl).1))
    have settled : seen.any (fun l => decide (¬kvSpec l.e = 0)) = false :=
      List.any_eq_false.mpr (fun l hl => by simp [(hpages l hl).2])
    simp only [hrange, hone, hall, hframe, tag, high, known, hentries, kvFree_open hopen, kvNotRo_plain hplain, pool, settled, ne_eq,
      not_true_eq_false, decide_false, beq_false_of_ne Nat.zero_ne_one, kvArg_false, orRaise_none, ok_bind]
  case prov =>
    refine changesPages_of (fun _ => rfl) ?_
    rintro s g seen _ ⟨⟨r, hrange, hentries, hopen⟩, hver, rfl⟩
    simp only [decide_eq_false (Nat.not_le.mpr hver), kvArg_false, hrange, hentries, kvFree_open hopen, ok_bind]

end Sys2Proof.Machine.PageInstructions
end

section
/-! PROOFS. KVSHARE and GRAFT (R342, R343). -/

namespace Sys2Proof.Machine

/-- A fold that joins what each element gives, where each gives something. -/
theorem foldr_joined {α β : Type} {f : α → Option (List β)} {join : α → Option (List β) → Option (List β)}
    (hjoin : ∀ x y ys, f x = some y → join x (some ys) = some (y ++ ys)) {xs : List α} {news : List (List β)}
    (h : xs.map f = news.map some) : xs.foldr join (some []) = some news.flatten := by
  induction xs generalizing news with
  | nil => cases news with
    | nil => rfl
    | cons => cases h
  | cons x xs ih => cases news with
    | nil => cases h
    | cons y ys =>
      obtain ⟨hx, hxs⟩ := List.cons.inj h
      rw [List.foldr_cons, ih hxs, hjoin x y _ hx, List.flatten_cons]

/-- Settles O35: past their checks, the entries of KVSHARE are copies of its source's, those of GRAFT what its columns give. -/
theorem kvSharing : Obligations.KvSharing := by
  unfold Obligations.KvSharing
  refine fun c ro rsel a b => ⟨?share, ?graft⟩
  case share =>
    refine changesPages_of (fun _ => rfl) ?_
    rintro s g _ _ ⟨r, sd, sfirst, dst, src, ⟨hroot, hrange, hsource⟩, hcount, hdst, hsrc, hopen, hreadable, hblank, htakable, hown, rfl, rfl⟩
    have blank : dst.all (fun l => kvBlank l.e) = true := List.all_eq_true.mpr hblank
    have takable : src.all (fun l => kvTakable l.e) = true := List.all_eq_true.mpr htakable
    simp only [kvRoot_root hroot, hrange, hsource, hcount, ne_eq, not_true_eq_false, decide_false, hdst, hsrc, kvFree_open hopen,
      kvUsable_readable hreadable, blank, takable, Bool.not_true, kvArg_false, hown, ok_bind]
  case graft =>
    refine changesPages_of (fun _ => rfl) ?_
    rintro s g _ _ ⟨r, sd, sfirst, dst, src, news, ⟨hroot, hrange, hsource⟩, hapart, hdst, hsrc, hopen, hreadable, hblank, htakable, hown,
      hnews, rfl, rfl⟩
    have blank : (chunksOf (kvPps r.d - r.first) r.cols.length dst).all
        (fun col => (col.drop (kvPps r.d - r.first - r.count)).all (fun l => kvBlank l.e)) = true :=
      List.all_eq_true.mpr (fun col hcol => List.all_eq_true.mpr (hblank col hcol))
    have takable : src.all (fun l => kvTakable l.e) = true := List.all_eq_true.mpr htakable
    simp only [kvRoot_root hroot, hrange, hsource, beq_false_of_ne hapart, hdst, hsrc, kvFree_open hopen,
      kvUsable_readable hreadable, blank, takable, Bool.not_true, kvArg_false, hown, ok_bind]
    rw [foldr_joined ?columns hnews]
    case columns =>
      intro x y ys hx
      simp only [hx]

end Sys2Proof.Machine
end

section
/-! PROOFS. KVLD and KVAPPEND (R334 to R337). -/

namespace Sys2Proof.Machine

/-! ### What lanes give -/

section
variable {α : Type} {ls : List Nat} {f : Nat → Xl α} {xs : List (Nat × α)}

theorem eachLane_mem (h : eachLane ls f = .ok xs) {x : Nat × α} (hx : x ∈ xs) : x.1 ∈ ls ∧ f x.1 = .ok x.2 := by
  unfold eachLane at h
  split at h
  next => cases h
  next =>
    cases h
    obtain ⟨l, hl, hsome⟩ := List.mem_filterMap.mp hx
    split at hsome
    next => cases hsome
    next hok =>
      cases hsome
      exact ⟨hl, hok⟩

/-- A lane that gave something is found by its number. -/
theorem find_eachLane (h : eachLane ls f = .ok xs) {x : Nat × α} (hx : x ∈ xs) : xs.find? (fun y => y.1 == x.1) = some x := by
  obtain ⟨y, hy⟩ := Option.isSome_iff_exists.mp (List.find?_isSome (p := fun y => y.1 == x.1).mpr ⟨x, hx, beq_self_eq_true x.1⟩)
  have lane : y.1 = x.1 := by simpa using List.find?_some hy
  have hfy := (eachLane_mem h (List.mem_of_find?_eq_some hy)).2
  have hfx := (eachLane_mem h hx).2
  rw [lane, hfx] at hfy
  rw [hy, Prod.ext lane (Except.ok.inj hfy).symm]

end

/-! ### KVLD (R334 to R336) -/

theorem kvldGather_length (s : State) (w : Warp) (f32 : Bool) (k : KvSlot) (freq : Nat → Nat) : (kvldGather s w f32 k freq).1.length = 4 := by
  unfold kvldGather
  split
  · rfl
  · simp

theorem kvldWords_clean {d lane : Nat} {r : List Word × Flags × Bool} (hlen : r.1.length = 4) (hclean : r.2.2 = false) :
    kvldWords d lane r = (List.range 4).map (fun j => .v (d + j) lane (r.1.getD j 0) false) := by
  rw [kvldWords, zipIdx_eq_range 0 r.1, hlen, hclean, List.map_map]
  rfl

/-- The register writes of lanes that have gathered clean words, predicates after words, are those of their result. -/
theorem gathered_writes {α : Type} {xs : List (Nat × α)} {d p : Nat} {r : α → List Word × Flags × Bool} {t : α → Tri}
    {word : Nat → Nat → Word} {tri : Nat → Tri} (fl : Flags)
    (hr : ∀ x ∈ xs, (r x.2).1.length = 4 ∧ (r x.2).2.2 = false ∧ word x.1 = fun j => (r x.2).1.getD j 0) (ht : ∀ x ∈ xs, tri x.1 = t x.2) :
    xs.flatMap (fun x => kvldWords d x.1 (r x.2)) ++ xs.map (fun x => .p p x.1 (bitsOfTri (t x.2)))
      = Result.writes ⟨false, d, 4, xs.map (·.1), word, some p, xs.map (·.1), tri, fl⟩ := by
  simp only [Result.writes, Bool.false_eq_true, if_false, List.flatMap_map, List.map_map, Function.comp_def]
  refine congrArg₂ _ (List.flatMap_congr (fun x hx => ?_)) (List.map_congr_left (fun x hx => ?_))
  · obtain ⟨hlen, hclean, hword⟩ := hr x hx
    rw [kvldWords_clean hlen hclean, hword]
  · rw [ht x hx]

theorem kvldTri_eq (k : KvSlot) : kvldTri k = if k.vis = false then .no else if k.stale then .undecided else .yes := by
  cases h : k.vis <;> simp [kvldTri, h]

/-! ### KVAPPEND (R337) -/

theorem raisedTrap_none {c : Ctl} {n : Need} {g : Go} {a : Act} (h : trappingFlags g.w.regs.fpctl a.allFlags = 0) : raisedTrap c n g a = none := by
  rw [raisedTrap, fpTrapReq_none h, Option.map_none]

/-- Settles O33: each lane of KVLD finds its own words and its own predicate again in the result; of KVAPPEND no flag traps. -/
theorem kvSlots : Obligations.KvSlots := by
  unfold Obligations.KvSlots
  intro c f32 valid spec rsel d a b e pc xs ys count sel now later got words shown fl
  refine ⟨?load, ?append⟩
  case load =>
    refine does_of_gives (fun _ => rfl) (fun _ s g _ _ => ⟨fun _ => ?_, rfl⟩) (fun _ s g hl ⟨hslots, hclean⟩ => ?_)
    · dsimp only
      split <;> decide
    · have lanes : ∀ l ∈ (now g).map (·.1), l < 32 := fun l hmem => by
        obtain ⟨x, hx, rfl⟩ := List.mem_map.mp hmem
        exact hl _ (eachLane_mem hslots (List.mem_of_mem_filter hx)).1
      refine ⟨?_, lanes, lanes⟩
      have found : ∀ x ∈ now g, xs.find? (fun y => y.1 == x.1) = some x := fun x hx => find_eachLane hslots (List.mem_of_mem_filter hx)
      have word : ∀ x ∈ now g, words s g x.1 = (got s g x.2).1 := fun x hx => by simp only [words, found x hx, Option.elim_some]
      have tri : ∀ x ∈ now g, shown x.1 = kvldTri x.2.1 := fun x hx => by simp only [shown, found x hx, Option.elim_some, kvldTri_eq]
      simp only [sel, count] at hslots
      simp only [hslots, List.flatMap_map, List.map_map]
      refine ⟨rfl, rfl, rfl, ?writes, ?flags, rfl, ?awaits, rfl, rfl, rfl, rfl, rfl, rfl, rfl, rfl, rfl, rfl⟩
      case writes =>
        exact gathered_writes (r := got s g) (t := fun y => kvldTri y.1) _ (fun x hx => ⟨kvldGather_length .., hclean x hx, funext fun j => congrArg (·.getD j 0) (word x hx)⟩) tri
      case flags => exact List.foldl_map
      case awaits => simp only [List.isEmpty_iff]; rfl
  case append =>
    refine does_without_result (fun _ => rfl) (fun _ _ => rfl) (fun _ _ => rfl) (fun s g ⟨hslots, hflags⟩ => ?_)
    have quiet : raisedTrap c (needs [] [] 0) g { flags := ys.map (fun x => (x.1, fl g x)) } = none :=
      raisedTrap_none (by rwa [Act.allFlags, List.foldl_map])
    simp only [sel, fl] at hslots quiet
    simp only [hslots, quiet, List.foldl_map]
    exact ⟨rfl, rfl, rfl, rfl, rfl, rfl, rfl, rfl, rfl, rfl, rfl, rfl, rfl, rfl, rfl, rfl, rfl⟩

end Sys2Proof.Machine
end

section
/-! PROOFS. KVCOMPACT, REPAIR and BEAMMAP (R344, R346, R349). -/

namespace Sys2Proof.Machine

/-- Settles O36: with its plan found and room for its locks, each command is put down as its plan says. -/
theorem kvCommands : Obligations.KvCommands := by
  unfold Obligations.KvCommands
  intro c rsel a b e r cols frames ls ctr table head pi src dst realm puts m moves
  refine ⟨?compact, ?repair, ?beams⟩ <;>
    refine does_without_result (fun _ => rfl) (fun _ _ => rfl) (fun _ _ => rfl) (fun s g ⟨hplan, hroom⟩ => ?_)
  case compact =>
    simp only [hplan, hroom, Bool.not_true, Bool.false_eq_true, if_false]
    exact gives_entries rfl
  case repair =>
    simp only [hplan, hroom, Bool.not_true, Bool.false_eq_true, if_false]
    exact gives_entries rfl
  case beams =>
    simp only [hplan, hroom, Bool.not_true, Bool.false_eq_true, if_false]
    exact gives_entries (gives_ranges s g true _ _ _ false true).upds

end Sys2Proof.Machine
end

section
/-! PROOFS. Whatever steps, a script of updates says the next state, and so every step keeps the state coherent (R358, R430, R431). -/

namespace Sys2Proof.Machine

/-! ### Every meaning is a script -/

/-- The outcome of an instruction or event taken in s: the state after a script of updates, or the one fault, of an instruction that no fragment issues. -/
def ByScript (s : State) (o : Host.Outcome State Fault Refusal) : Prop := o = .fault .noCurrentWarp ∨ ∃ us, o = .next (s.run us)

theorem byScript_run (s : State) (us : List Upd) : ByScript s (.next (s.run us)) := .inr ⟨us, rfl⟩

/-- What acts for the current fragment. -/
theorem byScript_current (s : State) (k : Warp → Frag → List Upd) :
    ByScript s (match s.current with | none => .fault .noCurrentWarp | some (w, f) => .next (s.run (k w f))) := by
  cases s.current with
  | none => exact .inl rfl
  | some x => exact byScript_run s (k x.1 x.2)

theorem issueWith_byScript (c : Ctl) (n : Need) (idle body : Go → Act) (s : State) : ByScript s (issueWith c n idle body s) :=
  byScript_current s (issueScript c n idle body s)

theorem atomInstr_byScript (ask : Instr) (c : Ctl) (isRed cas : Bool) (op : Option AtomOp) (w64 : Bool) (scope : Scope) (d : BitVec 8) (r : MemRef)
    (e : Src) (s : State) : ByScript s (atomInstr ask c isRed cas op w64 scope d r e s) :=
  byScript_current s (atomScript ask c isRed cas op w64 scope d r e s)

theorem execMov_byScript (c : Ctl) (x2 : Bool) (d : BitVec 8) (a : Src) (s : State) : ByScript s (execMov c x2 d a s) := by
  cases x2 <;> exact issueWith_byScript ..

theorem execMovi_byScript (c : Ctl) (mode : MoviMode) (d : BitVec 8) (imm : Word) (s : State) : ByScript s (execMovi c mode d imm s) := by
  cases mode <;> exact issueWith_byScript ..

/-- What an encoded instruction does goes through its issue; every other constructor of Instr is an event, whose meaning is a script. -/
theorem exec_byScript (i : Instr) (s : State) : ByScript s (exec i s) := by
  cases i
  case mov => exact execMov_byScript ..
  case movi => exact execMovi_byScript ..
  case atom | acas | red => exact atomInstr_byScript ..
  case illegalOpcode => exact byScript_current s _
  case lineRefetch | fixedLatencyWriteback | tagReturn | switchMarkerResume | chunkLimitEnd | chunkPosition | commitComplete | waveAtomicExecute
      | walkComplete | invalidationAck | entryChangeAck | mmaGrant | passComplete | quarterCopy | runnerGranule | windowCopyStart | windowLanded
      | rcopyComplete | engineCommandStop | topkComplete | collComplete | launchGroupListRead | launchReady | taskStart | spawnRecordMove
      | spawnedTaskStart | launchComplete | cwaitWake | sleepWake | kvldWaitGather | repairProbeDone | repairLayerDone | beammapFlip
      | shootRetireComplete | pruneWarpStop | trapRecordWrite | handlerTaskStart | timerTrap | waitProgress | queueProgress | haltAck
      | preemptWarpStop | incrementalBankCopy | powerOn | cwbComplete | crPartialEvict | collMessage | collTimeout | collAbortMessage | linkDown
      | ualinkRequestTimeout | peerReadRequest | peerWriteRequest | peerAtomicRequest | peerCommitMessage | peerPruneMessage | peerStoreAck
      | hostRdmaWrite | hostRdmaRead | hostSendInbound | hostSendAck | hostAtomicVerb | heatBudgetPeriod | eccCorrected | eccUncorrectable
      | patrolScrub | translationParityError | machineCheck | bootPhaseTimeout | mgmtReport | mgmtReset | partitionCreate | partitionStart
      | partitionStop | partitionDestroy | vacate | reopen | dbgctlHalt | ctxctlValidWrite | vspillWrite | enckeyWrite | mbwinWrite | apentWrite
      | ecccntRead | sysregWrite | linkReturn | queuePairError | priorityFlowControl | ecnMarking => exact byScript_run s _
  all_goals exact issueWith_byScript ..

/-! ### Coherent outcomes -/

/-- Where the outcome is a next state, that state is coherent. -/
def EndsCoherent (o : Host.Outcome State Fault Refusal) : Prop := ∀ t, o = .next t → Coherent t

theorem endsCoherent_next {t : State} (h : Coherent t) : EndsCoherent (.next t) := fun _ ht => Host.Outcome.next.inj ht ▸ h

/-- A next state goes on; nothing else becomes one. -/
def onward (f : State → State) (o : Host.Outcome State Fault Refusal) : Host.Outcome State Fault Refusal :=
  match o with
  | .next t => .next (f t)
  | .fault e => .fault e
  | .refused r => .refused r

theorem EndsCoherent.onward {o : Host.Outcome State Fault Refusal} {f : State → State} (h : EndsCoherent o) (hf : ∀ t, Coherent t → Coherent (f t)) :
    EndsCoherent (onward f o) := by
  cases o with
  | next t => exact endsCoherent_next (hf t (h t rfl))
  | fault _ => exact fun _ ht => nomatch ht
  | refused _ => exact fun _ ht => nomatch ht

theorem endsCoherent_of_byScript {s : State} {o : Host.Outcome State Fault Refusal} (h : Coherent s) (ho : ByScript s o) : EndsCoherent o := by
  obtain rfl | ⟨us, rfl⟩ := ho
  · exact fun _ ht => nomatch ht
  · exact endsCoherent_next (coherent_run us s h)

theorem exec_endsCoherent (i : Instr) {s : State} (h : Coherent s) : EndsCoherent (exec i s) :=
  endsCoherent_of_byScript h (exec_byScript i s)

/-! ### Turns of a step -/

section
variable {s : State} (h : Coherent s)
include h

theorem endIssue_coherent (w : Warp) (fid : Nat) (pair : Option DWord) : Coherent (endIssue w fid pair s) := by
  unfold endIssue
  split <;> exact coherent_run _ s h

theorem issueTurn_endsCoherent (w : Warp) (f : Frag) : EndsCoherent (issueTurn w f s) := by
  unfold issueTurn
  split
  next => exact endsCoherent_next (endIssue_coherent (coherent_run _ s h) ..)
  next => exact exec_endsCoherent (.lineRefetch _ _) (coherent_run _ s h)
  next => exact (exec_endsCoherent _ (coherent_run _ s h)).onward (fun _ ht => endIssue_coherent ht ..)

theorem walkTurn_endsCoherent (w : Warp) (f : Frag) (stale late : Bool) : EndsCoherent (walkTurn w f stale late s) := by
  have go (stale : Bool) : EndsCoherent (onward (walking false false) (issueTurn w f (walking stale late s))) :=
    (issueTurn_endsCoherent (coherent_run _ s h) w f).onward (fun t ht => coherent_run _ t ht)
  unfold walkTurn
  dsimp only
  split
  next t ht =>
    split
    · exact endsCoherent_next (go stale t ht)
    · exact go false
  next => exact fun _ ht => nomatch ht
  next => exact fun _ ht => nomatch ht

/-- A turn of the agenda that names a fragment: where it is there and may issue, it does, and else nothing happens. -/
theorem namedTurn_endsCoherent {go : Warp → Frag → Host.Outcome State Fault Refusal} (hgo : ∀ w f, EndsCoherent (go w f)) (wid fid : Nat) :
    EndsCoherent (match s.warp? wid with
      | none => .next s
      | some w => match w.frag? fid with
        | none => .next s
        | some f => if mayTurn s w f then go w f else .next s) := by
  split
  next => exact endsCoherent_next h
  next w _ =>
    split
    next => exact endsCoherent_next h
    next f _ =>
      split
      · exact hgo w f
      · exact endsCoherent_next h

theorem agendaTurn_endsCoherent (t : Turn) : EndsCoherent (agendaTurn t s) := by
  cases t with
  | event i => exact (exec_endsCoherent i h).onward (fun t ht => coherent_run _ t ht)
  | issue wid fid => exact namedTurn_endsCoherent h (issueTurn_endsCoherent h) wid fid
  | walk wid fid stale late => exact namedTurn_endsCoherent h (fun w f => walkTurn_endsCoherent h w f stale late) wid fid
  | flash slot image => exact endsCoherent_next (coherent_run _ s h)

end

/-- The event that comes next is one of Instr's. -/
theorem nextEvent_eq_exec {s : State} {o : Host.Outcome State Fault Refusal} (h : nextEvent s = some o) : ∃ i, o = exec i s := by
  simp only [nextEvent, Option.or_eq_some_iff, Option.map_eq_some_iff] at h
  obtain (hpart | ⟨-, hother⟩) | ⟨-, i, -, rfl⟩ := h
  · unfold partStep at hpart
    split at hpart
    next => exact ⟨.partitionCreate, (Option.some.inj hpart).symm⟩
    next => exact ⟨.partitionStart, (Option.some.inj hpart).symm⟩
    next =>
      split at hpart
      · cases hpart
      · exact ⟨.partitionStop, (Option.some.inj hpart).symm⟩
    next => exact ⟨.partitionDestroy, (Option.some.inj hpart).symm⟩
    next => cases hpart
  · have listed := List.mem_of_find?_eq_some hother
    simp only [List.mem_append, List.mem_map] at listed
    obtain (⟨station, -, rfl⟩ | ⟨p, -, rfl⟩) | ⟨p, -, rfl⟩ := listed
    · exact ⟨.linkDown station, rfl⟩
    · exact ⟨.vacate p.num, rfl⟩
    · exact ⟨.reopen p.num, rfl⟩
  · exact ⟨i, rfl⟩

theorem ownTurn_endsCoherent {s : State} (h : Coherent s) : EndsCoherent (ownTurn s) := by
  unfold ownTurn
  split
  next o ho =>
    obtain ⟨i, rfl⟩ := nextEvent_eq_exec ho
    exact (exec_endsCoherent i h).onward (fun t ht => coherent_run _ t ht)
  next =>
    split
    next w f _ => exact issueTurn_endsCoherent h w f
    next => exact endsCoherent_next (coherent_run _ s h)

theorem takeTurn_endsCoherent {s : State} (h : Coherent s) : EndsCoherent (takeTurn s) := by
  unfold takeTurn
  split
  next => exact ownTurn_endsCoherent h
  next t rest _ => exact agendaTurn_endsCoherent (coherent_run _ s h) t

/-- Settles O57: a step begins by a script and takes one turn, whose states scripts give; a script keeps a state coherent. -/
theorem stepKeepsCoherent : Obligations.StepKeepsCoherent := by
  unfold Obligations.StepKeepsCoherent
  exact ⟨fun s t hs => takeTurn_endsCoherent (coherent_run _ s hs) t, fun i s t hs => exec_endsCoherent i hs t⟩

end Sys2Proof.Machine
end

section
/-! PROOFS. Launches, tasks, spawned tasks, vacating, pre-emption and retiring shoots (R355, R358, R359, R362, R371, R373, R375, R378, R383 to R387). -/

namespace Sys2Proof.Machine

/-! ### Launches (R355, R359, R383) -/

section
variable {uid : Nat} {s : State} {l : Launch} (hl : launchOfUid s uid = some l)
include hl

section
variable {p : Part} (hp : s.part? l.part = some p) (hphase : l.phase = .lists) (hworks : partWorks s l.part = true)
  (hlock : behindLock s l.uid = false)
include hp hphase hworks hlock

/-- A launch with its lists read has its groups and waits for its dependences; its locks are free. -/
theorem launchGroupListRead_visible (hrace : firstRace (effective s l.part) s.order.accesses (listAccesses s l) = none)
    (hgood : groupsBad p l.desc l.uid (readGroups s l) = false) :
    Runs (.launchGroupListRead uid) s (inOrder [fun _ => [.launch { l with groups := readGroups s l, lists := [], phase := .waiting }],
      logAccesses (listAccesses s l), onOrder (fun o => { o with locks := o.locks.filter (fun k => !l.locks.contains k.id) })] s) :=
  runs_of_eq rfl (by
    simp only [hl, hp, hphase, hworks, hlock, hrace, hgood, bne_self_eq_false, Bool.not_true, Bool.or_self, Bool.false_eq_true, if_false])

theorem launchGroupListRead_refused (hrace : firstRace (effective s l.part) s.order.accesses (listAccesses s l) = none)
    (hbad : groupsBad p l.desc l.uid (readGroups s l) = true) :
    Runs (.launchGroupListRead uid) s (refuseLaunch l (raiseIn .launchInvalid l.realm l.descOff) s) :=
  runs_of_eq rfl (by
    simp only [hl, hp, hphase, hworks, hlock, hrace, hbad, bne_self_eq_false, Bool.not_true, Bool.or_self, Bool.false_eq_true, if_false, if_true])

theorem launchGroupListRead_raced {x : Access × Access} (hrace : firstRace (effective s l.part) s.order.accesses (listAccesses s l) = some x) :
    Runs (.launchGroupListRead uid) s (refuseLaunch l (engineRace x l.issuerPc) s) :=
  runs_of_eq rfl (by
    simp only [hl, hp, hphase, hworks, hlock, hrace, bne_self_eq_false, Bool.not_true, Bool.or_self, Bool.false_eq_true, if_false])

end

/-- A launch whose dependences are met is ready. -/
theorem launchReady_runs (hphase : l.phase = .waiting) (hworks : partWorks s l.part = true)
    (hdeps : ∀ d ∈ l.deps, d.target.toNat ≤ counterValue s d.addr) :
    Runs (.launchReady uid) s [.launch { l with
      phase := .ready
      readyAt := s.dev.wall.toNat
      clock := l.deps.foldl (fun c d => clockJoin c (counterClock s (.home d.addr) (counterValue s d.addr))) l.clock }] := by
  have met : l.deps.all (fun d => decide (d.target.toNat ≤ counterValue s d.addr)) = true := by simpa using hdeps
  exact runs_of_eq rfl (by simp only [hl, hphase, hworks, met, bne_self_eq_false, Bool.not_true, Bool.or_self, Bool.false_eq_true, if_false])

/-- A dependence whose counter is below its target keeps a launch waiting. -/
theorem launchReady_waits (hdeps : ∃ d ∈ l.deps, counterValue s d.addr < d.target.toNat) : Runs (.launchReady uid) s [] := by
  have unmet : l.deps.all (fun d => decide (d.target.toNat ≤ counterValue s d.addr)) = false := by simpa using hdeps
  exact runs_of_eq rfl (by simp only [hl, unmet, Bool.not_false, Bool.or_true, if_true])

theorem taskStart_runs {k : Launch} {p : Part} {xs : List (Nat × Nat)} (hp : s.part? l.part = some p)
    (hpick : schedulerPick s l.part = some (k, .comp xs)) (huid : k.uid = uid) : Runs (.taskStart uid) s (runStart p k (.comp xs) s) :=
  runs_of_eq rfl (by simp only [hl, hp, hpick, huid, if_true])

theorem launchComplete_runs (hdone : launchDone s l = true) (hworks : partWorks s l.part = true) (hfree : advanceHeld s l.part l.counter = false) :
    Runs (.launchComplete uid) s (inOrder [advance l.part l.path l.counter 1 (clockJoin l.clock l.endClock), forgetTree l,
      fun _ => [.dropLaunch l.part l.num]] s) :=
  runs_of_eq rfl (by simp only [hl, hdone, hworks, hfree, Bool.not_true, Bool.or_self, Bool.false_eq_true, if_false])

end

/-- A component of a launch whose placement record stands starts its tasks. -/
theorem runStart_comp {p : Part} {k : Launch} (h : k.precStarted = true) (xs : List (Nat × Nat)) (s : State) :
    let k1 := { k with
      started := k.started ++ xs.map (·.1), precStarted := true, waiting := k.waiting.filter (fun g => !xs.any (fun x => x.1 == g)) }
    runStart p k (.comp xs) s = inOrder [fun _ => [.launch k1], fun t => (startAll false t p k1 (launchWpt k.desc) xs).getD []] s := by
  simp only [runStart, h, if_true, inOrder_cons, inOrder_nil, run_nil, List.nil_append]

/-! ### Spawned tasks (R371, R373) -/

section
variable {core : Nat} {s : State} {r : SpawnRec} {rest : List SpawnRec} {p : Part} (hq : spawnQueue s core = r :: rest)
  (hp : s.parts.find? (fun p => p.state != .absent && ownsCluster p (core / 4)) = some p)
include hq hp

/-- The oldest record of a core's queue moves to a spawn area with room. -/
theorem spawnRecordMove_runs (hworks : partWorks s p.num = true) (hroom : p.spawnArea.length < 1024 * (p.spawncap.toNat % 65536)) :
    Runs (.spawnRecordMove core) s
      (inOrder [fun s => [.queues { s.queues with spawns := s.queues.spawns.map (fun x => if x.1 = core then (x.1, rest) else x) }],
        onPart p.num (fun q => { q with spawnArea := q.spawnArea ++ [r] })] s) := by
  have room : decide (1024 * (p.spawncap.toNat % 65536) ≤ p.spawnArea.length) = false := by simpa using hroom
  exact runs_of_eq rfl (by
    simp only [hq, hp, hworks, room, Bool.not_true, Bool.or_self, Bool.false_eq_true, if_false, inOrder_cons, inOrder_nil, List.append_nil]
    rfl)

theorem spawnRecordMove_stays (hfull : 1024 * (p.spawncap.toNat % 65536) ≤ p.spawnArea.length) : Runs (.spawnRecordMove core) s [] :=
  runs_of_eq rfl (by simp only [hq, hp, hfull, decide_true, Bool.or_true, if_true])

end

theorem spawnedTaskStart_runs {part : Nat} {s : State} {p : Part} {l : Launch} {r : SpawnRec} {core : Nat} {qs : List Nat} (hp : s.part? part = some p)
    (hpick : schedulerPick s part = some (l, .spawned r core qs)) : Runs (.spawnedTaskStart part) s (runStart p l (.spawned r core qs) s) :=
  runs_of_eq rfl (by simp only [hp, hpick])

/-! ### Vacating (R384, R385) -/

section
variable {part : Nat} {s : State} {p : Part} (hp : s.part? part = some p) (hworks : partWorks s part = true)
include hp hworks

section
variable (hbusy : vacateBusy p = true) (hquiet : preempting s part = false) (hheld : vacateHeld p ≤ vacateCount p)
include hbusy hquiet hheld

/-- VACATE where COUNT cores are vacated: it ends. -/
theorem vacate_ends (hcount : vacateCount p ≤ (vacatedCores p).length) :
    Runs (.vacate part) s (onPart part (vacateSet false false (vacatedCores p).length) s) := by
  have due : decide (vacateCount p < vacateHeld p) = false := by simpa using hheld
  exact runs_of_eq rfl (by
    simp only [hp, hworks, hbusy, hquiet, due, hcount, Bool.not_true, Bool.or_self, Bool.false_eq_true, if_false, if_true])

/-- VACATE below COUNT: the first candidate that may be vacated and whose contexts find room is vacated. -/
theorem vacate_goes_on {x : Launch × Nat} (hcount : (vacatedCores p).length < vacateCount p)
    (hx : ((vacateOrder s p).filter (fun x => mayVacate s x.1 x.2)).find? (fun x => poolHas p (coreSlots s part x.2)) = some x) :
    Runs (.vacate part) s (inOrder [onPart part (vacateSet true false (vacatedCores p).length), vacateCore part x.2] s) := by
  have due : decide (vacateCount p < vacateHeld p) = false := by simpa using hheld
  exact runs_of_eq rfl (by
    simp only [hp, hworks, hbusy, hquiet, due, Nat.not_le.mpr hcount, hx, Bool.not_true, Bool.or_self, Bool.false_eq_true, if_false, andThen])

end

theorem reopen_runs (hcount : vacateCount p < vacateHeld p) :
    let keep := (sortBy (fun c => c) (vacatedCores p)).take (vacateCount p)
    Runs (.reopen part) s (inOrder [
      onPart part (fun q => vacateSet false false keep.length { q with vacated := q.vacated.filter (fun x => keep.contains x.1) }),
      forEach (nub ((p.vacated.filter (fun x => !keep.contains x.1)).map (·.2))) (fun uid => redraw uid [])] s) := by
  have due : decide (vacateHeld p ≤ vacateCount p) = false := by simpa using hcount
  exact runs_of_eq rfl (by simp only [hp, hworks, due, Bool.not_true, Bool.or_self, Bool.false_eq_true, if_false])

end

/-! ### Warps that stop, and a path that retires (R375, R378, R386) -/

/-- The warps of an idempotent task that is pre-empted stop together. -/
theorem preemptWarpStop_idempotent {id : Nat} {s : State} {w : Warp} {t : Task} {l : Launch} {p : Part} (hw : s.warp? id = some w)
    (ht : s.task? w.task = some t) (hl : s.launchOf w = some l) (hp : s.part? w.part = some p) (hphase : t.phase = 3)
    (hworks : partWorks s p.num = true) (hpath : pruned s t.part t.path = false)
    (hrest : ∀ v ∈ taskWarps s t.id, v.mode = .run ∧ restReady s v = true) (hidem : launchStateful l.desc = false) :
    Runs (.preemptWarpStop id) s (inOrder ((taskWarps s t.id).map (fun v => removeWarp v.id)
      ++ [abortCopies t, resetBarriers l [t], onTask t.id (fun k => { k with phase := 4 })]) s) := by
  have ready : (taskWarps s t.id).any (fun v => v.mode != .run || !restReady s v) = false := by simpa using hrest
  exact runs_of_eq rfl (by
    simp only [hw, ht, hl, hp, hphase, hworks, hpath, ready, hidem, ne_eq, not_true, decide_false, Bool.not_true, Bool.not_false, Bool.false_and,
      Bool.or_self, Bool.false_eq_true, if_false, if_true])

section
variable {id : Nat} {s : State} {w : Warp} (hw : s.warp? id = some w)
include hw

theorem pruneWarpStop_runs (hpruned : pruned s w.part w.path = true) (hhnd : w.hnd = false) : Runs (.pruneWarpStop id) s (removeWarp id s) :=
  runs_of_eq rfl (by simp only [hw, hpruned, hhnd, Bool.not_false, Bool.and_self, if_true])

theorem pruneWarpStop_stays (hlive : pruned s w.part w.path = false) : Runs (.pruneWarpStop id) s [] :=
  runs_of_eq rfl (by simp only [hw, hlive, Bool.false_and, Bool.false_eq_true, if_false])

end

/-- A path that no one uses any more is free, and so are the versions and mappings that name it. -/
theorem shootRetireComplete_runs {part : Nat} {path : Path} {s : State} {x : Shoot} (hx : shootOf s part path = some x) (hdead : x.live = false)
    (hunused : pathInUse s part path = false) :
    Runs (.shootRetireComplete part path) s (inOrder [onPart part (fun p => { p with shoots := p.shoots.filter (fun x => x.path != path) }),
      onOrder (fun o => { o with
        versions := o.versions.filter (fun v => !(v.part == part && v.station.isNone && v.tag == path))
        remaps := o.remaps.filter (fun r => !(r.part == part && r.station.isNone && r.path == path)) })] s) := by
  have order (f : Part → Part) : (s.run (onPart part f s)).order = s.order := by
    unfold onPart
    split <;> rfl
  exact runs_of_eq rfl (by
    simp only [hx, hdead, hunused, order, onOrder, Option.any_some, Bool.not_false, Bool.not_true, Bool.or_self, Bool.false_eq_true, if_false,
      inOrder_cons, inOrder_nil, List.append_nil])

/-- Settles O46: one lemma for each event of the scheduler; an event that is not due runs the empty script. -/
theorem schedulerEvents : Obligations.SchedulerEvents := by
  unfold Obligations.SchedulerEvents
  refine ⟨?lists, ?ready, ?start, ?move, ?spawned, ?complete, ?vacate, ?preempt, ?prune, ?retire⟩
  case lists =>
    exact fun uid s l p hl hp hphase hworks hlock => ⟨launchGroupListRead_visible hl hp hphase hworks hlock,
      launchGroupListRead_refused hl hp hphase hworks hlock, fun x => launchGroupListRead_raced hl hp hphase hworks hlock⟩
  case ready => exact fun uid s l hl hphase hworks => ⟨launchReady_runs hl hphase hworks, launchReady_waits hl⟩
  case start => exact fun uid s l k p xs hl hp hpick huid hstands => runs_of_eq (taskStart_runs hl hp hpick huid) (runStart_comp hstands xs s)
  case move => exact fun core s r rest p hq hp hworks => ⟨spawnRecordMove_runs hq hp hworks, spawnRecordMove_stays hq hp⟩
  case spawned => exact fun part s p l r core qs hp hpick => spawnedTaskStart_runs hp hpick
  case complete => exact fun uid s l hl => launchComplete_runs hl
  case vacate =>
    exact fun part s p hp hworks => ⟨fun hbusy hquiet hheld =>
      ⟨vacate_ends hp hworks hbusy hquiet hheld, fun x => vacate_goes_on hp hworks hbusy hquiet hheld⟩, reopen_runs hp hworks⟩
  case preempt => exact fun id s w t l p => preemptWarpStop_idempotent
  case prune => exact fun id s w hw => ⟨pruneWarpStop_runs hw, pruneWarpStop_stays hw⟩
  case retire => exact fun part path s x => shootRetireComplete_runs

end Sys2Proof.Machine
end

section
/-! PROOFS. SPAWN, LAUNCH, SHOOT, RESOLVE and ROLE (R355, R372, R411, R422 to R425). -/

namespace Sys2Proof.Machine

/-! ### Launches that may be issued (R355, R356) -/

theorem launchAsked_eq (s : State) (g : Go) (rsel num : Nat) (a : Asked) (grid : Option Word) :
    launchAsked s g rsel num a grid
      = withGroups s (newLaunch (warpIssuer s g.w g.f rsel) a num s.model.nextId grid ((launchLocks s g a).map (·.id))) := by
  simp only [launchAsked, withGroups, List.isEmpty_iff]
  rfl

theorem withGroups_keeps (s : State) (l : Launch) :
    (withGroups s l).lists = l.lists ∧ (withGroups s l).part = l.part ∧ (withGroups s l).desc = l.desc ∧ (withGroups s l).uid = l.uid := by
  unfold withGroups
  split <;> exact ⟨rfl, rfl, rfl, rfl⟩

/-- The groups of a launch are not refused where they are good, or where a list is still to be read. -/
theorem launchAsked_not_refused {s : State} {g : Go} {rsel num : Nat} {a : Asked} {grid : Option Word}
    (h : a.lists = [] → ∃ p, s.part? g.w.part = some p ∧ groupsBad p a.desc s.model.nextId (launchAsked s g rsel num a grid).groups = false) :
    groupsRefused s (launchAsked s g rsel num a grid) = false := by
  obtain ⟨hlists, hpart, hdesc, huid⟩ := withGroups_keeps s
    (newLaunch (warpIssuer s g.w g.f rsel) a num s.model.nextId grid ((launchLocks s g a).map (·.id)))
  rw [← launchAsked_eq] at hlists hpart hdesc huid
  rw [groupsRefused, hlists, hpart, hdesc, huid]
  change (a.lists.isEmpty && !(s.part? g.w.part).any (fun p => !groupsBad p a.desc s.model.nextId _)) = false
  by_cases hread : a.lists = []
  · obtain ⟨p, hp, good⟩ := h hread
    rw [hp, Option.any_some, good]
    exact Bool.and_false _
  · rw [List.isEmpty_eq_false_iff.mpr hread]
    rfl

/-- A launch that passes its checks takes its record and its locks. -/
theorem launchAct_of_ready {s : State} {g : Go} {rsel num : Nat} {a : Asked} {grid : Option Word} (k : Nat → Act)
    (h : LaunchReady s g rsel num a)
    (hgroups : a.lists = [] → ∃ p, s.part? g.w.part = some p ∧ groupsBad p a.desc s.model.nextId (launchAsked s g rsel num a grid).groups = false) :
    launchAct s g rsel (g.rd2 0 0 0) grid k = { k s.model.nextId with
      ends := true
      reads := a.reads
      after := .launch s.model.nextId :: (k s.model.nextId).after
      upds := inOrder [fun _ => [.launch (launchAsked s g rsel num a grid)], addLocks (launchLocks s g a), useIds (1 + (launchLocks s g a).length)] } := by
  obtain ⟨hfree, hread, hroom⟩ := h
  have good := launchAsked_not_refused hgroups
  rw [launchAsked_eq, launchLocks] at good
  unfold launchAct
  simp only [launchAsked_eq, launchLocks, hfree, hread, hroom, good, Bool.not_true, Bool.false_eq_true, if_false]

/-- An act that ends its chunk, whose tag waits for the commit and keeps a destination, and that changes the state beside its warp. -/
theorem gives_awaiting (reads : List Place) (after : List Deferred) (mark : TagEntry → TagEntry) (us : State → List Upd) :
    Gives { awaits := .commit, own := true, entry := mark, ends := true, reads := reads, after := after, upds := us }
      { ends := true, reads := reads, after := after, awaits := .commit, mark := mark, upds := us } :=
  ⟨rfl, rfl, rfl, rfl, rfl, rfl, rfl, rfl, rfl, rfl, rfl, rfl, rfl, rfl, rfl, rfl, rfl⟩

/-- An instruction without a register result whose tag waits for no peer does what its act says. -/
theorem does_awaiting {i : Instr} {c : Ctl} {n : Need} {idle : Go → Act} {body : State → Go → Act} {ok : State → Go → Prop}
    {x : State → Go → Effect} (hi : ∀ s, exec i s = issueWith c n idle (body s) s) (hres : ∀ s g, (x s g).res = .nothing)
    (haw : ∀ s g, (x s g).awaits ≠ .peer) (h : ∀ s g, ok s g → Gives (body s g) (x s g)) : Does i c n ok x := by
  refine does_of_gives hi (fun _ s g _ _ => ⟨fun _ => haw s g, ?_⟩) (fun _ s g _ hok => ⟨h s g hok, ?_⟩)
  · rw [hres]
    rfl
  · rw [hres]
    simp [Result.inRange, Result.nothing]

/-- Settles O38: past their checks SPAWN records a child, LAUNCH and SHOOT take a launch record, RESOLVE leaves itself for its position. -/
theorem workCreation : Obligations.WorkCreation := by
  unfold Obligations.WorkCreation
  intro c qn wm1 rsel r d a b num k whole puts word
  refine ⟨?spawn, ?launch, ?shoot, ?resolve, ?role⟩
  case spawn =>
    refine does_without_result (fun _ => rfl) (fun _ _ => rfl) (fun _ _ => rfl) (fun s g ⟨hbound, ⟨l, hl, hwarps⟩, hchunk, hqueue⟩ => ?_)
    rw [spawnGate_of_room ⟨hbound, hchunk, hqueue⟩]
    simp only [hbound, hl, hwarps, Option.any_some, decide_true, Bool.not_true, Bool.false_eq_true, if_false]
    exact ⟨rfl, rfl, rfl, rfl, rfl, rfl, rfl, rfl, rfl, rfl, rfl, rfl, rfl, rfl, rfl, rfl, rfl⟩
  case launch =>
    refine does_without_result (fun _ => rfl) (fun _ _ => rfl) (fun _ _ => rfl) (fun s g ⟨ready, good⟩ => ?_)
    rw [launchAct_of_ready _ ready good]
    exact gives_entries rfl
  case shoot =>
    refine does_awaiting (fun _ => rfl) (fun _ _ => rfl) (fun _ _ => by simp) (fun s g ⟨ready, good⟩ => ?_)
    rw [launchAct_of_ready _ ready good]
    exact gives_awaiting ..
  case resolve =>
    refine does_awaiting (fun _ => rfl) (fun _ _ => rfl) (fun _ _ => by simp) (fun s g ⟨hpath, hcount, hformed⟩ => ?_)
    change wellFormedPath (BitVec.ofNat 16 (g.rd 0 0 0).toNat) = true at hformed
    simp only [Nat.not_le.mpr hpath, Nat.not_le.mpr hcount, hformed, Bool.not_true, Bool.false_eq_true, if_false]
    exact gives_awaiting ..
  case role => exact does_without_result (fun _ => rfl) (fun _ _ => rfl) (fun _ _ => rfl) (fun _ _ _ => gives_control ..)

end Sys2Proof.Machine
end

section
/-! PROOFS. Waits that end, the timer, and the watchdogs (R389, R391, R392, R408, R421, R485). -/

namespace Sys2Proof.Machine

/-! ### Fragments changed in place -/

theorem map_mapFrag {α : Type} {k : Frag → α} (g : Frag → Frag) (hk : ∀ x, k (g x) = k x) (r : Regs) (id : Nat) :
    (r.mapFrag id g).frags.map k = r.frags.map k := by
  rw [Regs.mapFrag, List.map_map]
  refine List.map_congr_left (fun x _ => ?_)
  rw [Function.comp_apply]
  split
  · exact hk x
  · rfl

theorem frag?_mapFrag {w : Warp} {id : Nat} {f : Frag} (hf : w.frag? id = some f) (g : Frag → Frag) (hid : ∀ x, (g x).id = x.id) :
    Warp.frag? { w with regs := w.regs.mapFrag id g } id = some (g f) := by
  have same (x : Frag) : (if x.id = id then g x else x).id = x.id := by
    split
    · exact hid x
    · rfl
  have named : f.id = id := by simpa using List.find?_some hf
  have found : w.regs.frags.find? (fun x => x.id == id) = some f := hf
  simp only [Warp.frag?, Regs.mapFrag, List.find?_map, Function.comp_def, same, found, Option.map_some, named, if_true]

/-! ### CWAIT_WAKE and SLEEP_WAKE (R408, R421) -/

/-- A fragment whose counter is below its target: it stays parked, and no answer to a first read is to come. -/
def afterLook (f : Frag) : Frag :=
  { f with park := match f.park with
    | .counter rsel off target cont _ asked => .counter rsel off target cont false asked
    | k => k }

/-- A fragment that waits on a counter is parked by CWAIT. -/
theorem park_of_waitSpot {s : State} {w : Warp} {k : Park} {x : AtomTarget × DWord × Option DWord × Bool} (h : waitSpot s w k = some x) :
    ∃ rsel off target cont first asked, k = .counter rsel off target cont first asked := by
  cases k with
  | counter rsel off target cont first asked => exact ⟨rsel, off, target, cont, first, asked, rfl⟩
  | run | join | bar | barq | barWait | cbWait | sleep => cases h

section
variable {id fid : Nat} {s : State} {w : Warp} {f : Frag} (hw : s.warp? id = some w) (hf : w.frag? fid = some f) (hmode : w.mode = .run)
include hw hf hmode

section
variable {a : Nat} {target : DWord} {cont : Option DWord} {first : Bool} (peer : Option DWord)
  (hspot : waitSpot s w f.park = some (.home a, target, cont, first))
include hspot

theorem cwaitWake_met (hmet : target.toNat ≤ counterValue s a) : Runs (.cwaitWake id fid peer) s
    [.warp (goOn fid (if first then none else cont) (counterClock s (.home a) (counterValue s a)) s w)] := by
  have running := beq_iff_eq.mpr hmode
  exact runs_of_eq rfl (by simp only [lookAtCounter, hw, hf, running, hspot, hmet, Option.any_some, if_true])

theorem cwaitWake_unmet (hunmet : counterValue s a < target.toNat) :
    ∃ v : Warp, Runs (.cwaitWake id fid peer) s [.warp v] ∧ v.id = w.id ∧ v.chunk = w.chunk
      ∧ v.regs.frags.map (fun f => (f.id, f.mask, f.pc)) = w.regs.frags.map (fun f => (f.id, f.mask, f.pc))
      ∧ (v.frag? fid).map (fun f => f.park) ≠ some .run := by
  have running := beq_iff_eq.mpr hmode
  refine ⟨{ w with regs := w.regs.mapFrag fid afterLook }, runs_of_eq rfl ?_, rfl, rfl, map_mapFrag afterLook (fun _ => rfl) _ _, ?_⟩
  · simp only [lookAtCounter, hw, hf, running, hspot, Nat.not_le.mpr hunmet, Option.any_some, if_true, if_false]
    rfl
  · obtain ⟨rsel, off, target, cont, first, asked, hpark⟩ := park_of_waitSpot hspot
    rw [frag?_mapFrag hf afterLook (fun _ => rfl), Option.map_some, afterLook, hpark]
    simp

end

theorem sleepWake_runs {t : Nat} (hpark : f.park = .sleep t) (hpassed : t ≤ s.dev.wall.toNat) :
    Runs (.sleepWake id fid) s [.warp (goOn fid none [] s w)] :=
  runs_of_eq rfl (by simp only [hw, hf, hpark, hmode, hpassed, Option.map_some, beq_self_eq_true, decide_true, Bool.and_self, if_true])

end

/-! ### TIMER_TRAP (R485) -/

/-- Between chunks a deadline that has passed traps as after a commit. -/
theorem timerTrap_runs {id : Nat} {s : State} {w : Warp} {f : Frag} (hw : s.warp? id = some w) (hlow : lowFrag w = some f)
    (hset : w.timer ≠ 0) (hhnd : w.hnd = false) (hmode : w.mode = .run) (hworks : partWorks s w.part = true)
    (hcommits : ∀ c ∈ s.order.commits, c.warp ≠ id) (hpassed : w.timer.toNat ≤ s.dev.wall.toNat) (hbetween : w.chunk.start = none) :
    Runs (.timerTrap id) s (inOrder [onWarp id (fun v => { v with timer := 0 }),
      takeCommitted id f.id f.pc { raise .timer with
        d18 := lowWord (s.dev.wall - w.timer), d19 := highWord (s.dev.wall - w.timer), fpc := some (w.endPc.getD (prevPc f.pc)) }] s) := by
  have complete : s.order.commits.any (fun c => c.warp == id) = false := by simpa using hcommits
  have due : (decide (w.timer = 0) || w.hnd || w.mode != .run || !partWorks s w.part || s.order.commits.any (fun c => c.warp == id)
      || decide (s.dev.wall.toNat < w.timer.toNat)) = false := by
    simp only [hset, hhnd, hmode, hworks, complete, Nat.not_lt.mpr hpassed, bne_self_eq_false, decide_false, Bool.not_true, Bool.or_self]
  exact runs_of_eq rfl (by simp only [hw, hlow, due, hbetween, Option.isNone_none, Bool.false_eq_true, if_true, if_false, andThen])

/-! ### WAIT_PROGRESS and QUEUE_PROGRESS (R389, R391, R392) -/

section
variable {id fid : Nat} {s : State} {w : Warp} {f : Frag} (hw : s.warp? id = some w) (hworks : partWorks s w.part = true)
include hw hworks

theorem waitProgress_eq (hf : w.frag? fid = some f) : Runs (.waitProgress (.fragment id fid)) s (if trapOwed s id then [] else fragmentLate s w f) :=
  runs_of_eq rfl (by
    simp only [hw, hf, hworks, Option.bind_some, Option.map_some, Bool.true_and]
    cases trapOwed s id <;> rfl)

theorem queueProgress_runs {q : Nat} (hf : w.regs.frags.find? (waitsOnQueue s w q) = some f) (howed : trapOwed s id = false)
    (hout : watchdogOut s w.part f.since = true) :
    Runs (.queueProgress id q) s (takeTrap id f.id [] (raiseD .queueProgress (BitVec.ofNat 32 q)) s) :=
  runs_of_eq rfl (by simp only [hw, hf, hworks, howed, hout, Bool.not_false, Bool.and_self, if_true])

end

section
variable {s : State} {w : Warp} {f : Frag}

theorem fragmentLate_wait {addr : DWord} {realm : Nat} (hobject : waitObject w f.park = some (addr, realm))
    (hout : watchdogOut s w.part f.since = true) : fragmentLate s w f
      = takeTrap w.id f.id [] { raiseAt .waitProgress addr with realm := realm, fpc := if f.park = .join then none else some (prevPc f.pc) } s := by
  simp only [fragmentLate, hout, hobject, if_true, beq_iff_eq]

/-- The bound of a save handler is looked at where the fragment's own wait is not late. -/
theorem fragmentLate_saving {t : Task} (hin : watchdogOut s w.part f.since = false) (ht : s.task? w.task = some t) (hphase : t.phase = 1)
    (hout : watchdogOut s w.part t.phaseAt = true) : fragmentLate s w f
      = inOrder [onTask w.task (fun t => { t with phaseAt := s.dev.wall.toNat }), takeTrap w.id f.id [] (raise .waitProgress)] s := by
  simp only [fragmentLate, hin, ht, hphase, hout, Bool.false_eq_true, if_false, if_true, Option.any_some, beq_self_eq_true, Bool.and_self, andThen]

theorem fragmentLate_nothing (hin : watchdogOut s w.part f.since = false) (hphase : ∀ t, s.task? w.task = some t → t.phase ≠ 1) :
    fragmentLate s w f = [] := by
  have bounded : (s.task? w.task).any (fun t => t.phase == 1 && watchdogOut s w.part t.phaseAt) = false := by
    cases ht : s.task? w.task with
    | none => rfl
    | some t => simp [hphase t ht]
  simp only [fragmentLate, hin, bounded, Bool.false_eq_true, if_false]

end

/-- Settles O44: one lemma for each wait and each watchdog; a fragment's watchdog goes by what fragmentLate finds late. -/
theorem waitEvents : Obligations.WaitEvents := by
  unfold Obligations.WaitEvents
  refine ⟨?cwait, ?sleep, ?timer, ?wait, ?saving, ?queue⟩
  case cwait =>
    exact fun id fid peer s w f a target cont first hw hmode hf hspot =>
      ⟨cwaitWake_met hw hf hmode peer hspot, cwaitWake_unmet hw hf hmode peer hspot⟩
  case sleep => exact fun id fid t s w f hw hf hpark hmode hpassed => sleepWake_runs hw hf hmode hpark hpassed
  case timer => exact fun id s w f => timerTrap_runs
  case wait =>
    intro id fid s w f addr realm hw hf hworks hobject
    have progress := waitProgress_eq hw hworks hf
    refine ⟨fun howed hout => ?_, fun hin hphase => ?_⟩
    · rwa [howed, if_neg Bool.false_ne_true, fragmentLate_wait hobject hout] at progress
    · rwa [fragmentLate_nothing hin hphase, ite_self] at progress
  case saving =>
    intro id fid s w f t hw hf hworks howed hin ht hphase hout
    have progress := waitProgress_eq hw hworks hf
    rwa [howed, if_neg Bool.false_ne_true, fragmentLate_saving hin ht hphase hout] at progress
  case queue => exact fun id q s w f hw hf hworks => queueProgress_runs hw hworks hf

end Sys2Proof.Machine
end

section
/-! PROOFS. BAR, BARQ, BARC and CWAIT as they issue (R416 to R421). -/

namespace Sys2Proof.Machine

/-! ### Checks that pass -/

/-- A warp that drains without a trap goes on with the act, drained. -/
theorem drained_of_pass {s : State} {g : Go} (h : Drained s g) (k : Act) : drained s g k = { k with warp := fun w => k.warp (drainBefore g.w w) } := by
  obtain ⟨hwaits, htrap⟩ := h
  simp only [drained, hwaits, htrap, Bool.false_eq_true, if_false]

theorem barcArgs_init {g : Go} (hsize : (g.rd 0 0 0).toNat % 2 ^ 16 ≠ 0) (hrest : (g.rd 0 0 0).toNat < 2 ^ 19) : barcArgs g .init = none := by
  have reserved : (g.rd 0 0 0).toNat / 2 ^ 19 = 0 := Nat.div_eq_of_lt hrest
  simp only [barcArgs, firstBad, wfield_word, pow_zero, Nat.div_one, Nat.zero_mod, hsize, reserved, ne_eq, not_true, decide_false,
    List.find?_cons, List.find?_nil, Option.map_none]

theorem barcArgs_arrive {g : Go} (hpos : 0 < (g.rd 0 0 0).toNat) (hlow : (g.rd 0 0 0).toNat < 2 ^ 16) : barcArgs g .arrive = none := by
  have nonzero : g.rd 0 0 0 ≠ 0 := fun h => by simp [h] at hpos
  have fits : ¬ 65535 < (g.rd 0 0 0).toNat := by omega
  simp only [barcArgs, firstBad, nonzero, fits, decide_false, Bool.or_self, List.find?_cons, List.find?_nil, Option.map_none]

/-- The roles that BARC.INIT names, where the bits above them are zero. -/
theorem barcRoles {x : Word} (h : x.toNat < 2 ^ 19) : wfield [x] 0 16 3 = x.toNat / 2 ^ 16 := by
  rw [wfield_word]
  exact Nat.mod_eq_of_lt (by omega)

/-! ### Acts -/

/-- An act that changes its warp, ends its chunk, and whose tag waits for the commit and keeps a destination. -/
theorem gives_awaiting_turn (after : List Deferred) (mark : TagEntry → TagEntry) (turn : Warp → Warp) :
    Gives { awaits := .commit, own := true, entry := mark, ends := true, after := after, warp := turn }
      { ends := true, after := after, awaits := .commit, mark := mark, turn := turn } :=
  ⟨rfl, rfl, rfl, rfl, rfl, rfl, rfl, rfl, rfl, rfl, rfl, rfl, rfl, rfl, rfl, rfl, rfl⟩

/-- Settles O37: past their checks each ends its chunk and leaves itself for the position; BAR and BARQ issue on the drained warp. -/
theorem barriers : Obligations.Barriers := by
  unfold Obligations.Barriers
  intro c task cont group r a b cb rsel off bar k pair named
  refine ⟨?bar, ?barqArrive, ?barqWait, ?init, ?arrive, ?wait, ?gen, ?cwait⟩
  case bar =>
    refine does_without_result (fun _ => rfl) (fun _ _ => rfl) (fun _ _ => rfl) (fun s g ⟨hname, hdrain⟩ => ?_)
    simp only [hname, drained_of_pass hdrain]
    exact gives_turn true _ _
  case barqArrive =>
    refine does_awaiting (fun _ => rfl) (fun _ _ => rfl) (fun _ _ => by simp) (fun s g ⟨hname, hdrain⟩ => ?_)
    simp only [hname, drained_of_pass hdrain]
    exact gives_awaiting_turn ..
  case barqWait =>
    refine does_without_result (fun _ => rfl) (fun _ _ => rfl) (fun _ _ => rfl) (fun s g ⟨hname, hdrain⟩ => ?_)
    simp only [hname, drained_of_pass hdrain]
    exact gives_turn true _ _
  case init =>
    refine does_without_result (fun _ => rfl) (fun _ _ => rfl) (fun _ _ => rfl) (fun s g ⟨hsize, hrest⟩ => ?_)
    simp only [barcArgs_init hsize hrest, barcRoles hrest, wfield_word, pow_zero, Nat.div_one]
    exact gives_turn true _ id
  case arrive =>
    refine does_without_result (fun _ => rfl) (fun _ _ => rfl) (fun _ _ => rfl) (fun s g ⟨hpos, hlow⟩ => ?_)
    simp only [barcArgs_arrive hpos hlow]
    exact gives_turn true _ id
  case wait => exact does_without_result (fun _ => rfl) (fun _ _ => rfl) (fun _ _ => rfl) (fun _ _ _ => gives_turn true _ id)
  case gen => exact does_awaiting (fun _ => rfl) (fun _ _ => rfl) (fun _ _ => by simp) (fun _ _ _ => gives_awaiting_turn _ _ id)
  case cwait =>
    refine does_without_result (fun _ => rfl) (fun _ _ => rfl) (fun _ _ => rfl) (fun s g ⟨⟨t, hspot⟩, hstay, hgo⟩ => ?_)
    cases cont with
    | false =>
      obtain rfl := hstay rfl
      simp only [hspot, Bool.not_false, if_true]
      exact gives_turn true _ id
    | true =>
      obtain ⟨pc, htarget, hpass, rfl⟩ := hgo rfl
      simp only [hspot, htarget, hpass, Bool.not_true, Bool.false_eq_true, if_false]
      exact gives_turn true _ id

end Sys2Proof.Machine
end

section
/-! PROOFS. The state after reset (R434, R460). -/

namespace Sys2Proof.Machine

theorem reset_parts_num : State.reset.parts.map (·.num) = List.range 8 := by
  have own : (fun p : Part => p.num) ∘ Part.reset = id := rfl
  rw [State.reset, List.map_map, own, List.map_id]

theorem reset_coherent : Coherent State.reset := ⟨rfl, reset_parts_num, List.nodup_nil, List.nodup_nil, List.nodup_nil⟩

/-- Settles O58: reset lists nothing, so only the partitions are to be looked at, each as Part.reset gives it. -/
theorem resetCoherent : Obligations.ResetCoherent :=
  ⟨reset_coherent, rfl, rfl, rfl, rfl, rfl, List.forall_mem_map.mpr (fun _ _ => rfl)⟩

end Sys2Proof.Machine
end

section
/-! PROOFS. Boot, the management responder and PARTCTL's operations (R433 to R435, R446, R459 to R463, R475). -/

namespace Sys2Proof.Machine

/-! ### Boot (R459 to R462) -/

/-- What a boot without an image leaves: phase 2 has failed with a free code (R460, log 3). -/
def bootedWithoutImage (s : State) : State :=
  { s with
    dev := { s.dev with bootstat := bootWord 2 true false 0 (Config.bootCode s.model.free), safe := true, image := [], seqs := bootSeqs s.dev 2 }
    model := { s.model with free := s.model.free + 1 } }

section
variable {s : State} {phase : Nat} {unit : BitVec 10} {code : BitVec 16}

theorem bootFailed_safe (h : phase ≤ 2 ∨ imageUsed s.dev ≠ none) : bootFailed phase unit code s = enterSafe phase unit code s := by
  refine if_neg (fun hno => ?_)
  rw [Bool.and_eq_true, decide_eq_true_iff, Option.isNone_iff_eq_none] at hno
  obtain ⟨hlate, hnone⟩ := hno
  exact h.elim hlate.not_ge (· hnone)

theorem bootFailed_without_image (hnone : imageUsed s.dev = none) (hlate : 2 < phase) :
    s.run (bootFailed phase unit code s) = bootedWithoutImage s := by
  simp only [bootFailed, hlate, hnone, decide_true, Option.isNone_none, Bool.and_self, if_true, run_andThen, enterSafe, onDev, run_cons, run_nil,
    bootSlot, bootImage, lt_irrefl, if_false, Option.map_none, Option.getD_none, Bool.and_false, Upd.apply, bootedWithoutImage]

end

section
variable {s : State} (hoff : s.dev.booted = false) (hunsafe : s.dev.safe = false)
include hoff hunsafe

theorem powerOn_fails {f : BootFail} (hlow : 1 ≤ f.phase) (hhigh : f.phase ≤ 7) :
    Runs (.powerOn (some f)) s (bootFailed f.phase f.unit f.code s) :=
  runs_of_eq rfl (by simp only [hoff, hunsafe, hlow, hhigh, Bool.or_self, Bool.false_eq_true, if_false, and_self, if_true])

theorem powerOn_finds_none (hnone : imageUsed s.dev = none) : Runs (.powerOn none) s (bootFailed 7 0 0 s) :=
  runs_of_eq rfl (by simp only [hoff, hunsafe, hnone, Bool.or_self, Bool.false_eq_true, if_false])

theorem powerOn_boots {slot : Bool} {img : List Byte} (himg : imageUsed s.dev = some (slot, img)) :
    Runs (.powerOn none) s (bootDone slot img s) :=
  runs_of_eq rfl (by simp only [hoff, hunsafe, himg, Bool.or_self, Bool.false_eq_true, if_false])

theorem bootPhaseTimeout_fails {phase : Nat} (unit : BitVec 10) (hlow : 1 ≤ phase) (hhigh : phase ≤ 6) :
    Runs (.bootPhaseTimeout phase unit) s (bootFailed phase unit 0xFFFF s) := by
  have bounded : (s.dev.booted || s.dev.safe || phase == 0 || decide (6 < phase)) = false := by
    simp only [hoff, hunsafe, Bool.or_self, Bool.false_or, Bool.or_eq_false_iff, beq_eq_false_iff_ne, decide_eq_false_iff_not]
    omega
  exact runs_of_eq rfl (by simp only [bounded, Bool.false_eq_true, if_false])

end

theorem powerOn_stays {s : State} (fail : Option BootFail) (hon : s.dev.booted = true ∨ s.dev.safe = true) : Runs (.powerOn fail) s [] :=
  runs_of_eq rfl (if_pos (Bool.or_eq_true_iff.mpr hon))

/-! ### Changes of keys (R444, R445) -/

theorem keysOf_plain {s : State} (h : ∀ p ∈ s.parts, (wordAt p.desc 12).getLsbD 1 = false) : keysOf s = s.parts.map (fun _ => ⟨0, 0, []⟩) :=
  List.map_congr_left (fun p hp => by rw [h p hp, if_neg Bool.false_ne_true])

theorem inUnits_none (a : Nat) : inUnits 0 0 a = false := by
  simp only [inUnits, BitVec.ofNat_eq_ofNat, BitVec.getLsbD_zero, ite_self, Bool.and_false]

theorem keyIn_plain {α : Type} (l : List α) (line : Nat) : keyIn (l.map (fun _ => ⟨0, 0, []⟩)) line = none := by
  rw [keyIn, Option.map_eq_none_iff, List.find?_eq_none]
  intro k hk
  obtain ⟨x, -, rfl⟩ := List.mem_map.mp hk
  exact Bool.eq_false_iff.mp (inUnits_none _)

theorem rekeyed_same {before : List UnitKey} {s : State} (h : keysOf s = before) : rekeyed before s = [] := if_pos h.symm

theorem withKeys_nothing : withKeys (fun _ => []) = fun _ => [] := by
  funext s
  simp only [withKeys, inOrder_cons, inOrder_nil, run_nil, rekeyed_same, List.append_nil]

/-- A state with other memory and another record of its key changes. -/
def State.reread (s : State) (m : Memory) (rs : List Rekey) : State := { s with mem := m, dev := { s.dev with rekeys := rs } }

theorem run_putBytes (cells : List Host.Cell) (s : State) :
    ∃ m, s.run (putBytes cells s) = s.reread m s.dev.rekeys ∧ (cells = [] → m = s.mem) := by
  unfold putBytes
  split
  · exact ⟨_, rfl, fun hnil => by rw [hnil]; rfl⟩
  · exact ⟨_, rfl, fun hnil => by rw [hnil]; rfl⟩

theorem spillUnder_nothing (r : Rekey) {s : State} (hversions : s.order.versions = []) : spillUnder r s = [] := by
  simp only [spillUnder, hversions, List.any_nil, Bool.not_false, if_true]

/-- Where no version stands in a spill area, a change of keys rereads memory and changes nothing else; a line under the same key stays. -/
theorem run_rekeyed (before : List UnitKey) {s : State} (hversions : s.order.versions = []) :
    ∃ m rs, s.run (rekeyed before s) = s.reread m rs
      ∧ ((∀ l ∈ linesOfCells s.mem, keyIn before l = keyIn (keysOf s) l) → m = s.mem) ∧ (keysOf s = before → rs = s.dev.rekeys) := by
  by_cases hsame : keysOf s = before
  · exact ⟨s.mem, s.dev.rekeys, by rw [rekeyed_same hsame]; rfl, fun _ => rfl, fun _ => rfl⟩
  let r : Rekey := ⟨before, keysOf s⟩
  let cells := ((linesOfCells s.mem).filter (fun l => keyIn r.before l != keyIn r.after l)).flatMap (fun l =>
    cellsAt (128 * l) (rereadLine r l ((List.range 128).map (fun i => rootByte s (128 * l + i)))))
  let logged := s.reread s.mem (s.dev.rekeys ++ [r])
  obtain ⟨m, hput, hnil⟩ := run_putBytes cells logged
  have script : rekeyed before s = inOrder [onDev (fun d => { d with rekeys := d.rekeys ++ [r] }), putBytes cells, spillUnder r] s :=
    if_neg (Ne.symm hsame)
  have first : s.run (onDev (fun d => { d with rekeys := d.rekeys ++ [r] }) s) = logged := rfl
  have last : spillUnder r (logged.reread m logged.dev.rekeys) = [] := spillUnder_nothing r hversions
  refine ⟨m, s.dev.rekeys ++ [r], ?_, fun hkeys => hnil ?_, fun h => absurd h hsame⟩
  · rw [script, inOrder_cons, run_append, first, inOrder_cons, run_append, hput, inOrder_cons, last]
    rfl
  · have unchanged : (linesOfCells s.mem).filter (fun l => keyIn r.before l != keyIn r.after l) = [] := by
      simpa [r] using hkeys
    simp only [cells, unchanged, List.flatMap_nil]

/-! ### The management responder (R463) -/

theorem mgmtReport_next (s : State) : exec .mgmtReport s = .next { s with
    net := { s.net with outbox := s.net.outbox ++ [.report (reportWords s (Config.nonce s.model.free))] }
    dev := { s.dev with nonce := some (Config.nonce s.model.free) }, model := { s.model with free := s.model.free + 1 } } := rfl

section
variable {α : Type} {u : α → Upd} {put : State → List α → State} (keep : α → α → Bool)
  (h : ∀ s m x, (u x).apply (put s m) = put s (m.filter (keep x)))
include h

/-- Updates that each filter one list of the state leave what all of them keep. -/
theorem run_filters (s : State) (l m : List α) : (put s m).run (l.map u) = put s (m.filter (fun y => l.all (fun x => keep x y))) := by
  induction l generalizing m with
  | nil => simp
  | cons x l ih => simp only [List.map_cons, run_cons, h, ih, List.filter_filter, List.all_cons, Bool.and_comm]

/-- Where each of the updates takes its own element out, none is left. -/
theorem run_drops (hself : ∀ x, keep x x = false) (s : State) (l : List α) : (put s l).run (l.map u) = put s [] := by
  rw [run_filters keep h, List.filter_eq_nil_iff.mpr]
  exact fun y hy hall => Bool.false_ne_true ((hself y).symm.trans (List.all_eq_true.mp hall y hy))

end

theorem run_dropWarps (s : State) : s.run (s.warps.map (fun w => .dropWarp w.id)) = { s with warps := [] } :=
  run_drops (put := fun s m => { s with warps := m }) (fun w k => k.id != w.id) (fun _ _ _ => rfl) (fun w => bne_self_eq_false w.id) s s.warps

theorem run_dropTasks (s : State) : s.run (s.tasks.map (fun t => .dropTask t.id)) = { s with tasks := [] } :=
  run_drops (put := fun s m => { s with tasks := m }) (fun t k => k.id != t.id) (fun _ _ _ => rfl) (fun t => bne_self_eq_false t.id) s s.tasks

theorem run_dropLaunches (s : State) : s.run (s.launches.map (fun l => .dropLaunch l.part l.num)) = { s with launches := [] } :=
  run_drops (put := fun s m => { s with launches := m }) (fun l k => !(k.part == l.part && k.num == l.num)) (fun _ _ _ => rfl)
    (fun l => by simp only [beq_self_eq_true, Bool.and_self, Bool.not_true]) s s.launches

theorem run_resetEach (ps : List Part) (s : State) : s.run (ps.map (fun p => .part (Part.reset p.num)))
    = { s with parts := s.parts.map (fun q => if q.num ∈ ps.map (·.num) then Part.reset q.num else q) } := by
  induction ps generalizing s with
  | nil => simp
  | cons p ps ih =>
    rw [List.map_cons, run_cons, ih, part_parts, List.map_map]
    refine congrArg (fun qs => { s with parts := qs }) (List.map_congr_left (fun q _ => ?_))
    by_cases h : q.num = p.num <;> simp [h, Part.reset]

theorem run_resetParts (s : State) :
    s.run (s.parts.map (fun p => .part (Part.reset p.num))) = { s with parts := s.parts.map (fun p => Part.reset p.num) } := by
  rw [run_resetEach]
  exact congrArg (fun qs => { s with parts := qs }) (List.map_congr_left (fun q hq => if_pos (List.mem_map_of_mem hq)))

/-- What a management reset leaves, but for what memory is then read as (R463, log 43). -/
def afterRestart (s : State) : State :=
  { State.reset with
    mem := s.mem
    dev := { State.reset.dev with slotA := s.dev.slotA, slotB := s.dev.slotB, rekeys := s.dev.rekeys }
    parts := s.parts.map (fun p => Part.reset p.num)
    order := { State.reset.order with poison := s.order.poison.filter (fun p => p.space == .mem && p.owner == 0) }
    net := { State.reset.net with outbox := s.net.outbox }
    model := s.model }

/-- A management reset is one change of keys, from those of s to those that its updates leave. -/
theorem restartDevice_withKeys (s : State) : ∃ f, restartDevice s = withKeys f s ∧ s.run (f s) = afterRestart s := by
  refine ⟨_, rfl, ?_⟩
  rw [inOrder_cons, run_append, run_dropWarps, inOrder_cons, run_append, run_dropTasks, inOrder_cons, run_append, run_dropLaunches,
    inOrder_cons, run_append, run_resetParts]
  rfl

theorem keysOf_afterRestart (s : State) : keysOf (afterRestart s) = s.parts.map (fun _ => ⟨0, 0, []⟩) := by
  have plain : ∀ p ∈ s.parts.map (fun p => Part.reset p.num), (wordAt p.desc 12).getLsbD 1 = false :=
    List.forall_mem_map.mpr (fun p _ => by simp only [Part.reset, wordAt, List.getD_nil, BitVec.ofNat_eq_ofNat, BitVec.getLsbD_zero])
  rw [keysOf_plain plain, afterRestart, List.map_map]
  rfl

theorem run_restartDevice (s : State) : ∃ m rs, s.run (restartDevice s) = (afterRestart s).reread m rs
    ∧ ((∀ l ∈ linesOfCells s.mem, lineKey s l = none) → m = s.mem)
    ∧ ((∀ p ∈ s.parts, (wordAt p.desc 12).getLsbD 1 = false) → rs = s.dev.rekeys) := by
  obtain ⟨f, hf, hrun⟩ := restartDevice_withKeys s
  obtain ⟨m, rs, hre, hmem, hrs⟩ := run_rekeyed (keysOf s) (s := afterRestart s) rfl
  refine ⟨m, rs, ?_, fun hplain => hmem (fun l hl => ?_), fun hplain => hrs ?_⟩
  · rw [hf, withKeys, inOrder_cons, inOrder_cons, inOrder_nil, List.append_nil, run_append, hrun, hre]
  · rw [keysOf_afterRestart, keyIn_plain]
    exact hplain l hl
  · rw [keysOf_afterRestart, keysOf_plain hplain]

theorem mgmtReset_restarts {s : State} {nonce : DWord} {key : Nat} {sig : List Byte} (hnonce : s.dev.nonce = some nonce)
    (hsig : Config.resetSigned (keysSection s.dev) nonce key sig = true) : Runs (.mgmtReset nonce key sig) s (restartDevice s) :=
  runs_of_eq rfl (if_pos ⟨hnonce, hsig⟩)

theorem mgmtReset_ignored {s : State} {nonce : DWord} (hnonce : s.dev.nonce ≠ some nonce) (key : Nat) (sig : List Byte) :
    Runs (.mgmtReset nonce key sig) s [] :=
  runs_of_eq rfl (if_neg (fun h => hnonce h.1))

/-! ### PARTCTL's operations (R433 to R435, R446, R475) -/

section
variable {s : State} {n : Nat} {p : Part} (hp : s.part? n = some p)
include hp

section
variable (hop : operation s = some (1, n))
include hop

theorem partitionCreate_creates (hok : createStatus s p (rootWords s (descAddress s) 32) = 0) : Runs .partitionCreate s (inOrder [
    withKeys (fun _ => [.part { Part.reset n with
      state := .created, desc := rootWords s (descAddress s) 32, descAddr := descAddress s }]), endOperation 0] s) :=
  runs_of_eq rfl (by simp only [hop, hp, hok, if_true, andThen])

theorem partitionCreate_refuses (hbad : createStatus s p (rootWords s (descAddress s) 32) ≠ 0) :
    Runs .partitionCreate s (endOperation (createStatus s p (rootWords s (descAddress s) 32)) s) :=
  runs_of_eq rfl (by
    simp only [hop, hp, hbad, if_false, withKeys_nothing, andThen_nothing])

end

section
variable (hop : operation s = some (2, n))
include hop

theorem partitionStart_refuses (hbad : startStatus s p ≠ 0) : Runs .partitionStart s (endOperation (startStatus s p) s) :=
  runs_of_eq rfl (by
    simp only [hop, hp, hbad, ne_eq, not_false_eq_true, if_true]
    exact congrFun (andThen_nothing _) s)

theorem partitionStart_starts (hok : startStatus s p = 0) (hstate : p.state = .created) :
    Runs .partitionStart s (inOrder [startControl p, endOperation 0] s) :=
  runs_of_eq rfl (by simp only [hop, hp, hok, hstate, ne_eq, not_true, if_false, beq_self_eq_true, if_true])

theorem partitionStart_restarts (hok : startStatus s p = 0) (hstate : p.state = .stopped) :
    Runs .partitionStart s (inOrder [restartPart p, endOperation 0] s) := by
  have notNew : (PartState.stopped == PartState.created) = false := rfl
  exact runs_of_eq rfl (by simp only [hop, hp, hok, hstate, notNew, ne_eq, not_true, if_false, Bool.false_eq_true])

end

section
variable (hop : operation s = some (3, n))
include hop

theorem partitionStop_halts (hstate : p.state = .running) : Runs .partitionStop s (inOrder [fun _ => [.part { p with haltLine := true }],
    useIds 1, beginInval s.model.nextId n none 0 (2 ^ 64) none] s) :=
  runs_of_eq rfl (by simp only [hop, hp, hstate, Option.any_some, beq_self_eq_true, if_true, raiseHalt, inOrder_cons, onPart])

theorem partitionStop_refuses (hstate : p.state ≠ .running) : Runs .partitionStop s (endOperation 3 s) :=
  runs_of_eq rfl (by simp only [hop, hp, Option.any_some, beq_iff_eq, hstate, if_false])

end

section
variable (hop : operation s = some (4, n))
include hop

theorem partitionDestroy_destroys (hn : n ≠ 0) (hstate : p.state = .created ∨ p.state = .stopped) : Runs .partitionDestroy s (inOrder
    [clearPart p, discardL2 p, withKeys (fun _ => [.part (Part.reset n)]), dropNotices n, endOperation 0] s) := by
  have may : (decide (n = managerPart) || !(p.state == .created || p.state == .stopped)) = false := by
    rw [managerPart, decide_eq_false hn]
    obtain hnew | hhalted := hstate
    · rw [hnew]; rfl
    · rw [hhalted]; rfl
  exact runs_of_eq rfl (by simp only [hop, hp, may, Bool.false_eq_true, if_false])

theorem partitionDestroy_refuses (hstate : n = 0 ∨ p.state = .running ∨ p.state = .absent) :
    Runs .partitionDestroy s (endOperation 3 s) := by
  have mayNot : (decide (n = managerPart) || !(p.state == .created || p.state == .stopped)) = true := by
    obtain rfl | hrun | habsent := hstate
    · rfl
    · rw [hrun]; exact Bool.or_true _
    · rw [habsent]; exact Bool.or_true _
  exact runs_of_eq rfl (by simp only [hop, hp, mayNot, if_true])

end

end

/-- Settles O48: one lemma for each answer; a management reset goes through the state as its updates leave it, then through the change of keys. -/
theorem deviceEvents : Obligations.DeviceEvents := by
  unfold Obligations.DeviceEvents
  refine ⟨fun s hoff hunsafe => ⟨?fails, ?noImage, ?boots, ?timeout⟩, ?on, mgmtReport_next, fun s nonce key sig => ⟨?restart, ?ignored⟩,
    fun s n p hp => ⟨?create, ?start, ?stop, ?destroy⟩, fun _ _ => rfl⟩
  case fails =>
    intro f hlow hhigh himg
    exact runs_of_eq (powerOn_fails hoff hunsafe hlow hhigh) (bootFailed_safe himg)
  case noImage =>
    intro hnone
    refine ⟨?_, fun f hlate hhigh => ?_, fun phase unit hlate hhigh => ?_⟩
    · exact (powerOn_finds_none hoff hunsafe hnone).trans (congrArg _ (bootFailed_without_image hnone (by decide)))
    · exact (powerOn_fails hoff hunsafe (by omega) hhigh).trans (congrArg _ (bootFailed_without_image hnone hlate))
    · exact (bootPhaseTimeout_fails hoff hunsafe unit (by omega) hhigh).trans (congrArg _ (bootFailed_without_image hnone hlate))
  case boots => exact fun slot img => powerOn_boots hoff hunsafe
  case timeout =>
    intro phase unit hlow hhigh himg
    exact runs_of_eq (bootPhaseTimeout_fails hoff hunsafe unit hlow hhigh) (bootFailed_safe himg)
  case on => exact fun s fail => powerOn_stays fail
  case restart =>
    intro hnonce hsig
    obtain ⟨m, rs, hrun, hmem, hrs⟩ := run_restartDevice s
    exact ⟨_, (mgmtReset_restarts hnonce hsig).trans (congrArg _ hrun), rfl, rfl, rfl, hmem, rfl, rfl, rfl, rfl, rfl, rfl, rfl, rs, rfl, hrs⟩
  case ignored => exact fun hnonce => mgmtReset_ignored hnonce key sig
  case create => exact fun hop => ⟨partitionCreate_creates hp hop, partitionCreate_refuses hp hop⟩
  case start => exact fun hop => ⟨partitionStart_refuses hp hop, partitionStart_starts hp hop, partitionStart_restarts hp hop⟩
  case stop => exact fun hop => ⟨partitionStop_halts hp hop, partitionStop_refuses hp hop⟩
  case destroy => exact fun hop => ⟨partitionDestroy_destroys hp hop, partitionDestroy_refuses hp hop⟩

end Sys2Proof.Machine
end

section
/-! PROOFS. TRAP, BRK, RESUME, TLBINV and PWRHINT, a slot of no assigned opcode, and what raises PRIV (R70, R78, R429, R467, R490 to R497). -/

namespace Sys2Proof.Machine

/-! ### An act that raises, in an instruction that ends its chunk even where no lane executes it -/

section
variable {i : Instr} {c : Ctl} {n : Need} {idle : Go → Act} {body : State → Go → Act} {s : State} {w : Warp} {f : Frag} {g : Go}

/-- An instruction whose act raises a cause takes that trap, whatever it does with no lane. -/
theorem exec_trap_issueWith {t : TrapReq} (hi : ∀ s, exec i s = issueWith c n idle (body s) s) (h : Issues c n s w f g {})
    (hb : body s g = { trap := some t }) (hlate : lateFault c n s t = false) :
    exec i s = .next (s.run (takeTrap w.id g.f.id (if c.alloc = 0 then [] else [c.alloc.toNat]) t s)) := by
  have hne : g.lanes.isEmpty = false := by simpa using h.lanes
  have hroom : overLimit g.w.chunk (g.keys n) { trap := some t } = false := h.room
  rw [hi]
  simp only [issueWith, h.cur, issueScript, h.go, hne, hb, finish, hroom, Bool.or_self, hlate, Bool.false_eq_true, if_false, run_andThen,
    run_onWarp_id]

/-- An act that raises PRIV is the trap, with the number k in DETAIL (R467). -/
theorem exec_priv (hi : ∀ s, exec i s = issueWith c n idle (body s) s) (h : Issues c n s w f g {}) {k : Nat}
    (hb : body s g = { trap := some (privTrap k) }) : exec i s
      = .next (s.run (takeTrap w.id g.f.id (if c.alloc = 0 then [] else [c.alloc.toNat]) (raiseD .priv (BitVec.ofNat 32 k)) s)) :=
  exec_trap_issueWith hi h hb (lateFault_of_cause (k := .priv) rfl)

end

/-! ### Levels (R491) -/

theorem levelRefused_iff {level : Nat} {other : Bool} :
    (decide (level = 0) || (other && level != 2)) = true ↔ level = 0 ∨ (other = true ∧ level ≠ 2) := by
  simp

/-- Below supervisor level, or below manager level for another partition. -/
theorem levelRefused {level : Nat} {other : Bool} (h : level = 0 ∨ (other = true ∧ level = 1)) :
    (decide (level = 0) || (other && level != 2)) = true :=
  levelRefused_iff.mpr (h.imp_right (fun ⟨hother, hlevel⟩ => ⟨hother, by omega⟩))

theorem levelAllowed {level : Nat} {other : Bool} (h : level ≠ 0 ∧ (other = true → level = 2)) :
    (decide (level = 0) || (other && level != 2)) = false := by
  rw [Bool.eq_false_iff, ne_eq, levelRefused_iff]
  tauto

/-! ### RESUME (R494) -/

/-- The act of RESUME .WARP and .KILL. -/
def resumeOtherAct (mode : ResumeMode) (g : Go) : Act :=
  if g.w.level = 0 then { trap := some (privTrap 0x1000) }
  else if 255 < (g.rd 0 0 0).toNat then { trap := some (argRange 0 0) }
  else { ends := true, after := [.resume mode (g.rd 0 0 0).toNat] }

theorem exec_resume_other {mode : ResumeMode} (hmode : mode ≠ .self) (c : Ctl) (a : BitVec 8) (s : State) : exec (.resume c mode a) s
    = issueWith c (needs [] [uniField a 1] 0) (fun _ => { ends := true }) (resumeOtherAct mode) s := by
  change execResume c mode a s = _
  simp only [execResume, hmode, if_false]
  rfl

/-! ### System instructions that act at their chunk's position (R471, R491 to R497) -/

/-- BRK leaves its trap for the position where it traps at all, else nothing (log 38). -/
theorem brk_does {c : Ctl} {imm : Word} {traps : Bool} {ok : State → Go → Prop}
    (h : ∀ s g, ok s g → ((s.part? g.w.part).any (fun p => p.dbgctl.getLsbD 1) && !g.w.hnd) = traps) :
    Does (.brk c imm) c (needs [] [] 0) ok (fun _ _ => { ends := true, after := if traps then [.brk imm] else [] }) := by
  refine does_without_result (fun _ => rfl) (fun _ _ => rfl) (fun _ _ => rfl) (fun s g hok => ?_)
  rw [h s g hok]
  exact gives_deferred true _ _

theorem resume_self_does {c : Ctl} {a : BitVec 8} {slot : Nat} : Does (.resume c .self a) c (needs [] [] 0)
    (fun s g => ownContext s g.w = some slot) (fun _ _ => { ends := true, after := [.resume .self slot] }) := by
  refine does_without_result (fun _ => rfl) (fun _ _ => rfl) (fun _ _ => rfl) (fun s g hslot => ?_)
  simp only [hslot, if_true]
  exact gives_deferred true _ _

theorem resume_other_does {c : Ctl} {a : BitVec 8} {mode : ResumeMode} (hmode : mode ≠ .self) :
    Does (.resume c mode a) c (needs [] [uniField a 1] 0) (fun _ g => g.w.level ≠ 0 ∧ (g.rd 0 0 0).toNat ≤ 255)
      (fun _ g => { ends := true, after := [.resume mode (g.rd 0 0 0).toNat] }) := by
  refine does_without_result (body := fun _ => resumeOtherAct mode) (exec_resume_other hmode c a) (fun _ _ => rfl) (fun _ _ => rfl)
    (fun s g ⟨hlevel, hindex⟩ => ?_)
  rw [resumeOtherAct, if_neg hlevel, if_neg (Nat.not_lt.mpr hindex)]
  exact gives_deferred true _ _

section
variable {c : Ctl} {other : Bool} {rsel : BitVec 2} {a b : BitVec 8}

/-- The partition that TLBINV names. -/
def tlbinvPart (other : Bool) (s : State) (g : Go) : Nat := if other then (s.dev.partctl.toNat / 2 ^ 8) % 8 else g.w.part

theorem tlbinvPart_eq (other : Bool) (s : State) (g : Go) : (if other then partSelected s else g.w.part) = tlbinvPart other s g := by
  rw [partSelected, wfield_word]
  rfl

theorem tlbinv_all_does : Does (.tlbinv c other true rsel a b) c (needs [] [] 0)
    (fun _ g => g.w.level ≠ 0 ∧ (other = true → g.w.level = 2))
    (fun s g => { ends := true, after := [.tlbinv (tlbinvPart other s g) none 0 (2 ^ 64)] }) := by
  refine does_without_result (fun _ => rfl) (fun _ _ => rfl) (fun _ _ => rfl) (fun s g hlevel => ?_)
  simp only [levelAllowed hlevel, tlbinvPart_eq, Bool.false_eq_true, if_false, if_true]
  exact gives_deferred true _ _

theorem tlbinv_range_does : Does (.tlbinv c other false rsel a b) c (needs [] [uniField a 2, uniField b 2] 0)
    (fun _ g => (g.w.level ≠ 0 ∧ (other = true → g.w.level = 2)) ∧ (g.rd2 0 0 0).toNat % 65536 = 0 ∧ (g.rd2 1 0 0).toNat % 65536 = 0
      ∧ g.rd2 1 0 0 ≠ 0 ∧ (g.rd2 0 0 0).toNat + (g.rd2 1 0 0).toNat ≤ 2 ^ 64)
    (fun s g => { ends := true, after := [.tlbinv (tlbinvPart other s g) (some (g.w.realmOf rsel.toNat)) (g.rd2 0 0 0).toNat
      ((g.rd2 0 0 0).toNat + (g.rd2 1 0 0).toNat)] }) := by
  refine does_without_result (fun _ => rfl) (fun _ _ => rfl) (fun _ _ => rfl) (fun s g ⟨hlevel, hlow, hlen, hne, hend⟩ => ?_)
  have inside : ¬((g.rd2 1 0 0).toNat = 0 ∨ 2 ^ 64 < (g.rd2 0 0 0).toNat + (g.rd2 1 0 0).toNat) := by
    rintro (h | h)
    · exact hne (BitVec.eq_of_toNat_eq h)
    · omega
  simp only [levelAllowed hlevel, hlow, hlen, inside, tlbinvPart_eq, ne_eq, not_true_eq_false, or_self, Bool.false_eq_true, if_false]
  exact gives_deferred true _ _

end

/-- Settles O39: each does what its act says; a slot of no assigned opcode has no act, only its trap. -/
theorem systemInstructions : Obligations.SystemInstructions := by
  unfold Obligations.SystemInstructions
  refine ⟨fun c imm a b rsel other cls slot => ⟨?trap, ?brk, ?brkPasses, resume_self_does, fun mode => resume_other_does, tlbinv_all_does,
    tlbinv_range_does, ?pwrhint⟩, fun x s w f hcur => ?illegal⟩
  case trap => exact does_without_result (fun _ => rfl) (fun _ _ => rfl) (fun _ _ => rfl) (fun _ _ _ => gives_deferred true _ _)
  case brk => exact brk_does (traps := true) (fun s g ⟨hhnd, p, hp, hbe⟩ => by rw [hp, Option.any_some, hbe, hhnd]; rfl)
  case brkPasses =>
    refine brk_does (traps := false) (fun s g hoff => ?_)
    obtain hhnd | hbe := hoff
    · rw [hhnd, Bool.not_true, Bool.and_false]
    · have noBreaks : (s.part? g.w.part).any (fun p => p.dbgctl.getLsbD 1) = false := by
        cases hp : s.part? g.w.part with
        | none => rfl
        | some p => exact hbe p hp
      rw [noBreaks, Bool.false_and]
  case pwrhint => exact does_without_result (fun _ => rfl) (fun _ _ => rfl) (fun _ _ => rfl) (fun _ _ _ => gives_deferred false _ _)
  case illegal =>
    change execIllegalOpcode x s = _
    simp only [execIllegalOpcode, hcur]
    cases mayIssue w f <;> rfl

/-! ### PRIV (R429, R467, R490, R491) -/

/-- An access to a register that the level has no access to is refused before anything else. -/
theorem sysRefused_of_noAccess {s : State} {w : Warp} {num : Nat} (h : sysAccess num w.level = .none) :
    sysRefused s w num = some (privTrap num) := if_pos h

/-- Settles O41: below its level each act is the trap alone. -/
theorem privilege : Obligations.Privilege := by
  unfold Obligations.Privilege
  intro c x2 other all d a b rsel num mode s w f g own priv
  refine ⟨fun hmode hlevel h => ?resume, fun hlevel h => ?tlbinv, fun hlevel h => ?ckpt, fun hnone h => ?sread, fun hnone h => ?swrite⟩
  case resume => exact exec_priv (body := fun _ => resumeOtherAct mode) (exec_resume_other hmode c a) h (if_pos hlevel)
  case tlbinv =>
    refine exec_priv (fun _ => rfl) h ?_
    exact if_pos (levelRefused hlevel)
  case ckpt =>
    refine exec_priv (fun _ => rfl) h ?_
    exact if_pos (levelRefused hlevel)
  case sread =>
    refine exec_priv (fun _ => rfl) h ?_
    simp only [sysRefused_of_noAccess hnone]
  case swrite =>
    refine exec_priv (fun _ => rfl) h ?_
    simp only [swriteAct, sysRefused_of_noAccess hnone]

end Sys2Proof.Machine
end

section
/-! PROOFS. Trap records, handler tasks, the halt, incremental copies, soft errors and the heat budget (R381, R433, R469, R471 to R477, R480, R483, R488, R489). -/

namespace Sys2Proof.Machine

/-! ### Scripts in order -/

theorem inOrder_append (fs gs : List (State → List Upd)) (s : State) :
    inOrder (fs ++ gs) s = inOrder fs s ++ inOrder gs (s.run (inOrder fs s)) := by
  induction fs generalizing s with
  | nil => rfl
  | cons f fs ih => simp only [List.cons_append, inOrder_cons, ih, List.append_assoc, run_append]

/-- A script that does nothing may be left out. -/
theorem inOrder_skip (fs gs : List (State → List Upd)) (s : State) : inOrder (fs ++ (fun _ => []) :: gs) s = inOrder (fs ++ gs) s := by
  rw [inOrder_append, inOrder_append]
  rfl

/-- A script made of scripts in order, after another one, is all of them in order. -/
theorem andThen_inOrder (f : State → List Upd) (fs : List (State → List Upd)) (s : State) : andThen f (inOrder fs) s = inOrder (f :: fs) s := by
  simp only [andThen, inOrder_cons, inOrder_nil, List.append_nil]

/-! ### Records and handlers (R469, R471, R472) -/

section
variable {part : Nat} {s : State} {p : Part} (hp : s.part? part = some p)
include hp

theorem trapRecordWrite_runs {w : Warp} {ws : List Word} {later : List Nat} {idx : Nat} (hstate : p.state = .running)
    (hqueue : p.trapQueue = w.id :: later) (hid : w.id ≠ 0) (hw : s.warp? w.id = some w) (hmode : w.mode = .trapping ws)
    (hready : saveReady s w = true) (hvalid : ctxValid s p.num = true) (hfree : freeTrapSlot p = some idx) :
    Runs (.trapRecordWrite part) s
      (andThen (onPart p.num (fun q => { q with trapQueue := later, bare := q.bare })) (writeWarpRecord p idx w ws) s) :=
  runs_of_eq rfl (by
    simp only [hp, hstate, beq_self_eq_true, if_true, nextRecord, hqueue, hid, if_false, hw, hmode, hready, hvalid, hfree, Bool.not_true,
      Bool.false_eq_true])

theorem handlerTaskStart_runs {r : RecSlot} (hr : p.records.find? (fun r => r.handler == 0 && !r.released) = some r)
    (hworks : partWorks s part = true) (hfew : handlersRunning s part < 16) : Runs (.handlerTaskStart part) s (startHandler p r s) :=
  runs_of_eq rfl (by simp only [hp, hr, hworks, hfew, decide_true, Bool.and_self, if_true])

/-! ### The halt (R433, R473, R474, R477, R483) -/

/-- The warps that a halt of a partition stops. -/
def haltedIds (s : State) (part : Nat) : List Nat := (s.warps.filter (fun w => w.part == part && w.inCore)).map (·.id)

/-- Each of these warps stands where its last chunk ended; one that ran is halted. -/
def standStill (ids : List Nat) (s : State) : List Upd :=
  (s.warps.filter (fun w => ids.contains w.id)).map (fun w => .warp { w.atRest with mode := if w.mode = .run then .halted else w.mode })

/-- The contexts that a halt writes: of each warp, then of the cores. -/
def haltContexts (s : State) (part : Nat) (p : Part) : List (State → List Upd) :=
  [forEach (s.warps.filter (fun w => (haltedIds s part).contains w.id)) (fun w => saveSlot w.id (placeSlot p w.core w.place) 2 none), saveCores part]

/-- A partition comes to rest with these records and contexts written, and these updates at the end. -/
def comesToRest (s : State) (part : Nat) (p : Part) (records contexts : List (State → List Upd)) (ends : State → List Upd) : List Upd :=
  inOrder ([forEach (haltedIds s part) dropChunk, standStill (haltedIds s part)] ++ records ++ [stopColls part, refuseArrivals part] ++ contexts
    ++ [onPart part (fun q => { q with state := .stopped, haltLine := false, dbgctl := q.dbgctl ||| 0x80000000 }), postNotice p, ends]) s

section
variable {ends : State → List Upd} (hstate : p.state = .running) (hline : p.haltLine = true) (hrest : haltWaits s p = false)
  (hends : (if operation s = some (3, part) then endOperation 0 else fun _ => []) = ends)
include hstate hline hrest hends

theorem haltAck_valid (hvalid : ctxValid s part = true) :
    Runs (.haltAck part) s (comesToRest s part p [writeStops p] (haltContexts s part p) ends) := by
  subst hends
  refine runs_of_eq rfl ?_
  simp only [hp, hstate, hline, hrest, hvalid, bne_self_eq_false, Bool.not_true, Bool.or_self, Bool.false_eq_true, if_false, if_true]
  rfl

/-- While CTXCTL.VALID is 0 a halt writes neither records nor contexts (R477). -/
theorem haltAck_invalid (hvalid : ctxValid s part = false) : Runs (.haltAck part) s (comesToRest s part p [] [] ends) := by
  subst hends
  refine runs_of_eq rfl ?_
  simp only [hp, hstate, hline, hrest, hvalid, bne_self_eq_false, Bool.not_true, Bool.or_self, Bool.false_eq_true, if_false]
  exact (inOrder_skip [_, _] _ s).trans ((inOrder_skip [_, _, _, _] _ s).trans (inOrder_skip [_, _, _, _] _ s))

end

/-! ### Errors (R473, R488, R489) -/

theorem eccCorrected_runs : Runs (.eccCorrected part) s
    [.part { p with eccnt := if p.eccnt = 0xFFFFFFFF then 0xFFFFFFFF else p.eccnt + 1 }] := by
  have counted : BitVec.ofNat 32 (min 0xFFFFFFFF (p.eccnt.toNat + 1)) = if p.eccnt = 0xFFFFFFFF then 0xFFFFFFFF else p.eccnt + 1 := by
    split
    next hfull => rw [countEcc_full hfull, hfull]
    next hmore => exact countEcc_more hmore
  exact runs_of_eq rfl (by rw [countEcc, onPart, hp, ← counted])

end

theorem eccUncorrectable_memory_runs {a : Nat} (ha : a < memLimit) (s : State) : Runs (.eccUncorrectable (.memory a)) s [.order { s.order with
    poison := markWords s.order.poison [(memPlace (a / 8 * 8), true), (memPlace (a / 8 * 8 + 4), true)] }] :=
  runs_of_eq rfl (if_pos ha)

theorem patrolScrub_runs {a : Nat} {s : State} {p : Part} (hp : s.parts.find? (fun p => p.state != .absent && ownsAddr p a) = some p)
    (bad : Bool) : Runs (.patrolScrub a bad) s (if bad then countEcc p.num s else []) :=
  runs_of_eq rfl (by rw [hp])

/-! ### Incremental copies and the heat budget (R381, R480) -/

theorem incrementalBankCopy_runs {id bank : Nat} {s : State} {w : Warp} {p : Part} (hw : s.warp? id = some w) (hbetween : w.chunk.start = none)
    (hmode : w.mode = .run) (hworks : partWorks s w.part = true) (hdirty : bank ∈ w.dirty) (hp : s.part? w.part = some p)
    (hvalid : p.ctxctl.getLsbD 0 = true) (hcopies : p.ctxctl.getLsbD 1 = true) : Runs (.incrementalBankCopy id bank) s (saveBank id bank s) :=
  runs_of_eq rfl (by
    simp only [hw, hbetween, hmode, hworks, List.contains_iff_mem.mpr hdirty, hp, hvalid, hcopies, Option.isNone_none, beq_self_eq_true, Option.any_some,
      Bool.and_self, if_true])

theorem heatBudgetPeriod_runs {cluster : Nat} (hcluster : cluster < 64) (budget : Nat) (hot cool : Bool) (s : State) :
    let old := ((s.dev.heat.find? (fun h => h.cluster == cluster)).map (·.clock)).getD 16
    let clk := if hot then max 8 (old - 1) else if cool then min 16 (old + 1) else old
    Runs (.heatBudgetPeriod cluster budget hot cool) s
      ([.dev { s.dev with heat := upsert (fun h => h.cluster == cluster) ⟨cluster, some budget, clk⟩ s.dev.heat }]
        ++ (s.warps.filter (fun w => w.core / 4 == cluster)).map (fun w => .warp { w with ecounted := w.eclass })) :=
  runs_of_eq rfl (if_neg (Nat.not_le.mpr hcluster))

/-- Settles O47: one lemma for each event; the four halts are one script, by whether the areas are valid and a stop operation runs. -/
theorem trapAndHaltEvents : Obligations.TrapAndHaltEvents := by
  unfold Obligations.TrapAndHaltEvents
  refine ⟨?record, ?handler, ?halt, ?copy, ?corrected, fun _ _ _ _ => rfl, fun a s ha => eccUncorrectable_memory_runs ha s, fun _ _ _ _ => rfl,
    fun a s p hp => ⟨patrolScrub_runs hp false, patrolScrub_runs hp true⟩,
    fun cluster budget hot cool s hcluster => heatBudgetPeriod_runs hcluster budget hot cool s⟩
  case record =>
    intro part s p w ws later idx hp hstate hqueue hid hw hmode hready hvalid hfree
    exact runs_of_eq (trapRecordWrite_runs hp hstate hqueue hid hw hmode hready hvalid hfree) (andThen_inOrder ..)
  case handler => exact fun part s p r hp hr hworks hfew => handlerTaskStart_runs hp hr hworks hfew
  case halt =>
    intro part s p hp hstate hline hrest
    have valid {ends : State → List Upd} := haltAck_valid (ends := ends) hp hstate hline hrest
    have invalid {ends : State → List Upd} := haltAck_invalid (ends := ends) hp hstate hline hrest
    exact ⟨fun hvalid hop => valid (if_neg hop) hvalid, fun hvalid hop => valid (if_pos hop) hvalid,
      fun hvalid hop => invalid (if_neg hop) hvalid, fun hvalid hop => invalid (if_pos hop) hvalid⟩
  case copy => exact fun id bank s w p hw hbetween hmode hworks hdirty hp => incrementalBankCopy_runs hw hbetween hmode hworks hdirty hp
  case corrected => exact fun part s p hp => eccCorrected_runs hp

end Sys2Proof.Machine
end

section
/-! PROOFS. Taking a trap: what dropping the chunk and parking the warp leave, and the fields of the record (R465, R466, R468, R471, R473, R476, R477). -/

namespace Sys2Proof.Machine

/-! ### Warps by identity -/

theorem find?_upsert_ne {α : Type} {same other : α → Bool} {x : α} (hx : other x = false) (h : ∀ y, same y = true → other y = false) (l : List α) :
    (upsert same x l).find? other = l.find? other := by
  induction l with
  | nil => simp [upsert, hx]
  | cons y l ih =>
    by_cases hy : same y = true
    · simp [upsert, hy, hx, h y hy]
    · rw [upsert, if_neg hy, List.find?_cons, List.find?_cons, ih]

theorem warp?_apply_warp (s : State) (v : Warp) : (Upd.apply s (.warp v)).warp? v.id = some v := warp?_run_warp s [] v

theorem warp?_apply_warp_ne (s : State) {v : Warp} {k : Nat} (h : k ≠ v.id) : (Upd.apply s (.warp v)).warp? k = s.warp? k :=
  find?_upsert_ne (by simpa using h.symm) (fun y hy => by
    have hid : y.id = v.id := by simpa using hy
    simpa [hid] using h.symm) s.warps

/-! ### The warp at its chunk start (R234, R465) -/

section
variable (w : Warp)

@[simp] theorem rewind_id : w.rewind.id = w.id := by unfold Warp.rewind; split <;> rfl
@[simp] theorem rewind_part : w.rewind.part = w.part := by unfold Warp.rewind; split <;> rfl
@[simp] theorem rewind_chunk : w.rewind.chunk = Chunk.fresh := by unfold Warp.rewind; split <;> rfl
@[simp] theorem rewind_regs : w.rewind.regs = w.chunk.start.getD w.regs := by
  unfold Warp.rewind
  split <;> rename_i h <;> rw [h] <;> rfl

end

/-! ### What dropping a chunk leaves (R234, R465) -/

/-- What a dropped chunk does not reach, and the warps. -/
def State.frame (s : State) : Memory × List Part × Nat × List Warp := (s.mem, s.parts, s.order.pos, s.warps)

/-- Updates that each leave a part of the state leave it together. -/
theorem run_leaves {α : Type} {k : State → α} {us : List Upd} (h : ∀ u ∈ us, ∀ s, k (u.apply s) = k s) (s : State) : k (s.run us) = k s := by
  induction us generalizing s with
  | nil => rfl
  | cons u us ih => rw [run_cons, ih (fun v hv => h v (List.mem_cons_of_mem u hv)), h u List.mem_cons_self]

theorem dropChunk_frame {s : State} {wid : Nat} {w : Warp} (hw : s.warp? wid = some w) :
    let t := s.run (dropChunk wid s)
    t.mem = s.mem ∧ t.parts = s.parts ∧ t.order.pos = s.order.pos ∧ t.warps = (Upd.apply s (.warp w.rewind)).warps := by
  suffices (s.run (dropChunk wid s)).frame = (s.mem, s.parts, s.order.pos, (Upd.apply s (.warp w.rewind)).warps) by
    simpa only [State.frame, Prod.mk.injEq] using this
  simp only [dropChunk, hw, run_append]
  refine (run_leaves (fun u hu t => ?task) _).trans ((run_leaves (fun u hu t => ?launch) _).trans rfl)
  case task =>
    unfold onTask at hu
    split at hu
    · cases hu
    · rw [List.mem_singleton.mp hu]; rfl
  case launch =>
    obtain ⟨l, -, rfl⟩ := List.mem_map.mp hu
    rfl

section
variable {s : State} {w : Warp} (hw : s.warp? w.id = some w)
include hw

theorem dropChunk_warp : (s.run (dropChunk w.id s)).warp? w.id = some w.rewind := by
  obtain ⟨-, -, -, hwarps⟩ := dropChunk_frame hw
  rw [State.warp?, hwarps, ← rewind_id w]
  exact warp?_apply_warp s w.rewind

theorem dropChunk_warp_ne {k : Nat} (h : k ≠ w.id) : (s.run (dropChunk w.id s)).warp? k = s.warp? k := by
  obtain ⟨-, -, -, hwarps⟩ := dropChunk_frame hw
  rw [State.warp?, hwarps]
  exact warp?_apply_warp_ne s (by rwa [rewind_id])

theorem dropChunk_part (n : Nat) : (s.run (dropChunk w.id s)).part? n = s.part? n := by
  obtain ⟨-, hparts, -, -⟩ := dropChunk_frame hw
  rw [State.part?, hparts, State.part?]

end

/-! ### A warp that parks on its record (R466, R469, R473) -/

/-- A change of a partition's record leaves what no change of a partition reaches. -/
theorem onPart_leaves {α : Type} {k : State → α} (h : ∀ s p, k (Upd.apply s (.part p)) = k s) (n : Nat) (g : Part → Part) (s t : State) :
    k (t.run (onPart n g s)) = k t := by
  unfold onPart
  split
  · rfl
  · exact h t _

/-- The partition of a warp that traps: its queue of records has the warp, and its halt line is up where the class is halting. -/
def trapQueued (wid cls : Nat) (p : Part) : Part := { p with trapQueue := p.trapQueue ++ [wid], haltLine := p.haltLine || cls == 1 }

section
variable {s : State} {wid : Nat} {w : Warp} (hw : s.warp? wid = some w) (ws : List Word) (cls : Nat)
include hw

theorem run_parkTrapped : s.run (parkTrapped wid ws cls s)
    = (Upd.apply s (.warp { w with mode := .trapping ws })).run (onPart w.part (trapQueued wid cls) s) := by
  rw [parkTrapped, hw]
  rfl

theorem parkTrapped_warp : (s.run (parkTrapped wid ws cls s)).warp? wid = some { w with mode := .trapping ws } := by
  obtain rfl := warp?_id hw
  rw [run_parkTrapped hw, onPart_leaves (k := (State.warp? · w.id)) (fun _ _ => rfl)]
  exact warp?_apply_warp s { w with mode := .trapping ws }

theorem parkTrapped_warp_ne {k : Nat} (h : k ≠ wid) : (s.run (parkTrapped wid ws cls s)).warp? k = s.warp? k := by
  obtain rfl := warp?_id hw
  rw [run_parkTrapped hw, onPart_leaves (k := (State.warp? · k)) (fun _ _ => rfl)]
  exact warp?_apply_warp_ne s h

theorem parkTrapped_part {p : Part} (hp : s.part? w.part = some p) :
    (s.run (parkTrapped wid ws cls s)).part? w.part = some (trapQueued wid cls p) := by
  rw [run_parkTrapped hw]
  exact part?_onPart (s := Upd.apply s (.warp { w with mode := .trapping ws })) hp rfl

theorem parkTrapped_mem : (s.run (parkTrapped wid ws cls s)).mem = s.mem := by
  rw [run_parkTrapped hw]
  exact onPart_leaves (k := State.mem) (fun _ _ => rfl) ..

theorem parkTrapped_order : (s.run (parkTrapped wid ws cls s)).order = s.order := by
  rw [run_parkTrapped hw]
  exact onPart_leaves (k := State.order) (fun _ _ => rfl) ..

end

/-! ### The words of a record (R468) -/

theorem pairOf_words (d : DWord) : pairOf (lowWord d) (highWord d) = d := by
  apply BitVec.eq_of_toNat_eq
  have low : (lowWord d).toNat = d.toNat % 2 ^ 32 := BitVec.toNat_setWidth ..
  have high : (highWord d).toNat = d.toNat / 2 ^ 32 := by
    rw [highWord, BitVec.toNat_setWidth, BitVec.toNat_ushiftRight, Nat.shiftRight_eq_div_pow]
    exact Nat.mod_eq_of_lt (by omega)
  rw [pairOf, toNat_pair, low, high]
  exact Nat.div_add_mod' ..

/-- A field of a word that is given as a number. -/
theorem wfield_of_ofNat {ws : List Word} {k x : Nat} (h : wordAt ws k = BitVec.ofNat 32 x) {lo n : Nat} (hn : lo + n ≤ 32) :
    wfield ws k lo n = x / 2 ^ lo % 2 ^ n := by
  rw [wfield, h, BitVec.toNat_ofNat, ← Nat.shiftRight_eq_div_pow]
  apply Nat.eq_of_testBit_eq
  intro i
  by_cases hi : i < n
  · have inside : lo + i < 32 := by omega
    simp only [Nat.testBit_mod_two_pow, Nat.testBit_shiftRight, hi, inside, decide_true, Bool.true_and]
  · simp only [Nat.testBit_mod_two_pow, hi, decide_false, Bool.false_and]

theorem ite_eq_toNat_mul (b : Bool) (m : Nat) : (if b then m else 0) = b.toNat * m := by cases b <;> simp

theorem code_lt (c : Cause) : c.code < 64 := by cases c <;> decide

/-- The words of the record that a discarding trap leaves (R465). -/
def trapWords (s : State) (w : Warp) (f : Frag) (own : List Nat) (t : TrapReq) (cls : Nat) : List Word :=
  recordWords s w f ((newTags w).map (·.tag) ++ own) (if w.chunk.start.isSome then w.chunk.rpc else f.pc) t cls

section
variable (s : State) (w : Warp) (f : Frag) (own : List Nat) (t : TrapReq) (cls : Nat)

/-- w0: the cause, its class, what is valid, the level, the low byte that the cause gives. -/
theorem trapWords_cause (hcls : cls < 4) (hlevel : w.level < 4) (hsub : t.sub < 256) :
    let ws := trapWords s w f own t cls
    wfield ws 0 26 6 = t.cause.code ∧ wfield ws 0 24 2 = cls ∧ wfield ws 0 23 1 = (if t.ppc.isSome then 1 else 0)
      ∧ wfield ws 0 22 1 = (if t.eng then 1 else 0) ∧ wfield ws 0 20 2 = w.level ∧ wfield ws 0 19 1 = (if w.hnd then 1 else 0)
      ∧ wfield ws 0 8 11 = 0 ∧ wfield ws 0 0 8 = t.sub := by
  intro ws
  have hcode := code_lt t.cause
  have field {lo n : Nat} := wfield_of_ofNat (ws := ws) (k := 0) (lo := lo) (n := n) rfl
  have hppc := t.ppc.isSome.toNat_lt
  have heng := t.eng.toNat_lt
  have hhnd := w.hnd.toNat_lt
  refine ⟨?_, ?_, ?_, ?_, ?_, ?_, ?_, ?_⟩ <;> rw [field (by decide)] <;> simp only [ite_eq_toNat_mul] <;> omega

/-- w1: the path and the partition. -/
theorem trapWords_path (hpart : w.part < 8) :
    let ws := trapWords s w f own t cls
    wfield ws 1 16 16 = w.path.toNat ∧ wfield ws 1 3 13 = 0 ∧ wfield ws 1 0 3 = w.part := by
  intro ws
  have hpath := w.path.isLt
  have field {lo n : Nat} := wfield_of_ofNat (ws := ws) (k := 1) (lo := lo) (n := n) rfl
  refine ⟨?_, ?_, ?_⟩ <;> rw [field (by decide)] <;> omega

/-- w10: below the cancelled tags, the path number of the fragment. -/
theorem trapWords_pid (hpid : f.pid < 256) : wfield (trapWords s w f own t cls) 10 0 8 = f.pid := by
  rw [wfield_of_ofNat (x := tagMask ((newTags w).map (·.tag) ++ own) * 2 ^ 8 + f.pid) rfl (by decide)]
  omega

/-- w12: the launch, none for a handler's warp, and the warp's number, place and core. -/
theorem trapWords_place (hlaunch : w.launch < 512) (hwarpid : w.warpid < 16) (hplace : w.place < 64) (hcore : w.core < 256) :
    let ws := trapWords s w f own t cls
    wfield ws 12 29 3 = 0 ∧ wfield ws 12 20 9 = (if w.hnd then 0 else w.launch) ∧ wfield ws 12 16 4 = w.warpid ∧ wfield ws 12 14 2 = 0
      ∧ wfield ws 12 8 6 = w.place ∧ wfield ws 12 0 8 = w.core := by
  intro ws
  have field {lo n : Nat} := wfield_of_ofNat (ws := ws) (k := 12) (lo := lo) (n := n) rfl
  refine ⟨?_, ?_, ?_, ?_, ?_, ?_⟩ <;> rw [field (by decide)] <;> split_ifs <;> omega

/-- w16: the realm. -/
theorem trapWords_realm (hrealm : t.realm < 65536) :
    let ws := trapWords s w f own t cls
    wfield ws 16 16 16 = t.realm ∧ wfield ws 16 0 16 = 0 := by
  intro ws
  have field {lo n : Nat} := wfield_of_ofNat (ws := ws) (k := 16) (lo := lo) (n := n) rfl
  refine ⟨?_, ?_⟩ <;> rw [field (by decide)] <;> omega

/-- The pairs: RPC, FPC, PPC, ADDR and WALL. -/
theorem trapWords_pairs :
    let ws := trapWords s w f own t cls
    wpair ws 2 = (if w.chunk.start.isSome then w.chunk.rpc else f.pc) ∧ wpair ws 4 = t.fpc.getD f.pc ∧ wpair ws 6 = t.ppc.getD 0 ∧ wpair ws 14 = t.addr ∧ wpair ws 20 = s.dev.wall :=
  ⟨pairOf_words _, pairOf_words _, pairOf_words _, pairOf_words _, pairOf_words _⟩

/-- w8: the lanes that raised the cause, all of the fragment where none are named. -/
theorem trapWords_lanes : wordAt (trapWords s w f own t cls) 8 = t.lanes.getD f.mask := by
  cases h : t.lanes <;> simp [trapWords, recordWords, wordAt, h]

end

/-! ### Taking a trap (R464 to R468, R471, R473) -/

/-- How a cause is delivered changes only the cause and w17. -/
theorem asDelivered_rest (hnd : Bool) (t : TrapReq) : (asDelivered hnd t).sub = t.sub ∧ (asDelivered hnd t).realm = t.realm := by
  cases hnd <;> exact ⟨rfl, rfl⟩

theorem cls_lt (t : TrapReq) : t.cls < 4 := by
  unfold TrapReq.cls
  split_ifs <;> decide

theorem deliveredClass_of_part {s : State} {w : Warp} {p : Part} (hp : s.part? w.part = some p) (t : TrapReq) :
    deliveredClass s w t = if p.ctxctl.getLsbD 0 then t.cls else 1 := by
  rw [deliveredClass, ctxValid, hp]

/-- A warp that has trapped takes no second trap (R466). -/
theorem takeTrap_trapped {s : State} {w : Warp} (hw : s.warp? w.id = some w) (hmode : w.mode ≠ .run) (fid : Nat) (own : List Nat) (t : TrapReq) :
    takeTrap w.id fid own t s = [] := by
  rw [takeTrap, hw]
  exact if_pos (by simpa using hmode)

theorem takeTrap_running {s : State} {w : Warp} {f : Frag} (hw : s.warp? w.id = some w) (hmode : w.mode = .run) (hf : w.frag? f.id = some f)
    (own : List Nat) (t : TrapReq) : takeTrap w.id f.id own t s = andThen (dropChunk w.id)
      (parkTrapped w.id (trapWords s w f own (asDelivered w.hnd t) (deliveredClass s w (asDelivered w.hnd t)))
        (deliveredClass s w (asDelivered w.hnd t))) s := by
  simp only [takeTrap, hw, hmode, bne_self_eq_false, Bool.false_eq_true, if_false, hf, Option.some_or]
  rfl

section
variable {s : State} {w : Warp} {p : Part} (hw : s.warp? w.id = some w) (ws : List Word) (cls : Nat)
include hw

/-- Where the warp, its partition and the rest stand once its chunk is dropped and it is parked. -/
theorem parked_state (hp : s.part? w.part = some p) :
    let u := s.run (andThen (dropChunk w.id) (parkTrapped w.id ws cls) s)
    u.warp? w.id = some { w.rewind with mode := .trapping ws } ∧ u.part? w.part = some (trapQueued w.id cls p) ∧ u.mem = s.mem
      ∧ u.order.pos = s.order.pos ∧ ∀ k, k ≠ w.id → u.warp? k = s.warp? k := by
  intro u
  have dropped := dropChunk_warp hw
  obtain ⟨hmem, -, hpos, -⟩ := dropChunk_frame hw
  have run : u = (s.run (dropChunk w.id s)).run (parkTrapped w.id ws cls (s.run (dropChunk w.id s))) := run_andThen ..
  rw [run]
  refine ⟨parkTrapped_warp dropped ws cls, ?_, ?_, ?_, fun k hk => ?_⟩
  · rw [← rewind_part w]
    exact parkTrapped_part dropped ws cls (by rw [dropChunk_part hw, rewind_part, hp])
  · rw [parkTrapped_mem dropped, hmem]
  · rw [parkTrapped_order dropped, hpos]
  · rw [parkTrapped_warp_ne dropped ws cls hk, dropChunk_warp_ne hw hk]

end

/-- Settles O59: the state by what dropping and parking leave, the record word by word. -/
theorem trapTaken : Obligations.TrapTaken := by
  unfold Obligations.TrapTaken
  intro s w f p own t0 hw
  refine ⟨fun hmode => ?_, ?_⟩
  · rw [takeTrap_trapped hw hmode]
    rfl
  intro hmode hf hp hlevel hpart hsub hpid hlaunch hwarpid hplace hcore hrealm u t cls
  have hcls : cls < 4 := by
    simp only [cls]
    split
    · exact cls_lt t
    · decide
  obtain ⟨hsame, hrealmSame⟩ := asDelivered_rest w.hnd t0
  have delivered : deliveredClass s w t = cls := deliveredClass_of_part hp t
  have run : u = s.run (andThen (dropChunk w.id) (parkTrapped w.id (trapWords s w f own t cls) cls) s) := by
    rw [← delivered]
    exact congrArg s.run (takeTrap_running hw hmode hf own t0)
  obtain ⟨hwarp, hqueue, hmem, hpos, hothers⟩ := parked_state hw (trapWords s w f own t cls) cls hp
  rw [← run] at hwarp hqueue hmem hpos hothers
  obtain ⟨hcode, hclass, hppcv, heng, hlvl, hhnd, hgap, hsubField⟩ := trapWords_cause s w f own t cls hcls hlevel (hsame.trans_lt hsub)
  obtain ⟨hpath, hpathGap, hpartField⟩ := trapWords_path s w f own t cls hpart
  obtain ⟨hrpc, hfpc, hppc, haddr, hwall⟩ := trapWords_pairs s w f own t cls
  obtain ⟨htop, hlaunchField, hwarpidField, hplaceGap, hplaceField, hcoreField⟩ := trapWords_place s w f own t cls hlaunch hwarpid hplace hcore
  obtain ⟨hrealmField, hrealmGap⟩ := trapWords_realm s w f own t cls (hrealmSame.trans_lt hrealm)
  exact ⟨_, _, hwarp, rfl, rfl, rewind_chunk w, rewind_regs w, hcode, hclass, hppcv, heng, hlvl, hhnd, hgap, hsubField, hpath, hpathGap, hpartField,
    hrpc, hfpc, hppc, trapWords_lanes .., rfl, trapWords_pid s w f own t cls hpid, rfl, htop, hlaunchField, hwarpidField, hplaceGap, hplaceField,
    hcoreField, rfl, haddr, hrealmField, hrealmGap, rfl, rfl, rfl, hwall, rfl, hqueue, hmem, hpos, hothers⟩

end Sys2Proof.Machine
end
